-- ==== Sys2Proof/Word.lean ====
section
/-! DEFINITION. The plain words of the model: bytes, and the model's unit of time.
A `Tick` is 1/12 ns, the largest unit that keeps every instant of the spec whole: an arithmetic cycle is 12 ticks at
the nominal clock and 15 in economy mode (02_the_stamp.md R25), a crystal period 480, a symbol 2,000 (10 R275). -/

namespace Sys2Proof

/-- One byte (00_scope.md R8: multi-byte fields are little-endian lists of these). -/
abbrev Byte := BitVec 8

/-- A sequence of bytes, lowest address first. -/
abbrev Bytes := List Byte

/-- An instant or a span of time, in units of 1/12 ns. -/
abbrev Tick := Nat

/-- Ticks of one nanosecond. -/
def nsTicks : Nat := 12
/-- Ticks of one microsecond. -/
def usTicks : Nat := 12000
/-- Ticks of one millisecond. -/
def msTicks : Nat := 12000000
/-- Ticks of one 25 MHz crystal period (02 R25). -/
def crystalTicks : Nat := 480
/-- Ticks of one symbol period T_s, 1/6 µs (10 R275). -/
def symbolTicks : Nat := 2000
/-- A slot burst lasts 484 symbols (10 R278). -/
def burstTicks : Tick := 484 * symbolTicks

end Sys2Proof
end

