-- ==== Sys2Proof/Syntax.lean ====
section
/-! DEFINITION. The commands of the hub as syntax: one constructor of `Instr` for each row of spec/opcode_table.json,
with the operand types they carry. Every constructor's first operand `t` is the instant, in ticks, at which the event or
command happens. What comes from outside the hub (codes, decoded bursts, spine frames, results of tests of the silicon,
arguments of a Usith line) is an operand; what the hub keeps is state. -/

namespace Sys2Proof

/-! ## Usith lines (13_host_ports_and_usith.md R384..R391) -/

/-- The two sessions of R386. -/
inductive Sess where
  | line | port
  deriving DecidableEq, Repr

/-- The units of a quantity (13 Table 13.17), spelt exactly as the table lists them. -/
inductive UnitName where
  | h | s | ms | us | V | mV | A | mA | mOhm | Hz | mHz | kHz | MHz | C | other
  deriving DecidableEq, Repr

/-- Keywords that arguments list (14, Tables 14.2 to 14.11); `other` is any other word. -/
inductive Kw where
  | on | off | none | all | interactive | generated | fixed | running | auto | four | pairs
  | a | b | c | d | mean | shunt | hall | sink | source | both | reset | portable | init | tune
  | manufacture | provisioned | deployed | returned | other
  deriving DecidableEq, Repr

/-- The protective limits of 09 Table 9.5, in the order of PROTECT's A0 (13 Table 13.16), the two over-current
settings of 14 Table 14.2 apart. -/
inductive Lim where
  | ov | uv | ot | ut | occ | ocd | cd | ns
  deriving DecidableEq, Repr

/-- The four advisory scores of 09 R248. -/
inductive Score where
  | short | sense | therm | self
  deriving DecidableEq, Repr

/-- The divergence quantities of 09 Table 9.6a. -/
inductive Quant where
  | soc | cap | res
  deriving DecidableEq, Repr

/-- The names of the staged settings (14 Table 14.2 and 15 Table 15.3), with their indices; `pairSide` can only be shown
(R413) and `unknown` is any name that the tables do not list, as it
was written. -/
inductive SName where
  | stampPeriod | stampEconomy | schedSlice
  | patronBalance (p : Nat)
  | tensorMode (p t : Nat) | tensorWindow (p t : Nat) | tensorKlo (p t : Nat) | tensorKhi (p t : Nat)
  | tensorTheta (p t : Nat) | tensorLimit (p t : Nat)
  | layerClamp (p l : Nat) | streamShift (s l : Nat)
  | driftMonitor | driftThreshold
  | refitB1 | refitB2 | refitLambda | refitEps | refitWindows | refitLength | refitPublish | refitSeed
  | divTheta (q : Quant) | divN (q : Quant) | advisory (k : Score)
  | mainsN | mainsSag | mainsSwell | mainsInterrupt | mainsFreq | mainsHarmonic | mainsUnbalance | mainsTransient
  | rolloutTheta
  | limitValue (k : Nat) (l : Lim) | limitDebounce (k : Nat) (l : Lim) | limitHyst (k : Nat) (l : Lim)
  | nodeTwinset (n : Nat) | nodeCurrent (n : Nat) | packIshift | packIscale
  | nodeTfit (n : Nat) | nodeWr (n w : Nat) | nodeRb (n : Nat) | cellSensors (n i : Nat)
  | packWpre | packWpost | packBreakres | packSumtol | packBreakdeb | packOwauto | packOwthresh | packAccretry
  | airMode | airPorts | airCmap | airHopkey | airSpiclk | airTxlead | airLevel
  | portTxlat (x : Nat) | portRxlat (x : Nat) | airRetries | airDownlink | airRepeats | airRxdivTheta | airRxdivN
  | spineSecure | inventorySchedule
  | powerBo | powerRestart | powerMainsbo | senseAMode | senseBMode | mainsNominal | mainsHz | mainsShift
  | pairSide | unknown (text : Bytes)
  deriving DecidableEq, Repr

/-- One segment of a rollout plan (09 Table 9.7, 14 R397): length in steps, power or current, signed value. -/
structure Seg where
  steps : Nat
  power : Bool
  value : Int
  deriving DecidableEq, Repr

/-- A value of a Usith argument (13 Table 13.17, 14 R397). A quantity is `num × 10^(-dec)` of its unit; a list is its
elements, a range a..b being the pair (a, b) and a single value (a, a). -/
inductive Val where
  | int (v : Int)
  | qty (num : Int) (dec : Nat) (u : UnitName)
  | kw (k : Kw)
  | list (xs : List (Int × Int))
  | segs (xs : List Seg)
  | name (n : SName) (listing : Bool)
  | sel (n : Nat)
  deriving DecidableEq, Repr

/-- The argument names of 14, Tables 14.3 to 14.11; `unknown` is any other name. -/
inductive Arg where
  | mode | expert | notice | baud | name | node | cells | dur | wire | dir | seq | set | tag | sid | slot | live | seed
  | offset | length | folio | stackCount | pages | stack | regions | blocks | claim | fromStack | pub | step | seg | plan
  | vnom | report | soclo | sochi | toff | card | input | req | since | count | port | kind | centre | side | partner
  | sel0 | sel1 | dest | confirm | unknown
  deriving DecidableEq, Repr

/-- A well-formed Usith line of a known verb: its session, its tag, and its name=value arguments in the order sent. -/
structure Line where
  ses : Sess
  tag : Option Nat
  args : List (Arg × Val)
  deriving DecidableEq, Repr

/-! ## Folios (04, 05, 07, 09, 10, 16) -/

/-- The patron kinds of 07 Table 7.1. -/
inductive FolioKind where
  | receiver | estimator | mains | refit | host
  deriving DecidableEq, Repr

/-- One group of 32, 64 or 128 weights of one row: its S8 scale code and weight codes (04 R88..R95). -/
structure WeightGroup where
  scale : Nat
  codes : List Nat
  deriving DecidableEq, Repr

/-- One output row of a matrix layer: BIAS, ZW, the annex bound Y and its groups (04 R93, R96). -/
structure WeightRow where
  bias : Int
  zw : Nat
  y : Nat
  groups : List WeightGroup
  deriving DecidableEq, Repr

/-- One layer of a folio as the hub uses it: its dimensions, wide channels, paired and trainable marks, the input bound X of R96, the
largest weight code, its rows (of trainable layers), and its tables as (E, SIGNED): those of a state layer in the order T_sp, T_ne, T_gate
(05 R129, R130), and the others. `scan` holds d and N of a state layer; `mode`, `grp`, `din`, `dout` and `wide` are those of its MATMUL
(06 Table 6.4). -/
structure LayerInfo where
  mode : Nat := 0
  grp : Nat := 0
  din : Nat := 0
  dout : Nat := 0
  wide : Nat := 0
  scan : Option (Nat × Nat) := none
  paired : Bool
  trainable : Bool
  inputMax : Nat
  codeMax : Nat
  rows : List WeightRow
  stateTables : List (Nat × Bool)
  tables : List (Nat × Bool)
  deriving DecidableEq, Repr

/-- One tensor as Brikor built it: an output tensor, or the state tensor of a state layer (04 R101, R106, 05 R127). -/
structure TensorInfo where
  index : Nat
  layer : Nat
  ringed : Bool
  running : Bool
  window : Nat
  klo : Nat
  khi : Nat
  theta : Nat
  limit : Nat
  deriving DecidableEq, Repr

/-- The forms of a draw in a charge's input blocks (08 R231). -/
inductive DrawForm where
  | index (n : Nat)
  | bernoulli (p : Nat)
  | uniform
  | spread
  deriving DecidableEq, Repr

/-- A draw site that a folio declares (08 R229): its number, the form and count of its draws for one row of one time step, and the place of
their block, in 64-byte units from the patron's first block. -/
structure DrawSite where
  site : Nat
  form : DrawForm
  count : Nat
  place : Nat
  deriving DecidableEq, Repr

/-- What a program of a folio is for: the charges of one kind run it (log 9). -/
inductive ProgKind where
  | step
  | decode
  | mains
  | refit
  | chunk
  | rebuild
  deriving DecidableEq, Repr

/-- A folio's header and declarations. The spec gives what Brikor records, not the byte layout of the folio body, so the
command that installs a folio carries this content. `weightLines` is the weight section in stored form: each line is 64 data
bytes and its tag (04 R92, 08 R223). Places in the patron's blocks are counted in 64-byte units: `inputAt` of the input rows, `tagsAt` of
their step tags, `headAt` of the head tensor, `resultAt` of a job's results, `gradAt` of the gradients, each of `gradBytes` bytes; `taps` are
the places and lengths of the taps (08 R227), `consts` the places and bytes of the program's constants, function tables among them. -/
structure FolioInfo where
  fid : BitVec 32
  kind : FolioKind
  parent : BitVec 32
  layout : BitVec 32
  layers : List LayerInfo
  stateLayers : List (Nat × Nat)
  shifts : List Nat
  nring : Nat
  tensors : List TensorInfo
  weightLines : List (Bytes × BitVec 4)
  wdigest : Bytes
  decodeCost : Nat
  slackNominal : Nat
  slackEconomy : Nat
  replayCost : Nat
  stepCost : Nat
  headAt : Nat
  inputAt : Nat
  rollout : Bool
  taps : List (Nat × Nat)
  resultAt : Nat
  resultLen : Nat
  rsZero : Bool
  tagsAt : Nat := 0
  sites : List DrawSite := []
  consts : List (Nat × Bytes) := []
  gradAt : Nat := 0
  gradBytes : Nat := 8
  gradTensor : Nat := 0
  momentTensor : Nat := 0
  programs : List (ProgKind × List (BitVec 512)) := []
  deriving DecidableEq, Repr

/-! ## Charges (02 R38, 06 R155..R162) -/

/-- What a charge is for: a live-step batch, a burst decode, a mains pass, a refit step, a chunk of a request, a weight
stream-in of a re-lending, a re-read after a slip-skew fault, a drift rebuild, or a park that the hub places (05 R135). -/
inductive ChargeKind where
  | step (sids : List Nat) (rerun : Bool)
  | decode (lch slot : Nat)
  | mains
  | refit
  | chunk (req : Nat) (sid : Nat) (index : Nat) (last : Bool)
  | fill
  | reread
  | rebuild (sid : Nat)
  | park
  deriving DecidableEq, Repr

/-- A charge as the steward submits it: its descriptors and row table, the prerequisite charges it names, and the bytes
the steward writes into its input blocks. -/
structure ChargeSpec where
  slot : Nat
  stack : Nat
  kind : ChargeKind
  descs : List (BitVec 512)
  rows : List (BitVec 64)
  prereqs : List Nat
  inputs : List (Nat × Bytes)
  deriving DecidableEq, Repr

/-- What the check bits of the stores show as a descriptor starts (03 R67, R69, 16 R454, R455): weight-store words with one bit wrong, words of
the weight store and of the carrel beyond correction, folio blocks that the archive cannot read, ledger pages, each with its stream, and spill
pages. -/
structure Strikes where
  soft : List Nat := []
  store : List Nat := []
  carrel : List Nat := []
  blocks : List Nat := []
  pages : List (Nat × Nat) := []
  spill : List Nat := []
  deriving DecidableEq, Repr

/-- A stack on which a descriptor starts, and what its check bits then show. -/
structure StackAt where
  k : Nat
  hw : Strikes := {}
  deriving DecidableEq, Repr

/-- The engines of a stack (06 R157), the two directions of the ledger engine apart. -/
inductive Engine where
  | fill | ledIn | ledOut | main
  deriving DecidableEq, Repr

/-- What a 30 ms inventory finds (16 R457, R459). -/
structure InvFinding where
  failedShelves : BitVec 32
  annexFails : Bool
  binderyFails : Bool
  rows : List (Bool × Nat × Nat) := []  -- failing rows of the march tests: of the carrel or of the weight store, the 64 KiB bank, the row
  deriving DecidableEq, Repr

/-! ## The data port (13) -/

/-- A transaction of the data port: its opcode, its first address, and the instant at which HCS_N fell (13 R363). -/
structure HostTxn where
  op : BitVec 8 := 0x02
  addr : Nat
  fell : Tick := 0
  deriving DecidableEq, Repr

/-! ## The air (10) -/

/-- A slot of the frame: uplink slot i, retry slot k, or the accession slot of the stamp (10 R285, 11 R312). -/
inductive Slot where
  | uplink (i : Nat) | retry (k : Nat) | accession
  deriving DecidableEq, Repr

/-- The twin receiver's measurements of a burst (10 Table 10.10): SNR, carrier and timing offsets. -/
structure RxMeas where
  snr : Nat
  cfo : Int
  toff : Int
  deriving DecidableEq, Repr

/-- The causes of a port fault (10 R294). -/
inductive PortCause where
  | rck | rfr | silent
  deriving DecidableEq, Repr

/-! ## The spine (12) -/

/-- A spine frame as it reaches the receiver: its 16-byte header (12 Table 12.3), its payload as sent, the tag of a secured frame and its
CRC-32, and the sender's count of secured frames, which the frame itself does not hold (12 R347). -/
structure SpineRx where
  hdr : BitVec 128
  payload : Bytes := []
  tag : Bytes := []
  crc : BitVec 32
  count : Nat
  deriving DecidableEq, Repr

/-- The content of a TRAIN frame (12 Table 12.2, 15 R439): the sender's side, role (none while undecided), run, stamp, session
value, and in the delay exchanges the round trip measured and the turnaround stated, in crystal periods. -/
structure TrainInfo where
  side : Bool := false
  role : Option Nat
  run : BitVec 32
  stamp : BitVec 48
  session : BitVec 32
  roundTrip : Nat
  turnaround : Nat
  deriving DecidableEq, Repr

/-- What a ROLE frame says (12 Table 12.4). -/
inductive RoleNote where
  | claim | yield | takeover
  deriving DecidableEq, Repr

/-- A loan change as it is forwarded (07 R201): a loan of the stacks of a mask (`total` where it states what the
slot holds, not what is added), a release of them, or a move. -/
inductive LoanAct where
  | lend (slot mask pages regions blocks claim : Nat) (total : Bool)
  | release (slot mask : Nat)
  | move (slot src dst : Nat)
  deriving DecidableEq, Repr

/-- The content of a CONFIG frame: a committed setting, script or twin parameter set, a loan change, a promotion with its stack and whether it takes
the stack whole, or the primary's roster (02
R28, 07 R201, 09 R244, R259, 11 R317, 14 R412). -/
inductive ConfigItem where
  | setting (n : SName) (v : Option Int)
  | script (port : Nat) (centre : Option Nat) (body : Bytes)
  | twinset (set : Nat) (body : Bytes)
  | loan (a : LoanAct)
  | promotion (pub slot : Nat) (place : Option (Nat × Bool))
  | roster (ids : List (Nat × BitVec 64))
  deriving DecidableEq, Repr

/-- Seal records (12 Table 12.6). -/
inductive SealRec where
  | step (sid l : Nat) (reset rerun : Bool) (sample features : BitVec 48)
  | rebuild (sid first last : Nat)
  | shift (sid layer j : Nat)
  | create (sid : Nat) (portable live : Bool) (seed : BitVec 64)
  | imported (sid : Nat) (portable live : Bool) (digest : Bytes)
  | exported (sid : Nat)
  | freed (sid : Nat)
  | setting (seq : BitVec 16) (stamp : BitVec 48)
  | report (shelf slot outcome : Nat) (payload : Bytes)
  | order (shelf mtype : Nat) (seq : Nat) (sync : Bool) (body : Bytes)
  | fin (stamp : BitVec 48) (count first last : Nat)
  deriving DecidableEq, Repr

/-- A burst of the other hub that this hub decoded (15 R439): a beacon with its block, a call with its acknowledgement
block, or an ACCOFFER with OFFER, CONFIRM and CID. -/
inductive PartnerBurst where
  | beacon (run : BitVec 32) (side : Bool)
  | call (lch : Nat) (acks : BitVec 64)
  | accoffer (offer confirm : Nat) (cid : BitVec 64)
  deriving DecidableEq, Repr

/-- The scan register cells shifted through TDI, first bit first (16 R462). -/
abbrev Bits := List Bool

/-! ## The commands -/

/-- One constructor per row of spec/opcode_table.json, in its order. -/
inductive Instr where
  -- power and the first second (15)
  | powerUp (t : Tick) | busCheckEnd (t : Tick) | railEnable (t : Tick) | railPowerGood (t : Tick) (rail : Nat)
  | railGoodTimeout (t : Tick) | railGoodLost (t : Tick) (rail : Nat) | railRestart (t : Tick)
  | bootRecordRead (t : Tick) | pllLock (t : Tick) | stewardBoot (t : Tick)
  | stackWake (t : Tick) (stk : Nat) | startupInventoryEnd (t : Tick) (stk : Nat) (failed : BitVec 32)
  | roleDecision (t : Tick) | beaconListenEnd (t : Tick) | unalignedPromotion (t : Tick) | hrdyRise (t : Tick)
  | snapshotRestore (t : Tick) | streamRecordRestore (t : Tick)
  | brownOut (t : Tick) (mains : Bool) | brownOutHrdyLow (t : Tick) | snapshotWrite (t : Tick) | snapshotSeal (t : Tick)
  | busRestart (t : Tick) | rstNLow (t : Tick) | rstNRelease (t : Tick)
  -- the stamp (02)
  | stampBoundary (t : Tick) | takeoverBoundary (t : Tick) | admissionPass (t : Tick) (stk : Nat) | sampleMark (t : Tick)
  | conversion (t : Tick) (ia ib : BitVec 24) (mains : Option (List (BitVec 24))) | currentMean (t : Tick)
  | heartbeatSend (t : Tick) | starvedEvent (t : Tick) | unservedEvent (t : Tick) | divsum (t : Tick)
  -- the stack command set (06)
  | chargeSubmit (t : Tick) (c : ChargeSpec)
  | streamin (t : Tick) (stk : StackAt) | matmul (t : Tick) (stk : StackAt) | scan (t : Tick) (stk : StackAt)
  | bind (t : Tick) (stk : StackAt) | recall (t : Tick) (stk : StackAt) | park (t : Tick) (stk : StackAt)
  | commit (t : Tick) (stk : StackAt) | xfer (t : Tick) (stk : StackAt) | shadow (t : Tick) (stk : StackAt)
  | digest (t : Tick) (stk : StackAt) | colophon (t : Tick) (stk : StackAt) | sync (t : Tick) (stk : StackAt)
  | descriptorComplete (t : Tick) (stk : Nat) (eng : Engine)
  | refitUpdate (t : Tick) (corrected : List Nat) | publish (t : Tick)
  | preemption (t : Tick) (stk : Nat) (slot : Nat) | stopPoint (t : Tick) (stk : Nat) | resume (t : Tick) (stk : Nat)
  | sliceEnd (t : Tick) (stk : Nat)
  -- faults and inventory (16)
  | hang (t : Tick) (stk : Nat) (eng : Engine) | isolationReport (t : Tick) (stk : Nat)
  | inventoryEnd (t : Tick) (stk : Nat) (f : InvFinding) | scheduledInventory (t : Tick)
  | ledgerScrub (t : Tick) (corrected : List Nat) | lockstepA (t : Tick) | lockstepB (t : Tick)
  | stewardRestart (t : Tick) (pairB : Bool)
  -- the air interface and the nodes (10, 11)
  | burstReceive (t : Tick) (lch : Nat) (slot : Slot) (hdr : BitVec 48) (offset : Int)
  | learnedDeadline (t : Tick) (lch : Nat) (slot : Slot)
  | burstOutcome (t : Tick) (lch : Nat) (slot : Slot) (learned : Bool) (twin : List Int) (m : RxMeas)
  | lossInstant (t : Tick) | receiverRelease (t : Tick) | callSend (t : Tick) (lch : Nat)
  | orderSend (t : Tick) (lch dslot : Nat) | tuneScript (t : Tick) | portfault (t : Tick) (port : Nat) (cause : PortCause)
  | batonReturn (t : Tick) | batonbreak (t : Tick) | accofferSend (t : Tick) | btnSenseSample (t : Tick) (high : Bool)
  | chainbreak (t : Tick)
  -- the spine (12)
  | trainingPhase (t : Tick) (phase : Nat) | trainingTimeout (t : Tick) | train (t : Tick) (rx : SpineRx) (info : TrainInfo)
  | heartbeat (t : Tick) (rx : SpineRx) (payload : BitVec 128) | role (t : Tick) (rx : SpineRx) (n : RoleNote)
  | config (t : Tick) (rx : SpineRx) (item : ConfigItem) (live : BitVec 48)
  | sense (t : Tick) (rx : SpineRx) (stamp : BitVec 48) (ms : Nat) (ca cb : List (BitVec 24)) (mains : List (List (BitVec 24)))
  | seal (t : Tick) (rx : SpineRx) (recs : List SealRec) | card (t : Tick) (rx : SpineRx) (head : BitVec 128) (body twin : Bytes)
  | spineResend (t : Tick) | spinesec (t : Tick) | sealSend (t : Tick) | primaryLost (t : Tick)
  | partnerBeacon (t : Tick) (run : BitVec 32) (side : Bool)
  -- the data port (13)
  | estimateFrameWrite (t : Tick) | eventFrameWrite (t : Tick) | heldFrameWrite (t : Tick) (ring : Nat)
  | statusBlockUpdate (t : Tick) | transactionTimeout (t : Tick) | irqWrite (t : Tick) (v : BitVec 32)
  | irqenWrite (t : Tick) (v : BitVec 32) | errWrite (t : Tick) (v : BitVec 16) | h2mlenWrite (t : Tick) (v : BitVec 16)
  | m2hlenWrite (t : Tick) (v : BitVec 16) | consWrite (t : Tick) (ring : Nat) (v : BitVec 32)
  | prodWrite (t : Tick) (ring : Nat) (v : BitVec 32) | registerWrite (t : Tick) (addr : HostTxn) (data : Bytes)
  | partialLineTimeout (t : Tick)
  -- Usith commands (14)
  | session (t : Tick) (u : Line) | ident (t : Tick) (u : Line) | stamp (t : Tick) (u : Line)
  | set (t : Tick) (u : Line) (pairs : List (SName × Val)) | showSetting (t : Tick) (u : Line) | discard (t : Tick) (u : Line)
  | apply (t : Tick) (u : Line) | save (t : Tick) (u : Line) | accession (t : Tick) (u : Line)
  | nodeShow (t : Tick) (u : Line) | balance (t : Tick) (u : Line) | owtest (t : Tick) (u : Line)
  | breakClear (t : Tick) (u : Line) | nodeQuery (t : Tick) (u : Line) | nodeSleep (t : Tick) (u : Line)
  | protectAck (t : Tick) (u : Line) | twinsetLoad (t : Tick) (u : Line)
  | streamCreate (t : Tick) (u : Line) | streamFree (t : Tick) (u : Line) | streamExport (t : Tick) (u : Line)
  | streamCopy (t : Tick) (u : Line) | streamImport (t : Tick) (u : Line) | streamShow (t : Tick) (u : Line)
  | streamList (t : Tick) (u : Line)
  | folioWrite (t : Tick) (u : Line) | folioInstall (t : Tick) (u : Line) (f : FolioInfo) | folioList (t : Tick) (u : Line)
  | folioDelete (t : Tick) (u : Line) | bindFolio (t : Tick) (u : Line) | unbind (t : Tick) (u : Line)
  | loan (t : Tick) (u : Line) | release (t : Tick) (u : Line) | move (t : Tick) (u : Line) | promote (t : Tick) (u : Line)
  | draftDiscard (t : Tick) (u : Line) | draftShow (t : Tick) (u : Line)
  | rollout (t : Tick) (u : Line) | regenerate (t : Tick) (u : Line) | job (t : Tick) (u : Line) | cancel (t : Tick) (u : Line)
  | requestShow (t : Tick) (u : Line) | reportService (t : Tick) (u : Line) | reportLink (t : Tick) (u : Line)
  | eventList (t : Tick) (u : Line) | portShow (t : Tick) (u : Line) | portRestore (t : Tick) (u : Line)
  | scriptLoad (t : Tick) (u : Line) | pair (t : Tick) (u : Line) | spineShow (t : Tick) (u : Line)
  | spineKey (t : Tick) (u : Line) | roleYield (t : Tick) (u : Line) | powerShow (t : Tick) (u : Line)
  | inventory (t : Tick) (u : Line) | inventoryShow (t : Tick) (u : Line) | lectern (t : Tick) (u : Line)
  | life (t : Tick) (u : Line)
  -- boundary scan (16)
  | extest (t : Tick) (tdi : Bits) | idcode (t : Tick) | samplePreload (t : Tick) (tdi : Bits) | clamp (t : Tick)
  | highz (t : Tick) | fuseread (t : Tick) | fuseprog (t : Tick) (v : BitVec 1344) | bypass (t : Tick) (tdi : Bits)
  | trstNLow (t : Tick)
  -- the rest of the table
  | powerLoss (t : Tick) | lineError (t : Tick) (ses : Sess) (bytes : Bytes) (overrun : Bool)
  | partnerBurstReceive (t : Tick) (b : PartnerBurst) | drainEnd (t : Tick) (stk : Nat) (slot : Nat)
  | spinePreamble (t : Tick) | spineDown (t : Tick) | promotionLagging (t : Tick)
  deriving DecidableEq, Repr

end Sys2Proof
end

