-- ==== Sys2Proof/Machine/Numbers.lean ====
section
/-! DEFINITION. The integer arithmetic of the hub: clamps, the one rounding shift, ranges, and byte order. -/

namespace Sys2Proof.Machine

/-- ceil(a / b) for naturals; 0 when b is 0 (00 R11: an empty operation). -/
def ceilDiv (a b : Nat) : Nat := if b = 0 then 0 else (a + b - 1) / b

/-- x clamped to the signed n-bit range (00 Table 0.3 sat). -/
def sat (x : Int) (n : Nat) : Int :=
  if x < -(2 ^ (n - 1) : Int) then -(2 ^ (n - 1) : Int) else if x > (2 ^ (n - 1) : Int) - 1 then (2 ^ (n - 1) : Int) - 1 else x

/-- x clamped to 0 .. 2^n − 1 (00 Table 0.3 usat). -/
def usat (x : Int) (n : Nat) : Int :=
  if x < 0 then 0 else if x > (2 ^ n : Int) - 1 then (2 ^ n : Int) - 1 else x

/-- A natural clamped to an unsigned n-bit field (counters that saturate). -/
def natSat (x n : Nat) : Nat := min x (2 ^ n - 1)

/-- The rounding shift: to nearest, ties away from zero; an exact left shift when e is negative (04 R87). -/
def rnd (x e : Int) : Int :=
  if e > 0 then
    let m : Nat := (x.natAbs + 2 ^ (e.toNat - 1)) / 2 ^ e.toNat
    if x < 0 then -(m : Int) else (m : Int)
  else if e = 0 then x
  else x * 2 ^ (-e).toNat

/-- Rounded division by b > 0, ties away from zero (09 R256 divr). -/
def divr (a : Int) (b : Nat) : Int :=
  let m : Nat := (2 * a.natAbs + b) / (2 * b)
  if a < 0 then -(m : Int) else (m : Int)

/-- The largest r ≤ bound with r × r ≤ v, by halving the bound's bits. -/
def isqrtFrom (v : Nat) : Nat → Nat → Nat
  | 0, r => r
  | k + 1, r => if (r + 2 ^ k) * (r + 2 ^ k) ≤ v then isqrtFrom v k (r + 2 ^ k) else isqrtFrom v k r

/-- The largest integer whose square does not exceed v (09 R256 isqrt), for v below 2^128. -/
def isqrt (v : Nat) : Nat := isqrtFrom v 64 0

/-- The mean of a list of codes, rounded under R87. -/
def meanRnd (xs : List Int) : Int := if xs.length = 0 then 0 else divr xs.sum xs.length

/-! ## Bytes -/

/-- The n low bytes of v, least significant first (00 R8). -/
def leBytes : Nat → Nat → Bytes
  | 0, _ => []
  | n + 1, v => BitVec.ofNat 8 (v % 256) :: leBytes n (v / 256)

/-- The natural that a little-endian list of bytes holds. -/
def leNat : Bytes → Nat
  | [] => 0
  | b :: bs => b.toNat + 256 * leNat bs

/-- A natural below 2^n read as a two's-complement number of n bits. -/
def toSigned (v n : Nat) : Int := if v < 2 ^ (n - 1) then (v : Int) else (v : Int) - 2 ^ n

/-- The n-bit two's-complement code of a number, as a natural. -/
def ofSigned (x : Int) (n : Nat) : Nat := (x % (2 ^ n : Int)).toNat

/-- Bits hi..lo of v, both included. -/
def bitsOf (v hi lo : Nat) : Nat := v / 2 ^ lo % 2 ^ (hi + 1 - lo)

/-- Place the low `width` bits of v at bit `lo`. -/
def field (v lo width : Nat) : Nat := (v % 2 ^ width) * 2 ^ lo

/-- The bits of a byte, bit 0 first. -/
def byteBits (b : Byte) : List Bool := (List.range 8).map fun i => b.getLsbD i

/-! ## The encodings of narrow training state (04 R114, R115) -/

/-- The smallest exponent from e on, of at most k more tries, for which every element fits; the last tried otherwise. -/
def fitExp (fits : Nat → Bool) : Nat → Nat → Nat
  | 0, e => e
  | k + 1, e => if fits e then e else fitExp fits k (e + 1)

/-- Encode a signed group: codes, exponent, and how many codes saturated (04 R115). -/
def encodeG8 (xs : List Int) : List Int × Nat × Nat :=
  let e := fitExp (fun e => xs.all fun x => (rnd x e).natAbs ≤ 127) 47 0
  let cs := xs.map fun x => max (-127) (min 127 (rnd x e))
  (cs, e, (xs.filter fun x => (rnd x e).natAbs > 127).length)

/-- Encode an unsigned group (04 R115). -/
def encodeV8 (xs : List Int) : List Nat × Nat × Nat :=
  let e := fitExp (fun e => xs.all fun x => rnd x e ≤ 255) 111 0
  let cs := xs.map fun x => (min 255 (rnd x e)).toNat
  (cs, e, (xs.filter fun x => rnd x e > 255).length)

/-- The value of a G8 code: −128 reads as −127 (04 R86, R114). -/
def decodeG8 (c : Int) (e : Nat) : Int := (max (-127) c) * 2 ^ e

/-- First moment after a gradient (04 R116). -/
def moment1 (m g : Int) (b1 : Nat) : Int := m + rnd (g - m) b1

/-- Second moment after a gradient (04 R116). -/
def moment2 (v g : Int) (b2 : Nat) : Int := v + rnd (g * g - v) b2

/-! ## Codes, steps and needs (04 R99..R104) -/

/-- The rescale of one accumulator entry: code and clipped mark (04 R99). `wide` selects an A16 output. -/
def rescale (acc bias : Int) (mult shift kIn kOut : Nat) (zOut : Int) (wide : Bool) : Int × Bool :=
  let p := (acc + bias) * mult
  let e : Int := (shift : Int) + kOut - kIn
  let v := rnd p e + zOut
  let y := if wide then sat v 16 else usat v 8
  (y, decide (y ≠ v))

/-- The smallest k from 0 to 7 for which every element fits, 7 when none does (04 R103). -/
def needOf (fits : Nat → Bool) : Nat := fitExp fits 7 0

/-- k_out of a RUNNING tensor from the needs of the last m committed steps (04 R102). -/
def rangeStep (klo khi : Nat) (needs : List Nat) : Nat := min khi (needs.foldl max klo)

/-- The needs of the last m committed steps: ring entries (STEP − 1) mod 64 down to (STEP − m) mod 64 (04 R104). -/
def lastNeeds (ring : List Nat) (step window : Nat) : List Nat :=
  (List.range (min window (min step 64))).map fun i => ring.getD ((step - 1 - i) % 64) 0

/-- The ring after the step that raises STEP from s: the need stored at entry s mod 64, bit 3 of it 0 (04 R104). -/
def ringPut (ring : List Nat) (s need : Nat) : List Nat := ring.set (s % 64) (need % 8)

/-- The clip share of a tensor for a stamp (04 R107). -/
def clipShare (clipped produced : Nat) : Nat := if produced = 0 then 0 else ceilDiv (clipped * 65535) produced

/-- A piecewise-quadratic table: result shift E, SIGNED, and 64 records C0, C1, C2 (05 R129). -/
structure FTable where
  e : Nat
  signed : Bool
  segs : List (Int × Int × Int)
  deriving DecidableEq, Repr

/-- The table's value before its saturation (05 R130). -/
def FTable.raw (f : FTable) (u : Int) : Int :=
  let v := (u + 32768).toNat
  let c := f.segs.getD (v / 1024) (0, 0, 0)
  let t : Int := (v % 1024 : Nat)
  rnd (c.1 + c.2.1 * t + c.2.2 * t * t) f.e

/-- The table's value (05 R130). -/
def FTable.eval (f : FTable) (u : Int) : Int := if f.signed then sat (f.raw u) 16 else usat (f.raw u) 16

/-- Whether the saturation inside the table changes the value (06 R167). -/
def FTable.clips (f : FTable) (u : Int) : Bool := decide (f.eval u ≠ f.raw u)

/-- The table that 784 bytes hold (05 Table 5.3, R129). -/
def FTable.ofBytes (b : Bytes) : FTable :=
  let h := leNat (b.take 16)
  { e := bitsOf h 21 16, signed := h.testBit 8,
    segs := (List.range 64).map fun s =>
      let r := (b.drop (16 + 12 * s)).take 12
      (toSigned (leNat (r.take 4)) 32, toSigned (leNat ((r.drop 4).take 4)) 32, toSigned (leNat ((r.drop 8).take 4)) 32) }

/-! ## The recurrence (05 R124, R149) -/

/-- The clamp on α: at most 65,536 − 2^(16 − k) (05 R125). -/
def clampAlpha (a : Int) (k : Nat) : Int := min a (65536 - 2 ^ (16 - k))

/-- The state update: one rounding of the exact sum of the decay and input terms (05 R124). -/
def stateUpdate (alpha beta h x : Int) (shift : Nat) (aal : Nat) : Int :=
  rnd (alpha * h * 2 ^ (aal + shift) + beta * x) ((16 + aal + shift : Nat) : Int)

/-- The drift shadow's update at 32 bits (05 R149). -/
def shadowUpdate (alpha beta hs x : Int) (shift aal : Nat) : Int :=
  sat (rnd (alpha * hs * 2 ^ (aal + shift) + beta * x * 2 ^ 16) ((16 + aal + shift : Nat) : Int)) 32

/-- The drift of a step: the largest |Hs′ − 65,536 × H′|, saturated to 32 bits (05 R149). -/
def driftOf (hs h : List Int) : Nat :=
  natSat ((List.zipWith (fun a b => (a - 65536 * b).natAbs) hs h).foldl max 0) 32

end Sys2Proof.Machine
end

