-- ==== Sys2Proof/Machine/Codes.lean ====
section
/-! DEFINITION. The checksums, digests and generators that the spec fixes bit by bit: CRC-32, the header check, the
scramblers, Fletcher-16, SHA-256 (FIPS 180-4) and the counter generator. -/

namespace Sys2Proof.Machine

/-! ## CRC-32, header check, scrambling (10 R280, R281) -/

/-- One bit of the reflected CRC-32 of IEEE 802.3. -/
def crcBit (c : BitVec 32) : BitVec 32 := if c.getLsbD 0 then (c >>> 1) ^^^ 0xEDB88320#32 else c >>> 1

/-- One byte of the CRC. -/
def crcByte (c : BitVec 32) (b : Byte) : BitVec 32 :=
  crcBit (crcBit (crcBit (crcBit (crcBit (crcBit (crcBit (crcBit (c ^^^ b.setWidth 32))))))))

/-- CRC-32 over bytes: initial value 0xFFFFFFFF, final complement (10 R280). -/
def crc32 (bs : Bytes) : BitVec 32 := ~~~ (bs.foldl crcByte 0xFFFFFFFF#32)

/-- One bit of the header check (10 R281). -/
def hcrcBit (c : BitVec 8) (b : Bool) : BitVec 8 :=
  let f := b ^^ c.getLsbD 7
  let d := c <<< 1
  if f then d ^^^ 0x07#8 else d

/-- HCRC over header bits 0 to 39 (10 R281). -/
def hcrc (hdr : BitVec 48) : BitVec 8 := (List.range 40).foldl (fun c i => hcrcBit c (hdr.getLsbD i)) 0xFF#8

/-- The header with its HCRC in bits 47:40, from bits 39:0. -/
def withHcrc (low : Nat) : BitVec 48 :=
  let h := BitVec.ofNat 48 (low % 2 ^ 40)
  h ||| (((hcrc h).setWidth 48) <<< 40)

/-- Whether a header's HCRC holds. -/
def hcrcOk (hdr : BitVec 48) : Bool := hdr.extractLsb' 40 8 == hcrc hdr

/-- One bit of the payload scrambler's output and its next register (10 R280 step 4). -/
def scramStep (s : BitVec 15) : Bool × BitVec 15 :=
  let o := s.getLsbD 14 ^^ s.getLsbD 13
  (o, (s <<< 1) ||| (if o then 1#15 else 0#15))

/-- The payload scrambler over a bit sequence, from a register value. -/
def scramble : BitVec 15 → List Bool → List Bool
  | _, [] => []
  | s, b :: bs => let r := scramStep s; (b ^^ r.1) :: scramble r.2 bs

/-- The information bits of a burst: payload, CRC, zero padding to `total`, scrambled from 0x6B1D (10 R280). -/
def infoBits (hdr : BitVec 48) (payload : Bytes) (total : Nat) : List Bool :=
  let c := crc32 (leBytes 5 (hdr.toNat % 2 ^ 40) ++ payload)
  let raw := (payload ++ leBytes 4 c.toNat).flatMap byteBits
  scramble 0x6B1D#15 (raw ++ List.replicate (total - raw.length) false)

/-- One bit of the spine scrambler (12 R342). -/
def spineScramStep (s : BitVec 23) : Bool × BitVec 23 :=
  let o := s.getLsbD 22 ^^ s.getLsbD 17
  (o, (s <<< 1) ||| (if o then 1#23 else 0#23))

/-- The spine scrambler over the bits of a frame after its preamble, from 0x7FFFFF (12 R342). -/
def spineScramble : BitVec 23 → List Bool → List Bool
  | _, [] => []
  | s, b :: bs => let r := spineScramStep s; (b ^^ r.1) :: spineScramble r.2 bs

/-- The PAM-4 level of a bit pair (12 Table 12.1). -/
def pam4 (b1 b0 : Bool) : Int :=
  match b1, b0 with
  | false, false => -3
  | false, true => -1
  | true, true => 1
  | true, false => 3

/-! ## Fletcher-16 (13 R388) -/

/-- The line checksum over bytes. -/
def fletcher16 (bs : Bytes) : Nat :=
  let r := bs.foldl (fun (p : Nat × Nat) b => let s1 := (p.1 + b.toNat) % 255; (s1, (p.2 + s1) % 255)) (0, 0)
  r.2 * 256 + r.1

/-! ## SHA-256 (FIPS 180-4) -/

abbrev W32 := BitVec 32

/-- The initial hash value, H₀ uppermost. -/
def shaStart : Nat := 0x6a09e667bb67ae853c6ef372a54ff53a510e527f9b05688c1f83d9ab5be0cd19
/-- The round constants, K₀ uppermost. -/
def shaConstants : Nat :=
  0x428a2f9871374491b5c0fbcfe9b5dba53956c25b59f111f1923f82a4ab1c5ed5d807aa9812835b01243185be550c7dc372be5d7480deb1fe9bdc06a7c19bf174e49b69c1efbe47860fc19dc6240ca1cc2de92c6f4a7484aa5cb0a9dc76f988da983e5152a831c66db00327c8bf597fc7c6e00bf3d5a7914706ca63511429296727b70a852e1b21384d2c6dfc53380d13650a7354766a0abb81c2c92e92722c85a2bfe8a1a81a664bc24b8b70c76c51a3d192e819d6990624f40e3585106aa07019a4c1161e376c082748774c34b0bcb5391c0cb34ed8aa4a5b9cca4f682e6ff3748f82ee78a5636f84c878148cc7020890befffaa4506cebbef9a3f7c67178f2

/-- Word i of the n words of a number, the first uppermost. -/
def wordOf (v n i : Nat) : W32 := BitVec.ofNat 32 (v / 2 ^ (32 * (n - 1 - i)))
/-- The exclusive or of a word's rotations. -/
def spread (x : W32) (by_ : List Nat) : W32 := by_.foldl (fun y n => y ^^^ x.rotateRight n) 0

/-- A digest under way as the two sequences that FIPS 180-4 steps: the last four values of a and of e, and the sixteen message words from this
round's on, all newest first. -/
structure Digesting where
  as : List W32
  es : List W32
  words : List W32

/-- Round t: both sequences take the round's sum, and the message goes on by one word. -/
def Digesting.round (x : Digesting) (t : Nat) : Digesting :=
  let a : Nat → W32 := fun i => x.as.getD i 0
  let e : Nat → W32 := fun i => x.es.getD i 0
  let w : Nat → W32 := fun i => x.words.getD i 0
  let choice := e 2 ^^^ (e 0 &&& (e 1 ^^^ e 2))
  let majority := (a 0 &&& a 1) ||| (a 2 &&& (a 0 ||| a 1))
  let sum := wordOf shaConstants 64 t + w 15 + choice + spread (e 0) [6, 11, 25] + e 3
  { as := (sum + majority + spread (a 0) [2, 13, 22]) :: x.as.take 3
    es := (sum + a 3) :: x.es.take 3
    words := (w 15 + w 6 + (spread (w 14) [7, 18] ^^^ (w 14 >>> 3)) + (spread (w 1) [17, 19] ^^^ (w 1 >>> 10))) :: x.words.take 15 }

/-- The number that bytes spell, the first uppermost. -/
def beNat (b : Bytes) : Nat := b.foldl (fun v x => 256 * v + x.toNat) 0

/-- The chaining value, as a number of eight words, after one 64-byte block. -/
def digestBlock (h : Nat) (block : Bytes) : Nat :=
  let m := beNat block
  let x := (List.range 64).foldl Digesting.round
    { as := (List.range 4).map (wordOf h 8), es := (List.range 4).map fun i => wordOf h 8 (4 + i), words := (List.range 16).reverse.map (wordOf m 16) }
  ((x.as ++ x.es).mapIdx fun i v => (v + wordOf h 8 i).toNat * 2 ^ (32 * (7 - i))).sum

/-- SHA-256 of a byte sequence: a one bit, zeros and the length in bits end its last block. -/
def sha256 (m : Bytes) : Bytes :=
  let n := m.length
  let padded := m ++ [0x80#8] ++ List.replicate ((119 - n % 64) % 64) 0#8 ++ (leBytes 8 (8 * n)).reverse
  let h := (List.range (padded.length / 64)).foldl (fun h i => digestBlock h ((padded.drop (64 * i)).take 64)) shaStart
  (leBytes 32 h).reverse

/-! ## The counter generator (08 R228..R231) -/

/-- One round of the generator over (x0, x1, x2, x3). -/
def drawRound (x : W32 × W32 × W32 × W32) (i : Nat) : W32 × W32 × W32 × W32 :=
  let x0 := x.1 + x.2.1 + BitVec.ofNat 32 (i * 0x6A5D39C3)
  let x3 := (x.2.2.2 ^^^ x0).rotateLeft 13
  let x2 := x.2.2.1 + x3
  let x1 := (x.2.1 ^^^ x2).rotateLeft 7
  let y0 := x0 + x1
  let y3 := (x3 ^^^ y0).rotateLeft 17
  let y2 := x2 + y3
  let y1 := (x1 ^^^ y2).rotateLeft 9
  (y0, y1, y2, y3)

/-- One draw: 64-bit key and counter to a 64-bit result (08 R228). -/
def draw (key ctr : BitVec 64) : BitVec 64 :=
  let x := (List.range 10).foldl (fun x i => drawRound x (i + 1))
    (ctr.extractLsb' 0 32, ctr.extractLsb' 32 32, key.extractLsb' 0 32, key.extractLsb' 32 32)
  (x.2.1 ^^^ x.2.2.2) ++ (x.1 ^^^ x.2.2.1)

/-- The step key from a seed, a position and a draw site (08 R229). -/
def stepKey (seed : BitVec 64) (pos site : Nat) : BitVec 64 := draw seed (BitVec.ofNat 64 (pos % 2 ^ 48 + site % 256 * 2 ^ 48))

/-- Draw e of a step (08 R229). -/
def drawAt (seed : BitVec 64) (pos site e : Nat) : BitVec 64 :=
  draw (stepKey seed pos site) (BitVec.ofNat 64 (e % 2 ^ 32 + 2 ^ 56))

/-- An index in [0, n) (08 R231). -/
def drawIndex (y : BitVec 64) (n : Nat) : Nat := (y.toNat % 2 ^ 32) * n / 2 ^ 32

/-- A Bernoulli bit with probability p / 65,536 (08 R231). -/
def drawBernoulli (y : BitVec 64) (p : Nat) : Bool := decide (y.toNat % 65536 < p)

/-- Signed 16-bit field i of a draw (08 R231). -/
def drawField (y : BitVec 64) (i : Nat) : Int := toSigned (bitsOf y.toNat (16 * i + 15) (16 * i)) 16

/-- A spread A16 code (08 R231). -/
def drawSpread (y : BitVec 64) : Int := rnd (drawField y 0 + drawField y 1 + drawField y 2 + drawField y 3) 2

end Sys2Proof.Machine
end

