-- ==== Sys2Proof/Machine/Ldpc.lean ====
section
/-! DEFINITION. The codewords of a burst (10 R279, R280): the parity checks of the two codes of IEEE 802.11-2020 with 1,296 bits, systematic
encoding, and what a receiver reads from a codeword. The standard's matrix entries are taken from outside the spec (log 116). -/

namespace Sys2Proof.Machine

/-- The matrix prototype at rate 1/2, row by row: column of 54 bits and cyclic shift of each block that is not zero (log 116). -/
def halfRate : List (List (Nat × Nat)) := [
  [(0, 40), (4, 22), (6, 49), (7, 23), (8, 43), (12, 1), (13, 0)],
  [(0, 50), (1, 1), (4, 48), (5, 35), (8, 13), (10, 30), (13, 0), (14, 0)],
  [(0, 39), (1, 50), (4, 4), (6, 2), (11, 49), (14, 0), (15, 0)],
  [(0, 33), (3, 38), (4, 37), (7, 4), (8, 1), (15, 0), (16, 0)],
  [(0, 45), (4, 0), (5, 22), (8, 20), (9, 42), (16, 0), (17, 0)],
  [(0, 51), (3, 48), (4, 35), (8, 44), (10, 18), (17, 0), (18, 0)],
  [(0, 47), (1, 11), (5, 17), (8, 51), (12, 0), (18, 0), (19, 0)],
  [(0, 5), (2, 25), (4, 6), (6, 45), (8, 13), (9, 40), (19, 0), (20, 0)],
  [(0, 33), (3, 34), (4, 24), (8, 23), (11, 46), (20, 0), (21, 0)],
  [(0, 1), (2, 27), (4, 1), (8, 38), (10, 44), (21, 0), (22, 0)],
  [(1, 18), (4, 23), (7, 8), (8, 0), (9, 35), (22, 0), (23, 0)],
  [(0, 49), (2, 17), (4, 30), (8, 34), (11, 19), (12, 1), (23, 0)]]

/-- The matrix prototype at rate 3/4 (log 116). -/
def threeQuarterRate : List (List (Nat × Nat)) := [
  [(0, 39), (1, 40), (2, 51), (3, 41), (4, 3), (5, 29), (6, 8), (7, 36), (9, 14), (11, 6), (13, 33), (15, 11), (17, 4), (18, 1), (19, 0)],
  [(0, 48), (1, 21), (2, 47), (3, 9), (4, 48), (5, 35), (6, 51), (8, 38), (10, 28), (12, 34), (14, 50), (16, 50), (19, 0), (20, 0)],
  [(0, 30), (1, 39), (2, 28), (3, 42), (4, 50), (5, 39), (6, 5), (7, 17), (9, 6), (11, 18), (13, 20), (15, 15), (17, 40), (20, 0), (21, 0)],
  [(0, 29), (1, 0), (2, 1), (3, 43), (4, 36), (5, 30), (6, 47), (8, 49), (10, 47), (12, 3), (14, 35), (16, 34), (18, 0), (21, 0), (22, 0)],
  [(0, 1), (1, 32), (2, 11), (3, 23), (4, 10), (5, 44), (6, 12), (7, 7), (9, 48), (11, 4), (13, 9), (15, 17), (17, 16), (22, 0), (23, 0)],
  [(0, 13), (1, 7), (2, 15), (3, 47), (4, 23), (5, 16), (6, 47), (8, 43), (10, 29), (12, 52), (14, 2), (16, 53), (18, 1), (23, 0)]]

/-- Information blocks of a codeword under an MCS: rate 3/4 for MCS 3, else rate 1/2 (10 Table 10.3). -/
def infoBlocks (mcs : Nat) : Nat := if mcs = 3 then 18 else 12
/-- The check rows of the code with k information blocks. -/
def checkRows (k : Nat) : List (List (Nat × Nat)) := if k = 18 then threeQuarterRate else halfRate

/-- Block c of a codeword. -/
def blockAt (cw : BitVec 1296) (c : Nat) : BitVec 54 := cw.extractLsb' (54 * c) 54
/-- A codeword with a block that was zero set. -/
def putBlock (cw : BitVec 1296) (c : Nat) (v : BitVec 54) : BitVec 1296 := cw ||| (v.setWidth 1296 <<< (54 * c))
/-- The sum of a check row: 54 parity checks at once. -/
def rowSum (cw : BitVec 1296) (row : List (Nat × Nat)) : BitVec 54 := row.foldl (fun a e => a ^^^ (blockAt cw e.1).rotateRight e.2) 0
/-- Every parity check holds. -/
def syndromeZero (k : Nat) (cw : BitVec 1296) : Bool := (checkRows k).all fun r => rowSum cw r == 0

/-- The codeword of information bits: they come first, and the parity blocks follow (10 R279). The first of these is the sum of all rows, in which
the others cancel; each further one is what the row before it still lacks. -/
def encodeWord (k : Nat) (info : BitVec 1296) : BitVec 1296 :=
  let rows := checkRows k
  let first := putBlock info k (rows.foldl (fun a r => a ^^^ rowSum info r) 0)
  (rows.dropLast.mapIdx fun i r => (i, r)).foldl (fun cw p => putBlock cw (k + 1 + p.1) (rowSum cw p.2)) first

/-- Bits as a number, bit 0 first. -/
def bitsNat (bs : List Bool) : Nat := bs.foldr (fun b n => b.toNat + 2 * n) 0

/-- The codewords of a burst with a header: its scrambled information bits fill codeword 0, and then codeword 1 (10 R280). -/
def burstWords (hdr : BitVec 48) (payload : Bytes) : List (BitVec 1296) :=
  let k := infoBlocks (bitsOf hdr.toNat 5 4)
  let n := 1 + (hdr.getLsbD 6).toNat
  let bits := infoBits hdr payload (54 * k * n)
  (List.range n).map fun i => encodeWord k (BitVec.ofNat 1296 (bitsNat ((bits.drop (54 * k * i)).take (54 * k))))

/-- Length of the payload at the head of a burst's information bytes: behind it stand its CRC-32, whose register is given, and then only zeros. The
burst does not tell the length; the shortest one that fits is it (log 17). -/
def payloadLength : BitVec 32 → Bytes → Option Nat
  | _, [] => none
  | c, b :: bs =>
    if leNat ((b :: bs).take 4) == (~~~ c).toNat && decide (3 ≤ bs.length) && (bs.drop 3).all (· == 0) then some 0
    else (payloadLength (crcByte c b) bs).map (· + 1)

/-- The payload of a slot burst whose codeword satisfies the parity checks and whose CRC-32 matches (10 R280, R297). -/
def wordPayload (hdr : BitVec 48) (cw : BitVec 1296) : Option Bytes :=
  let k := infoBlocks (bitsOf hdr.toNat 5 4)
  let info := leBytes (54 * k / 8) (bitsNat (scramble 0x6B1D#15 ((List.range (54 * k)).map cw.getLsbD)))
  if syndromeZero k cw then
    (payloadLength ((leBytes 5 (hdr.toNat % 2 ^ 40)).foldl crcByte 0xFFFFFFFF#32) info).map fun n => info.take n
  else none

end Sys2Proof.Machine
end

