-- ==== Sys2Proof/Machine/Settings.lean ====
section
/-! DEFINITION. The settings of 14 Table 14.2 and 15 Table 15.3: for each name its default, its range and value form, and
its marks. A live or staged value is an integer in the setting's own unit, or none for OFF and "not given". Units: ms for the
period, 0.1 ms for the quiet window, ns for the transmit lead, Hz for the SPI clock, mHz for mains.freq, mV and 0.1 °C and
mA for the limits, 0.1 V for the bus thresholds, hours for the inventory schedule; a keyword stands by its place in the
setting's list of words. -/

namespace Sys2Proof

/-- How a setting's value is written and bounded. -/
inductive SForm where
  | count (lo hi : Int)                         -- a plain count (13 R385)
  | quantity (dim : Nat) (res : Nat) (lo hi : Int)  -- a quantity: dimension, resolution, bounds in units of the resolution
  | words (ws : List Kw)
  | offOr (f : SForm)                           -- the keyword OFF, or the form
  | noneOr (f : SForm)                          -- the keyword NONE, or the form
  | hz                                          -- 50Hz or 60Hz
  | never                                       -- takes no value
  deriving DecidableEq, Repr

/-- Dimension and size of a unit: 0 time in ns, 1 voltage in µV, 2 current in µA, 3 resistance in mΩ, 4 frequency in mHz,
5 temperature in m°C (13 Table 13.17). -/
def UnitName.dimScale : UnitName → Option (Nat × Nat)
  | .h => some (0, 3600000000000) | .s => some (0, 1000000000) | .ms => some (0, 1000000) | .us => some (0, 1000)
  | .V => some (1, 1000000) | .mV => some (1, 1000) | .A => some (2, 1000000) | .mA => some (2, 1000)
  | .mOhm => some (3, 1) | .Hz => some (4, 1000) | .mHz => some (4, 1) | .kHz => some (4, 1000000)
  | .MHz => some (4, 1000000000) | .C => some (5, 1000) | .other => none

/-- A quantity as a whole number of steps of `res`, when its dimension is `dim` and it is an exact multiple. -/
def qtyValue (dim res : Nat) : Val → Option Int
  | .qty num dec u =>
    match UnitName.dimScale u with
    | some (d, k) => if d = dim ∧ res ≠ 0 ∧ (num * (k : Int)) % ((10 ^ dec * res : Nat) : Int) = 0 then some (num * (k : Int) / ((10 ^ dec * res : Nat) : Int)) else none
    | none => none
  | _ => none

/-- The value a form reads from a written value: none where the form, resolution or range does not suit (RANGE). -/
def SForm.read : SForm → Val → Option (Option Int)
  | .count lo hi, .int v => if lo ≤ v ∧ v ≤ hi then some (some v) else none
  | .count _ _, _ => none
  | .quantity d r lo hi, v => match qtyValue d r v with
    | some x => if lo ≤ x ∧ x ≤ hi then some (some x) else none
    | none => none
  | .words ws, .kw k => if k ∈ ws then some (some (ws.idxOf k : Int)) else none
  | .words _, _ => none
  | .offOr f, v => match v with
    | .kw .off => some none
    | w => f.read w
  | .noneOr f, v => match v with
    | .kw .none => some none
    | w => f.read w
  | .hz, v => match qtyValue 4 1000 v with
    | some x => if x = 50 ∨ x = 60 then some (some x) else none
    | none => none
  | .never, _ => none

/-- The form and range of each setting (14 Table 14.2, R492; 15 Table 15.3; the tables they name). -/
def SName.form : SName → SForm
  | .stampPeriod => .quantity 0 1000000 2 50
  | .stampEconomy => .words [.off, .on]
  | .schedSlice => .count 100000 5000000
  | .patronBalance _ => .words [.off, .on]
  | .tensorMode _ _ => .words [.fixed, .running]
  | .tensorWindow _ _ => .count 4 64
  | .tensorKlo _ _ => .count 0 7
  | .tensorKhi _ _ => .count 0 7
  | .tensorTheta _ _ => .count 0 65535
  | .tensorLimit _ _ => .count 1 255
  | .layerClamp _ _ => .count 10 12
  | .streamShift _ _ => .count 0 7
  | .driftMonitor => .words [.off, .on]
  | .driftThreshold => .count 1 4096
  | .refitB1 => .count 1 8
  | .refitB2 => .count 1 12
  | .refitLambda => .count 0 16
  | .refitEps => .count 0 47
  | .refitWindows => .count 1 64
  | .refitLength => .count 16 256
  | .refitPublish => .count 64 65536
  | .refitSeed => .count 0 (2 ^ 64 - 1)
  | .divTheta .res => .count 1 65535
  | .divTheta _ => .count 1 32768
  | .divN _ => .count 1 1000
  | .advisory _ => .count 0 255
  | .mainsN => .count 1 1000
  | .mainsSag => .count 0 2000
  | .mainsSwell => .count 0 2000
  | .mainsInterrupt => .count 0 2000
  | .mainsFreq => .quantity 4 1 1 5000
  | .mainsHarmonic => .count 0 1000
  | .mainsUnbalance => .count 0 1000
  | .mainsTransient => .count 1000 3000
  | .rolloutTheta => .count 1 65535
  | .limitValue _ .ov => .offOr (.quantity 1 1000 0 6553)
  | .limitValue _ .uv => .offOr (.quantity 1 1000 0 6553)
  | .limitValue _ .ot => .offOr (.quantity 5 100 (-400) 1250)
  | .limitValue _ .ut => .offOr (.quantity 5 100 (-400) 1250)
  | .limitValue _ .occ => .offOr (.quantity 2 1000 1 (2 ^ 63))
  | .limitValue _ .ocd => .offOr (.quantity 2 1000 1 (2 ^ 63))
  | .limitValue _ .cd => .offOr (.quantity 2 1000 1 (2 ^ 63))
  | .limitValue _ .ns => .never
  | .limitDebounce _ .ov => .count 1 8
  | .limitDebounce _ .uv => .count 1 8
  | .limitDebounce _ .ot => .count 1 8
  | .limitDebounce _ .ut => .count 1 8
  | .limitDebounce _ _ => .count 1 16
  | .limitHyst _ .ov => .quantity 1 1000 0 500
  | .limitHyst _ .uv => .quantity 1 1000 0 500
  | .limitHyst _ .ot => .quantity 5 100 0 200
  | .limitHyst _ .ut => .quantity 5 100 0 200
  | .limitHyst _ _ => .never
  | .nodeTwinset _ => .count 0 15
  | .nodeCurrent _ => .words [.a, .b, .mean]
  | .packIshift => .count 0 8
  | .packIscale => .noneOr (.count 1 4294967295)
  | .nodeTfit _ => .count 0 15
  | .nodeWr _ _ => .noneOr (.quantity 3 1 0 65535)
  | .nodeRb _ => .noneOr (.count 1 65535)
  | .cellSensors _ _ => .noneOr (.count 0 15)
  | .packWpre => .quantity 0 100000 0 20
  | .packWpost => .quantity 0 100000 0 5
  | .packBreakres => .count 20 10000
  | .packSumtol => .count 50 5000
  | .packBreakdeb => .count 1 16
  | .packOwauto => .words [.off, .on]
  | .packOwthresh => .count 500 20000
  | .packAccretry => .count 4 64
  | .airMode => .words [.four, .pairs, .auto]
  | .airPorts => .count 1 15
  | .airCmap => .count 1 511
  | .airHopkey => .count 0 (2 ^ 64 - 1)
  | .airSpiclk => .quantity 4 1000 1000000 20000000
  | .airTxlead => .quantity 0 1 2000 20000
  | .airLevel => .count 128 1024
  | .portTxlat _ => .count 0 96
  | .portRxlat _ => .count 0 96
  | .airRetries => .count 0 3
  | .airDownlink => .count 1 8
  | .airRepeats => .count 0 16
  | .airRxdivTheta => .count 1 64
  | .airRxdivN => .count 1 1000
  | .spineSecure => .words [.off, .on]
  | .inventorySchedule => .offOr (.quantity 0 3600000000000 1 8760)
  | .powerBo => .quantity 1 100000 120 400
  | .powerRestart => .quantity 1 100000 125 450
  | .powerMainsbo => .offOr (.count 1 20)
  | .senseAMode => .words [.shunt, .hall]
  | .senseBMode => .words [.shunt, .hall]
  | .mainsNominal => .count 1 32767
  | .mainsHz => .hz
  | .mainsShift => .count 0 8
  | .pairSide => .never
  | .unknown _ => .never

/-- The default of each setting; none where it is OFF, not given, or the folio's value. -/
def SName.default : SName → Option Int
  | .stampPeriod => some 10 | .stampEconomy => some 0 | .schedSlice => some 1000000 | .patronBalance _ => some 1
  | .layerClamp _ _ => some 10 | .driftMonitor => some 1 | .driftThreshold => some 16
  | .refitB1 => some 3 | .refitB2 => some 7 | .refitLambda => some 4 | .refitEps => some 0 | .refitWindows => some 8
  | .refitLength => some 64 | .refitPublish => some 1024 | .refitSeed => some 0
  | .divTheta .soc => some 1311 | .divTheta .cap => some 983 | .divTheta .res => some 410 | .divN _ => some 50
  | .advisory _ => some 192 | .mainsN => some 10 | .mainsSag => some 900 | .mainsSwell => some 1100
  | .mainsInterrupt => some 100 | .mainsFreq => some 500 | .mainsHarmonic => some 80 | .mainsUnbalance => some 20
  | .mainsTransient => some 1500 | .rolloutTheta => some 300
  | .limitValue _ .ov => some 3650 | .limitValue _ .uv => some 2500 | .limitValue _ .ot => some 600
  | .limitValue _ .ut => some 0
  | .limitDebounce _ .cd => some 8 | .limitDebounce _ .ns => some 3 | .limitDebounce _ _ => some 2
  | .limitHyst _ .ov => some 50 | .limitHyst _ .uv => some 50 | .limitHyst _ .ot => some 50 | .limitHyst _ .ut => some 50
  | .nodeTwinset _ => some 0 | .nodeCurrent _ => some 2 | .packIshift => some 0 | .nodeTfit _ => some 15
  | .packWpre => some 20 | .packWpost => some 5 | .packBreakres => some 150 | .packSumtol => some 300
  | .packBreakdeb => some 2 | .packOwauto => some 1 | .packOwthresh => some 2000 | .packAccretry => some 16
  | .airMode => some 2 | .airPorts => some 15 | .airCmap => some 511 | .airHopkey => some 0 | .airSpiclk => some 10000000
  | .airTxlead => some 10000 | .airLevel => some 512 | .portTxlat _ => some 0 | .portRxlat _ => some 0
  | .airRetries => some 3 | .airDownlink => some 3 | .airRepeats => some 8 | .airRxdivTheta => some 2
  | .airRxdivN => some 20 | .spineSecure => some 0 | .powerBo => some 165 | .powerRestart => some 180
  | .senseAMode => some 0 | .senseBMode => some 0 | .mainsNominal => some 8192 | .mainsHz => some 50 | .mainsShift => some 8
  | _ => none

/-- Whether R28 reserves the setting to the primary (the last column of Table 14.2; R427). -/
def SName.primaryOnly : SName → Bool
  | .schedSlice | .rolloutTheta | .inventorySchedule | .pairSide | .unknown _ => false
  | .patronBalance p | .tensorMode p _ | .tensorWindow p _ | .tensorKlo p _ | .tensorKhi p _ | .tensorTheta p _
  | .tensorLimit p _ | .layerClamp p _ => decide (p < 4)
  | _ => true

/-- Whether setting it is an expert form (the (x) marks of Table 14.2). -/
def SName.expert : SName → Bool
  | .tensorMode _ _ | .tensorWindow _ _ | .tensorKlo _ _ | .tensorKhi _ _ | .tensorTheta _ _ | .tensorLimit _ _
  | .streamShift _ _ | .packWpre | .packWpost => true
  | _ => false

/-- Names that `SET` answers UNKNOWN: no setting of the table, or one that takes no value. -/
def SName.unsettable : SName → Bool
  | .pairSide | .unknown _ | .limitValue _ .ns | .limitHyst _ .ns | .limitHyst _ .occ | .limitHyst _ .ocd
  | .limitHyst _ .cd => true
  | _ => false

/-- The last value given for a name in a list of settings. -/
def settingIn (n : SName) (xs : List (SName × Option Int)) : Option (Option Int) := (xs.find? fun p => p.1 == n).map (·.2)

/-- A list of settings with one more value: a later value of a name replaces the earlier one. -/
def putSetting (n : SName) (v : Option Int) (xs : List (SName × Option Int)) : List (SName × Option Int) :=
  (n, v) :: xs.filter fun p => p.1 != n

/-- A list of settings laid over another. -/
def mergeSettings (new old : List (SName × Option Int)) : List (SName × Option Int) :=
  new.foldr (fun p acc => putSetting p.1 p.2 acc) old

end Sys2Proof
end

