-- ==== Sys2Proof/Config.lean ====
section
/-! DEFINITION. What one part or one firmware release fixes and the spec leaves open. A constant without a body is a free
value: nothing in Lean can see it, and a claim holds whatever it is (notes/assumptions names each). The fuses below are the
model's choice of a part: a DEPLOYED EMS-440 with key slot 0 programmed. -/

namespace Sys2Proof.Config

/-- The fuses of the part (16 Table 16.8): LIFE 0b0111 (DEPLOYED), ENMASK 0xF, KEYV 0x1. DESIGN CHOICE (log 2). -/
def fuses : BitVec 1344 := 0x1F07#1344

/-- Firmware release (13 Table 13.4 FWVER). -/
opaque fwver : BitVec 32
/-- Stepping, bits 31:28 of IDCODE (16 R462). -/
opaque stepping : BitVec 4
/-- Manufacturer code, bits 11:1 of IDCODE (16 R462). -/
opaque manufacturer : BitVec 11

/-- Free 32-bit values: the physical random source of the spine's session value (12 R347, 08 R219). -/
opaque freeWord : Nat → BitVec 32
/-- Free values where the spec states no value for some operands. -/
opaque freeInt : Nat → Int

/-! The cell twin (09 R242, R243): the firmware release fixes its number formats, order of operations and roundings, and none is given. A parameter set is
the 384-byte body of 14 Table 14.5, a state the 96 bytes of R243. -/

/-- Fraction bits of a state of the twin beyond its record unit. -/
opaque twinFrac (state : Nat) : Fin 16
/-- Whether a quotient that is not whole is rounded up: the place in the arithmetic, numerator and denominator. -/
opaque roundsUp (place : Nat) (num : Int) (den : Nat) : Bool
/-- Fraction bits of an entry of its covariance beyond the product of the two states' record units. -/
opaque twinCovFrac (i j : Nat) : Fin 32
/-- An item of a parameter set beyond its table's points: its place in the set, and where. -/
opaque twinBeyond (item : Nat) (set : Bytes) (x : Int) : Int
/-- Whether the OCV table of charge serves a current of 0. -/
opaque twinRestCharges : Bool
/-- The current scale of the twin in nA a code while pack.iscale is not given. -/
opaque twinScale : Nat

/-! The mains twin (09 R252): what it measures from a stamp's samples where the spec gives a unit and no method. -/

/-- Frequency deviation in mHz, and its rate of change in mHz/s, from the samples of a phase and the nominal frequency. -/
opaque mainsFreqDev (samples : List Int) (hz : Int) : Int
opaque mainsFreqRate (samples : List Int) (hz : Int) : Int
/-- Total harmonic distortion of a phase, and the unbalance of three, in 2^−12 and referred to mains.nominal (15 R426). -/
opaque mainsThd (nominal : Nat) (samples : List Int) : Nat
opaque mainsUnbalance (nominal : Nat) (a b c : List Int) : Nat

/-- The codeword of the normalised min-sum decoder (10 R296, R297), whose schedule and roundings the spec does not give: information blocks of the code,
LLRs of 8 bits, positive for a 0, and the factors of the iterations in 1/64. -/
opaque minSum (k : Nat) (llrs factors : List Int) : BitVec 1296
/-- What the pins hold at a scan capture, and what FUSEPROG shifts out: the capture's number and the bit's place (16 R462). -/
opaque scanBit : Nat → Nat → Bool

/-- Readings that replies show and the spec gives no value of: which reading, and of what or when. -/
opaque reading : Nat → Nat → Nat

end Sys2Proof.Config
end

