-- ==== Sys2Proof/Machine/State.lean ====
section
/-! DEFINITION. The state of the hub as plain data: everything the spec gives it, grouped by the part of the hub that
holds it, then the queue of waiting commands and two fields of the model's own (the time, and the log of what has left
the hub). Reset values stand beside the fields as defaults; notes/assumptions says which of them the spec gives. -/

namespace Sys2Proof.Machine

/-- An addressed store: cells in strictly rising address order, none equal to what an unlisted address reads as. -/
abbrev Mem := List Host.Cell

/-! ## Power (15 R419..R437) -/

/-- What the porter waits for between shutdown and restart. -/
inductive PorterWait where
  | none | busCheck | busRestart | railRestart
  deriving DecidableEq, Repr

/-- How the hub came up (13 R394). -/
inductive StartKind where
  | cold | restore | reset
  deriving DecidableEq, Repr

/-- Rails, the porter's sequence and brown-out (15 R419..R421, R429, R430, R437). -/
structure Power where
  porter : Bool := false            -- VDD_PORTER at or above its power-on threshold
  origin : Tick := 0                -- t = 0 of the timeline, shifted by every wait (R420, R437)
  waiting : PorterWait := .none
  waitFrom : Tick := 0
  bken : BitVec 5 := 0              -- BKEN0..BKEN4
  good : BitVec 5 := 0              -- rails that have reported good
  enabledAt : Tick := 0             -- instant of the last enable
  offTimes : List (Nat × Tick) := []  -- the enables a shutdown removes, each with its instant
  shutdowns : Nat := 0              -- rail shutdowns counted since the last SAVE (16 RAILFAULT)
  railFault : Option Nat := none    -- rail whose fault RAILFAULT is still to name
  rstLow : Option Tick := none      -- RST_N held low since
  brownAt : Option Tick := none     -- brown-out declared at
  stopped : Bool := false           -- R430 steps 1 to 3 done: stacks stopped, slot 1 parked, stacks gated
  quiet : Bool := false             -- R430 step 5: transmits nothing, twins stopped
  written : Bool := false           -- the parts of the snapshot but its header are written
  start : StartKind := .cold
  booted : Bool := false            -- the steward has booted
  bootRead : Bool := false          -- the boot record has been read
  deriving DecidableEq, Repr

/-! ## Role and stamp (01, 02, 15) -/

/-- ROLE of 12 Table 12.5. -/
inductive Role where
  | alone | primary | standby | yielding
  deriving DecidableEq, Repr

/-- The hub's clock of record (02 R24..R36). -/
structure StampSt where
  started : Bool := false
  number : BitVec 48 := 0
  run : BitVec 32 := 0
  t0 : Tick := 0                    -- instant of the current boundary
  period : Nat := 10                -- live period, ms
  economy : Bool := false           -- clock of the current stamp
  framed : Bool := false            -- the stamp's estimate frame has been written
  adjust : Int := 0                 -- a standby's correction of its next boundary, in ticks (12 R349)
  deriving DecidableEq, Repr

/-- The hub's role and start-up arbitration (15 R439, 12 R356). -/
structure RoleSt where
  role : Role := .alone
  decided : Bool := false
  unaligned : Bool := false         -- standby without an UP spine
  listenTo : Option Tick := none    -- start-up listening ends at
  heardAt : Option Tick := none     -- last beacon of the partner heard at
  yieldAt : Option (BitVec 48) := none  -- takeover boundary expected after ROLE YIELD
  lostAt : Option Tick := none      -- standby: its primary was declared lost at
  takeoverAt : Option Tick := none  -- standby: its takeover boundary
  early : Bool := false             -- that boundary is an early one (R356)
  takeoverBeacon : Bool := false    -- the next beacon carries TAKEOVER = 1
  informed : Bool := false          -- a standby has its primary's live settings, the period among them (02 R28)
  adopted : Bool := false           -- a standby has taken its primary's run and numbering (02 R33)
  target : Option (BitVec 32 × BitVec 48) := none  -- the run and stamp that its next boundary adopts
  failing : Bool := false           -- FAILING is set in the heartbeats
  silentFrom : Option (BitVec 48) := none  -- side B after R359: sends nothing from this stamp
  lastFramed : BitVec 48 := 0       -- last stamp whose estimate frame the failed primary is known to have completed
  deriving DecidableEq, Repr

/-! ## Streams (05) -/

/-- The places of 05 Table 5.1. -/
inductive Place where
  | free | parked | resident | exported
  deriving DecidableEq, Repr

/-- A stream's image: the fields of its record (05 Table 5.2), its calibration rings of 64 needs (R104) and its state
arrays, layer by layer, element c × N + n (R121). -/
structure Image where
  portable : Bool := false
  live : Bool := false
  sid : Nat := 0
  patron : Nat := 0
  gen : BitVec 32 := 0
  layout : BitVec 32 := 0
  step : BitVec 48 := 0
  pos : BitVec 48 := 0
  shifts : List Nat := []
  seed : BitVec 64 := 0
  rings : List (List Nat) := []
  dims : List (Nat × Nat) := []
  state : List (List Int) := []
  farShifts : Nat := 0              -- the bits of SHIFTS beyond the folio's state layers, as a card brought them (05 R143)
  tail : Bytes := []                -- the bytes from the end of the rings to byte 1,023, as a card brought them; none: zeros
  deriving DecidableEq, Repr

/-- Elements produced and clipped, per tensor and stream (04 R107). -/
structure ClipCount where
  tensor : Nat
  sid : Nat
  produced : Nat
  clipped : Nat
  deriving DecidableEq, Repr

/-- A live step that a standby has run: the image it leaves, its head and input rows, its entry in the step log, and its counts. -/
structure Unsealed where
  img : Image
  head : List Int
  row : List Int
  sample : BitVec 48
  features : BitVec 48
  reset : Bool
  rerun : Bool
  clips : List ClipCount := []      -- its elements, which count when it commits (04 R107)
  deriving DecidableEq, Repr

/-- A stream identifier (05 R119, R144): its place, generation, ledger image, and while resident its committed and
working images with the stack and HOME. -/
structure StreamSt where
  sid : Nat
  place : Place := .free
  gen : BitVec 32 := 0
  slot : Nat := 0
  pages : Nat := 0
  ledger : Image := {}
  committed : Image := {}
  work : Image := {}
  wide : List (List Int) := []      -- 32-bit state of a rebuild (06 R169, W32 = 1)
  stack : Nat := 0
  home : Nat := 0
  aligned : Bool := false           -- standby: aligned by a card (12 R354)
  held : Bool := false              -- a rollout's chosen identifier, or a record waiting to be restored
  unsealed : Option Unsealed := none  -- standby: a step it has run and no seal has named yet (12 R352)
  rebuilt : Option (List (List Int)) := none  -- standby: a rebuild it has run and no seal has named yet
  damaged : Option Nat := none      -- the ledger page of its image that holds an uncorrectable error (16 R454)
  shiftTo : List (Nat × Nat) := []  -- live state shifts that its host has set, by layer (05 R126)
  deriving DecidableEq, Repr

/-- A request on streams that waits for the end of an admitted charge or for room on ring 4 (05 R146, 13 R371). -/
inductive StreamAct where
  | free | card (copy : Bool) (tag : Nat)
  | sent (copy : Bool) (gen step : Nat)  -- its CARD frame waits for room on ring 4
  | imported (slot : Nat) (live : Bool) (body : Bytes)
  | created (slot : Nat) (portable live : Bool) (seed : BitVec 64)
  deriving DecidableEq, Repr

structure StreamWait where
  sid : Nat
  act : StreamAct
  ses : Sess
  lineNo : Nat
  deriving DecidableEq, Repr

/-- One drift monitor (05 R148..R151): the watched triple, the monitor card, the shadow, what its stamp showed, and a
rebuild that is queued. -/
structure Monitor where
  sid : Nat := 0
  layer : Nat := 0
  chan : Nat := 0
  valid : Bool := false
  card : Option Image := none
  shadow : List Int := []
  shadowed : Nat := 0
  dmax : Nat := 0
  evented : Bool := false
  rebuildDue : Bool := false
  rebuiltDwell : Bool := false
  rebuilt : Bool := false
  dropped : Option Bool := none     -- some why of 13 Table 13.14
  deriving DecidableEq, Repr

/-- One step of the input log (05 R152). -/
structure LoggedStep where
  sid : Nat
  charge : Nat := 0                 -- the charge that steps it
  inputs : List (Nat × Bytes) := [] -- the bytes of that charge's input blocks: rows, tags and draws
  draws : List (Nat × Bytes) := []  -- the draws of the step itself, site by site (08 R231)
  shifts : List Nat := []           -- the state shifts under which it ran,
  ran : BitVec 48 := 0              -- and the stamp in which it has committed
  row : List Int
  sample : BitVec 48
  features : BitVec 48
  reset : Bool
  rerun : Bool
  committed : Bool
  deriving DecidableEq, Repr

/-! ## Charges, descriptors and stacks (02, 03, 06, 07) -/

/-- Where a charge stands. -/
inductive Phase where
  | queued | admitted
  deriving DecidableEq, Repr

/-- The recurrence operands a SCAN kept for the drift shadow (06 R176): per element α, then β, x, the reset bit and the
alignments. -/
structure KeptScan where
  row : Nat
  layer : Nat
  chan : Nat
  alphas : List Int
  betas : List Int
  x : Int
  reset : Bool
  aal : Nat
  h : List Int
  hNew : List Int
  rescale : Int := 0                 -- the state shift's change at this step (05 R126)
  deriving DecidableEq, Repr

/-- A submitted charge. -/
structure ChargeSt where
  id : Nat
  tag : BitVec 32 := 0
  slot : Nat
  stack : Nat
  kind : ChargeKind
  descs : List (BitVec 512)
  rows : List (BitVec 64)
  prereqs : List Nat := []
  inputs : List (Nat × Bytes) := []
  cost : Nat := 0
  unrun : Nat := 0                  -- cost of its descriptors not yet run
  phase : Phase := .queued
  eligible : BitVec 48 := 0         -- stamp in which it became eligible
  sub : BitVec 48 := 0              -- stamp of its submission
  started : Bool := false
  moved : List Nat := []            -- rows that completed MOVED
  needs : List (Nat × Nat × Nat) := []  -- row, ring, need recorded
  clips : List ClipCount := []
  kept : List KeptScan := []
  drift : List (Nat × Nat) := []    -- sid, drift
  shadow : List Int := []           -- the shadow after its step, which the commit keeps
  abandoned : Bool := false         -- the parks left of an abandoned charge (06 R186)
  reserved : Bool := false          -- admitted against a reservation
  blocks : List Nat := []           -- the placement its addresses are written for: carrel blocks,
  layers : List (Nat × List Nat) := []  -- and the regions of each layer
  stamps : List (Nat × BitVec 48 × BitVec 48) := []  -- a step charge: sid, sample stamp, feature stamp
  rerun : Bool := false             -- requeued after an abandonment, or carried into a later stamp
  fed : Bool := false               -- its inputs stand in its blocks
  whole : Bool := false             -- what its inputs take from the state at its start is among them
  subAt : Tick := 0                 -- instant of its submission
  under : Option (BitVec 48) := none  -- the stamp whose settings it runs under, where it replays a sealed step (08 R233)
  redo : List Nat := []             -- rows committed before it was abandoned: their step gives its outputs again and nothing else (05 R134, 08 R218)
  before : List (Nat × Image) := []   -- of its committed rows, the image that the step has taken,
  counted : Bool := false           -- it ran to its last COMMIT before: its elements have been counted (04 R107)
  outs : Option Bytes := none       -- what it gives its request, as its last descriptor on the main engine left it (08 R227)
  tags : Nat := 0                   -- range-step tags in its input blocks
  committed : Bool := false         -- a COMMIT of it has taken effect
  done : List Nat := []             -- the rows that its COMMITs have committed
  headRows : List (List Int) := []  -- a rollout chunk: its head rows, time step by time step
  parkCost : Nat := 0               -- parks of its streams elsewhere that load balancing charges to it (07 R212)
  paidFor : Bool := false           -- a park of the hub's that such a charge pays for
  deriving DecidableEq, Repr

/-- A descriptor in a stack's queue. -/
structure QDesc where
  charge : Nat
  index : Nat
  bits : BitVec 512
  from0 : Tick := 0                 -- it starts no earlier: the scheduler acts on a completion 256 cycles later (08 R220)
  deriving DecidableEq, Repr

/-- What a descriptor that runs will leave beside carrel bytes: the needs, clip counts and operands kept for the shadow, the working
state of each stream that it steps (state layers, and 32-bit state in the rebuild form), its drift and shadow, and what its
accumulator entries hold. -/
structure RunEnd where
  needs : List (Nat × Nat × Nat) := []
  clips : List ClipCount := []
  kept : List KeptScan := []
  works : List (Nat × List Nat × List (List Int) × List (List Int)) := []  -- sid, shifts, state, 32-bit state
  shadow : Option (Nat × Nat × List Int) := none  -- sid, drift, the shadow after the step
  heads : List (List Int) := []     -- head rows of a rollout chunk
  acc : List (Nat × BitVec 44) := []
  deriving DecidableEq, Repr

/-- A descriptor running on an engine. -/
structure RunSt where
  eng : Engine
  charge : Nat
  index : Nat
  bits : BitVec 512
  start : Tick                      -- instant from which `left` counts: its start, its last resume, or the last change of the archive port's sharing
  began : Tick := 0                 -- instant of its start
  resumed : Tick := 0               -- and of its last resume
  portFirst : Bool := false         -- a stream-in that shares its port: the first block is its own (03 R73)
  ceded : Bool := false             -- a stream-in that has waited for the other's first block in an earlier sharing
  stopAt : Option Nat := none       -- cycles into its cost at which a stop request lets it halt
  units : List (List (Nat × Bytes)) := []  -- the carrel writes still to come, in the units that its stop points divide it into
  fx : RunEnd := {}
  cost : Nat
  left : Nat                        -- cycles it still needs from there
  status : BitVec 8 := 0
  detail : BitVec 32 := 0
  drift : BitVec 32 := 0
  stoppedBy : Option Nat := none    -- the slot whose charge has issued a stop request to it
  past : List (Nat × Nat) := []     -- charge and index of the earlier descriptors it was taken ahead of
  cyc : Nat := 12                   -- ticks per cycle under which it runs (02 R36)
  deriving DecidableEq, Repr

/-- A completion record (06 Table 6.13). -/
structure Completion where
  op : BitVec 8
  index : Nat
  patron : Nat
  stack : Nat
  fin : Bool
  status : BitVec 8
  tag : BitVec 32
  stamp : BitVec 48
  nmoved : Nat
  cycles : Nat
  drift : BitVec 32
  detail : BitVec 32
  deriving DecidableEq, Repr

/-- The states of a share of a stack (07 Table 7.3). -/
inductive ShareSt where
  | filling | lent | draining
  deriving DecidableEq, Repr

/-- One patron's share of a stack: its regions, carrel blocks, claim, and the regions that hold each layer. -/
structure Share where
  slot : Nat
  st : ShareSt
  regions : List Nat
  blocks : List Nat
  claim : List Nat := []
  layers : List (Nat × List Nat) := []
  ready : Bool := false
  atReady : Bool := false           -- a rescue's share becomes LENT at READY (16 R449)
  doneAt : Tick := 0                -- its drain, or its wake and zero-fill, ends at
  fid : Option (BitVec 32) := none  -- a promoted folio that becomes the slot's once the share is LENT (09 R258)
  deriving DecidableEq, Repr

/-- An inventory under way (16 R457, 15 R422). -/
structure InvRun where
  start : Tick
  startup : Bool
  deriving DecidableEq, Repr

/-- The results of 16 Table 16.4. -/
inductive InvResult where
  | pass | repaired | shelves | annex | stack | aborted
  deriving DecidableEq, Repr

/-- An open digest context (06 R177): the bytes absorbed since INIT. -/
structure Ctx where
  slot : Nat
  ctx : Nat
  charge : Nat
  absorbed : Bytes
  deriving DecidableEq, Repr

/-- Blocks saved by a preemption (07 R204). -/
structure SavedBlock where
  slot : Nat
  block : Nat
  cause : Nat                        -- the preempting slot
  spill : Bool
  data : Bytes
  place : Nat := 0                   -- the reserve block that holds it, or the first of its 8 spill pages
  bad : Bool := false                -- a word of it cannot be read (03 R69)
  deriving DecidableEq, Repr

/-- Slip-skew and check-bit faults of one layer in the stamps it ran (04 R112). -/
structure SkewCount where
  slot : Nat
  layer : Nat
  stamp : BitVec 48
  count : Nat
  ran : Option (BitVec 48) := none   -- first stamp since the fault in which the layer ran without one
  deriving DecidableEq, Repr

/-- The turn of a patron among those of its class on a stack (07 R208): the cycles for which its ended descriptors have occupied the
main engine in the slice. -/
structure SliceSt where
  cls : Nat
  slot : Nat
  used : Nat := 0
  deriving DecidableEq, Repr

/-- A preemption in force (07 R203): the preempting slot and its charge, and whether the stopped descriptors have halted and been saved. -/
structure StopSt where
  slot : Nat
  charge : Nat
  saved : Bool := false
  at0 : Tick := 0                    -- the request, or the latest end of a descriptor that it let run on
  deriving DecidableEq, Repr

/-- What the scheduler does on a stack beside starts and ends: the stop request of a slot (07 R203), the resume of what it stopped, and the end of a
class's slice (R208). -/
inductive Turn where
  | preempt (slot : Nat)
  | resume
  | slice (cls : Nat)
  deriving DecidableEq, Repr

/-- One stack, by logical number (03, 06, 07, 16). -/
structure StackSt where
  present : Bool := false
  phys : Nat := 0
  shelves : BitVec 32 := 0xFFFFFFFF
  annexOk : Bool := true
  gated : Bool := true
  weeded : Bool := false
  faulty : Bool := false
  inv : Option InvRun := none
  invDue : Option (BitVec 48) := none    -- an accepted INVENTORY begins at this stamp
  lastInv : Option (BitVec 48 × InvResult) := none
  shares : List Share := []
  valid : BitVec 48 := 0                 -- region valid flags
  store : Mem := []                      -- weight store bytes
  tags : Mem := []                       -- 4-bit tag of each 64-byte line, by line number
  carrel : Mem := []
  invalid : List (Nat × Nat) := []       -- carrel ranges marked invalid by R110: address, length
  badWords : List Nat := []              -- weight-store words with an uncorrectable error
  queue : List QDesc := []
  running : List RunSt := []
  halted : List RunSt := []              -- descriptors stopped at their stop points (06 R181)
  ledgerUse : List (Nat × Bool) := []    -- streams whose pages this stamp's charges access; true: they write (03 R76)
  tested : Bool := false                 -- its start-up inventory has ended (15 R422)
  sum : Nat := 0                         -- S of 02 R39
  reserved0 : Nat := 0                   -- unused part of the class 0 reservation
  reserved1 : Nat := 0                   -- unused part of the class 1 reservation
  taken01 : Nat := 0                     -- admitted costs of classes 0 and 1 less R41 releases (07 R211)
  passDone : Bool := true
  overrun : Bool := false
  debts : List (Nat × Nat) := []         -- slot, cycles owed
  paying : List (Nat × Nat) := []        -- slot, debt that lowers its limit in this stamp
  overlap : Nat := 0
  overlapAt : Tick := 0
  ready : List (Engine × Nat × Nat × Tick) := []  -- the next descriptor of each engine that nothing holds back: charge, index, and since when
  turns : List (Turn × Tick) := []       -- what the scheduler is to do, and the instant from which nothing holds it back (08 R220)
  ctxs : List Ctx := []
  saved : List SavedBlock := []
  stops : List StopSt := []              -- preemptions in force, innermost first
  heldTo : Tick := 0                     -- no descriptor starts before this instant: wake, park, zero-fill, save, restore
  slices : List SliceSt := []            -- the slice of each class whose descriptors have run on the main engine in this stamp
  sliceCarry : List (Nat × Nat) := []    -- slot, cycles that shorten its next slice
  skews : List SkewCount := []
  acc : List (Nat × BitVec 44) := []     -- accumulator entries (03 R58): shelf × 128 + entry, in rising order; an unlisted entry holds 0
  softWords : List Nat := []             -- weight-store words with a single-bit error
  corrected : Nat := 0                   -- single-bit errors that reads of the weight store have corrected (03 R67)
  badCarrel : List Nat := []             -- 8-byte carrel words with an uncorrectable error (03 R69)
  faultTimes : List Tick := []
  deriving DecidableEq, Repr

/-- An accepted loan change that waits for its boundary (07 R197, R494). -/
structure LoanChange where
  begins : BitVec 48
  slot : Nat
  stack : Nat
  lend : Bool                      -- false: a release
  regions : Nat := 48
  blocks : Nat := 48
  claim : Nat := 0
  moveFrom : Option Nat := none    -- the stack that drains once this one is LENT (R200)
  begun : Bool := false
  fid : Option (BitVec 32) := none
  pages : Nat := 0                 -- ledger pages that come with it (R408)
  rescue : Bool := false           -- a rescue of 16 R449
  passing : Bool := false          -- its boundary has come and it waits for the drain of the patron before (R198)
  deriving DecidableEq, Repr

/-- Per-tensor calibration and clip figures of a patron (04 R107, R108). -/
structure TensorCnt where
  tensor : Nat
  sat : Nat := 0
  share : Nat := 0
  produced : Nat := 0
  clipped : Nat := 0
  byStream : List (Nat × Nat) := []
  deriving DecidableEq, Repr

/-- The counters of a service report (07 Table 7.6). -/
structure ServiceCtr where
  first : BitVec 48 := 0
  nstamps : Nat := 0
  admitted : Nat := 0
  solo : Nat := 0
  late : Nat := 0
  lateMax : Nat := 0
  busy : Nat := 0
  preempt : Nat := 0
  spilled : Nat := 0
  lost : Nat := 0
  rotaNodes : Nat := 0
  rota : Bool := false
  starved : Bool := false
  twinOnly : Nat := 0
  stale : Nat := 0
  debt : Nat := 0
  overlap : Nat := 0
  deriving DecidableEq, Repr

/-- One patron slot of the catalogue (07 Table 7.2). -/
structure Patron where
  slot : Nat
  folio : Option (BitVec 32) := none
  pages : Nat := 0
  since : BitVec 48 := 0
  monitor : Monitor := {}
  tensors : List TensorCnt := []
  ctr : ServiceCtr := {}
  latest : Option Bytes := none
  refusedAt : Option Tick := none    -- last folio-refusal event of the estimator (07 Table 7.5)
  mirror : Nat := 0                  -- standby: the stacks that its primary's forwarded changes give the slot, as a mask (16 R451)
  deriving DecidableEq, Repr

/-- An installed folio (14 R407, 16 R455). -/
structure FolioSt where
  info : FolioInfo
  damaged : Bool := false
  promoted : Bool := false
  badBlocks : List Nat := []         -- 256 KiB blocks of its stored form that the archive reads with an uncorrectable error
  lastBad : List Nat := []           -- those whose last read failed (R455)
  deriving DecidableEq, Repr

/-! ## Refit and requests (09) -/

/-- One weight group of the draft: scale, zero point bound data, codes, fractions, moments (09 R253, R256). -/
structure DraftGroup where
  layer : Nat
  row : Nat
  wmax : Nat
  codes : List Nat
  fracs : List Nat
  mCodes : List Int
  mExp : Nat
  vCodes : List Nat
  vExp : Nat
  gCodes : List Int := []            -- the gradients of its last update, as a G8 group (04 R114)
  gExp : Nat := 0
  deriving DecidableEq, Repr

/-- The draft (09 R253, R257). -/
structure Draft where
  parent : BitVec 32
  step : Nat := 0
  pub : Nat := 0
  groups : List DraftGroup := []
  published : List (List Nat) := []
  gradClips : Nat := 0
  pendingUpdate : Bool := false      -- a refit charge has committed, and its update has not
  grads : List (List Int) := []      -- the gradients that this charge has left, group by group (09 R255)
  checked : Nat := 0                 -- the step at which its publication was last tried
  fillDue : Bool := false            -- its published pages are streamed in at the next boundary
  deriving DecidableEq, Repr

/-- A promotion that waits for the standby (09 R259). -/
structure Promotion where
  pub : Nat
  slot : Nat
  since : Tick
  ses : Sess
  lineNo : Nat
  deriving DecidableEq, Repr

/-- Kinds and states of a request (14 Table 14.8). -/
inductive ReqKind where
  | rollout | regenerate | job
  deriving DecidableEq, Repr

inductive ReqState where
  | queued | running | done | cancelled | refused
  deriving DecidableEq, Repr

/-- One cell of a rollout (09 R263, Table 9.8). -/
structure RollCell where
  sid : Nat
  copy : Nat
  step0 : BitVec 48 := 0
  old : Bool := false
  chunks : Nat := 0
  points : List (Nat × Nat) := []
  vminL : Nat := 65535
  vmaxL : Nat := 0
  vminT : Nat := 65535
  vmaxT : Nat := 0
  socL : Nat := 0
  socT : Nat := 0
  xL : Option Nat := none
  xT : Option Nat := none
  twin : Option (BitVec 768) := none -- the twin's state at the end of the horizon
  twinVolts : List Nat := []         -- its voltage at each whole second of the horizon (01 R16)
  row : List Int := []               -- input row of the cell's last committed live step
  set : Nat := 0                     -- the twin parameter set of its node when the request began
  dvmax : Nat := 0
  steps : Nat := 0
  fin : Bool := false
  deriving DecidableEq, Repr

/-- A request (09 R260, 14 R409..R411). -/
structure Request where
  num : Nat
  slot : Nat
  kind : ReqKind
  state : ReqState := .queued
  begins : BitVec 48
  seed : BitVec 64 := 0
  segs : List Seg := []
  stepMs : Nat := 10
  interval : Nat := 100
  socLo : Nat := 0
  socHi : Nat := 32768
  toff : Int := 0
  vnom : Nat := 0
  cells : List RollCell := []
  chunks : Nat := 0
  next : Nat := 0                   -- chunks submitted (07 R209)
  kstep : Nat := 0                  -- the range step that a job's input frame states (04 R100)
  total : Nat := 0
  input : Bytes := []
  result : Bytes := []              -- a regeneration: tapped intermediates of the steps run so far
  copy : Option Nat := none
  card : Image := {}                -- a regeneration: the image that its card brought (08 R227)
  rows : Nat := 0                   -- rows of a job's TENSOR frame; none of a REQIN body
  wide : Bool := false              -- that frame's rows hold A16 codes (13 R383)
  sids : List Nat := []             -- a job: the streams that it steps, in ascending order
  pages : Nat := 0
  refusal : Option (BitVec 8 × Nat) := none
  deriving DecidableEq, Repr

/-! ## Estimator, twins and limits (09) -/

/-- One divergence comparison (09 R249). -/
structure DivSt where
  count : Nat := 0
  isOpen : Bool := false
  calm : Nat := 0
  deriving DecidableEq, Repr

/-- The learned fields of the last committed step of a cell (09 Table 9.3). -/
structure Learned where
  soc : Nat := 0
  spread : Nat := 0
  cap : Nat := 0
  res : Nat := 0
  faults : List Nat := [0, 0, 0, 0]
  forecast : Int := 0
  step : BitVec 48 := 0
  pos : BitVec 48 := 0
  seed : BitVec 64 := 0
  folio : BitVec 32 := 0
  sample : BitVec 48 := 0
  features : BitVec 48 := 0
  rerun : Bool := false              -- that step was a rerun (08 R226)
  deriving DecidableEq, Repr

/-- One cell: its assignment to a live stream, readings, spans, twin and divergences. -/
structure CellSt where
  shelf : Nat
  cell : Nat
  sid : Option Nat := none           -- its live stream (log 11)
  twin : Option (BitVec 768) := none
  volt : Nat := 0                    -- corrected voltage code of the last sample
  prevVolt : Option Nat := none      -- at the previous committed step
  prevStamp : BitVec 48 := 0         -- stamp of that step's sample
  residual : Int := 0
  bleedRaw : Bool := false
  ran : Bool := false                -- the twin has run for this stamp's sample
  stepped : Bool := false            -- the step of the stamp's own sample has committed
  learned : Learned := {}
  inputs : List Int := []            -- input row of the last committed live step
  extra : List Learned := []         -- reruns and carried steps committed since the last estimate frame, in step order
  divs : List DivSt := [{}, {}, {}]
  isStale : Bool := true
  compared : Bool := false           -- the stamp's learned step has been compared with the twin (09 R249)
  behind : Bool := false             -- a rerun or a carried step has committed in the stamp
  deriving DecidableEq, Repr

/-- One protective limit of one cell, node or channel (09 R245, R247). -/
structure LimSt where
  lim : Lim
  key : Nat                          -- shelfmark × 256 + cell; 0 for the current limits
  count : Nat := 0
  tripped : Bool := false
  seq : Nat := 0
  acked : Bool := false
  clear : Nat := 0
  deriving DecidableEq, Repr

/-- The half-rate rota (02 R48, 07 R211): the estimator's unused admissible cycles in each of the last 16 stamps, newest last,
and whether a node has left it in this stamp. -/
structure RotaSt where
  unused : List Nat := []
  gone : Bool := false
  starving : Bool := false           -- every node is in it and the demand still does not fit
  formed : Nat := 0                  -- the estimator batches that this stamp has numbered (07 R493)
  deriving DecidableEq, Repr

/-- Mains watch (09 R251, R252). -/
structure MainsSt where
  features : List Int := List.replicate 16 0
  stamp : BitVec 48 := 0
  used : List Int := List.replicate 16 0  -- the features that this stamp's estimator inputs take, committed by the stamp before (02 R39),
  usedStamp : BitVec 48 := 0         -- and the stamp in which they were committed
  committed : Bool := false
  passed : Bool := false             -- the stamp's mains pass has been submitted (09 R251)
  learned : Nat := 0
  twin : Nat := 0
  twinRow : List Int := []           -- the twin's channels 8 to 15 of the samples of the stamp before (09 R252)
  differ : Nat := 0
  agree : Nat := 0
  isOpen : Bool := false
  past : List (BitVec 48 × List Int) := []  -- features committed, with their stamps, newest first: a replay takes those that a step names
  halfRows : List (List Int) := []   -- A16 samples of the half-cycle of mains.hz that runs (15 R429),
  halfAcc : Nat := 0                 -- what has passed of it, in 1/16,000 of its length,
  low : Nat := 0                     -- and the half-cycles in a row in which every phase stood below mains.interrupt
  samples : List (List Int) := []    -- A16 samples of the current stamp, one list per instant
  last : List (List Int) := []       -- those of the stamp before
  deriving DecidableEq, Repr

/-- The codes of one millisecond of a stamp (15 R424, 12 R350). -/
structure MsBlock where
  stamp : BitVec 48
  index : Nat
  a : List Int
  b : List Int
  mains : List (List Int)
  deriving DecidableEq, Repr

/-- The front end (15 R424, R425): codes of the stamp, of the mark and of the millisecond. -/
structure Sense where
  lastConv : Option Tick := none     -- the instant of the last conversion
  fullMs : List MsBlock := []        -- milliseconds that have ended with their 64 codes, oldest first, until their means are formed
  markA : Int := 0
  markB : Int := 0
  sumA : Int := 0
  sumB : Int := 0
  count : Nat := 0
  msA : List Int := []
  msB : List Int := []
  msMains : List (List Int) := []
  msStamp : BitVec 48 := 0           -- stamp and number of the millisecond whose codes these are
  msIndex : Nat := 0
  lastMs : Option (List Int × List Int) := none
  stampA : Int := 0                  -- sums of the span that ended at the last mark
  stampB : Int := 0
  stampN : Nat := 0
  marked : Bool := false             -- the mark of this stamp has passed
  cums : List (BitVec 48 × Int × Int × Nat) := []  -- at each mark of the run: sums and count of its codes so far, newest first
  ocCount : List (Nat × Nat) := []
  deriving DecidableEq, Repr

/-! ## The air interface and the nodes (10, 11) -/

/-- One transceiver port (10 R266..R269, R294). -/
structure PortSt where
  fault : Option PortCause := none
  txFault : Bool := false
  silent : Nat := 0                  -- stamps without a detected burst while another port detected one
  heard : Bool := false              -- a node burst was detected in the stamp
  txFrom : Tick := 0                 -- IQx_TXEN is high from here,
  txTo : Tick := 0                   -- until here: the burst sent last (10 R269)
  tck : Bool := false                -- IQx_TCK is driven
  centre : Option Nat := none
  readback : Bytes := []
  restoreAt : List (BitVec 48) := []   -- stamps at whose boundary a PORT RESTORE returns it to service
  deriving DecidableEq, Repr

/-- A burst whose header decoded, and what became of its learned decode. -/
structure BurstSt where
  lch : Nat
  slot : Slot
  hdr : BitVec 48
  at0 : Tick
  submitted : Bool := false
  late : Bool := false
  fin : Bool := false                -- the learned side is final
  soft : List Int := []              -- what its decode charge wrote: 1,296 LLRs and 12 iteration factors (10 R296)
  done : Bool := false               -- its outcome is known
  payload : Option Bytes := none     -- standby: what it decoded, until the primary's acceptance is known (10 R300)
  outcome : Nat := 4                 -- and the outcome of its own receivers
  deriving DecidableEq, Repr

/-- A message to a node (11 Tables 11.9, 11.10a): type, the body after SEQ and SYNC, and its delivery. -/
structure Msg where
  shelf : Nat                        -- 0 for a broadcast
  mtype : Nat
  rest : Bytes                       -- body bytes from bit 16 on
  stop : Bool := false
  seq : Option Nat := none
  sync : Bool := false
  sends : Nat := 0
  sub : Nat := 0                     -- place in the order of submission, over all nodes
  at0 : Tick := 0                    -- its submission to a node
  lastStamp : Option (BitVec 48) := none
  noBleed : Bool := false
  reply : Option (Sess × Nat) := none
  deriving DecidableEq, Repr

/-- An open-wire test of a node that the hub awaits (11 R332). -/
structure OwTest where
  wire : Nat
  seq : Nat := 256                   -- the SEQ of its order; 256 until the order is placed
  left : Nat                         -- phases whose result is still to come
  hit : Bool := false                -- a phase found the wire open
  deriving DecidableEq, Repr

/-- A REPORT body, field by field (11 Table 11.7). -/
structure Report where
  volts : List Nat := []
  temps : List Int := []
  modtot : Nat := 0
  bleed : BitVec 16 := 0
  status : BitVec 16 := 0
  last : Nat := 0
  blast : Nat := 0
  invalid : BitVec 16 := 0
  deriving DecidableEq, Repr

/-- Suspicion or confirmation of a broken sense wire (11 R334..R336). -/
structure BreakSt where
  wire : Nat
  count : Nat := 0
  suspected : Bool := false
  confirmed : Bool := false
  calm : Nat := 0
  tested : Bool := false
  deriving DecidableEq, Repr

/-- The counters of a link record (10 Table 10.10). -/
structure LinkCtr where
  due : Nat := 0
  accepted : Nat := 0
  retried : Nat := 0
  learned : Nat := 0
  twin : Nat := 0
  snr : Nat := 0
  cfo : Int := 0
  toff : Int := 0
  late : Nat := 0
  deriving DecidableEq, Repr

/-- One accessioned node, keyed by shelfmark. -/
structure NodeSt where
  shelf : Nat
  nid : BitVec 64
  kind : BitVec 16 := 0
  fwver : BitVec 16 := 0
  tfitted : BitVec 4 := 0
  rbnom : BitVec 16 := 0
  report : Report := {}              -- as accepted, corrected where R331 applies
  corrected : Bool := false
  outcome : Nat := 6                 -- 13 Table 13.12
  fromRetry : Bool := false
  reported : Bool := false           -- a report was accepted in this stamp
  reportAt : Tick := 0               -- the instant of the last acceptance
  lost : Bool := false
  silent : Nat := 0
  seqNext : Nat := 1
  syncNext : Bool := false
  due : Bool := false                -- its uplink slot is in this stamp's frame
  unacked : List Msg := []
  queue : List Msg := []
  blast : Nat := 0
  follows : List Msg := []           -- broadcasts that its next accepted report is to confirm (11 R326)
  owt : List OwTest := []            -- its pending open-wire tests
  breaks : List BreakSt := []
  sumCount : Nat := 0
  sumRaised : Bool := false          -- the measurement fault of the present run of sum errors has been raised
  balance : List (Nat × Tick) := []  -- cell, end of its ordered bleeding
  wpre : Nat := 20
  wpost : Nat := 5
  tfit : Nat := 15
  rota : Bool := false
  noBleed : Bool := false            -- its last balancing order has no bleed time (02 R30)
  link : LinkCtr := {}
  latest : Option Bytes := none
  deriving DecidableEq, Repr

/-- The stages of accession (11 R309..R318, 15 R441). -/
inductive AccPhase where
  | idle                             -- before the first accession
  | wakeDue                          -- the wake pulse goes out at the next boundary
  | waking                           -- the wake pulse went out at the last boundary
  | releasing (left : Nat)           -- re-accession: RELEASE beacons left
  | lowering                         -- re-accession: BTN_OUT held low
  | running
  | ended
  deriving DecidableEq, Repr

/-- Accession (11 R311..R317). -/
structure Acc where
  phase : AccPhase := .idle
  due : Option (BitVec 48) := none   -- first RELEASE beacon of an accepted ACCESSION
  pulse : Option Tick := none        -- a wake pulse sent then has not come back yet
  first : BitVec 48 := 0             -- stamp a; of an accession that has ended, the first stamp after it
  slotG : Nat := 0                   -- slots begun
  slotJ : Nat := 0                   -- slots begun in this stamp
  sampled : Bool := false            -- BTN_SENSE has been sampled in the current slot
  offer : Nat := 0
  confirm : Nat := 0
  cid : BitVec 64 := 0
  attempt : Nat := 0
  reply : Option (BitVec 256) := none  -- NODEINFO of the matching reply of the current slot
  confirmed : List (Nat × BitVec 256) := []
  endDue : Bool := false             -- accession has ended in this stamp
  btnOut : Bool := false
  deriving DecidableEq, Repr

/-- The receiver's divergence count of one logical channel (10 R299). -/
structure RxDiv where
  twins : Nat := 0
  count : Nat := 0
  isOpen : Bool := false
  calm : Nat := 0
  deriving DecidableEq, Repr

/-- The air interface (10). -/
structure Air where
  ports : List PortSt := List.replicate 4 {}
  pairs : Bool := false              -- pair mode in force
  nch : Nat := 0
  modeAt : List (BitVec 48) := []    -- the mode is decided again at these boundaries (10 R271)
  nu : Nat := 0
  nrt : Nat := 0
  nd : Nat := 0
  acc : Bool := false                -- this stamp uses the accession frame
  running : Bool := false            -- the air interface runs: IQx_RXEN is high where IQx_TXEN is low
  serving : List Nat := []           -- ports of the independent channels, as last planned
  beacons : Bool := false            -- beacons have begun (02 R34)
  bursts : List BurstSt := []
  acks : List (Nat × BitVec 64) := []
  named : List (Nat × List Nat) := []  -- shelfmarks called for retry, per logical channel; a channel is listed once its call is sent
  ordered : List (Nat × Nat) := []   -- downlink slots whose ORDER burst has been sent: channel, slot
  lossDone : Bool := false           -- the loss instant of the stamp has passed
  rxdiv : List RxDiv := List.replicate 4 {}
  subs : Nat := 0                    -- messages submitted so far
  bseq : Nat := 0                    -- broadcast sequence
  bmsg : Option Msg := none          -- the broadcast being sent
  bleft : Nat := 0                   -- beacons it is still to be sent in
  bqueue : List Msg := []
  tuned : Bool := false
  released : Bool := false           -- R41: the class 0 reservation has returned in this stamp
  deriving DecidableEq, Repr

/-! ## The spine (12) -/

inductive SpineState where
  | off | down | training | up
  deriving DecidableEq, Repr

/-- What a spine frame carries (12 Table 12.4). -/
inductive SpineMsg where
  | train (i : TrainInfo)
  | heartbeat (payload : BitVec 128)
  | role (n : RoleNote)
  | config (item : ConfigItem) (live : BitVec 48)
  | sense (stamp : BitVec 48) (ms : Nat) (ca cb : List Int) (mains : List (List Int))
  | seal (recs : List SealRec)
  | card (head : BitVec 128) (body twin : Bytes)
  deriving DecidableEq, Repr

/-- A sequenced frame kept until an ACK covers it (12 R345), by its place among those that its message takes. -/
structure SentFrame where
  seq : BitVec 16
  stamp : BitVec 48
  msg : SpineMsg
  part : Nat := 0
  deriving DecidableEq, Repr

/-- The stamp's seal as the standby holds it: its records, and the streams of its END whose digests are still to be formed (12 R354). -/
structure HeldSeal where
  stamp : BitVec 48
  recs : List SealRec
  cards : List Nat := []
  deriving DecidableEq, Repr

/-- A frame that waits for room on a ring. -/
structure HeldFrame where
  ftype : Nat
  stamp : BitVec 48
  nrec : Nat
  payload : Bytes
  deriving DecidableEq, Repr

/-- The spine link (12 R341..R355). -/
structure Spine where
  state : SpineState := .off
  partner : Bool := false            -- a partner is configured (live)
  sideB : Bool := false              -- pair side (live)
  phase : Nat := 0
  phaseAt : Tick := 0
  silentTo : Tick := 0               -- 10 ms of silence after a failed phase
  fails : Nat := 0
  detects : Nat := 0
  delay : Nat := 0                   -- D, crystal periods
  rounds : List Nat := []            -- round trips less turnaround of the delay exchanges
  goodRx : Nat := 0
  goodTx : Nat := 0
  session : BitVec 32 := 0
  txSeq : BitVec 16 := 0
  rxSeq : BitVec 16 := 0
  ackIn : BitVec 16 := 0
  ackAt : Tick := 0
  sent : List SentFrame := []
  txCount : Nat := 0
  rxCount : Option Nat := none
  discards : List Tick := []
  discarded : Nat := 0
  resent : Nat := 0
  lastRx : Tick := 0                 -- last frame that passed its checks,
  detAt : Option Tick := none        -- last detection of a preamble,
  beatAt : Option Tick := none       -- and last heartbeat sent (16 Table 16.5)
  lastBeat : Tick := 0               -- last heartbeat received
  nextBeat : Tick := 0               -- the next heartbeat is due
  partnerRole : Option Role := none
  partnerFailing : Bool := false
  partnerUnaligned : Nat := 0
  partnerSealed : BitVec 48 := 0
  partnerPub : Nat := 0
  sealedTx : Option (BitVec 48) := none
  sealedRx : Option (BitVec 48) := none
  acts : List SealRec := []          -- acts of the current stamp, newest first
  seals : List HeldSeal := []        -- seals kept for resending, at most 8
  pendingSeals : List HeldSeal := [] -- standby: acts received and not yet committed
  cfgSent : List (BitVec 48 × BitVec 16) := []  -- CONFIG frames that carried settings: the stamp at which they become live, SEQ
  cardsTaken : Nat := 0
  roundFrom : Option (BitVec 48) := none
  roundNext : Nat := 0
  reseal : Bool := false             -- the link has come up: the kept seals and the loans are still to be sent
  cardsDue : List (Nat × Bytes) := []   -- primary: cards imported in this stamp
  cards : List (Nat × Bytes) := []      -- standby: imported cards received ahead of their record
  digests : List (Nat × BitVec 48 × Bytes) := []  -- standby: its own digests of the streams that an END named
  partSeal : List SealRec := []      -- standby: the records of a seal whose END has not come
  sealIn : Option (BitVec 48) := none   -- standby: last stamp whose seal it holds complete
  lateCards : List (BitVec 128 × Bytes × Bytes) := []  -- standby: cards that came before the seal of their stamp was applied
  heard : List (BitVec 48 × Nat × Nat × Nat × Bytes) := []  -- standby: of the last stamps, what it decoded: stamp, shelfmark, slot, outcome, payload
  frames : List (HeldFrame × HeldFrame) := []  -- standby: the estimate frames of stamps that its primary may not have written, as they are and with RERUN
  roster : Option (List (Nat × BitVec 64)) := none  -- standby: its primary's roster
  scram : BitVec 23 := 0x7FFFFF#23   -- the scrambler's register at the end of the frame sent last (R342),
  lineFree : Tick := 0               -- and the instant of that end
  deriving DecidableEq, Repr

/-! ## The host ports (13) -/

/-- A ring counter: offset and lap bit (13 R369). -/
structure Pos where
  off : Nat := 0
  lap : Bool := false
  deriving DecidableEq, Repr

/-- One ring (13 Table 13.6, R370, R371). -/
structure Ring where
  prod : Pos := {}
  cons : Pos := {}
  seq : Nat := 0
  lost : Bool := false
  dropped : Nat := 0
  held : List HeldFrame := []
  starts : List Pos := []            -- the frame starts between CONS and PROD
  deriving DecidableEq, Repr

/-- An event record (13 Table 13.15). -/
structure Event where
  code : BitVec 16
  patron : Option Nat := none
  stack : Option Nat := none
  stamp : BitVec 48 := 0
  a0 : BitVec 32 := 0
  a1 : BitVec 32 := 0
  a2 : BitVec 32 := 0
  a3 : BitVec 32 := 0
  seq : BitVec 32 := 0
  deriving DecidableEq, Repr

/-- The registers of the status block that the hub keeps apart from the rest of its state (13 Table 13.4). -/
structure Regs where
  irq : BitVec 32 := 0
  irqen : BitVec 32 := 4
  h2mlen : BitVec 16 := 0
  m2hlen : BitVec 16 := 0
  err : BitVec 16 := 0
  drops : BitVec 32 := 0
  deriving DecidableEq, Repr

/-- What a status-block read shows between updates (13 R365). -/
structure Shown where
  regs : Regs := {}
  avail : Nat := 0
  life : Nat := 0
  stamp : BitVec 48 := 0
  run : BitVec 32 := 0
  role : Nat := 0
  spine : Nat := 0
  economy : Bool := false
  period : Nat := 10
  restored : Bool := false
  rings : List (Pos × Pos) := List.replicate 6 ({}, {})
  deriving DecidableEq, Repr

/-- HRDY low for a status-block update, and what readers saw before it (13 R365). -/
structure LowPulse where
  first : Tick
  past : Tick
  before : Shown
  deriving DecidableEq, Repr

/-- The data port (13 R363..R371). -/
structure DataPort where
  hrdy : Bool := false
  boot : Bool := true                -- HRDY has not yet risen since power-up or RST_N
  regs : Regs := {}
  shown : Shown := {}
  rings : List Ring := List.replicate 6 {}
  ringMem : Mem := []                -- bytes of the rings, by data-port address
  mailIn : Mem := []                 -- host-to-hub mailbox, by data-port address
  mailOut : Mem := []
  utx : List Bytes := []             -- the lines that have left on UTX, the command line, newest first (13 R361, R388)
  mailQueue : List Bytes := []       -- port-session lines that wait for the hub-to-host mailbox (13 R389)
  hrdyAt : Tick := 0                 -- HRDY rose or fell last at this instant, status-block updates apart
  lows : List LowPulse := []         -- the status-block updates of the last 5 ms, oldest first
  csLow : Bool := false              -- a transaction that has held HCS_N low for more than 4 ms is still open
  deferred : Bool := false           -- a status-block update waits for it to end
  deriving DecidableEq, Repr

/-- Values in replies, notices and listings. -/
inductive RVal where
  | nat (n : Nat) | int (i : Int) | hex (n digits : Nat) | word (w : String) | bytes (b : Bytes) | setting (n : SName) (v : Option Int)
  | names (ns : List SName) | absent | flag | joined (vs : List (Option Nat))
  deriving DecidableEq, Repr

/-- A hub line (13 Table 13.18). -/
inductive HubLine where
  | ok (fields : List (String × RVal))
  | err (code : Nat) (detail : List (String × RVal))
  | item (fields : List (String × RVal))
  | notice (word : String) (fields : List (String × RVal))
  deriving DecidableEq, Repr

/-- A final reply with the listing lines before it, kept in line order until every earlier one is sent (R386). -/
structure Pending where
  lineNo : Nat
  tag : Option Nat
  ready : Option (List HubLine)
  props : Option (Bool × Bool × Bool × Nat) := none  -- properties that take effect after the reply: GENERATED, EXPERT, NOTICE, baud (R387)
  deriving DecidableEq, Repr

/-- A session (13 R387). -/
structure SessSt where
  generated : Bool := false
  expert : Bool := false
  notice : Bool := true
  baud : Nat := 115200
  lines : Nat := 0                   -- lines received
  waiting : List Pending := []
  buf : Bytes := []                  -- characters of a line whose end has not come (13 R384)
  deriving DecidableEq, Repr

/-- The events of the hub (13 R379, R380). -/
structure EventSt where
  next : BitVec 32 := 0
  fresh : List Event := []           -- raised and not yet in an EVENT frame
  kept : List Event := []            -- the events EVENT LIST can name
  starvedOn : Bool := false
  lastStarved : Option Tick := none
  lastUnserved : Option Tick := none
  lastDivsum : Option Tick := none
  divRolled : Bool := false          -- an opening was rolled into the next summary (09 R250)
  deriving DecidableEq, Repr

/-! ## Settings, archive, tests (13, 14, 16) -/

/-- The settings: live and staged copies as the entries that differ from the defaults, and the commits that wait for
their boundary (13 R392). -/
structure Settings where
  live : List (SName × Option Int) := []
  staged : List (SName × Option Int) := []
  commits : List (BitVec 48 × List (SName × Option Int)) := []
  scripts : List (Nat × Option Nat × Bytes) := []        -- port, centre (none: init), bytes
  stagedScripts : List (Nat × Option Nat × Bytes) := []
  scriptCommits : List (BitVec 48 × List (Nat × Option Nat × Bytes)) := []
  twinsets : List (Nat × Bytes) := []
  stagedSets : List (Nat × Bytes) := []
  setCommits : List (BitVec 48 × List (Nat × Bytes)) := []
  past : List (BitVec 48 × List (SName × Option Int)) := []  -- the live settings as they were before each stamp that has changed one, newest first
  deriving DecidableEq, Repr

/-- A loan as the archive keeps it (15 R440). -/
structure KeptLoan where
  slot : Nat
  count : Nat                        -- stacks held whole,
  shared : List (Nat × Nat × Nat) := []  -- and of each share its regions, its blocks without the claim, and its claim
  pages : Nat
  deriving DecidableEq, Repr

/-- A stream record of the snapshot: what its head names, the image, and their CRC-32 (15 Table 15.4). -/
structure SnapRec where
  sid : Nat
  length : Nat
  place : Place
  image : Image
  crc : BitVec 32
  deriving DecidableEq, Repr

/-- The brown-out snapshot (15 Table 15.4). -/
structure Snapshot where
  valid : Bool := false
  consumed : Bool := true
  fw : BitVec 32 := 0                -- firmware release, run number and stamp at the declaration,
  run : BitVec 32 := 0
  stamp : BitVec 48 := 0
  count : Nat := 0                   -- count and total length of the stream records,
  length : Nat := 0
  crc : BitVec 32 := 0               -- and the CRC-32 over the catalogue part and the twin states
  patrons : List Bytes := []         -- the records of slots 0 to 3
  bindings : List (Nat × BitVec 32) := []
  loans : List KeptLoan := []
  gens : List (Nat × BitVec 32) := []
  live : List (SName × Option Int) := []
  roster : List (Nat × BitVec 64) := []
  cells : List (Nat × Nat × Nat) := []        -- sid, shelf, cell
  twins : List (Nat × Nat × BitVec 768) := [] -- shelf, cell, state
  records : List SnapRec := []
  deriving DecidableEq, Repr

/-- The archive (01 R15): non-volatile. -/
structure Archive where
  powerUps : BitVec 31 := 0
  saved : List (SName × Option Int) := []
  savedScripts : List (Nat × Option Nat × Bytes) := []
  savedSets : List (Nat × Bytes) := []
  sideB : Bool := false
  partner : Bool := false
  folios : List FolioSt := []
  staging : Mem := []
  bindings : List (Nat × BitVec 32) := []
  loans : List KeptLoan := []
  snapshot : Snapshot := {}
  roster : List (Nat × BitVec 64) := []
  spineKey : Option Bytes := none
  draft : Option Draft := none       -- as last published,
  draftArea : Bytes := []            -- and the bytes of its fractions and moments (04 R114, 09 R257)
  firmware : BitVec 32 := Config.fwver  -- the firmware release that it holds
  log : List Event := []             -- the event log, as of the last boundary (16 R465)
  weeding : List (Nat × BitVec 32 × Bool × Bool) := []  -- stack, weeded shelves, annex weeded, stack weeded
  spares : List (Nat × Bool × Nat × Nat) := []  -- the rows that spares stand for: stack, carrel, bank, row (16 R460)
  deriving DecidableEq, Repr

/-- The lectern signals (16 Table 16.5): the safe ones, and any name of the full set by its place in the table. -/
inductive LectSig where
  | stamp | ready | busy (s : Nat) | full (k : Nat)
  deriving DecidableEq, Repr

/-- The instructions of the test access port (16 Table 16.6). -/
inductive TapIr where
  | extest | idcode | sample | clamp | highz | fuseread | fuseprog | bypass
  deriving DecidableEq, Repr

/-- Test access, lectern, fuses and life-cycle (16 R461..R466). -/
structure TestSt where
  ir : TapIr := .idcode
  logicReset : Bool := true          -- Test-Logic-Reset
  boundary : Bits := []
  bypassBit : Bool := false
  shiftOut : Bits := []              -- bits that the selected register gives on TDO, first bit first
  fuses : BitVec 1344
  lect0 : LectSig := .stamp
  lect1 : LectSig := .ready
  lifeDue : List (Nat × BitVec 48) := []  -- accepted moves: state entered, stamp
  lifeEvent : Option (Nat × Nat) := none      -- LIFE is to be raised after the restart: state left, state entered
  deriving DecidableEq, Repr

/-- Steward faults and stored-state errors (16 R452..R460). -/
structure Steward where
  aDown : Option Tick := none
  bDown : Option Tick := none
  holdTo : BitVec 48 := 0            -- stamp from which a restarted pair A admits again
  heldProtect : List Event := []
  missed : List HeldFrame := []      -- estimate frames of the stamps of a restart of pair A, with every learned field stale
  failedOver : Bool := false         -- the pair that restarts has handed the role to the standby (16 R452, R453)
  retired : Nat := 0
  retiredPages : List Nat := []
  corrected : List (Nat × Tick) := []  -- ledger page, instant of its last corrected error
  spill : Nat := 0                   -- spill pages in use
  invAt : List (Nat × Tick) := []    -- stack, instant at which its interval expires (14 R418)
  scrubAt : Tick := 0                -- from this instant on the ledger may be scrubbed again (16 R460)
  snap : Option Snapshot := none     -- the parts of the snapshot as they stood at the declaration of a brown-out (15 R433)
  deriving DecidableEq, Repr

/-- An entry of the step log (08 Table 8.6): an act on a stream, with the reset bits of a step, time step by time step, or a setting that became
live. -/
inductive LogEntry where
  | act (r : SealRec) (resets : Bits := [])
  | setting (n : SName) (v : Option Int)
  deriving DecidableEq, Repr

/-- What leaves the hub: the model's own log, newest first. -/
inductive Out where
  | burst (lch : Nat) (at0 : Tick) (hdr : BitVec 48) (payload : Bytes) (crc : BitVec 32) (words : List (BitVec 1296))
  | spine (m : SpineMsg) (part : Nat) (hdr : BitVec 128) (payload tag : Bytes) (crc : BitVec 32)
  | preambles (from0 span : Tick)
  | usith (ses : Sess) (tag : Option Nat) (line : HubLine)
  | script (port : Nat) (centre : Option Nat) (bytes : Bytes)
  | wake (t : Tick)
  | completion (c : Completion) (bytes : Bytes)
  | drift (patron : Nat) (sid : Nat) (d : Nat)
  deriving DecidableEq, Repr

/-! ## The whole state -/

/-- The hub's state. -/
structure State where
  now : Tick := 0                    -- the model's own: the instant of the last command
  power : Power := {}
  stamp : StampSt := {}
  roleSt : RoleSt := {}
  settings : Settings := {}
  archive : Archive := {}
  stackList : List StackSt
  patrons : List Patron
  charges : List ChargeSt := []
  ended : List Nat := []             -- identifiers of charges that have completed
  nextCharge : Nat := 1              -- charges are numbered from 1; 0 stands for none
  changes : List LoanChange := []
  pageChanges : List (BitVec 48 × Nat × Nat) := []  -- ledger pages that a slot takes at a stamp without a stack (07 R201): stamp, slot, pages
  keptPlaced : Bool := false         -- the kept loans have been placed (15 R440)
  streams : List StreamSt := []
  waits : List StreamWait := []
  inputLog : List LoggedStep := []
  stepLog : List (BitVec 48 × LogEntry) := []  -- the step log, newest first (08 R232)
  history : List (BitVec 48 × Nat × List Int × Int) := []  -- refit history: stamp, sid, input row, forecast
  draft : Option Draft := none
  promotion : Option Promotion := none
  requests : List Request := []
  nextReq : Nat := 1
  cells : List CellSt := []          -- the cells of the accessioned nodes, in shelfmark and cell order
  limits : List LimSt := []
  rota : RotaSt := {}
  mains : MainsSt := {}
  sense : Sense := {}
  air : Air := {}
  nodes : List NodeSt := []
  acc : Acc := {}
  spine : Spine := {}
  port : DataPort := {}
  lineSes : SessSt := {}
  portSes : SessSt := { notice := false }
  events : EventSt := {}
  steward : Steward := {}
  test : TestSt
  digestFree : Tick := 0             -- the shared digest engine has served every ended COLOPHON by this instant (06 R177)
  restoring : Option (List (Nat × Image)) := none
  restoreFrom : Tick := 0            -- instant of the boundary at which the restore began
  restored : Bool := false
  restoredCount : Nat := 0
  skipped : Nat := 0
  free : Nat := 0                    -- the model's own: how many free values have been taken
  out : List Out := []               -- the model's own: what has left the hub, newest first
  pending : List Instr := []
  deriving DecidableEq, Repr

/-- The physical stacks that the fuses enable, in the order of their stack numbers (00 R3): wing 0 is the lower-numbered
wing whose two stacks are both enabled. With no such wing, which MANUFACTURE allows and the spec does not number, wing 0 is stacks 2 and 3 (log 164). -/
def enabledStacks (fuses : BitVec 1344) : List Nat :=
  let on : Nat → Bool := fun p => fuses.getLsbD (8 + p)
  let w0 := [0, 1].filter on
  let w1 := [2, 3].filter on
  if w0.length = 2 then w0 ++ w1 else w1 ++ w0

/-- The four stack numbers as power-up leaves them: every stack gated and every region invalid (03 R82). -/
def stacksOf (fuses : BitVec 1344) : List StackSt :=
  (List.range 4).map fun k =>
    match (enabledStacks fuses)[k]? with
    | some p => { present := true, phys := p }
    | none => {}

/-- The hub with VDD_PORTER below its threshold, holding nothing but its fuses and an archive fresh from manufacture. -/
def State.reset : State :=
  { stackList := stacksOf Config.fuses
    patrons := (List.range 16).map fun p => { slot := p }
    test := { fuses := Config.fuses } }

/-- Why the machine would stop with a fault. No meaning of this model raises one today: every event of the hub is an
effect on its state. -/
inductive Fault where
  /-- Raised by no command: the spec gives no event after which the hub has no further state. Safe. -/
  | noFurtherState
  deriving DecidableEq, Repr

/-- Why a command has no meaning in the model. -/
inductive Refusal where
  /-- Raised by `exec` for a command that is not modelled yet. Safe: nothing is claimed of it. -/
  | notModelled (mnemonic : String)
  deriving DecidableEq, Repr

end Sys2Proof.Machine
end

