-- ==== Sys2Proof/Machine/Text.lean ====
section
/-! DEFINITION. The text of hub lines, as the mailboxes and the checksum of GENERATED mode count it. -/

namespace Sys2Proof

/-! ## Text of hub lines (13 R385, R388, Table 13.18) -/

def asciiOf (t : String) : Bytes := t.toList.map fun c => BitVec.ofNat 8 c.toNat
def decText (n : Nat) : Bytes := (Nat.toDigits 10 n).map fun c => BitVec.ofNat 8 c.toNat
def intText (v : Int) : Bytes := if v < 0 then 0x2D#8 :: decText v.natAbs else decText v.toNat
/-- A hexadecimal number in at least so many digits. -/
def hexText (digits n : Nat) : Bytes :=
  let ds := (Nat.toDigits 16 n).map fun c => BitVec.ofNat 8 c.toUpper.toNat
  asciiOf "0x" ++ List.replicate (digits - ds.length) 0x30#8 ++ ds
/-- Text of a word of a keyword setting. -/
def Kw.text : Kw → String
  | .on => "ON" | .off => "OFF" | .none => "NONE" | .all => "ALL" | .interactive => "INTERACTIVE"
  | .generated => "GENERATED" | .fixed => "FIXED" | .running => "RUNNING" | .auto => "AUTO" | .four => "FOUR"
  | .pairs => "PAIRS" | .a => "A" | .b => "B" | .c => "C" | .d => "D" | .mean => "MEAN" | .shunt => "SHUNT"
  | .hall => "HALL" | .sink => "SINK" | .source => "SOURCE" | .both => "BOTH" | .reset => "RESET"
  | .portable => "PORTABLE" | .init => "INIT" | .tune => "TUNE" | .manufacture => "MANUFACTURE"
  | .provisioned => "PROVISIONED" | .deployed => "DEPLOYED" | .returned => "RETURNED" | .other => "OTHER"
/-- Text of a quantity of a dimension and resolution, in a unit that keeps it exact (13 Table 13.17). -/
def qtyText (dim res : Nat) (v : Int) : Bytes :=
  match dim with
  | 0 => if res % 3600000000000 = 0 then intText (v * (res / 3600000000000 : Nat)) ++ asciiOf "h"
         else if res % 1000000 = 0 then intText (v * (res / 1000000 : Nat)) ++ asciiOf "ms"
         else if res % 1000 = 0 then intText (v * (res / 1000 : Nat)) ++ asciiOf "us"
         else intText (v / 1000) ++ asciiOf "." ++ (decText ((v % 1000).toNat + 1000)).drop 1 ++ asciiOf "us"
  | 1 => if res % 1000 = 0 then intText (v * (res / 1000 : Nat)) ++ asciiOf "mV" else intText (v * res) ++ asciiOf "uV"
  | 2 => intText (v * (res / 1000 : Nat)) ++ asciiOf "mA"
  | 3 => intText (v * res) ++ asciiOf "mOhm"
  | 4 => if res % 1000 = 0 then intText (v * (res / 1000 : Nat)) ++ asciiOf "Hz" else intText (v * res) ++ asciiOf "mHz"
  | _ => (if v < 0 then asciiOf "-" else []) ++ decText (v.natAbs / 10) ++ asciiOf "." ++ decText (v.natAbs % 10) ++ asciiOf "C"
/-- Text of a setting's value in the form that SET takes (14 R495). -/
def SForm.text : SForm → Option Int → Bytes
  | .offOr f, v => match v with
    | none => asciiOf "OFF"
    | some _ => f.text v
  | .noneOr f, v => match v with
    | none => asciiOf "NONE"
    | some _ => f.text v
  | .count _ _, v => intText (v.getD 0)
  | .quantity d r _ _, v => qtyText d r (v.getD 0)
  | .words ws, v => asciiOf ((ws.getD (v.getD 0).toNat .other).text)
  | .hz, v => intText (v.getD 0) ++ asciiOf "Hz"
  | .never, _ => asciiOf "-"
def Lim.text : Lim → String
  | .ov => "ov" | .uv => "uv" | .ot => "ot" | .ut => "ut" | .occ => "occ" | .ocd => "ocd" | .cd => "cd" | .ns => "ns"
def idx (w : String) (n : Nat) : Bytes := asciiOf w ++ asciiOf "[" ++ decText n ++ asciiOf "]"
def portLetter (x : Nat) : String := ["a", "b", "c", "d"].getD x "?"
/-- Text of a setting's name (13 R385). -/
def SName.text : SName → Bytes
  | .stampPeriod => asciiOf "stamp.period" | .stampEconomy => asciiOf "stamp.economy" | .schedSlice => asciiOf "sched.slice"
  | .patronBalance p => idx "patron" p ++ asciiOf ".balance"
  | .tensorMode p t => idx "patron" p ++ idx ".tensor" t ++ asciiOf ".mode"
  | .tensorWindow p t => idx "patron" p ++ idx ".tensor" t ++ asciiOf ".window"
  | .tensorKlo p t => idx "patron" p ++ idx ".tensor" t ++ asciiOf ".klo"
  | .tensorKhi p t => idx "patron" p ++ idx ".tensor" t ++ asciiOf ".khi"
  | .tensorTheta p t => idx "patron" p ++ idx ".tensor" t ++ asciiOf ".theta"
  | .tensorLimit p t => idx "patron" p ++ idx ".tensor" t ++ asciiOf ".limit"
  | .layerClamp p l => idx "patron" p ++ idx ".layer" l ++ asciiOf ".clamp"
  | .streamShift x l => idx "stream" x ++ idx ".layer" l ++ asciiOf ".shift"
  | .driftMonitor => asciiOf "drift.monitor" | .driftThreshold => asciiOf "drift.threshold"
  | .refitB1 => asciiOf "refit.b1" | .refitB2 => asciiOf "refit.b2" | .refitLambda => asciiOf "refit.lambda"
  | .refitEps => asciiOf "refit.eps" | .refitWindows => asciiOf "refit.windows" | .refitLength => asciiOf "refit.length"
  | .refitPublish => asciiOf "refit.publish" | .refitSeed => asciiOf "refit.seed"
  | .divTheta .soc => asciiOf "div.soc.theta" | .divTheta .cap => asciiOf "div.cap.theta" | .divTheta .res => asciiOf "div.res.theta"
  | .divN .soc => asciiOf "div.soc.n" | .divN .cap => asciiOf "div.cap.n" | .divN .res => asciiOf "div.res.n"
  | .advisory .short => asciiOf "advisory.short" | .advisory .sense => asciiOf "advisory.sense"
  | .advisory .therm => asciiOf "advisory.therm" | .advisory .self => asciiOf "advisory.self"
  | .mainsN => asciiOf "mains.n" | .mainsSag => asciiOf "mains.sag" | .mainsSwell => asciiOf "mains.swell"
  | .mainsInterrupt => asciiOf "mains.interrupt" | .mainsFreq => asciiOf "mains.freq"
  | .mainsHarmonic => asciiOf "mains.harmonic" | .mainsUnbalance => asciiOf "mains.unbalance"
  | .mainsTransient => asciiOf "mains.transient" | .rolloutTheta => asciiOf "rollout.theta"
  | .limitValue k l => idx "limit" k ++ asciiOf "." ++ asciiOf l.text ++ asciiOf ".value"
  | .limitDebounce k l => idx "limit" k ++ asciiOf "." ++ asciiOf l.text ++ asciiOf ".debounce"
  | .limitHyst k l => idx "limit" k ++ asciiOf "." ++ asciiOf l.text ++ asciiOf ".hyst"
  | .nodeTwinset n => idx "node" n ++ asciiOf ".twinset" | .nodeCurrent n => idx "node" n ++ asciiOf ".current"
  | .packIshift => asciiOf "pack.ishift" | .packIscale => asciiOf "pack.iscale"
  | .nodeTfit n => idx "node" n ++ asciiOf ".tfit" | .nodeWr n w => idx "node" n ++ idx ".wr" w
  | .nodeRb n => idx "node" n ++ asciiOf ".rb" | .cellSensors n i => idx "node" n ++ idx ".cell" i ++ asciiOf ".sensors"
  | .packWpre => asciiOf "pack.wpre" | .packWpost => asciiOf "pack.wpost" | .packBreakres => asciiOf "pack.breakres"
  | .packSumtol => asciiOf "pack.sumtol" | .packBreakdeb => asciiOf "pack.breakdeb" | .packOwauto => asciiOf "pack.owauto"
  | .packOwthresh => asciiOf "pack.owthresh" | .packAccretry => asciiOf "pack.accretry" | .airMode => asciiOf "air.mode"
  | .airPorts => asciiOf "air.ports" | .airCmap => asciiOf "air.cmap" | .airHopkey => asciiOf "air.hopkey"
  | .airSpiclk => asciiOf "air.spiclk" | .airTxlead => asciiOf "air.txlead" | .airLevel => asciiOf "air.level"
  | .portTxlat x => asciiOf "port[" ++ asciiOf (portLetter x) ++ asciiOf "].txlat"
  | .portRxlat x => asciiOf "port[" ++ asciiOf (portLetter x) ++ asciiOf "].rxlat"
  | .airRetries => asciiOf "air.retries" | .airDownlink => asciiOf "air.downlink" | .airRepeats => asciiOf "air.repeats"
  | .airRxdivTheta => asciiOf "air.rxdiv.theta" | .airRxdivN => asciiOf "air.rxdiv.n"
  | .spineSecure => asciiOf "spine.secure" | .inventorySchedule => asciiOf "inventory.schedule"
  | .powerBo => asciiOf "power.bo" | .powerRestart => asciiOf "power.restart" | .powerMainsbo => asciiOf "power.mainsbo"
  | .senseAMode => asciiOf "sense.a.mode" | .senseBMode => asciiOf "sense.b.mode" | .mainsNominal => asciiOf "mains.nominal"
  | .mainsHz => asciiOf "mains.hz" | .mainsShift => asciiOf "mains.shift" | .pairSide => asciiOf "pair.side"
  | .unknown w => w
end Sys2Proof

namespace Sys2Proof.Machine

/-- Event names of 13 Table 13.16 and 16 Table 16.2. -/
def eventName : Nat → String
  | 0x01 => "PROTECT" | 0x02 => "PCLEAR" | 0x03 => "ADVISORY" | 0x10 => "DIVERGE" | 0x11 => "CONVERGE"
  | 0x12 => "DIVSUM" | 0x13 => "MAINSDIV" | 0x14 => "RXDIV" | 0x15 => "ROLLDIV" | 0x20 => "SKEW" | 0x21 => "ECC"
  | 0x22 => "RANGE" | 0x23 => "BUDGET" | 0x24 => "NOTREADY" | 0x25 => "FOLIOREF" | 0x26 => "CLIP" | 0x27 => "DRIFT"
  | 0x28 => "DRAFTRANGE" | 0x30 => "STARVED" | 0x31 => "ROTA" | 0x32 => "LOANREADY" | 0x33 => "UNSERVED"
  | 0x34 => "LOANLAPSE" | 0x40 => "CONFLICT" | 0x41 => "PORTFAULT" | 0x42 => "UNDELIVERED" | 0x50 => "BATONBREAK"
  | 0x51 => "DUPID" | 0x52 => "CHAINBREAK" | 0x53 => "EXCESS" | 0x54 => "ROSTER" | 0x55 => "MEASFAULT"
  | 0x56 => "NOBREAK" | 0x57 => "WIREBREAK" | 0x60 => "SPINETRAIN" | 0x61 => "SPINESEC" | 0x62 => "MISMATCH"
  | 0x63 => "TAKEOVER" | 0x64 => "SPINEFAULT" | 0x70 => "RINGDROP" | 0x80 => "STACKFAULT" | 0x81 => "INVENTORY"
  | 0x82 => "WEED" | 0x83 => "STEWARD" | 0x84 => "STREAMLOST" | 0x85 => "ARCHIVE" | 0x86 => "RETIRED"
  | 0x87 => "RAILFAULT" | 0x88 => "LIFE" | _ => "RESERVED"

/-- Error names of 13 Table 13.19. -/
def errName : Nat → String
  | 1 => "SYNTAX" | 2 => "CHAR" | 3 => "LONG" | 4 => "CHECKSUM" | 5 => "OVERRUN" | 6 => "UNKNOWN" | 7 => "ARG"
  | 8 => "MISSING" | 9 => "RANGE" | 10 => "EXPERT" | 11 => "STATE" | 12 => "ROLE" | 13 => "CONFLICT" | 14 => "BUSY"
  | 15 => "NOTFOUND" | 16 => "NOPLACE" | 17 => "NOPAGES" | 18 => "NOROOM" | 19 => "LAYOUT" | 20 => "STALEDRAFT"
  | 21 => "LAGGING" | 22 => "CARD" | 23 => "NOFRAME" | 24 => "MIRROR" | 25 => "AUTH" | 26 => "MALFORMED"
  | 27 => "FAULT" | _ => "NOIDS"

/-- Texts joined by commas. -/
def commas : List Bytes → Bytes
  | [] => []
  | [x] => x
  | x :: xs => x ++ asciiOf "," ++ commas xs
def RVal.text : RVal → Bytes
  | .nat n => decText n | .int i => intText i | .hex n d => hexText d n | .word w => asciiOf w
  | .bytes b => b.flatMap fun x => (hexText 2 x.toNat).drop 2
  | .setting .airPorts (some v) => hexText 1 v.toNat
  | .setting .airCmap (some v) => hexText 3 v.toNat
  | .setting n v => n.form.text v | .names ns => if ns.isEmpty then asciiOf "-" else commas (ns.map SName.text)
  | .absent => asciiOf "-" | .flag => []
  | .joined vs => if vs.isEmpty then asciiOf "-" else commas (vs.map fun v => match v with
    | some n => decText n
    | none => asciiOf "-")
/-- A field as name=value; a flag is its name alone. -/
def fieldsText (fs : List (String × RVal)) : Bytes :=
  fs.flatMap fun f => asciiOf " " ++ asciiOf f.1 ++ (if f.2 = .flag then [] else asciiOf "=" ++ f.2.text)
def HubLine.text : HubLine → Bytes
  | .ok fs => asciiOf "OK" ++ fieldsText fs
  | .err c fs => asciiOf "ERR " ++ decText c ++ asciiOf " " ++ asciiOf (errName c) ++ fieldsText fs
  | .item fs => asciiOf "=" ++ fieldsText fs
  | .notice w fs => asciiOf "! " ++ asciiOf w ++ fieldsText fs
/-- A line as the session's mode has it: tag and checksum in GENERATED mode, an echoed tag in INTERACTIVE mode, LF last
(13 R388). -/
def SessSt.lineText (q : SessSt) (tag : Option Nat) (l : HubLine) : Bytes :=
  let final : Bool := match l with
    | .ok _ => true
    | .err _ _ => true
    | _ => false
  let head : Bytes := if !final then [] else match tag with
    | some n => asciiOf "@" ++ decText n ++ asciiOf " "
    | none => if q.generated then asciiOf "@? " else []
  let body := head ++ l.text
  let four := (Nat.toDigits 16 (fletcher16 body + 65536)).drop 1
  body ++ (if q.generated then asciiOf " *" ++ four.map (fun c => BitVec.ofNat 8 c.toUpper.toNat) else []) ++ [0x0A#8]

end Sys2Proof.Machine
end

