-- ==== Sys2Proof/Machine/Ops.lean ====
section
/-! DEFINITION. The named operations over memory and state that every meaning uses, and the two shapes of a command: an
event that happens when its condition holds, and the frame that every command keeps. -/

namespace Sys2Proof.Machine

/-! ## Addressed stores -/

/-- The byte at an address; an unlisted address reads 0 (log 7). -/
def memGet : Mem → Nat → Byte
  | [], _ => 0
  | c :: m, a => if c.1 = a then c.2 else memGet m a

/-- The store with one byte written, in the canonical form. -/
def memPut : Mem → Nat → Byte → Mem
  | [], a, v => if v = 0 then [] else [(a, v)]
  | c :: m, a, v =>
    if a < c.1 then (if v = 0 then c :: m else (a, v) :: c :: m)
    else if a = c.1 then (if v = 0 then m else (a, v) :: m)
    else c :: memPut m a v

/-- The n bytes from an address. -/
def memRead (m : Mem) (a n : Nat) : Bytes := (List.range n).map fun i => memGet m (a + i)

/-- The store with bytes written from an address on. -/
def memWrite : Mem → Nat → Bytes → Mem
  | m, _, [] => m
  | m, a, b :: bs => memWrite (memPut m a b) (a + 1) bs

/-- The store with every byte from lo up to hi, excluded, at 0. -/
def memZero (m : Mem) (lo hi : Nat) : Mem := m.filter fun c => decide (c.1 < lo ∨ hi ≤ c.1)

/-- The canonical form: addresses strictly rising, and no entry that an unlisted address reads as. -/
def Memory.wf (m : Mem) : Bool := decide (m.Pairwise fun a b => a.1 < b.1) && m.all fun c => decide (c.2 ≠ 0)

/-! ## Keyed lists -/

/-- The value that a list of pairs gives a key. -/
def lookupD {α β : Type} [DecidableEq α] (d : β) (k : α) (xs : List (α × β)) : β :=
  match xs.find? (fun p => p.1 = k) with
  | some p => p.2
  | none => d

/-- A list of pairs with one key's value set; a new key goes last. -/
def setKey {α β : Type} [DecidableEq α] (k : α) (v : β) : List (α × β) → List (α × β)
  | [] => [(k, v)]
  | p :: ps => if p.1 = k then (k, v) :: ps else p :: setKey k v ps

/-- A list of pairs with one key's value added to. -/
def addKey {α : Type} [DecidableEq α] (k : α) (n : Nat) (xs : List (α × Nat)) : List (α × Nat) :=
  setKey k (lookupD 0 k xs + n) xs

/-- Insert or replace by a numeric key, in rising key order. -/
def putBy {α : Type} (key : α → Nat) (x : α) : List α → List α
  | [] => [x]
  | y :: ys => if key x < key y then x :: y :: ys else if key x = key y then x :: ys else y :: putBy key x ys

/-- The last n elements of a list. -/
def lastN {α : Type} (n : Nat) (xs : List α) : List α := xs.drop (xs.length - n)

/-! ## Parts of the state -/

def State.stk (s : State) (k : Nat) : StackSt := s.stackList.getD k {}
def State.modStk (s : State) (k : Nat) (f : StackSt → StackSt) : State := { s with stackList := s.stackList.modify k f }
def State.patron (s : State) (p : Nat) : Patron := s.patrons.getD p { slot := p }
def State.modPatron (s : State) (p : Nat) (f : Patron → Patron) : State := { s with patrons := s.patrons.modify p f }
def State.modCtr (s : State) (p : Nat) (f : ServiceCtr → ServiceCtr) : State :=
  s.modPatron p fun q => { q with ctr := f q.ctr }
def State.stream (s : State) (sid : Nat) : StreamSt := (s.streams.find? fun x => x.sid == sid).getD { sid := sid }
def State.putStream (s : State) (x : StreamSt) : State := { s with streams := putBy StreamSt.sid x s.streams }
def State.modStream (s : State) (sid : Nat) (f : StreamSt → StreamSt) : State := s.putStream (f (s.stream sid))
def State.node? (s : State) (shelf : Nat) : Option NodeSt := s.nodes.find? fun x => x.shelf == shelf
def State.modNode (s : State) (shelf : Nat) (f : NodeSt → NodeSt) : State :=
  { s with nodes := s.nodes.map fun x => if x.shelf = shelf then f x else x }
/-- The cell that a live stream models. -/
def State.cell? (s : State) (sid : Nat) : Option CellSt := s.cells.find? fun x => x.sid == some sid
def State.modCell (s : State) (sid : Nat) (f : CellSt → CellSt) : State :=
  { s with cells := s.cells.map fun x => if x.sid = some sid then f x else x }
def State.modCellAt (s : State) (shelf cell : Nat) (f : CellSt → CellSt) : State :=
  { s with cells := s.cells.map fun x => if x.shelf = shelf ∧ x.cell = cell then f x else x }
def State.charge? (s : State) (id : Nat) : Option ChargeSt := s.charges.find? fun c => c.id == id
def State.modCharge (s : State) (id : Nat) (f : ChargeSt → ChargeSt) : State :=
  { s with charges := s.charges.map fun c => if c.id = id then f c else c }
def State.port? (s : State) (x : Nat) : PortSt := s.air.ports.getD x {}
def State.modPort (s : State) (x : Nat) (f : PortSt → PortSt) : State :=
  { s with air := { s.air with ports := s.air.ports.modify x f } }
def State.folioSt? (s : State) (fid : BitVec 32) : Option FolioSt := s.archive.folios.find? fun f => f.info.fid == fid
/-- The folio bound to a slot. -/
def State.folio? (s : State) (p : Nat) : Option FolioInfo :=
  (s.patron p).folio.bind fun fid => (s.folioSt? fid).map (·.info)
def State.req? (s : State) (n : Nat) : Option Request := s.requests.find? fun r => r.num == n
def State.modReq (s : State) (n : Nat) (f : Request → Request) : State :=
  { s with requests := s.requests.map fun r => if r.num = n then f r else r }
def State.ses (s : State) : Sess → SessSt
  | .line => s.lineSes
  | .port => s.portSes
def State.modSes (s : State) (u : Sess) (f : SessSt → SessSt) : State :=
  match u with
  | .line => { s with lineSes := f s.lineSes }
  | .port => { s with portSes := f s.portSes }

/-! ## Settings in force -/

def State.tensor? (s : State) (p t : Nat) : Option TensorInfo :=
  (s.folio? p).bind fun f => f.tensors.find? fun x => x.index == t

/-- The folio's or stream record's value of a setting that has one (14 R495), else its default. -/
def State.baseSetting (s : State) : SName → Option Int
  | .tensorMode p t => (s.tensor? p t).map fun x => if x.running then 1 else 0
  | .tensorWindow p t => (s.tensor? p t).map fun x => (x.window : Int)
  | .tensorKlo p t => (s.tensor? p t).map fun x => (x.klo : Int)
  | .tensorKhi p t => (s.tensor? p t).map fun x => (x.khi : Int)
  | .tensorTheta p t => (s.tensor? p t).map fun x => (x.theta : Int)
  | .tensorLimit p t => (s.tensor? p t).map fun x => (x.limit : Int)
  | .streamShift x l => ((s.stream x).committed.shifts[l]?).map fun j => (j : Int)
  | n => n.default

/-- The value that has been made live for a setting, if one has. A state shift is its stream's: it ends with it (05 R126). -/
def State.held (s : State) : SName → Option (Option Int)
  | .streamShift x l => (((s.stream x).shiftTo.find? fun p => p.1 == l).map (·.2)).map fun j => some (j : Int)
  | n => settingIn n s.settings.live

/-- The live value of a setting. The spec does not say whether a live override of a tensor's setting survives another folio in its slot: it does here,
until it is set again (log 120). -/
def State.get (s : State) (n : SName) : Option Int :=
  match s.held n with
  | some v => v
  | none => s.baseSetting n

/-- A stream of an identifier has been in the hub since power-up. -/
def State.knows (s : State) (sid : Nat) : Bool := s.streams.any fun x => x.sid == sid
/-- The live settings that SAVE writes: no state shift of a stream that has ended (14 R400). -/
def State.liveSettings (s : State) : List (SName × Option Int) :=
  s.settings.live.filter fun p => match p.1 with
    | .streamShift x _ => !s.knows x || (s.held p.1).isSome
    | _ => true
/-- The state shifts that the saved configuration gives the first stream of an identifier (14 R400); a later one has its folio's or its card's
alone (05 R126). -/
def State.savedShifts (s : State) (sid : Nat) : List (Nat × Nat) :=
  if s.knows sid then [] else s.settings.live.filterMap fun p => match p.1 with
    | .streamShift x l => if x = sid then some (l, (p.2.getD 0).toNat) else none
    | _ => none

/-- A setting takes a value. -/
def State.hold (s : State) (p : SName × Option Int) : State :=
  let s : State := { s with settings := { s.settings with live := putSetting p.1 p.2 s.settings.live } }
  match p.1 with
  | .streamShift x l => s.modStream x fun y => { y with shiftTo := setKey l (p.2.getD 0).toNat y.shiftTo }
  | _ => s

/-- The live value of a numeric setting. -/
def State.getN (s : State) (n : SName) : Nat := ((s.get n).getD 0).toNat

/-! ## Role, clock and budget (02) -/

/-- Primary, alone, or yielding until its takeover boundary. -/
def RoleSt.leads (r : RoleSt) : Bool := r.role != .standby
/-- Whether the hub is primary or alone, its role decided. -/
def State.leads (s : State) : Bool := s.roleSt.decided && s.roleSt.leads
/-- A decided standby. -/
def State.isStandby (s : State) : Bool := s.roleSt.decided && s.roleSt.role == .standby
/-- Life-cycle code, LIFE of 16 Table 16.8. -/
def State.life (s : State) : Nat := s.test.fuses.toNat % 16
/-- The LIFE field of the status block: 0 BLANK to 4 RETURNED. -/
def lifeIndex : Nat → Nat
  | 0 => 0 | 1 => 1 | 3 => 2 | 7 => 3 | _ => 4
def State.blank (s : State) : Bool := s.life == 0

/-- Ticks of one arithmetic cycle (02 R25). -/
def State.cycTicks (s : State) : Nat := if s.stamp.economy then 15 else 12
/-- Clock in cycles per millisecond (02 R37). -/
def State.clock (s : State) : Nat := if s.stamp.economy then 800000 else 1000000
/-- The budget B (02 R37). -/
def State.budget (s : State) : Nat := s.stamp.period * s.clock
/-- The margin M (02 R37). -/
def State.margin (s : State) : Nat := s.budget / 20
/-- The admissible budget A (02 R37). -/
def State.admissible (s : State) : Nat := s.budget - s.margin
/-- G, 50 µs of cycles (02 R40). -/
def State.guardCycles (s : State) : Nat := s.clock / 20
/-- Length of a stamp in ticks. -/
def State.stampTicks (s : State) : Nat := s.stamp.period * msTicks
/-- The instant of the next boundary. -/
def State.nextBoundary (s : State) : Tick := ((s.stamp.t0 + s.stampTicks : Nat) + s.stamp.adjust).toNat
/-- Cycles left to the next boundary, (Tₙ₊₁ − t) × f (02 R40). -/
def State.cyclesLeft (s : State) : Nat := (s.nextBoundary - s.now) / s.cycTicks
/-- The boundary at which a command received now takes effect (02 R26): the next, or the one after it when fewer than
500 µs are left. -/
def State.atStamp (s : State) : BitVec 48 :=
  if s.now + 500 * usTicks ≤ s.nextBoundary then s.stamp.number + 1 else s.stamp.number + 2

/-- The hub runs stamps: its steward has booted, stamp 0 has begun, and neither a brown-out nor RST_N has stopped it. -/
def State.up (s : State) : Bool := s.power.porter && s.power.booted && s.stamp.started && s.power.brownAt.isNone && s.power.rstLow.isNone

/-- The class of a slot (07 Table 7.1): 0 receiver, 1 estimator, 2 mains watch and refit, 3 host jobs. -/
def classOf (p : Nat) : Nat := if p = 0 then 0 else if p = 1 then 1 else if p < 4 then 2 else 3
/-- Mains watch, refit and the other slots in the order of the admission pass (02 R39). -/
def passOrder : List Nat := [0, 1, 2, 3] ++ (List.range 12).map (· + 4)

/-- A stack counts as in service: present, neither weeded nor faulty. -/
def StackSt.usable (k : StackSt) : Bool := k.present && !k.weeded && !k.faulty
def StackSt.shelfCount (k : StackSt) : Nat := ((List.range 32).filter fun i => k.shelves.getLsbD i).length
def StackSt.share? (k : StackSt) (p : Nat) : Option Share := k.shares.find? fun x => x.slot == p
/-- The stack is LENT to a slot. -/
def StackSt.lentTo (k : StackSt) (p : Nat) : Bool := k.shares.any fun x => x.slot == p && x.st == .lent
/-- A mask of stacks by a test. -/
def State.stackMask (s : State) (f : StackSt → Bool) : Nat :=
  (List.range 4).foldl (fun m k => if f (s.stk k) then m + 2 ^ k else m) 0
/-- Stacks that hold some share for a slot, in ascending number. -/
def State.stacksOf (s : State) (p : Nat) : List Nat := (List.range 4).filter fun k => (s.stk k).lentTo p

/-! ## Interrupts, lines and events (13) -/

def State.modRegs (s : State) (f : Regs → Regs) : State := { s with port := { s.port with regs := f s.port.regs } }
/-- Set an IRQ bit of 13 Table 13.5. -/
def State.irqSet (s : State) (bit : Nat) : State := s.modRegs fun r => { r with irq := r.irq ||| BitVec.ofNat 32 (2 ^ bit) }
/-- Set an ERR bit, and IRQ[10] with it. -/
def State.errSet (s : State) (bit : Nat) : State :=
  (s.modRegs fun r => { r with err := r.err ||| BitVec.ofNat 16 (2 ^ bit) }).irqSet 10
/-- HRDY rises or falls for another reason than a status-block update (13 R365). -/
def State.setHrdy (s : State) (b : Bool) : State :=
  { s with port := { s.port with hrdy := b, hrdyAt := if b = s.port.hrdy then s.port.hrdyAt else s.now } }
def State.emit (s : State) (o : Out) : State := { s with out := o :: s.out }

/-- The fields of an EVENT notice (13 Table 13.18). -/
def Event.fields (e : Event) : List (String × RVal) :=
  [("code", .hex e.code.toNat 4), ("name", .word (eventName e.code.toNat)), ("seq", .nat e.seq.toNat),
   ("stamp", .nat e.stamp.toNat), ("a0", .nat e.a0.toNat), ("a1", .nat e.a1.toNat), ("a2", .nat e.a2.toNat),
   ("a3", .nat e.a3.toNat)]

/-! ## Sending lines -/

/-- As many whole lines as fit the 8 KiB mailbox. -/
def takeLines : Nat → List Bytes → List Bytes
  | _, [] => []
  | room, l :: ls => if l.length ≤ room then l :: takeLines (room - l.length) ls else []

/-- Move waiting lines of the port session into the hub-to-host mailbox when M2HLEN is 0 (13 R389). -/
def State.flushMail (s : State) : State :=
  if s.port.regs.m2hlen ≠ 0 then s else
  match takeLines 8192 s.port.mailQueue with
  | [] => s
  | ls => ({ s with port := { s.port with
      mailQueue := s.port.mailQueue.drop ls.length
      mailOut := memWrite s.port.mailOut 0x2000 ls.flatten
      regs := { s.port.regs with m2hlen := BitVec.ofNat 16 ls.flatten.length } } }).irqSet 7

/-- Send one hub line to a session. -/
def State.sendLine (s : State) (u : Sess) (tag : Option Nat) (l : HubLine) : State :=
  match u with
  | .line => { s.emit (.usith .line tag l) with port := { s.port with utx := s.lineSes.lineText tag l :: s.port.utx } }
  | .port => ({ s.emit (.usith .port tag l) with port := { s.port with
      mailQueue := s.port.mailQueue ++ [s.portSes.lineText tag l] } }).flushMail

/-- Send a notice to every session whose NOTICE is ON, once the line has come alive (13 R362, R390). -/
def State.notify (s : State) (w : String) (fs : List (String × RVal)) : State :=
  if s.port.boot then s else
  let s := if s.lineSes.notice then s.sendLine .line none (.notice w fs) else s
  if s.portSes.notice then s.sendLine .port none (.notice w fs) else s

/-- Raise an event: number it, keep it for the next EVENT frame and for EVENT LIST, and notify the sessions (13 R379,
R390). EVENT LIST can name the latest 256 (log 19). -/
def State.raise (s : State) (code : Nat) (patron stack : Option Nat) (a0 a1 a2 a3 : Nat) : State :=
  let e : Event := {
    code := BitVec.ofNat 16 code, patron := patron, stack := stack, stamp := s.stamp.number,
    a0 := BitVec.ofNat 32 a0, a1 := BitVec.ofNat 32 a1, a2 := BitVec.ofNat 32 a2, a3 := BitVec.ofNat 32 a3,
    seq := s.events.next }
  ({ s with events := { s.events with
      next := s.events.next + 1
      fresh := s.events.fresh ++ [e]
      kept := lastN 256 (s.events.kept ++ [e]) } }).notify "EVENT" e.fields

/-- A 32-bit word of a signed value. -/
def word32 (x : Int) : Nat := ofSigned x 32

/-- Send, in order, every final reply that is ready with none before it still open (13 R386). -/
def flushReplies (u : Sess) : Nat → State → State
  | 0, s => s
  | k + 1, s =>
    match (s.ses u).waiting with
    | [] => s
    | p :: ps => match p.ready with
      | none => s
      | some ls =>
        let s := ls.foldl (fun s l => s.sendLine u p.tag l) (s.modSes u fun q => { q with waiting := ps })
        flushReplies u k (match p.props with
          | some (g, e, n, b) => s.modSes u fun q => { q with generated := g, expert := e, notice := n, baud := b }
          | none => s)

def State.flushSes (s : State) (u : Sess) : State := flushReplies u (s.ses u).waiting.length s

/-- Give a waiting line its reply, and send what has become ready. -/
def State.answer (s : State) (u : Sess) (lineNo : Nat) (ls : List HubLine) : State :=
  (s.modSes u fun q => { q with waiting := q.waiting.map fun p => if p.lineNo = lineNo then { p with ready := some ls } else p }).flushSes u

/-! ## Free values -/

/-- The next free value, of a given kind of reading (log 8). -/
def State.freeNat (s : State) : Nat × State := ((Config.freeWord s.free).toNat, { s with free := s.free + 1 })

/-! ## The shapes of a command -/

/-- Time moves to the command's instant, and never back. -/
def State.advance (s : State) (t : Tick) : State := { s with now := max s.now t }

/-- What no command changes whatever else it does: the queue and the model's time as they stand, a blown fuse stays blown
(16 R463), and IRQEN[2] reads 1 (13 R368). -/
def State.settle (s s' : State) : State :=
  { s' with
    now := s.now
    pending := s.pending
    test := { s'.test with fuses := s.test.fuses ||| s'.test.fuses }
    port := { s'.port with regs := { s'.port.regs with irqen := s'.port.regs.irqen ||| 4#32 } } }

/-- An event of the table at an instant: it acts where its condition holds, and elsewhere it does not happen (log 4). -/
def occurs (t : Tick) (ok : State → Bool) (act : State → State) (s : State) : Host.Outcome State Fault Refusal :=
  .next (State.settle (s.advance t) (if ok (s.advance t) then act (s.advance t) else s.advance t))

end Sys2Proof.Machine
end

