-- ==== Sys2Proof/Machine/Images.lean ====
section
/-! DEFINITION. Stream images: the record, rings and state arrays byte by byte (05 R120, R121), state cards (R140), the
checks of an import (R143), creation (R139), and the places that streams pass through. -/

namespace Sys2Proof.Machine

/-- LENGTH of an image (05 R121). -/
def Image.length (i : Image) : Nat := 1024 + (i.dims.map fun d => 2 * d.1 * d.2).sum
/-- Ledger pages of an image (05 R122). -/
def Image.pages (i : Image) : Nat := ceilDiv i.length 8192

/-- SHIFTS of the record: three bits a state layer. -/
def shiftsNat : List Nat → Nat
  | [] => 0
  | j :: js => j % 8 + 8 * shiftsNat js

/-- The 64-byte stream record (05 Table 5.2). -/
def Image.record (i : Image) : Bytes :=
  leBytes 64 (0x5C4D + field 1 16 8 + field (i.pages - 1) 24 3 + field i.portable.toNat 27 1 + field i.live.toNat 28 1
    + field i.sid 32 13 + field i.patron 48 4 + i.gen.toNat * 2 ^ 64 + i.layout.toNat * 2 ^ 96 + i.step.toNat * 2 ^ 128
    + i.pos.toNat * 2 ^ 176 + field (shiftsNat i.shifts + i.farShifts * 2 ^ (3 * i.shifts.length)) 224 24 + field i.dims.length 248 4 + field i.rings.length 256 5
    + field i.length 288 32 + i.seed.toNat * 2 ^ 320)

/-- The 32 bytes of a calibration ring of 64 needs (05 R121). -/
def ringBytes (r : List Nat) : Bytes :=
  (List.range 32).map fun e => BitVec.ofNat 8 (r.getD (2 * e) 0 % 16 + 16 * (r.getD (2 * e + 1) 0 % 16))

/-- The image, bytes 0 to LENGTH − 1 (05 R121). -/
def Image.bytes (i : Image) : Bytes :=
  let head := i.record ++ i.rings.flatMap ringBytes ++ i.tail
  head ++ List.replicate (1024 - head.length) 0#8 ++ i.state.flatMap fun l => l.flatMap fun h => leBytes 2 (ofSigned h 16)

/-- The state card: the image and its SHA-256 (05 R140). -/
def Image.card (i : Image) : Bytes := i.bytes ++ sha256 i.bytes

/-- The needs of a ring from its 32 bytes. -/
def ringOfBytes (b : Bytes) : List Nat := b.flatMap fun x => [x.toNat % 16, x.toNat / 16]

/-- Signed 16-bit values from bytes. -/
def halfwords : Nat → Bytes → List Int
  | 0, _ => []
  | n + 1, b => toSigned (leNat (b.take 2)) 16 :: halfwords n (b.drop 2)

/-- The state arrays of an image from its bytes from byte 1,024 on. -/
def statesOf : List (Nat × Nat) → Bytes → List (List Int)
  | [], _ => []
  | d :: ds, b => halfwords (d.1 * d.2) b :: statesOf ds (b.drop (2 * d.1 * d.2))

/-- The image that bytes hold, under the dimensions of a folio. -/
def Image.ofBytes (dims : List (Nat × Nat)) (b : Bytes) : Image :=
  let r := leNat (b.take 64)
  let nr := bitsOf r 260 256
  let tail := (b.take 1024).drop (64 + 32 * nr)
  { portable := r.testBit 27, live := r.testBit 28, sid := bitsOf r 44 32, patron := bitsOf r 51 48
    gen := BitVec.ofNat 32 (bitsOf r 95 64), layout := BitVec.ofNat 32 (bitsOf r 127 96)
    step := BitVec.ofNat 48 (bitsOf r 175 128), pos := BitVec.ofNat 48 (bitsOf r 223 176)
    shifts := (List.range dims.length).map fun l => bitsOf r (3 * l + 226) (3 * l + 224)
    seed := BitVec.ofNat 64 (bitsOf r 383 320)
    rings := (List.range nr).map fun i => ringOfBytes ((b.drop (64 + 32 * i)).take 32)
    dims := dims, state := statesOf dims (b.drop 1024)
    farShifts := bitsOf r 247 (224 + 3 * dims.length), tail := if tail.all (· == 0#8) then [] else tail }

/-- Why an import is refused: the LAYOUT error, or CARD with the check that failed first (05 R143, 14 R406). -/
inductive CardFault where
  | layout | check (name : String)
  deriving DecidableEq, Repr

/-- The checks of R143 in their order, MODE among them where the card is to be portable: none where the card is accepted. -/
def cardFaultIn (portable : Bool) (f : FolioInfo) (b : Bytes) : Option CardFault :=
  let r := leNat (b.take 64)
  let len := 1024 + (f.stateLayers.map fun d => 2 * d.1 * d.2).sum
  if bitsOf r 15 0 ≠ 0x5C4D ∨ bitsOf r 23 16 ≠ 1 then some (.check "magic")
  else if portable && !r.testBit 27 then some (.check "mode")
  else if bitsOf r 127 96 ≠ f.layout.toNat then some .layout
  else if bitsOf r 319 288 ≠ len ∨ b.length ≠ len + 32 ∨ bitsOf r 26 24 ≠ ceilDiv len 8192 - 1
      ∨ bitsOf r 251 248 ≠ f.stateLayers.length ∨ bitsOf r 260 256 ≠ f.nring then some (.check "length")
  else if bitsOf r 31 29 ≠ 0 ∨ bitsOf r 47 45 ≠ 0 ∨ bitsOf r 63 52 ≠ 0 ∨ bitsOf r 255 252 ≠ 0 ∨ bitsOf r 287 261 ≠ 0
      ∨ bitsOf r 511 384 ≠ 0 then some (.check "reserved")
  else if b.drop len ≠ sha256 (b.take len) then some (.check "digest")
  else none

/-- Why an import is refused: its card is a portable one's. -/
def cardFault (f : FolioInfo) (b : Bytes) : Option CardFault := cardFaultIn true f b

/-- The image of a newly created stream (05 R139). -/
def newImage (f : FolioInfo) (sid slot : Nat) (gen : BitVec 32) (portable live : Bool) (seed : BitVec 64) : Image :=
  { portable := portable, live := live, sid := sid, patron := slot, gen := gen, layout := f.layout
    shifts := f.shifts, seed := seed, rings := List.replicate f.nring (List.replicate 64 0), dims := f.stateLayers
    state := f.stateLayers.map fun d => List.replicate (d.1 * d.2) 0 }

/-- The generation that a creation or import gives (05 R144). -/
def nextGen (g : BitVec 32) : BitVec 32 := if g = 0xFFFFFFFF#32 then 1 else g + 1

/-- A request that has not ended. -/
def Request.isOpen (r : Request) : Bool := r.state == .queued || r.state == .running
/-- Identifiers that an open request has chosen for its copies. -/
def Request.chosen (r : Request) : List Nat := if r.isOpen then r.cells.map (·.copy) ++ r.copy.toList else []
/-- Its boundary is still to come: its streams do not exist yet. -/
def Request.ahead (r : Request) (n : BitVec 48) : Bool := r.isOpen && decide (n < r.begins)
/-- Identifiers that open requests have taken, each until its copy is freed (09 R261). -/
def State.takenSids (s : State) : List Nat :=
  s.requests.flatMap fun r => r.chosen.filter fun sid => r.ahead s.stamp.number || (s.stream sid).place != .free
/-- Ledger pages in use in a slot: its streams', and those that its request will take at its boundary. -/
def State.pagesUsed (s : State) (p : Nat) : Nat :=
  ((s.streams.filter fun x => x.slot == p && (x.place == .parked || x.place == .resident)).map (·.pages)).sum
  + ((s.requests.filter fun r => r.slot == p && r.ahead s.stamp.number).map (·.pages)).sum
/-- Pages of the monitor card that a slot with live streams keeps (05 R117). -/
def State.monitorPages (s : State) (p : Nat) : Nat :=
  if s.streams.any fun x => x.slot == p && x.committed.live && x.place != .free && x.place != .exported then 8 else 0
def State.pagesFree (s : State) (p : Nat) : Nat := (s.patron p).pages - s.pagesUsed p - s.monitorPages p
/-- Lendable pages not yet lent, of the 11,776 (07 R192); retired pages are never lent again (16 R454). -/
def State.pagesUnlent (s : State) : Nat :=
  11776 - s.steward.retired - (s.patrons.map (·.pages)).sum - (s.changes.map (·.pages)).sum

/-- Bytes that the stream records of slot 1 take in a snapshot (15 R432). -/
def State.snapshotBytes (s : State) : Nat :=
  ((s.streams.filter fun x => x.slot == 1 && (x.place == .parked || x.place == .resident)).map
    fun x => x.committed.length + 128).sum

/-- A stream whose image moves to the ledger (05 R135): PARKED, its working copy dropped. -/
def StreamSt.park (x : StreamSt) : StreamSt :=
  if x.place = .resident then { x with place := .parked, ledger := x.committed, work := x.committed, wide := [] } else x
/-- Park every resident stream that a test picks. -/
def State.parkAll (s : State) (f : StreamSt → Bool) : State :=
  { s with streams := s.streams.map fun x => if f x then x.park else x }
/-- A stream released: FREE, its generation kept (05 R139, R144). -/
def StreamSt.release (x : StreamSt) : StreamSt := { sid := x.sid, gen := x.gen }

/-- The learned side of a cell whose stream brings an image: the step that it has committed last shows its STEP, POS and SEED, and the folio that is bound;
what the image does not hold is 0 (09 R241, log 145). -/
def Learned.ofImage (i : Image) (folio : Option (BitVec 32)) : Learned :=
  if i.step = 0 then { seed := i.seed } else { step := i.step, pos := i.pos, seed := i.seed, folio := folio.getD 0 }
/-- A cell takes a stream with what its image shows, or none. It has no previous committed step of its own: channels 1 and 6 of its first row are 0, as
channel 5 falls back to its own span (09 R237, log 130). -/
def CellSt.give (c : CellSt) (x : Option (Nat × Learned)) : CellSt :=
  { c with sid := x.map (·.1), learned := (x.map (·.2)).getD {}, inputs := [], prevVolt := none, extra := [], stepped := false, isStale := true
           divs := [{}, {}, {}] }

/-- Cells that keep no stream take the new ones, in order. -/
def giveCells (keeps : CellSt → Bool) : List (Nat × Learned) → List CellSt → List CellSt
  | _, [] => []
  | new, c :: cs =>
    if keeps c then c :: giveCells keeps new cs else
    match new with
    | x :: xs => c.give (some x) :: giveCells keeps xs cs
    | [] => (if c.sid.isNone then c else c.give none) :: giveCells keeps [] cs

/-- Live streams of slot 1 model the cells (log 11): a cell keeps its stream while it is live or waits to be restored, and a live stream
without a cell takes the first that has none, in ascending SID and in shelfmark and cell order. -/
def State.remapCells (s : State) : State :=
  let live := (s.streams.filter fun x => x.slot == 1 && x.committed.live && (x.place == .parked || x.place == .resident)).map (·.sid)
  let back := (s.restoring.getD []).map (·.1)
  let keeps : CellSt → Bool := fun c => c.sid.any fun x => live.contains x || back.contains x
  let new := live.filter fun x => !s.cells.any fun c => c.sid == some x
  { s with cells := giveCells keeps (new.map fun x => (x, .ofImage (s.stream x).committed (s.patron 1).folio)) s.cells }

/-- Whether a stream is named by an admitted charge that has neither committed nor been abandoned (05 R146). -/
def ChargeSt.names (c : ChargeSt) (sid : Nat) : Bool := c.rows.any fun r => r.toNat % 2 ^ 13 == sid && r.getLsbD 13
def State.streamBusy (s : State) (sid : Nat) : Bool :=
  s.charges.any fun c => c.phase == .admitted && !c.abandoned && c.names sid

end Sys2Proof.Machine
end

