-- ==== Sys2Proof/Machine/Frames.lean ====
section
/-! DEFINITION. The data port's rings: positions, room, the frame header, announcing, dropping and holding frames (13 R369 to
R374), the event records, and the frames that carry them. -/

namespace Sys2Proof.Machine

/-- SIZE and BASE of a ring (13 Table 13.7). -/
def ringSize : Nat → Nat
  | 0 => 589824 | 1 => 65536 | 3 => 524288 | _ => 131072
def ringBase : Nat → Nat
  | 0 => 0x00100000 | 1 => 0x00190000 | 2 => 0x001A0000 | 3 => 0x001C0000 | 4 => 0x00240000 | _ => 0x00260000

/-- Bytes in use between two positions (13 R369). -/
def inUse (size : Nat) (prod cons : Pos) : Nat :=
  if prod.lap = cons.lap then prod.off - cons.off else size - cons.off + prod.off

/-- The 32-bit register value of a position. -/
def Pos.word (p : Pos) : Nat := p.off + p.lap.toNat * 2 ^ 31
def Pos.ofWord (v : BitVec 32) : Pos := { off := v.toNat % 2 ^ 24, lap := v.getLsbD 31 }

/-- Bytes that a frame of a payload length occupies (13 R370). -/
def frameSize (len : Nat) : Nat := 32 + 32 * ceilDiv len 32

/-- The 32-byte frame header (13 Table 13.8). -/
def frameHeader (ftype : Nat) (lost : Bool) (len seq : Nat) (stamp : BitVec 48) (run : BitVec 32) (nrec : Nat) (pcrc : BitVec 32) : Bytes :=
  leBytes 32 (ftype % 256 + 256 + lost.toNat * 2 ^ 16 + field len 32 32 + field seq 64 32 + stamp.toNat * 2 ^ 96
    + run.toNat * 2 ^ 144 + field nrec 176 16 + pcrc.toNat * 2 ^ 192)

/-- A position moved past n bytes, the lap inverted when it comes back to offset 0. -/
def Pos.past (p : Pos) (size n : Nat) : Pos :=
  if p.off + n < size then { p with off := p.off + n } else { off := p.off + n - size, lap := !p.lap }

def State.ring (s : State) (r : Nat) : Ring := s.port.rings.getD r {}
def State.modRing (s : State) (r : Nat) (f : Ring → Ring) : State :=
  { s with port := { s.port with rings := s.port.rings.modify r f } }
def State.writeRing (s : State) (a : Nat) (b : Bytes) : State :=
  { s with port := { s.port with ringMem := memWrite s.port.ringMem a b } }

/-- Bytes up to the end of the ring that a frame leaves to a PAD: none when it fits before the end (13 R370). -/
def padBytes (size off need : Nat) : Nat := if off + need ≤ size then 0 else size - off

/-- Whether a ring has room for a frame, its PAD included. -/
def State.hasRoom (s : State) (r len : Nat) : Bool :=
  let q := s.ring r
  let need := frameSize len
  decide (padBytes (ringSize r) q.prod.off need + need + inUse (ringSize r) q.prod q.cons ≤ ringSize r)

/-- IRQ bit of a ring's announcements (13 Table 13.5). -/
def ringIrq : Nat → Nat
  | 0 => 0 | 1 => 1 | 2 => 3 | 3 => 4 | _ => 5

/-- Write a frame, with the PAD it needs, and announce it; after drops, mark it LOST and raise RINGDROP (13 R370, R371,
R373). -/
def State.announce (s : State) (r : Nat) (f : HeldFrame) : State :=
  let q := s.ring r
  let size := ringSize r
  let need := frameSize f.payload.length
  let pad := padBytes size q.prod.off need
  let s := if pad = 0 then s else
    s.writeRing (ringBase r + q.prod.off) (frameHeader 0 false (pad - 32) q.seq f.stamp s.stamp.run 0
      (crc32 (memRead s.port.ringMem (ringBase r + q.prod.off + 32) (pad - 32))))
  let at0 : Pos := if pad = 0 then q.prod else q.prod.past size pad
  let padded := f.payload ++ List.replicate (need - 32 - f.payload.length) 0#8
  let s := s.writeRing (ringBase r + at0.off)
    (frameHeader f.ftype q.lost f.payload.length q.seq f.stamp s.stamp.run f.nrec (crc32 f.payload) ++ padded)
  let s := s.modRing r fun q => { q with
    prod := at0.past size need
    seq := (q.seq + 1) % 2 ^ 32
    lost := false
    dropped := 0
    starts := q.starts ++ (if pad = 0 then [] else [q.prod]) ++ [at0] }
  let s := s.irqSet (ringIrq r)
  if q.dropped = 0 then s else s.raise 0x70 none none r q.dropped 0 0

/-- Drop a frame: its SEQ is used, DROPS rises and IRQ[9] is set (13 R371). -/
def State.dropFrame (s : State) (r : Nat) : State :=
  ((s.modRing r fun q => { q with seq := (q.seq + 1) % 2 ^ 32, lost := true, dropped := q.dropped + 1 }).modRegs fun g =>
    { g with drops := if g.drops = 0xFFFFFFFF#32 then g.drops else g.drops + 1 }).irqSet 9

/-- Send a frame to a ring: announced when there is room and nothing waits; without room dropped on rings 0 and 2, held on
rings 3 and 4 (13 Table 13.7). -/
def State.sendFrame (s : State) (r ftype : Nat) (stamp : BitVec 48) (nrec : Nat) (payload : Bytes) : State :=
  let f : HeldFrame := { ftype := ftype, stamp := stamp, nrec := nrec, payload := payload }
  if (s.ring r).held.isEmpty && s.hasRoom r payload.length then s.announce r f
  else if r = 0 ∨ r = 2 then s.dropFrame r
  else s.modRing r fun q => { q with held := q.held ++ [f] }

/-- The 16-byte payload head (13 Table 13.10). -/
def payloadHead (tag sid kind : Nat) (lastp : Bool) (kstep part count aux : Nat) : Bytes :=
  leBytes 16 (tag % 2 ^ 32 + field sid 32 13 + field kind 48 2 + lastp.toNat * 2 ^ 50 + field kstep 51 3
    + field part 64 16 + field count 80 16 + field aux 96 32)

/-- A 32-byte event record (13 Table 13.15). -/
def Event.bytes (e : Event) : Bytes :=
  leBytes 32 (e.code.toNat + field (e.patron.getD 0) 16 4 + e.patron.isSome.toNat * 2 ^ 20 + field (e.stack.getD 0) 24 3
    + e.stack.isSome.toNat * 2 ^ 27 + e.stamp.toNat * 2 ^ 32 + e.a0.toNat * 2 ^ 96 + e.a1.toNat * 2 ^ 128
    + e.a2.toNat * 2 ^ 160 + e.a3.toNat * 2 ^ 192 + e.seq.toNat * 2 ^ 224)

/-- The first element that a test picks, and the list without it. -/
def removeFirst {α : Type} (p : α → Bool) : List α → List α
  | [] => []
  | x :: xs => if p x then xs else x :: removeFirst p xs

/-- Held events over 256 are discarded, the oldest other than PROTECT first; each discard counts as a dropped frame
(13 R380). -/
def discardEvents : Nat → State → State
  | 0, s => s
  | k + 1, s =>
    if s.events.fresh.length ≤ 256 then s
    else if s.events.fresh.any fun e => e.code != 1 then
      discardEvents k (({ s with events := { s.events with fresh := removeFirst (fun e => e.code != 1) s.events.fresh } }).dropFrame 1)
    else s

/-- Events in the frames that they go in: a PROTECT in one of its own, the others together up to it (13 R380). -/
def eventRuns : List Event → List (List Event)
  | [] => []
  | e :: es => match e.code == 1, eventRuns es with
    | false, (x :: xs) :: rs => if x.code == 1 then [e] :: (x :: xs) :: rs else (e :: x :: xs) :: rs
    | _, rs => [e] :: rs
/-- One EVENT frame on ring 1; IRQ[2] tells of a PROTECT. -/
def State.writeRun (s : State) (evs : List Event) : State :=
  let s := ({ s with events := { s.events with fresh := s.events.fresh.filter fun e => !evs.contains e } } : State).announce 1
    { ftype := 2, stamp := s.stamp.number, nrec := evs.length, payload := evs.flatMap Event.bytes }
  if evs.any fun e => e.code == 1 then s.irqSet 2 else s
/-- The frames that ring 1 has room for; a PROTECT does not wait for those before it. -/
def writeRuns : Bool → List (List Event) → State → State
  | _, [], s => s
  | waits, r :: rs, s =>
    if s.hasRoom 1 (32 * r.length) && (!waits || r.any fun e => e.code == 1) then writeRuns waits rs (s.writeRun r)
    else writeRuns true rs s

/-- Write the events raised since the last EVENT frame, or hold those for which there is no room (13 R380). -/
def State.writeEvents (s : State) : State :=
  let s := writeRuns false (eventRuns s.events.fresh) s
  discardEvents s.events.fresh.length s

/-- Pair B holds an event of its limits until it has restarted (16 R453). -/
def State.holdProtect (s : State) (code lim key value set : Nat) : State :=
  { s with steward := { s.steward with heldProtect := s.steward.heldProtect ++ [{
      code := BitVec.ofNat 16 code
      a0 := BitVec.ofNat 32 lim
      a1 := BitVec.ofNat 32 key
      a2 := BitVec.ofNat 32 value
      a3 := BitVec.ofNat 32 set }] } }
/-- Raise a PROTECT event: the events before it go first in a frame of their own, and it is written at once (13 R380).
While pair A restarts it waits for ring 1 with HIRQ_N asserted; while pair B restarts it waits to be raised (16 R452, R453). -/
def State.raiseProtect (s : State) (lim key value set : Nat) : State :=
  if s.steward.bDown.isSome then s.holdProtect 1 lim key value set
  else if s.steward.aDown.isSome then (s.raise 1 none none lim key value set).irqSet 2
  else ((s.writeEvents).raise 1 none none lim key value set).writeEvents

/-- An input frame that ring 5 gives to a command (13 R372). -/
structure InFrame where
  ftype : Nat
  sid : Nat
  kind : Nat
  kstep : Nat
  count : Nat
  body : Bytes
  deriving DecidableEq, Repr
/-- The body of a TENSOR frame is COUNT rows of one length, of whole codes in the format that KIND names (R374, R383). -/
def InFrame.whole (f : InFrame) : Bool :=
  decide (0 < f.count ∧ f.kind ≤ 1 ∧ f.body.length % (f.count * (f.kind + 1)) = 0)

/-- CONS of ring 5 moved past a frame of n bytes; IRQ[6] marks the consumption (13 Table 13.5). -/
def State.consumeInput (s : State) (n : Nat) : State :=
  (s.modRing 5 fun q => { q with cons := q.cons.past (ringSize 5) n }).irqSet 6

/-- PAD frames at CONS of ring 5 are consumed as they are met, but for one that runs past PROD or past the end of the ring. -/
def skipPads : Nat → State → State
  | 0, s => s
  | k + 1, s =>
    let q := s.ring 5
    let h := leNat (memRead s.port.ringMem (ringBase 5 + q.cons.off) 32)
    let n := frameSize (bitsOf h 63 32)
    if q.cons = q.prod ∨ bitsOf h 7 0 ≠ 0 ∨ n > inUse (ringSize 5) q.prod q.cons ∨ q.cons.off + n > ringSize 5 then s
    else skipPads k (s.consumeInput n)

/-- Take the frame at CONS of ring 5 for a command that names a tag and takes some types (13 R372). -/
def State.takeInputOf (s : State) (ftypes : List Nat) (tag : Nat) : Option InFrame × State :=
  let s := skipPads 4096 s
  let q := s.ring 5
  if q.cons = q.prod then (none, s) else
  let a := ringBase 5 + q.cons.off
  let h := leNat (memRead s.port.ringMem a 32)
  let len := bitsOf h 63 32
  let n := frameSize len
  let used := inUse (ringSize 5) q.prod q.cons
  if n > used ∨ q.cons.off + n > ringSize 5 then (none, (s.modRing 5 fun q => { q with cons := q.prod }).errSet 2)
  else
    let p := memRead s.port.ringMem (a + 32) len
    let hd := leNat (p.take 16)
    if bitsOf hd 31 0 ≠ tag % 2 ^ 32 then (none, s)
    else
      let s' := s.consumeInput n
      if bitsOf h 223 192 ≠ (crc32 p).toNat ∨ !ftypes.contains (bitsOf h 7 0) then (none, s')
      else (some { ftype := bitsOf h 7 0, sid := bitsOf hd 44 32, kind := bitsOf hd 49 48, kstep := bitsOf hd 53 51
                   count := bitsOf hd 95 80, body := p.drop 16 }, s')

/-- The same for a command that takes one type. -/
def State.takeInput (s : State) (ftype tag : Nat) : Option InFrame × State := s.takeInputOf [ftype] tag

/-- The REQEND frame of a request (13 R381): 0 DONE, 1 CANCELLED, 2 REFUSED with its status and INDEX. -/
def State.reqEnd (s : State) (r : Request) (kind : Nat) : State :=
  let aux := match r.refusal with
    | some (st, i) => st.toNat + 256 * (i % 256)
    | none => 0
  s.sendFrame 3 0x08 s.stamp.number 0 (payloadHead r.num 0 kind false 0 0 0 aux)

end Sys2Proof.Machine
end

