-- ==== Sys2Proof/Machine/Operands.lean ====
section
/-! DEFINITION. The operand forms of the stack command set: the descriptor header and bodies of 06 Tables 6.1 to 6.10, the
row table of Table 6.2, their reserved bits, the bytes they read and write, and what they cost (R179). -/

namespace Sys2Proof.Machine

/-- Bits hi..lo of a descriptor. -/
def dbits (d : BitVec 512) (hi lo : Nat) : Nat := bitsOf d.toNat hi lo
/-- One bit of a descriptor. -/
def dbit (d : BitVec 512) (i : Nat) : Bool := d.getLsbD i

/-! ## Header and row table -/

def dOp (d : BitVec 512) : Nat := dbits d 7 0
def dIndex (d : BitVec 512) : Nat := dbits d 15 8
def dLast (d : BitVec 512) : Bool := dbit d 20
def dRec (d : BitVec 512) : Bool := dbit d 21

/-- A descriptor with bits hi..lo replaced. -/
def dPut (d : BitVec 512) (hi lo v : Nat) : BitVec 512 :=
  BitVec.ofNat 512 (d.toNat - dbits d hi lo * 2 ^ lo + (v % 2 ^ (hi + 1 - lo)) * 2 ^ lo)

/-- A row table entry (06 Table 6.2). -/
structure Row where
  sid : Nat
  use : Bool
  reset : Bool
  home : Nat
  gen : BitVec 32
  deriving DecidableEq, Repr

def Row.ofBits (r : BitVec 64) : Row :=
  { sid := bitsOf r.toNat 12 0, use := r.getLsbD 13, reset := r.getLsbD 14, home := bitsOf r.toNat 31 16
    gen := r.extractLsb' 32 32 }
/-- Row i of a row table; beyond its end a row with USE = 0. -/
def rowAt (rows : List (BitVec 64)) (i : Nat) : Row := Row.ofBits (rows.getD i 0)

/-! ## Opcodes (06 Table 6.3) -/

inductive Op where
  | streamin | matmul | scan | bind | recall | park | commit | xfer | shadow | digest | colophon | sync
  deriving DecidableEq, Repr

def Op.ofCode : Nat → Option Op
  | 0x01 => some .streamin | 0x10 => some .matmul | 0x18 => some .scan | 0x20 => some .bind | 0x28 => some .recall
  | 0x29 => some .park | 0x2C => some .commit | 0x30 => some .xfer | 0x34 => some .shadow | 0x38 => some .digest
  | 0x39 => some .colophon | 0x3C => some .sync | _ => none
def Op.engine : Op → Engine
  | .streamin => .fill | .recall => .ledIn | .park => .ledOut | _ => .main
/-- The three opcodes that no stop request ends early (06 Table 6.3). -/
def Op.preemptible : Op → Bool
  | .streamin | .scan | .colophon => false
  | _ => true

/-! ## Bodies -/

/-- MATMUL (06 Table 6.4). -/
structure MatBody where
  mode : Nat
  grp : Nat
  outw : Bool
  runcal : Bool
  tags : Bool
  ifmt : Bool
  b : Nat
  din : Nat
  dout : Nat
  wide : Nat
  walign : Int
  zin : Nat
  zout : Nat
  row0 : Nat
  fuse : Nat
  ring : Nat
  ringv : Bool
  clipt : Nat
  nsm : Nat
  pages : Nat
  slips : Nat
  rowf : Nat
  wpages : Nat
  xin : Nat
  xtag : Nat
  xwide : Nat
  yout : Nat
  ytag : Nat
  eop : Nat
  ftab : Nat
  esh : Nat
  ez : Nat
  deriving DecidableEq, Repr

def MatBody.of (d : BitVec 512) : MatBody :=
  { mode := dbits d 65 64, grp := dbits d 67 66, outw := dbit d 68, runcal := dbit d 69, tags := dbit d 70
    ifmt := dbit d 71, b := dbits d 80 72, din := dbits d 102 88, dout := dbits d 117 104, wide := dbits d 126 120
    walign := toSigned (dbits d 132 128) 5, zin := dbits d 143 136, zout := dbits d 151 144, row0 := dbits d 159 152
    fuse := dbits d 162 160, ring := dbits d 172 168, ringv := dbit d 173, clipt := dbits d 183 176
    nsm := dbits d 189 184, pages := dbits d 209 192, slips := dbits d 227 210, rowf := dbits d 245 228
    wpages := dbits d 273 256, xin := dbits d 303 288, xtag := dbits d 319 304, xwide := dbits d 335 320
    yout := dbits d 351 336, ytag := dbits d 367 352, eop := dbits d 383 368, ftab := dbits d 399 384
    esh := dbits d 403 400, ez := dbits d 415 408 }

/-- Group size in reduction elements. -/
def MatBody.group (m : MatBody) : Nat := 32 * 2 ^ m.grp
def MatBody.ein (m : MatBody) : Nat := if m.ifmt then 2 else 1
def MatBody.eout (m : MatBody) : Nat := if m.outw then 2 else 1
/-- Weight codes per byte pair: a W4A8 page line holds twice the codes. -/
def MatBody.empty (m : MatBody) : Bool := m.b = 0 || m.dout = 0 || (m.din = 0 && m.wide = 0)

/-- SCAN (06 Table 6.5). -/
structure ScanBody where
  ns : Nat
  l : Nat
  runcal : Bool
  w32 : Bool
  rmask : Bool
  layer : Nat
  kc : Nat
  d : Nat
  nn : Nat
  row0 : Nat
  sa : Nat
  sb : Nat
  sy : Nat
  sg : Nat
  aal : Nat
  ring : Nat
  ringv : Bool
  clipt : Nat
  sclipt : Nat
  param : Nat
  xin : Nat
  yout : Nat
  rmaddr : Nat
  ytag : Nat
  deriving DecidableEq, Repr

def ScanBody.of (d : BitVec 512) : ScanBody :=
  { ns := dbits d 69 64, l := dbits d 83 72, runcal := dbit d 84, w32 := dbit d 85, rmask := dbit d 86
    layer := dbits d 90 88, kc := dbits d 95 92, d := dbits d 108 96, nn := dbits d 116 112, row0 := dbits d 127 120
    sa := dbits d 133 128, sb := dbits d 139 134, sy := dbits d 145 140, sg := dbits d 151 146, aal := dbits d 155 152
    ring := dbits d 160 156, ringv := dbit d 161, clipt := dbits d 175 168, sclipt := dbits d 183 176
    param := dbits d 209 192, xin := dbits d 239 224, yout := dbits d 255 240, rmaddr := dbits d 271 256
    ytag := dbits d 287 272 }

def ScanBody.empty (b : ScanBody) : Bool := b.ns = 0 || b.l = 0 || b.d = 0 || b.nn = 0

/-- BIND (06 Table 6.6). -/
structure BindBody where
  opb : Nat
  w : Bool
  count : Nat
  zx : Nat
  zy : Nat
  ez : Nat
  esh : Nat
  xin : Nat
  eop : Nat
  yout : Nat
  ftab : Nat
  deriving DecidableEq, Repr

def BindBody.of (d : BitVec 512) : BindBody :=
  { opb := dbits d 66 64, w := dbit d 67, count := dbits d 88 68, zx := dbits d 103 96, zy := dbits d 111 104
    ez := dbits d 119 112, esh := dbits d 123 120, xin := dbits d 143 128, eop := dbits d 159 144
    yout := dbits d 175 160, ftab := dbits d 191 176 }

/-- STREAMIN (06 Table 6.7). -/
structure FillBody where
  dst : Nat
  bytes : Nat
  final : Bool
  region : Nat
  src : Nat
  deriving DecidableEq, Repr

def FillBody.of (d : BitVec 512) : FillBody :=
  { dst := dbits d 81 64, bytes := dbits d 106 88, final := dbit d 107, region := dbits d 113 108, src := dbits d 159 128 }

/-- RECALL, PARK and COMMIT (06 Table 6.8). -/
structure MoveBody where
  row0 : Nat
  nr : Nat
  lsteps : Nat
  deriving DecidableEq, Repr

def MoveBody.of (d : BitVec 512) : MoveBody := { row0 := dbits d 71 64, nr := dbits d 80 72, lsteps := dbits d 94 82 }

/-- XFER (06 Table 6.9). -/
structure XferBody where
  bridge : Bool
  dstk : Nat
  bytes : Nat
  src : Nat
  dst : Nat
  deriving DecidableEq, Repr

def XferBody.of (d : BitVec 512) : XferBody :=
  { bridge := dbit d 64, dstk := dbits d 67 66, bytes := dbits d 89 68, src := dbits d 143 128, dst := dbits d 159 144 }

/-- SHADOW (06 Table 6.9). -/
structure ShadowBody where
  row : Nat
  layer : Nat
  ch : Nat
  deriving DecidableEq, Repr

def ShadowBody.of (d : BitVec 512) : ShadowBody := { row := dbits d 71 64, layer := dbits d 74 72, ch := dbits d 87 76 }

/-- DIGEST and COLOPHON (06 Table 6.10). -/
structure DigestBody where
  ctx : Nat
  bytes : Nat
  init : Bool
  addr : Nat
  row : Nat
  deriving DecidableEq, Repr

def DigestBody.of (d : BitVec 512) : DigestBody :=
  { ctx := dbits d 67 64, bytes := dbits d 93 72, init := dbit d 94, addr := dbits d 143 128, row := dbits d 151 144 }

/-! ## Reserved bits -/

/-- The reserved bit ranges (hi, lo) of each opcode's body, and those of the header. -/
def rsRanges : Op → List (Nat × Nat)
  | .streamin => [(31, 22), (87, 82), (127, 114), (511, 160)]
  | .matmul => [(31, 22), (87, 81), (103, 103), (119, 118), (127, 127), (135, 133), (167, 163), (175, 174), (191, 190),
      (255, 246), (287, 274), (407, 404), (511, 416)]
  | .scan => [(31, 22), (71, 70), (87, 87), (91, 91), (111, 109), (119, 117), (167, 162), (191, 184), (223, 210), (511, 288)]
  | .bind => [(31, 22), (95, 89), (127, 124), (511, 192)]
  | .recall | .park => [(31, 22), (81, 81), (511, 82)]
  | .commit => [(31, 22), (81, 81), (511, 95)]
  | .xfer => [(31, 22), (65, 65), (127, 90), (511, 160)]
  | .shadow => [(31, 22), (75, 75), (511, 88)]
  | .digest => [(31, 22), (71, 68), (127, 95), (511, 144)]
  | .colophon => [(31, 22), (71, 68), (127, 72), (511, 152)]
  | .sync => [(31, 22), (511, 64)]
def rsClear (o : Op) (d : BitVec 512) : Bool := (rsRanges o).all fun r => dbits d r.1 r.2 = 0

/-! ## Cycle costs (06 Table 6.11) -/

/-- An empty descriptor costs 0 (06 R180). -/
def emptyDesc (o : Op) (d : BitVec 512) : Bool :=
  match o with
  | .streamin => (FillBody.of d).bytes = 0
  | .matmul => (MatBody.of d).empty
  | .scan => (ScanBody.of d).empty
  | .bind => (BindBody.of d).count = 0
  | .recall | .park => (MoveBody.of d).nr = 0
  | .commit => (MoveBody.of d).nr = 0 || (MoveBody.of d).lsteps = 0
  | .xfer => (XferBody.of d).bytes = 0
  | .digest => (DigestBody.of d).bytes = 0
  | _ => false

/-- Output rows of a row tile on n available shelves, by weight mode. -/
def tileOf (mode n : Nat) : Nat := if mode = 1 then 2 * n else n
/-- Cycles that one row tile of a MATMUL takes on n available shelves: the longest of its passes, its annex work and a drain. -/
def tileCycles (mode din wide n : Nat) : Nat :=
  max (max (ceilDiv din 32 * if mode = 2 then 2 else 1) (tileOf mode n * ceilDiv wide 32)) (ceilDiv (32 * tileOf mode n) 128)
/-- Cost of a MATMUL of b batch rows on n available shelves. -/
def matCycles (mode b din dout wide n : Nat) : Nat := 64 + ceilDiv b 32 * ceilDiv dout (tileOf mode n) * tileCycles mode din wide n
def matCost (m : MatBody) (n : Nat) : Nat := matCycles m.mode m.b m.din m.dout m.wide n
/-- Cost of a SCAN (06 Table 6.11, R170). -/
def scanCost (b : ScanBody) : Nat :=
  let u := ceilDiv (b.ns * b.d * b.nn) 128 + ceilDiv (b.ns * b.d) 128
  64 + b.l * max (if b.w32 then 4 * u else u) 12

/-- The ledger pages that the catalogue holds for a stream; a freed identifier counts one page (log 24). -/
def State.rowPages (s : State) (sid : Nat) : Nat := max 1 (s.stream sid).pages

/-- Cost of one descriptor on a stack with n available shelves, under a row table. -/
def descCost (s : State) (n : Nat) (rows : List (BitVec 64)) (d : BitVec 512) : Nat :=
  match Op.ofCode (dOp d) with
  | none => 0
  | some o => if emptyDesc o d then 0 else
    match o with
    | .streamin => ceilDiv (FillBody.of d).bytes 32
    | .matmul => matCost (MatBody.of d) n
    | .scan => scanCost (ScanBody.of d)
    | .bind => 64 + ceilDiv (BindBody.of d).count 128
    | .recall | .park =>
      256 * (((List.range (MoveBody.of d).nr).map fun i =>
        let r := rowAt rows ((MoveBody.of d).row0 + i)
        if r.use then s.rowPages r.sid else 0).sum)
    | .commit => 64
    | .xfer => 64 + ceilDiv (XferBody.of d).bytes (if (XferBody.of d).bridge then 32 else 256)
    | .shadow => 64
    | .digest => 64 + 16 * ceilDiv (DigestBody.of d).bytes 64
    | .colophon => 2048
    | .sync => 16

/-- Time steps that descriptors take of a row: the L of the SCANs of one state layer that name it, added up. -/
def rowSteps (descs : List (BitVec 512)) (row : Nat) : Nat :=
  ((List.range 8).map fun l => (descs.map fun d =>
    let b := ScanBody.of d
    if Op.ofCode (dOp d) = some .scan ∧ b.layer = l ∧ b.row0 ≤ row ∧ row < b.row0 + b.ns ∧ !b.empty then b.l else 0).sum).foldl max 0

/-! ## Stop points (06 Table 6.3) -/

/-- Cycles of one row tile of a MATMUL. -/
def matTileCycles (m : MatBody) (n : Nat) : Nat := tileCycles m.mode m.din m.wide n

/-- Cycles in which the bindery takes a row tile's entries, 128 a cycle (03 R70). -/
def drainCycles (mode n : Nat) : Nat := ceilDiv (32 * tileOf mode n) 128

/-- The stop points of a descriptor: the cycles to the first and between two of them; none where its end is the only one. A row tile is written
once its entries have drained and the 24 cycles of the bindery's latency have passed (03 R70, R181); the fixed cycles of BIND, XFER and DIGEST come
first (log 111). -/
def stopSteps (n : Nat) (d : BitVec 512) : Option (Nat × Nat) :=
  match Op.ofCode (dOp d) with
  | some .matmul => some (matTileCycles (MatBody.of d) n + drainCycles (MatBody.of d).mode n + 24, matTileCycles (MatBody.of d) n)
  | some .bind => some (72, 8)
  | some .recall | some .park => some (256, 256)
  | some .xfer => if (XferBody.of d).bridge then some (192, 128) else some (80, 16)
  | some .digest => some (80, 16)
  | _ => none

/-- The first stop point at or after e cycles of a descriptor that costs c cycles; its end where none comes before. -/
def stopPointFrom (n : Nat) (d : BitVec 512) (c e : Nat) : Nat :=
  match stopSteps n d with
  | some (a, b) => min c (if e ≤ a then a else a + ceilDiv (e - a) b * b)
  | none => c

/-- The units of a descriptor that are whole after e of its c cycles. -/
def unitsDone (n : Nat) (d : BitVec 512) (c e : Nat) : Nat :=
  match stopSteps n d with
  | some (a, b) => if e < a then 0 else (min e c - a) / b + 1
  | none => 0

/-! ## Bytes read and written (06 R165) -/

/-- A byte range: first address and length. -/
abbrev Span := Nat × Nat

/-- Two byte ranges share a byte; a range of no bytes shares none. -/
def Span.meets (a b : Span) : Bool := decide (a.2 ≠ 0 ∧ b.2 ≠ 0 ∧ a.1 < b.1 + b.2 ∧ b.1 < a.1 + a.2)

/-- Rows named by a descriptor: first and count (06 R155). -/
def namedRows (o : Op) (d : BitVec 512) : Nat × Nat :=
  match o with
  | .matmul => ((MatBody.of d).row0, (MatBody.of d).nsm)
  | .scan => ((ScanBody.of d).row0, (ScanBody.of d).ns)
  | .recall | .park | .commit => ((MoveBody.of d).row0, (MoveBody.of d).nr)
  | .shadow => ((ShadowBody.of d).row, 1)
  | .colophon => ((DigestBody.of d).row, 1)
  | _ => (0, 0)

/-- Bytes of a stream's 32-bit state in the rebuild area (06 R169). -/
def rebuildBytes (dims : List (Nat × Nat)) : Nat := (dims.map fun d => 4 * d.1 * d.2).sum

/-- The images at HOME of the named rows: the rows' streams' pages, and for a SCAN in rebuild form the rebuild area that follows them. -/
def homeSpans (s : State) (rows : List (BitVec 64)) (o : Op) (d : BitVec 512) : List Span :=
  let area : Nat → Nat := fun sid => if o = .scan ∧ (ScanBody.of d).w32 then rebuildBytes (s.stream sid).work.dims else 0
  (List.range (namedRows o d).2).filterMap fun i =>
    let r := rowAt rows ((namedRows o d).1 + i)
    if r.use then some (64 * r.home, 8192 * s.rowPages r.sid + area r.sid) else none

/-- Carrel bytes that a descriptor reads. -/
def carrelReads (s : State) (rows : List (BitVec 64)) (d : BitVec 512) : List Span :=
  match Op.ofCode (dOp d) with
  | some .matmul =>
    let m := MatBody.of d
    if m.empty then [] else
    [(64 * m.xin, m.b * m.din * m.ein)] ++ (if m.tags then [(64 * m.xtag, m.b)] else [])
      ++ (if m.wide = 0 then [] else [(64 * m.xwide, m.b * m.wide * 2)])
      ++ (if m.fuse = 2 ∨ m.fuse = 3 then [(64 * m.eop, m.b * m.dout * m.eout)] else [])
      ++ (if m.fuse = 1 then [(64 * m.ftab, 784)] else [])
  | some .scan =>
    let b := ScanBody.of d
    if b.empty then [] else
    [(64 * b.xin, b.l * b.ns * (3 * b.d + 2 * b.nn) * 2)]
      ++ (if b.rmask then [(64 * b.rmaddr, ceilDiv (b.l * b.ns) 8)] else []) ++ homeSpans s rows .scan d
  | some .bind =>
    let b := BindBody.of d
    let n := b.count * (if b.w then 2 else 1)
    if b.count = 0 then [] else
    [(64 * b.xin, n)] ++ (if b.opb = 2 ∨ b.opb = 3 then [(64 * b.eop, n)] else [])
      ++ (if b.opb = 1 then [(64 * b.ftab, 784)] else [])
  | some .park => homeSpans s rows .park d
  | some .commit => homeSpans s rows .commit d
  | some .xfer => if (XferBody.of d).bytes = 0 then [] else [(64 * (XferBody.of d).src, (XferBody.of d).bytes)]
  | some .digest => if (DigestBody.of d).bytes = 0 then [] else [(64 * (DigestBody.of d).addr, (DigestBody.of d).bytes)]
  | _ => []

/-- Carrel bytes of its own stack that a descriptor writes. -/
def carrelWrites (s : State) (rows : List (BitVec 64)) (d : BitVec 512) : List Span :=
  match Op.ofCode (dOp d) with
  | some .matmul =>
    let m := MatBody.of d
    if m.empty then [] else [(64 * m.yout, m.b * m.dout * m.eout)] ++ [(64 * m.ytag, m.b)]
  | some .scan =>
    let b := ScanBody.of d
    if b.empty then [] else
    [(64 * b.yout, b.l * b.ns * b.d * 2)] ++ [(64 * b.ytag, b.l * b.ns)]
      ++ homeSpans s rows .scan d
  | some .bind =>
    let b := BindBody.of d
    if b.count = 0 then [] else [(64 * b.yout, b.count * (if b.w then 2 else 1))]
  | some .recall => homeSpans s rows .recall d
  | some .commit => homeSpans s rows .commit d
  | some .colophon => [(64 * (DigestBody.of d).addr, 32)]
  | _ => []

/-- Rows of a row block (04 R88). -/
def MatBody.blockRows (m : MatBody) : Nat := if m.mode = 1 then 64 else 32
/-- Reduction passes j of a layer (04 R89). -/
def MatBody.passes (m : MatBody) : Nat := ceilDiv m.din 32
/-- Pages of one row block (04 R89). -/
def MatBody.blockPages (m : MatBody) : Nat := ceilDiv m.passes 4
/-- Pages of the layer, wide pages apart (04 R89). -/
def MatBody.pageCount (m : MatBody) : Nat := ceilDiv m.dout m.blockRows * m.blockPages
/-- The slip stride Z (04 Table 4.3). -/
def MatBody.slipStride (m : MatBody) : Nat := max 64 (m.blockRows * (128 / m.group))

end Sys2Proof.Machine

namespace Sys2Proof
open Sys2Proof.Machine

/-- The MATMUL of a matrix layer, as far as its dimensions go. -/
def LayerInfo.mat (y : LayerInfo) : MatBody := { MatBody.of 0 with mode := y.mode, grp := y.grp, din := y.din, dout := y.dout, wide := y.wide }
/-- Bytes of a layer's pages, wide or parameter pages among them (04 R89, R94, 05 R128). -/
def LayerInfo.pageBytes (y : LayerInfo) : Nat :=
  4096 * match y.scan with
    | some (d, n) => ceilDiv (2 * d * n + 2 * d + 2352) 4096
    | none => y.mat.pageCount + ceilDiv (2 * y.dout * y.wide) 4096
/-- Bytes of its slips and row file (04 R91, R93, R94). -/
def LayerInfo.slipBytes (y : LayerInfo) : Nat :=
  if y.scan.isSome then 0 else y.mat.slipStride * y.mat.pageCount + 64 * ceilDiv y.dout 8
/-- The regions of a layer: its pages, and its slips with the row file, each in whole regions (03 R80, log 25). -/
def LayerInfo.regions (y : LayerInfo) : Nat := ceilDiv y.pageBytes 262144 + ceilDiv y.slipBytes 262144

end Sys2Proof

namespace Sys2Proof.Machine

/-- Weight-store bytes that a descriptor reads. -/
def storeReads (d : BitVec 512) : List Span :=
  match Op.ofCode (dOp d) with
  | some .matmul =>
    let m := MatBody.of d
    if m.empty then [] else
    (if m.din = 0 then [] else [(64 * m.pages, 4096 * m.pageCount), (64 * m.slips, m.slipStride * m.pageCount)])
      ++ [(64 * m.rowf, 64 * ceilDiv m.dout 8)]
      ++ (if m.wide = 0 then [] else [(64 * m.wpages, 4096 * ceilDiv (m.dout * m.wide * 2) 4096)])
  | some .scan =>
    let b := ScanBody.of d
    if b.empty then [] else [(64 * b.param, 4096 * ceilDiv (2 * b.d * b.nn + 2 * b.d + 2352) 4096)]
  | _ => []

end Sys2Proof.Machine
end

