-- ==== Sys2Proof/Machine/Charges.lean ====
section
/-! DEFINITION. Charges before they run: the checks of a submission in their order (06 R185), what follows a refusal (07
Table 7.5), costs and surcharges, admission at the pass and during the stamp (02 R39 to R42), and a charge's end or
abandonment (06 R186). -/

namespace Sys2Proof.Machine

/-! ## Statuses (06 Table 6.12) -/

def stDone : Nat := 0x00
def stMoved : Nat := 0x01
def stOversize : Nat := 0x02
def stAbandoned : Nat := 0x03
def stPreemptLost : Nat := 0x04
def stUnlent : Nat := 0x05
def stSkew : Nat := 0x08
def stEcc : Nat := 0x09
def stRange : Nat := 0x0A
def stBudget : Nat := 0x0B
def stInvalidReg : Nat := 0x0C
def stNotResident : Nat := 0x0D
def stBadOp : Nat := 0x10
def stReserved : Nat := 0x11
def stLimit : Nat := 0x12
def stFormat : Nat := 0x13
def stBounds : Nat := 0x14
def stForeign : Nat := 0x15
def stResetPort : Nat := 0x16
def stOrder : Nat := 0x17
def stMalformed : Nat := 0x18
def stTooMany : Nat := 0x19

/-! ## Submission checks -/

/-- Whether every 64 KiB block that a carrel range touches is among blocks (03 R68). -/
def spanInBlocks (blocks : List Nat) (sp : Span) : Bool :=
  sp.2 = 0 || (List.range (sp.2 / 65536 + 2)).all fun i =>
    let b := sp.1 / 65536 + i
    decide (sp.1 + sp.2 ≤ 65536 * b) || (decide (b < 48) && blocks.contains b)
/-- Whether every 256 KiB region that a weight-store range touches is among regions. -/
def spanInRegions (regions : List Nat) (sp : Span) : Bool :=
  sp.2 = 0 || (List.range (sp.2 / 262144 + 2)).all fun i =>
    let r := sp.1 / 262144 + i
    decide (sp.1 + sp.2 ≤ 262144 * r) || regions.contains r

/-- What a submission is checked against. -/
structure SubmitCtx where
  stack : Nat
  slot : Nat
  rows : List (BitVec 64)
  share : Share
  nring : Nat
  inputs : List (Nat × Bytes)

/-- The rows that a descriptor names lie in the row table (06 R155). -/
def rowsInside (x : SubmitCtx) (o : Op) (d : BitVec 512) : Bool :=
  let n := namedRows o d
  n.2 = 0 || decide (n.1 + n.2 ≤ x.rows.length) || (o == .colophon && x.rows.isEmpty)

/-- Field and dimension limits (06 LIMIT). -/
def limitOk (x : SubmitCtx) (o : Op) (d : BitVec 512) : Bool :=
  rowsInside x o d &&
  match o with
  | .matmul =>
    let m := MatBody.of d
    decide (m.mode ≤ 2) && decide (m.grp ≤ 2) && decide (m.fuse ≤ 3) && decide (m.b ≤ 256)
      && decide (m.din ≤ if m.mode = 2 then 4096 else 16384) && decide (m.dout ≤ 8192) && decide (m.wide ≤ 64)
      && decide (-16 ≤ m.walign ∧ m.walign ≤ 7) && decide (m.nsm ≤ 32) && (!m.runcal || m.ringv)
      && (!m.ringv || decide (m.ring < x.nring)) && (!(m.runcal || m.ringv) || decide (1 ≤ m.nsm))
  | .scan =>
    let b := ScanBody.of d
    decide (10 ≤ b.kc ∧ b.kc ≤ 12) && decide (b.sa ≤ 47 ∧ b.sb ≤ 47 ∧ b.sy ≤ 47 ∧ b.sg ≤ 47) && decide (b.ns ≤ 32)
      && decide (b.l ≤ 2048) && decide (b.d ≤ 4096) && decide (b.nn ≤ 16) && (!b.runcal || b.ringv)
      && (!b.ringv || decide (b.ring < x.nring)) && (b.empty || decide (scanCost b ≤ 24640))
  | .bind => decide (1 ≤ (BindBody.of d).opb ∧ (BindBody.of d).opb ≤ 4) && decide ((BindBody.of d).count ≤ 1048576)
  | .streamin => decide ((FillBody.of d).bytes ≤ 262144)
  | .recall | .park => decide ((MoveBody.of d).nr ≤ 256)
  | .commit => decide ((MoveBody.of d).nr ≤ 256 ∧ (MoveBody.of d).lsteps ≤ 4096)
  | .xfer =>
    let b := XferBody.of d
    decide (b.dstk ≠ x.stack) && decide (b.bridge = (b.dstk / 2 ≠ x.stack / 2 : Bool)) && decide (b.bytes ≤ 3145728)
  | .digest => decide ((DigestBody.of d).bytes ≤ 3145728)
  | _ => true

/-- Formats and zero points (06 R168, R171). -/
def formatOk (o : Op) (d : BitVec 512) : Bool :=
  match o with
  | .matmul =>
    let m := MatBody.of d
    (if m.mode = 2 then m.ifmt && m.zin = 0 else !m.ifmt) && !(m.outw && m.zout ≠ 0)
  | .bind => !(BindBody.of d).w || decide ((BindBody.of d).zx = 0 ∧ (BindBody.of d).zy = 0 ∧ (BindBody.of d).ez = 0)
  | _ => true

/-- Ranges inside the patron's loan (03 R68, 06 R168, R172). -/
def boundsOk (s : State) (x : SubmitCtx) (o : Op) (d : BitVec 512) : Bool :=
  ((carrelReads s x.rows d) ++ (carrelWrites s x.rows d)).all (spanInBlocks x.share.blocks)
    && (storeReads d).all (spanInRegions x.share.regions)
    && match o with
      | .streamin =>
        let b := FillBody.of d
        x.share.regions.contains b.region
          && (b.bytes = 0 || decide (b.dst * 64 / 262144 = b.region ∧ (b.dst * 64 + b.bytes - 1) / 262144 = b.region))
      | _ => true

/-- A transfer's destination lies in the patron's blocks on a stack that is LENT to it (03 R74, 06 R175). -/
def State.xferOk (s : State) (slot : Nat) (b : XferBody) : Bool :=
  (s.stk b.dstk).shares.any fun sh => sh.slot == slot && sh.st == .lent && spanInBlocks sh.blocks (64 * b.dst, b.bytes)
def foreignOk (s : State) (x : SubmitCtx) (o : Op) (d : BitVec 512) : Bool :=
  match o with
  | .xfer => s.xferOk x.slot (XferBody.of d)
  | _ => true

/-- The reset bits that a SCAN would apply, from the row table or from the bytes at RMADDR as submitted (06 R169). -/
def scanResets (x : SubmitCtx) (b : ScanBody) (mem : Mem) : List Nat :=
  if b.empty then []
  else if b.rmask then
    let m := x.inputs.foldl (fun m p => memWrite m (64 * p.1) p.2) mem
    (List.range (b.l * b.ns)).filterMap fun r =>
      if (memGet m (64 * b.rmaddr + r / 8)).getLsbD (r % 8) then some (b.row0 + r % b.ns) else none
  else (List.range b.ns).filterMap fun i => if (rowAt x.rows (b.row0 + i)).reset then some (b.row0 + i) else none

/-- No reset bit falls on a portable stream (05 R138). -/
def resetOk (s : State) (x : SubmitCtx) (o : Op) (d : BitVec 512) : Bool :=
  match o with
  | .scan => (scanResets x (ScanBody.of d) (s.stk x.stack).carrel).all fun i =>
      let r := rowAt x.rows i
      !(r.use && (s.stream r.sid).committed.portable)
  | _ => true

/-- Whether a digest context is open before descriptor i of a charge (06 R177). -/
def ctxOpen (descs : List (BitVec 512)) (i ctx : Nat) : Bool :=
  (descs.take i).foldl (fun on d =>
    match Op.ofCode (dOp d) with
    | some .digest => if (DigestBody.of d).ctx = ctx && (DigestBody.of d).init then true else on
    | some .colophon => if (DigestBody.of d).ctx = ctx then false else on
    | _ => on) false

/-- A SCAN of the SHADOW's layer that keeps operands for its row and channel (06 R176). -/
def scanHolds (e : BitVec 512) (b : ShadowBody) : Bool :=
  let q := ScanBody.of e
  Op.ofCode (dOp e) == some .scan && !q.empty && q.layer == b.layer && decide (q.row0 ≤ b.row ∧ b.row < q.row0 + q.ns ∧ b.ch < q.d)

/-- The order rules (06 R169, R176, R177). -/
def orderOk (s : State) (x : SubmitCtx) (descs : List (BitVec 512)) (i : Nat) (o : Op) (d : BitVec 512) : Bool :=
  match o with
  | .scan =>
    let b := ScanBody.of d
    !b.rmask || (descs.take i).all fun e => (carrelWrites s x.rows e).all fun w => !Span.meets w (64 * b.rmaddr, ceilDiv (b.l * b.ns) 8)
  | .shadow => (descs.take i).any fun e => scanHolds e (ShadowBody.of d)
  | .digest => (DigestBody.of d).init || ctxOpen descs i (DigestBody.of d).ctx
  | .colophon => ctxOpen descs i (DigestBody.of d).ctx
  | _ => true

/-- The status that refuses a descriptor, if any; within one descriptor the statuses are tried in rising code (log 20). -/
def descFault (s : State) (x : SubmitCtx) (descs : List (BitVec 512)) (i : Nat) (d : BitVec 512) : Option Nat :=
  match Op.ofCode (dOp d) with
  | none => some stBadOp
  | some o =>
    if !rsClear o d then some stReserved
    else if !limitOk x o d then some stLimit
    else if !formatOk o d then some stFormat
    else if !boundsOk s x o d then some stBounds
    else if !foreignOk s x o d then some stForeign
    else if !resetOk s x o d then some stResetPort
    else if !orderOk s x descs i o d then some stOrder
    else none

/-- The first descriptor that fails, with its status. -/
def firstFault (s : State) (x : SubmitCtx) (descs : List (BitVec 512)) : Nat → List (BitVec 512) → Option (Nat × Nat)
  | _, [] => none
  | i, d :: ds => match descFault s x descs i d with
    | some st => some (st, i)
    | none => firstFault s x descs (i + 1) ds

/-- Streams named twice in a row table (06 R155). -/
def namesTwice (rows : List (BitVec 64)) : Bool :=
  let sids := (rows.map Row.ofBits).filterMap fun r => if r.use then some r.sid else none
  decide ¬ sids.Nodup

/-- The refusal of a charge: its status and INDEX (06 R185). A damaged folio is refused first (16 R455). -/
def submitFault (s : State) (x : SubmitCtx) (descs : List (BitVec 512)) : Option (Nat × Nat) :=
  let damaged := ((s.patron x.slot).folio.bind s.folioSt?).any (·.damaged)
  if damaged then some (stMalformed, 0)
  else if descs.length > 256 ∨ x.rows.length > 256 then some (stTooMany, 0)
  else if x.rows.any fun r => r.getLsbD 15 then some (stReserved, 0)
  else if namesTwice x.rows then some (stOrder, 0)
  else firstFault s x descs 0 descs

/-! ## Costs -/

/-- The surcharge of a charge whose patron holds a claim over lower-class co-tenants (07 R206). -/
def surcharge (k : StackSt) (slot : Nat) : Nat :=
  match k.share? slot with
  | none => 0
  | some sh =>
    if sh.claim.isEmpty || !(k.shares.any fun y => classOf y.slot > classOf slot) then 0
    else if classOf slot = 0 then 64 + 128 * sh.claim.length
    else if classOf slot = 1 then 64 + 4096 * sh.claim.length else 0

/-- The cost of a charge on a stack (02 R38, 06 R179, 07 R206). -/
def chargeCost (s : State) (k slot : Nat) (rows : List (BitVec 64)) (descs : List (BitVec 512)) : Nat :=
  (descs.map (descCost s (s.stk k).shelfCount rows)).sum + surcharge (s.stk k) slot

/-! ## Refusals (07 Table 7.5) -/

/-- The folio-refusal event. -/
def State.folioRef (s : State) (slot stack status index req : Nat) : State :=
  s.raise 0x25 (some slot) (some stack) status index req 0

/-- The number of a slot in the frame: uplink slot i as i, retry slot k as NU + k (13 Table 13.16). -/
def Slot.pos (nu : Nat) : Slot → Nat
  | .uplink i => i
  | .retry k => nu + k
  | .accession => 0
/-- Change the burst of a channel and slot number. -/
def State.modBurst (s : State) (lch pos : Nat) (f : BurstSt → BurstSt) : State :=
  { s with air := { s.air with bursts := s.air.bursts.map fun (b : BurstSt) =>
      if b.lch = lch ∧ Slot.pos s.air.nu b.slot = pos then f b else b } }

/-- An entry of the step log, which every hub keeps (08 R232); those of the last 128 stamps stay (log 114). -/
def State.logAct (s : State) (e : LogEntry) : State :=
  { s with stepLog := ((s.stamp.number, e) :: s.stepLog).filter fun x => decide (s.stamp.number.toNat < x.1.toNat + 128) }
/-- A stream that a request has made in its slot is freed; the step log names it where it held an image (08 R232, 09 R264). -/
def State.freeCopy (s : State) (slot sid : Nat) : State :=
  let x := s.stream sid
  if x.slot ≠ slot then s else
  let s := s.putStream x.release
  if x.place = .free then s else s.logAct (.act (.freed sid))

/-- A request ends: its queued chunks are dropped, its copies are freed, those of admitted chunks as these end, and its REQEND frame
follows (09 R264, R265). -/
def State.endRequest (s : State) (r : Request) (st : ReqState) (kind : Nat) : State :=
  let copies := r.cells.map (·.copy) ++ r.copy.toList
  let s := s.modReq r.num fun r => { r with state := st }
  let s : State := { s with charges := s.charges.filter fun c => match c.kind with
    | .chunk n _ _ _ => c.phase == .admitted || n != r.num
    | _ => true }
  let s := copies.foldl (fun s sid => if s.streamBusy sid then s else s.freeCopy r.slot sid) s
  s.reqEnd ((s.req? r.num).getD r) kind

/-- A refused charge of the estimator: its cells are stale, and the event is raised at most once a second (07 Table 7.5). -/
def State.refusedSteps (s : State) (slot stack : Nat) (sids : List Nat) (status index : Nat) : State :=
  let s := sids.foldl (fun s sid => s.modCell sid fun c => { c with isStale := true, stepped := false }) s
  let due := match (s.patron slot).refusedAt with
    | some t => decide (t + 1000 * msTicks ≤ s.now)
    | none => true
  if due then (s.modPatron slot fun p => { p with refusedAt := some s.now }).folioRef slot stack status index 0 else s

/-- What a refused charge means to its patron (07 R213). -/
def State.refused (s : State) (slot stack : Nat) (kind : ChargeKind) (status index : Nat) : State :=
  match kind with
  | .decode lch sl =>
    (s.modBurst lch sl fun b => { b with fin := true, late := true }).folioRef slot stack status index 0
  | .step sids _ => s.refusedSteps slot stack sids status index
  | .rebuild sid => if slot = 1 then s.refusedSteps slot stack [sid] status index else s.folioRef slot stack status index 0
  | .chunk req _ _ _ =>
    match s.req? req with
    | none => s.folioRef slot stack status index req
    | some r =>
      let r' := { r with refusal := some (BitVec.ofNat 8 status, index) }
      ((s.modReq req fun _ => r').folioRef slot stack status index req).endRequest r' .refused 2
  | _ => s.folioRef slot stack status index 0

/-! ## Completion records and ends -/

/-- The 32 bytes of a completion record (06 Table 6.13). -/
def Completion.bytes (c : Completion) : Bytes :=
  leBytes 32 (c.op.toNat + field c.index 8 8 + field c.patron 16 4 + field c.stack 20 2 + field c.fin.toNat 22 1 + c.status.toNat * 2 ^ 24
    + c.tag.toNat * 2 ^ 32 + c.stamp.toNat * 2 ^ 64 + field c.nmoved 112 9 + field c.cycles 128 32 + c.drift.toNat * 2 ^ 160
    + c.detail.toNat * 2 ^ 192)

/-- The completion record of a descriptor. -/
def State.completion (s : State) (c : ChargeSt) (op index : Nat) (fin : Bool) (status cycles drift detail : Nat) : Completion :=
  { op := BitVec.ofNat 8 op
    index := index
    patron := c.slot
    stack := c.stack
    fin := fin
    status := BitVec.ofNat 8 status
    tag := c.tag
    stamp := s.stamp.number
    nmoved := c.moved.length
    cycles := cycles
    drift := BitVec.ofNat 32 drift
    detail := BitVec.ofNat 32 detail }

/-- A descriptor's completion record leaves for the steward (06 R187). -/
def State.record (s : State) (c : ChargeSt) (op index : Nat) (fin : Bool) (status cycles drift detail : Nat) : State :=
  let r := s.completion c op index fin status cycles drift detail
  s.emit (.completion r r.bytes)

/-- S lowered by a release, never below 0 (07 R210). -/
def StackSt.freeCycles (k : StackSt) (n : Nat) : StackSt := { k with sum := k.sum - n }

/-! ## When a running descriptor ends (06 R159): its cost after its start, the sharing of a wing's archive port (03 R73), and the one digest engine
(06 R177) -/

/-- The other stack of a wing (00 R3). -/
def siblingOf (stack : Nat) : Nat := if stack % 2 = 0 then stack + 1 else stack - 1

/-- The descriptor that an engine of a stack runs. -/
def StackSt.runOn (k : StackSt) (e : Engine) : Option RunSt := k.running.find? fun r => r.eng == e

/-- The stream-in with which a stack's shares the wing's archive port: both count from the instant at which the sharing began. -/
def State.portMate (s : State) (stack : Nat) (r : RunSt) : Option RunSt :=
  ((s.stk (siblingOf stack)).runOn .fill).filter fun x => x.start == r.start

/-- Cycles until the stack's stream-in ends, from the start of a sharing with one that needs b: the port alternates blocks of 128 cycles
(03 R73). -/
def sharedCycles (first : Bool) (a b : Nat) : Nat :=
  if first then a + min b (128 * (ceilDiv a 128 - 1)) else a + min b (128 * ceilDiv a 128)
/-- Cycles that the port has given the stack's stream-in, n cycles into such a sharing. -/
def sharedServed (first : Bool) (a b n : Nat) : Nat :=
  min a (max (n / 256 * 128 + (if first then min 128 (n % 256) else n % 256 - 128)) (n - b))

/-- The COLOPHONs that run, each with its stack: the shared digest engine serves one at a time, in the order of the requests, the lower stack
first on a tie (06 R177). -/
def State.colophons (s : State) : List (Nat × RunSt) :=
  (List.range 4).filterMap fun k => (((s.stk k).runOn .main).filter fun r => Op.ofCode (dOp r.bits) == some .colophon).map fun r => (k, r)
def ahead (x y : Nat × RunSt) : Bool := decide (x.2.start < y.2.start ∨ (x.2.start = y.2.start ∧ x.1 ≤ y.1))

/-- The instant at which a running descriptor ends: its cost after its start, later where a stream-in shares its port (R73) or a COLOPHON
waits for the digest engine (R177). -/
def State.dueAt (s : State) (stack : Nat) (r : RunSt) : Tick :=
  match Op.ofCode (dOp r.bits) with
  | some .streamin => match s.portMate stack r with
    | some x => r.start + sharedCycles r.portFirst r.left x.left * r.cyc
    | none => r.start + r.left * r.cyc
  | some .colophon =>
    let me := (stack, r)
    let before := s.colophons.filter fun x => ahead x me
    ((before.map fun x => max x.2.start s.digestFree
      + ((before.filter fun y => ahead x y).map fun y => y.2.left * y.2.cyc).sum).foldl max (max r.start s.digestFree + r.left * r.cyc))
  | _ => r.start + r.left * r.cyc

/-- Cycles that a running descriptor has had by an instant since it counts. -/
def State.ranBy (s : State) (stack : Nat) (r : RunSt) (t : Tick) : Nat :=
  match Op.ofCode (dOp r.bits) with
  | some .streamin => match s.portMate stack r with
    | some x => sharedServed r.portFirst r.left x.left ((t - r.start) / r.cyc)
    | none => min r.left ((t - r.start) / r.cyc)
  | some .colophon => min r.left ((t - (s.dueAt stack r - r.left * r.cyc)) / r.cyc)
  | _ => min r.left ((t - r.start) / r.cyc)

/-- U at an instant: the cost of admitted charges not yet run (02 R40). -/
def State.notRun (s : State) (k : Nat) (t : Tick) : Nat :=
  ((s.charges.filter fun c => c.stack == k && c.phase == .admitted).map (·.unrun)).sum - ((s.stk k).running.map fun r => s.ranBy k r t).sum

/-- A less the debt that the slot pays in this stamp (02 R44). -/
def State.limit (s : State) (k slot : Nat) : Nat := s.admissible - lookupD 0 slot (s.stk k).paying

/-! ## Placing and moving a patron's charges (03 R80, 07 R194, R198 step 2, R212) -/

/-- A program address, in 64-byte units from the patron's first block, in the blocks that the charge is written for. -/
def ChargeSt.place (c : ChargeSt) (a : Nat) : Nat := moveBlock c.blocks a
where
  /-- Block n of the program is the patron's n-th block. -/
  moveBlock (blocks : List Nat) (a : Nat) : Nat :=
    match blocks[a / 1024]? with
    | some b => 1024 * b + a % 1024
    | none => a
/-- Bytes for the charge's blocks from a program address on, in pieces of 64 bytes, each at its own place. -/
def ChargeSt.lay (c : ChargeSt) (a : Nat) (b : Bytes) : List (Nat × Bytes) :=
  (List.range (ceilDiv b.length 64)).map fun i => (c.place (a + i), (b.drop (64 * i)).take 64)

/-- Where a charge's streams have their images and rings, and its input rows their range-step tags. -/
def State.imageSpans (s : State) (c : ChargeSt) : List Span :=
  (c.rows.filterMap fun w =>
    let r := Row.ofBits w
    if r.use then some (64 * r.home, 8192 * s.rowPages r.sid + rebuildBytes (s.stream r.sid).work.dims) else none)
  ++ ((s.folio? c.slot).map fun f => (List.range (ceilDiv c.tags 64)).map fun i => (64 * c.place (f.tagsAt + i), min 64 (c.tags - 64 * i))).getD []
/-- Whether ranges of the carrel touch one of some blocks. -/
def spansMeet (spans : List Span) (blocks : List Nat) : Bool := spans.any fun sp => blocks.any fun b => Span.meets sp (65536 * b, 65536)
/-- The carrel blocks of a stack that patrons of higher classes claim. -/
def StackSt.claimedOver (k : StackSt) (slot : Nat) : List Nat :=
  (k.shares.filter fun x => classOf x.slot < classOf slot).flatMap (·.claim)
/-- No image, ring or tag of a lower-class patron stands in a claimed block (07 R194). -/
def State.clearOfClaims (s : State) (c : ChargeSt) : Bool :=
  !spansMeet (s.imageSpans c) ((s.stk c.stack).claimedOver c.slot)
/-- The blocks of a stack in which images, rings and tags of patrons below a class stand: no claim of that class takes one (07 R194). -/
def State.claimBusy (s : State) (stack cls : Nat) : List Nat :=
  let homes := (s.streams.filter fun x => x.place == .resident && x.stack == stack && decide (cls < classOf x.slot)).map fun x =>
    (64 * x.home, 8192 * x.pages + rebuildBytes x.work.dims)
  let spans := homes ++ (s.charges.filter fun c => c.stack == stack && decide (cls < classOf c.slot)).flatMap s.imageSpans
  (List.range 48).filter fun b => spansMeet spans [b]

/-- Place of a layer's region j in the folio's stored form (08 R223): regions of the layers before it, and j (log 25). -/
def regionPlace (f : FolioInfo) (l j : Nat) : Nat := ((f.layers.take l).map (·.regions)).sum + j

/-- A weight-store address, in 64-byte units, moved to the region that holds its layer now; that of a layer that is not there lies in no region. -/
def moveWeight (old new : List (Nat × List Nat)) (a : Nat) : Nat :=
  match old.find? fun y => y.2.contains (a / 4096) with
  | none => a
  | some y => match (lookupD [] y.1 new)[y.2.idxOf (a / 4096)]? with
    | some r => 4096 * r + a % 4096
    | none => 0x3FFFF
/-- A carrel address, in 64-byte units, moved to the patron's blocks on the new stack; that of a block that it lacks there lies in no block. -/
def moveCarrel (old new : List Nat) (a : Nat) : Nat :=
  if old.contains (a / 1024) then match new[old.idxOf (a / 1024)]? with
    | some b => 1024 * b + a % 1024
    | none => 0xFFFF
  else a

/-- The weight-store and carrel address fields of each opcode, as (hi, lo). -/
def weightFields : Op → List (Nat × Nat)
  | .matmul => [(209, 192), (227, 210), (245, 228), (273, 256)]
  | .scan => [(209, 192)]
  | .streamin => [(81, 64)]
  | _ => []
def carrelFields : Op → List (Nat × Nat)
  | .matmul => [(303, 288), (319, 304), (335, 320), (351, 336), (367, 352), (383, 368), (399, 384)]
  | .scan => [(239, 224), (255, 240), (271, 256), (287, 272)]
  | .bind => [(143, 128), (159, 144), (175, 160), (191, 176)]
  | .xfer | .digest | .colophon => [(143, 128)]
  | _ => []
/-- The region that a program's weight address names: its regions stand in the order of the folio's stored form (log 15). -/
def placeRegion (f : FolioInfo) (layers : List (Nat × List Nat)) (n : Nat) : Option Nat :=
  layers.findSome? fun y =>
    let first := regionPlace f y.1 0
    if first ≤ n ∧ n < first + y.2.length then y.2[n - first]? else none
/-- A program's weight-store address, in 64-byte units, on the patron's regions; one beyond the folio's regions lies in no region. -/
def ownWeight (f : FolioInfo) (layers : List (Nat × List Nat)) (a : Nat) : Nat :=
  match placeRegion f layers (a / 4096) with
  | some r => 4096 * r + a % 4096
  | none => 0x3FFFF
/-- A program's carrel address, in 64-byte units, on the patron's blocks; one beyond them lies in no block. -/
def ownCarrel (blocks : List Nat) (a : Nat) : Nat :=
  match blocks[a / 1024]? with
  | some b => 1024 * b + a % 1024
  | none => 0xFFFF

/-- A row table entry with its HOME moved. -/
def moveRow (fc : Nat → Nat) (r : BitVec 64) : BitVec 64 :=
  BitVec.ofNat 64 (r.toNat - bitsOf r.toNat 31 16 * 2 ^ 16 + fc (bitsOf r.toNat 31 16) % 65536 * 2 ^ 16)

/-- A descriptor rebuilt for a stack's regions and blocks. -/
def moveDesc (fw fc : Nat → Nat) (d : BitVec 512) : BitVec 512 :=
  match Op.ofCode (dOp d) with
  | none => d
  | some o =>
    let d := (weightFields o).foldl (fun d r => dPut d r.1 r.2 (fw (dbits d r.1 r.2))) d
    let d := if o = .streamin then dPut d 113 108 (fw (4096 * (FillBody.of d).region) / 4096) else d
    (carrelFields o).foldl (fun d r => dPut d r.1 r.2 (fc (dbits d r.1 r.2))) d

/-- A queued charge rebuilt for a stack that its patron holds. -/
def ChargeSt.moveTo (c : ChargeSt) (stack : Nat) (sh : Share) : ChargeSt :=
  let fw := moveWeight c.layers sh.layers
  let fc := moveCarrel c.blocks sh.blocks
  { c with
    stack := stack
    blocks := sh.blocks
    layers := sh.layers
    descs := c.descs.map (moveDesc fw fc)
    inputs := c.inputs.map fun p => (fc p.1, p.2)
    rows := c.rows.map (moveRow fc) }

/-- Whether every layer that a charge runs is paired and its patron holds both stacks of the wing (07 R212); the batches of slot 1 go where
R493 puts them. -/
def State.balanceable (s : State) (c : ChargeSt) : Bool :=
  let f := s.folio? c.slot
  let layers := c.layers.filter fun y => c.descs.any fun d => (storeReads d).any fun sp => sp.2 ≠ 0 && y.2.contains (sp.1 / 262144)
  c.slot != 1 && !layers.isEmpty
    && layers.all (fun y => (f.bind fun f => f.layers[y.1]?).any (·.paired))
    && (s.stk (c.stack / 2 * 2)).lentTo c.slot && (s.stk (c.stack / 2 * 2 + 1)).lentTo c.slot

/-- The stack that R212 chooses for a balanceable charge, and the parks that this charges to it: those already charged where its streams have been
parked since. -/
def State.balanceStack (s : State) (c : ChargeSt) : Nat × Nat :=
  let a := c.stack / 2 * 2
  let b := a + 1
  let res := c.rows.filterMap fun w =>
    let r := Row.ofBits w
    let x := s.stream r.sid
    if r.use && x.place == .resident && (x.stack == a || x.stack == b) then some x else none
  let on := (s.getN (.patronBalance c.slot)) = 1
  match res with
  | [] => (if on ∧ (s.stk b).sum < (s.stk a).sum then b else a, c.parkCost)
  | x :: _ =>
    let other := if x.stack = a then b else a
    let park := (res.map fun x => 256 * x.pages).sum
    if on ∧ (s.stk other).sum + 2 * park < (s.stk x.stack).sum then (other, park) else (x.stack, 0)

/-- A queued charge stands as it is on a share. -/
def ChargeSt.isAt (c : ChargeSt) (stack : Nat) (sh : Share) : Bool := c.stack == stack && c.blocks == sh.blocks && c.layers == sh.layers
/-- Every weight and carrel byte of a charge lies in the regions and blocks of a share. -/
def State.within (s : State) (c : ChargeSt) (sh : Share) : Bool :=
  let x : SubmitCtx := { stack := c.stack, slot := c.slot, rows := c.rows, share := sh, nring := 0, inputs := [] }
  c.descs.all fun d => (Op.ofCode (dOp d)).all fun o => boundsOk s x o d
/-- A stack that can take a queued charge: lent to its patron, with the layers and blocks that the charge uses, and nothing that the charge puts there
would stand in a claimed block (07 R194, R198 step 2). -/
def State.takesCharge (s : State) (c : ChargeSt) (k : Nat) : Bool :=
  (s.stk k).lentTo c.slot && ((s.stk k).share? c.slot).any fun sh => s.within (c.moveTo k sh) sh && s.clearOfClaims (c.moveTo k sh)

/-- Where a queued charge belongs: a stack of its patron's where the one it names is not lent to it, or the one that load balancing
chooses, with the parks that it then pays for; where its own stack has been lent to its patron anew, that one (07 R198 step 2). -/
def State.homeOf (s : State) (c : ChargeSt) : Option (Nat × Nat) :=
  if c.phase ≠ .queued ∨ c.kind = .fill ∨ c.kind = .reread ∨ c.kind = .park then none
  else if !(s.stk c.stack).lentTo c.slot then ((s.stacksOf c.slot).find? (s.takesCharge c)).map fun k => (k, c.parkCost)
  else if s.balanceable c && s.takesCharge c (s.balanceStack c).1 then some (s.balanceStack c)
  else if ((s.stk c.stack).share? c.slot).all (c.isAt c.stack) then none
  else if s.takesCharge c c.stack then some (c.stack, c.parkCost) else none

/-- The chunk just before a charge's among those of its stream that have not ended, on another stack (07 R209). -/
def State.chunkBefore (s : State) (c : ChargeSt) (stack : Nat) : List Nat :=
  match c.kind with
  | .chunk req sid index _ => (s.charges.filter fun x => x.stack != stack && match x.kind with
      | .chunk n y i _ => n == req && y == sid && i + 1 == index
      | _ => false).map (·.id)
  | _ => []

/-- A queued charge goes to a stack, rebuilt for the share that its patron has there, and the input log with it. A chunk that leaves the stack of the
one before it waits for that one from then on (07 R209); a park that load balancing has charged to a charge stays charged to it (R212). -/
def State.moveCharge (s : State) (c : ChargeSt) (dst : Nat × Nat) : State :=
  match (s.stk dst.1).share? c.slot with
  | none => s
  | some sh =>
    let moves := !c.isAt dst.1 sh
    let c' : ChargeSt := { (if moves then c.moveTo dst.1 sh else c) with
      parkCost := dst.2
      prereqs := (c.prereqs ++ s.chunkBefore c dst.1).eraseDups }
    { s with
      charges := s.charges.map fun x => if x.id = c.id then c' else x
      inputLog := s.inputLog.map fun e => if e.charge = c.id ∧ moves then
        { e with inputs := e.inputs.map fun p => (moveCarrel c.blocks sh.blocks p.1, p.2) } else e }

/-- Move the queued charges to the stacks where they belong (07 R198 step 2, R212). -/
def State.rehome (s : State) : State :=
  s.charges.foldl (fun s c => match s.homeOf c with
    | some k => s.moveCharge c k
    | none => s) s

/-! ## Admission -/

/-- Rows that expect their stream resident at HOME and find it parked get a recall ahead of the charge (05 R137). -/
def needRecall (s : State) (c : ChargeSt) : List Nat :=
  (List.range c.rows.length).filter fun i =>
    let r := rowAt c.rows i
    let x := s.stream r.sid
    let moves : Bool := c.descs.any fun d => match Op.ofCode (dOp d) with
      | some .recall => decide ((MoveBody.of d).row0 ≤ i ∧ i < (MoveBody.of d).row0 + (MoveBody.of d).nr)
      | _ => false
    let steps : Bool := c.descs.any fun d => match Op.ofCode (dOp d) with
      | some .scan => decide ((ScanBody.of d).row0 ≤ i ∧ i < (ScanBody.of d).row0 + (ScanBody.of d).ns)
      | some .commit => decide ((MoveBody.of d).row0 ≤ i ∧ i < (MoveBody.of d).row0 + (MoveBody.of d).nr)
      | _ => false
    r.use && steps && !moves && x.gen == r.gen
      && (x.place == .parked || (x.place == .resident && (x.stack != c.stack || x.home != r.home)))

/-- A RECALL of one row, as the scheduler places it. -/
def recallDesc (slot row : Nat) : BitVec 512 :=
  BitVec.ofNat 512 (0x28 + field slot 16 4 + field row 64 8 + field 1 72 9)

/-- Streams that a charge names and that are resident elsewhere than it names them; each is parked first (05 R135). -/
def State.strays (s : State) (c : ChargeSt) : List StreamSt :=
  c.rows.filterMap fun w =>
    let r := Row.ofBits w
    let x := s.stream r.sid
    if r.use && c.kind != .park && x.place == .resident && (x.stack != c.stack || x.home != r.home) then some x else none

/-- Streams whose pages a charge accesses, and whether it writes them: its own RECALLs and PARKs, and the recalls placed ahead of it
(03 R76). -/
def State.pageUse (s : State) (c : ChargeSt) : List (Nat × Bool) :=
  (c.descs.flatMap fun d => match Op.ofCode (dOp d) with
    | some .recall => (List.range (MoveBody.of d).nr).filterMap fun i =>
        let r := rowAt c.rows ((MoveBody.of d).row0 + i)
        if r.use then some (r.sid, false) else none
    | some .park => (List.range (MoveBody.of d).nr).filterMap fun i =>
        let r := rowAt c.rows ((MoveBody.of d).row0 + i)
        if r.use then some (r.sid, true) else none
    | _ => []) ++ (needRecall s c).map fun i => ((rowAt c.rows i).sid, false)

/-- No other stack's charge of this stamp accesses a page that either of them writes (03 R76). -/
def State.pagesClear (s : State) (c : ChargeSt) : Bool :=
  (s.pageUse c).all fun u => (List.range 4).all fun k =>
    k == c.stack || (s.stk k).ledgerUse.all fun v => v.1 != u.1 || (!u.2 && !v.2)

/-- The share of the charge's patron admits it: LENT, or FILLING for a stream-in of its weights (07 Table 7.3). -/
def shareAdmits (k : StackSt) (c : ChargeSt) : Bool :=
  match k.share? c.slot with
  | none => false
  | some sh => sh.st == .lent || (sh.st == .filling && (c.kind == .fill || c.kind == .reread)) || (c.kind == .park && sh.st != .draining)

/-- A charge that the hub puts ahead of its patron's others: a rebuild (05 R151). -/
def goesFirst : ChargeKind → Bool
  | .rebuild _ => true
  | _ => false

/-- A step of a stream waits behind a rebuild of it, and uses the rebuilt state (05 R151). -/
def State.behindRebuild (s : State) (c : ChargeSt) : Bool :=
  s.charges.any fun x => x.id != c.id && match x.kind with
    | .rebuild sid => c.names sid
    | _ => false

/-- A step of a stream waits for one of an earlier sample of it on another stack: the samples of a stream commit in their order (05 R118). -/
def State.behindSample (s : State) (c : ChargeSt) : Bool :=
  s.charges.any fun x => x.id != c.id && x.stack != c.stack && !x.abandoned && match x.kind, c.kind with
    | .step _ _, .step _ _ => x.stamps.any fun e => c.stamps.any fun f => e.1 == f.1 && decide (e.2.1 < f.2.1)
    | _, _ => false
/-- A charge stands as its share on its stack has it, and clear of claims; what the hub has queued itself names no place but its own (07 R194, R198 step
2). -/
def State.inPlace (s : State) (c : ChargeSt) : Bool :=
  match c.kind with
  | .fill | .reread | .park => true
  | _ => ((s.stk c.stack).share? c.slot).any (c.isAt c.stack) && s.clearOfClaims c

/-- What a charge needs beside cycles: a usable stack, its share, its prerequisites, its streams and their pages. -/
def State.eligible (s : State) (c : ChargeSt) : Bool :=
  let k := s.stk c.stack
  k.usable && decide (c.eligible ≤ s.stamp.number) && shareAdmits k c && c.prereqs.all (fun p => s.ended.contains p) && s.pagesClear c && (s.strays c).isEmpty && !s.behindRebuild c && !s.behindSample c && s.inPlace c
    && s.power.brownAt.isNone && s.steward.aDown.isNone && decide (s.steward.holdTo ≤ s.stamp.number) && !s.roleSt.early

/-- The steps of a stream that the input log holds committed since the monitor card, in the order in which they ran (05 R150, R152). -/
def State.windowOf (s : State) (slot sid : Nat) : List LoggedStep :=
  let n := ((s.patron slot).monitor.card.map fun i => (s.stream sid).committed.step.toNat - i.step.toNat).getD 0
  lastN n (s.inputLog.filter fun e => e.sid == sid && e.committed)

/-- The cost of a charge before what an admission adds: its descriptors' and the surcharge; of a rebuild, the folio's replay cost for each step of
its window, and the surcharge (05 R151, 07 R206). -/
def State.ownCost (s : State) (c : ChargeSt) : Nat :=
  match c.kind with
  | .rebuild sid => ((s.folio? c.slot).map (·.replayCost)).getD 0 * (s.windowOf c.slot sid).length + surcharge (s.stk c.stack) c.slot
  | _ => chargeCost s c.stack c.slot c.rows c.descs

/-- The cost that an admission now would hold: the charge, the recalls placed ahead of it, and the parks that load balancing charged to it
(07 R212); a park so charged costs nothing itself. -/
def State.costNow (s : State) (c : ChargeSt) : Nat :=
  if c.kind = .park ∧ c.paidFor then 0 else
  s.ownCost c + c.parkCost
    + ((needRecall s c).map fun i => 256 * s.rowPages (rowAt c.rows i).sid).sum

/-- The rows that complete MOVED when a charge starts (05 R145). -/
def State.movedRows (s : State) (c : ChargeSt) : List Nat :=
  (List.range c.rows.length).filter fun i =>
    let r := rowAt c.rows i
    let x := s.stream r.sid
    r.use && (x.place == .free || x.place == .exported || x.gen != r.gen || r.gen == 0)

/-- The reservation that a charge draws on: class 0's for a burst decode, class 1's for a step or a rebuild of the estimator (02 R39, 07 R207,
R493). -/
def ChargeSt.draws (c : ChargeSt) : Option Nat :=
  match c.kind with
  | .decode _ _ => some 0
  | .step _ _ => some 1
  | .rebuild _ => if c.slot = 1 then some 1 else none
  | _ => none
/-- What is left of a stack's reservation. -/
def StackSt.held (k : StackSt) : Option Nat → Nat
  | some 0 => k.reserved0
  | some _ => k.reserved1
  | none => 0

/-- Of a list, what is left without the first n entries that a test picks, and those. -/
def takeOut {α : Type} (p : α → Bool) : Nat → List α → List α × List α
  | _, [] => ([], [])
  | n, x :: xs =>
    if p x && n ≠ 0 then let r := takeOut p (n - 1) xs; (r.1, x :: r.2) else let r := takeOut p n xs; (x :: r.1, r.2)
/-- The stack's queue with an admitted charge's descriptors: last; where one that may preempt would not stand whole in the 256 slots, ahead of as many of
the latest lower-class descriptors as it needs (06 R156, 07 R203 step 1). -/
def enqueue (held : Nat) (queue new : List QDesc) (preempts : Bool) (lower : QDesc → Bool) : List QDesc :=
  if preempts then
    let r := takeOut lower (queue.length + new.length - (256 - held)) queue.reverse
    r.1.reverse ++ new ++ r.2.reverse
  else queue ++ new

/-- The queue with the descriptors that a test picks behind the last one of a charge, in their former order (07 R203 step 3). -/
def withdraw (queue : List QDesc) (lower : QDesc → Bool) (id : Nat) : List QDesc :=
  let n := queue.length - queue.reverse.findIdx fun q => q.charge == id
  (queue.take n).filter (fun q => !lower q) ++ queue.filter lower ++ (queue.drop n).filter fun q => !lower q

/-- The slot of a charge. -/
def State.slotOf (s : State) (id : Nat) : Nat := ((s.charge? id).map (·.slot)).getD 0
/-- A queued descriptor of another patron of a slot's class. -/
def State.sameClass (s : State) (slot : Nat) (q : QDesc) : Bool :=
  classOf (s.slotOf q.charge) == classOf slot && s.slotOf q.charge != slot

/-- While the slice of a slot lasts, a charge of it that is admitted stands ahead of the other patrons of its class (07 R208). -/
def State.joinSlice (s : State) (stack slot id : Nat) : State :=
  s.modStk stack fun k => if k.slices.any (fun x => x.slot == slot) then { k with queue := withdraw k.queue (s.sameClass slot) id } else k

/-- Bytes written into the carrel; a range marked invalid is good again where it has been written over (04 R110). -/
def StackSt.writeCarrel (k : StackSt) (a : Nat) (data : Bytes) : StackSt :=
  { k with
    carrel := memWrite k.carrel a data
    badCarrel := k.badCarrel.filter fun w => !decide (a ≤ 8 * w ∧ 8 * w + 8 ≤ a + data.length)
    invalid := k.invalid.flatMap fun r =>
      if !Span.meets r (a, data.length) then [r]
      else [(r.1, a - r.1), (a + data.length, r.1 + r.2 - (a + data.length))].filter fun x => x.2 ≠ 0 }

/-- The bytes that a charge finds in its input blocks: those of its submission; a rerun's, those that it has found there before, which the input log
holds for a step (05 R152). -/
def State.chargeInputs (s : State) (c : ChargeSt) : List (Nat × Bytes) :=
  if c.rerun then match s.inputLog.find? fun e => e.charge == c.id with
    | some e => e.inputs
    | none => c.inputs
  else c.inputs

/-- A charge has ended: a charge of which it is the last prerequisite becomes eligible in this stamp (06 R160, 07 R214). -/
def State.noteEnd (s : State) (id : Nat) : State :=
  let ended := s.ended ++ [id]
  { s with ended := ended, charges := (s.charges.filter fun c => c.id ≠ id).map fun c =>
      if c.prereqs.contains id ∧ c.prereqs.all ended.contains then { c with eligible := if c.eligible < s.stamp.number then s.stamp.number else c.eligible } else c }

/-- Admit a charge at an instant: its cost is held in S or taken from a reservation, and its descriptors enter the stack's queue in INDEX order (06
R156). With no descriptors it ends at once (06 R188). -/
def State.admitCharge (s : State) (id : Nat) (res : Option Nat) (at0 : Tick) : State :=
  match s.charge? id with
  | none => s
  | some c0 =>
    let recalls := (needRecall s c0).map (recallDesc c0.slot)
    let cost := s.costNow c0
    let late := s.stamp.number.toNat - c0.eligible.toNat
    let from0 := max at0 c0.subAt
    let s := s.modCharge id fun c => { c with phase := .admitted, cost := cost, unrun := cost, reserved := res.isSome }
    let s := s.modStk c0.stack fun k =>
      let held := k.held res
      { k with
        sum := k.sum + (cost - held)
        reserved0 := if res = some 0 then k.reserved0 - cost else k.reserved0
        reserved1 := if res = some 1 then k.reserved1 - cost else k.reserved1
        taken01 := if classOf c0.slot ≤ 1 then k.taken01 + (cost - held) else k.taken01
        ledgerUse := k.ledgerUse ++ s.pageUse c0
        queue := enqueue (k.running.length + k.halted.length) k.queue
          ((recalls.map fun d => { charge := id, index := 0, bits := d, from0 := from0 })
            ++ c0.descs.mapIdx fun i d => { charge := id, index := i, bits := d, from0 := from0 })
          (decide (classOf c0.slot ≤ 1)) fun q => decide (classOf (((s.charge? q.charge).map (·.slot)).getD 0) > classOf c0.slot) }
    let s := s.joinSlice c0.stack c0.slot id
    let s := s.modCtr c0.slot fun t => { t with
      admitted := t.admitted + cost
      late := if late = 0 then t.late else natSat (t.late + 1) 16
      lateMax := max t.lateMax (natSat late 16) }
    if c0.descs.isEmpty then (s.record c0 0 0 true stDone 0 0 0).noteEnd id else s

/-- Whether a charge fits now: at the pass S + c ≤ A less the debt, where S holds the reservation that c draws on; during the stamp
the time test as well, at the instant of the decision (02 R39, R40, 08 R220), but for a decode within its
reservation (10 R296). -/
def State.fits (s : State) (c : ChargeSt) (atPass : Bool) (at0 : Tick) : Bool :=
  let cost := s.costNow c
  decide ((s.stk c.stack).sum + (cost - (s.stk c.stack).held c.draws) ≤ s.limit c.stack c.slot)
    && (atPass || (c.draws == some 0 && decide (cost ≤ (s.stk c.stack).reserved0)) || decide (s.notRun c.stack at0 + cost + s.guardCycles ≤ (s.nextBoundary - at0) / s.cycTicks))

/-- The charge at the head of a patron's queue on a stack, of those that the share's state admits. -/
def State.headOf (s : State) (k slot : Nat) : Option ChargeSt :=
  s.charges.find? fun c => c.stack == k && c.slot == slot && c.phase == .queued && shareAdmits (s.stk k) c

/-- A PARK of row 0. -/
def parkDesc (slot : Nat) : BitVec 512 := BitVec.ofNat 512 (0x29 + field slot 16 4 + 2 ^ 20 + field 1 72 9)

/-- The charge by which the hub parks a resident stream (05 R135). -/
def StreamSt.parkCharge (x : StreamSt) (id : Nat) (paid : Bool) (n : BitVec 48) : ChargeSt :=
  { id := id, tag := BitVec.ofNat 32 id, slot := x.slot, stack := x.stack, kind := .park, descs := [parkDesc x.slot]
    rows := [BitVec.ofNat 64 (field x.sid 0 13 + 2 ^ 13 + field x.home 16 16 + x.gen.toNat * 2 ^ 32)], eligible := n, paidFor := paid }

/-- Place the park of a stray stream ahead of its patron's charges, once no admitted charge names it (05 R135). -/
def State.placePark (paid : Bool) (s : State) (x : StreamSt) : State :=
  if s.streamBusy x.sid || s.charges.any (fun c => c.kind == .park && c.names x.sid) then s
  else { s with nextCharge := s.nextCharge + 1, charges := x.parkCharge s.nextCharge paid s.stamp.number :: s.charges }

/-- Place the parks that the head of a queue on a stack waits for (05 R135). -/
def State.placeParks (s : State) (k slot : Nat) : State :=
  match s.headOf k slot with
  | some c => (s.strays c).foldl (State.placePark (c.parkCost ≠ 0)) s
  | none => s

/-- Admit a patron's queued charges in order while they fit (02 R38, R39), each on the stack where it then belongs (07 R212). One at the head that is
for the next stamp, a re-read or a charge to run again, holds back the patron's later ones on that stack: the spec does not say whether it does (02
R46, log 166). -/
def admitRun (k slot : Nat) (atPass : Bool) (at0 : Tick) : Nat → State → State
  | 0, s => s
  | n + 1, s =>
    let s := (s.rehome).placeParks k slot
    match s.headOf k slot with
    | none => s
    | some c => if s.eligible c && s.fits c atPass at0 then admitRun k slot atPass at0 n (s.admitCharge c.id c.draws at0) else s

/-- Cycles after a completion at which the scheduler acts on it (08 R220). -/
def schedLag : Nat := 256

/-- Regions that byte ranges of the weight store touch. -/
def regionsOf (spans : List Span) : List Nat :=
  (List.range 48).filter fun r => spans.any fun sp => sp.2 ≠ 0 && Span.meets sp (262144 * r, 262144)
/-- A range that a slip-skew fault has marked invalid and that byte ranges touch (04 R110). -/
def StackSt.readsInvalid (k : StackSt) (spans : List Span) : Bool := k.invalid.any fun r => spans.any (Span.meets r)

/-! ## Which descriptor starts -/

/-- The row table of a charge. -/
def State.rowsOf (s : State) (id : Nat) : List (BitVec 64) := ((s.charge? id).map (·.rows)).getD []

/-- The region that a descriptor fills. -/
def fillRegion (d : BitVec 512) : Option Nat :=
  match Op.ofCode (dOp d) with
  | some .streamin => some (FillBody.of d).region
  | _ => none

/-- A later descriptor waits for an earlier one: they share a carrel byte that one of them writes, or a region that one of them
fills (R158, R66). -/
def State.waitsFor (s : State) (a : Nat) (da : BitVec 512) (b : Nat) (db : BitVec 512) : Bool :=
  let wa := carrelWrites s (s.rowsOf a) da
  let ra := carrelReads s (s.rowsOf a) da
  let wb := carrelWrites s (s.rowsOf b) db
  let rb := carrelReads s (s.rowsOf b) db
  wa.any (fun x => (rb ++ wb).any (Span.meets x)) || ra.any (fun x => wb.any (Span.meets x))
    || (match fillRegion da with
        | some r => (regionsOf (storeReads db)).contains r
        | none => false)
    || (match fillRegion db with
        | some r => (regionsOf (storeReads da)).contains r
        | none => false)

/-- The engine of a descriptor. -/
def engineOf (d : BitVec 512) : Engine := ((Op.ofCode (dOp d)).map Op.engine).getD .main

/-- The next descriptor of an engine in the queue's 256 slots, of which running and halted descriptors hold theirs (R156), with the descriptors
ahead of it. -/
def StackSt.nextOf (k : StackSt) (e : Engine) : Option (List QDesc × QDesc) :=
  let w := k.queue.take (256 - k.running.length - k.halted.length)
  let i := w.findIdx fun q => decide (engineOf q.bits = e)
  (w[i]?).map fun q => (w.take i, q)

/-- No earlier descriptor holds back the next one of its engine: none ahead in the queue, and none running, or halted in its own patron's
work, that stood ahead of it. -/
def State.clearOf (s : State) (k : StackSt) (pre : List QDesc) (q : QDesc) : Bool :=
  let run := (k.running ++ k.halted.filter fun r => s.slotOf r.charge == s.slotOf q.charge).filter fun r => !r.past.contains (q.charge, q.index)
  if Op.ofCode (dOp q.bits) = some .sync then pre.isEmpty && run.isEmpty
  else pre.all (fun p => !s.waitsFor p.charge p.bits q.charge q.bits) && run.all fun r => !s.waitsFor r.charge r.bits q.charge q.bits

/-- While charges of other patrons are stopped, only the preempting patron's class and those above it run, and nothing on the main
engine until the claimed blocks are saved (07 R203, R204). -/
def State.stopAllows (s : State) (k : StackSt) (q : QDesc) : Bool :=
  match k.stops with
  | [] => true
  | p :: _ => decide (classOf (s.slotOf q.charge) ≤ classOf p.slot) && (p.saved || engineOf q.bits != .main)

/-- Nothing but an instant that it waits for holds the next descriptor of an engine back. It reads no range that a slip-skew fault has marked invalid
(04 R110). -/
def State.couldStart (s : State) (stack : Nat) (e : Engine) : Bool :=
  let k := s.stk stack
  k.usable && k.inv.isNone && !k.gated && s.power.brownAt.isNone
    && !(k.running.any fun r => r.eng == e)
    && match k.nextOf e with
      | none => false
      | some (pre, q) => s.stopAllows k q && s.clearOf k pre q
        && !k.readsInvalid (carrelReads s (s.rowsOf q.charge) q.bits)
        && !(k.halted.any fun r => r.eng == e && s.slotOf r.charge == s.slotOf q.charge)

/-! ## Turns of the scheduler: preemption and slices (06 R181, 07 R202, R203, R208) -/

/-- A charge id belongs to a class lower than a slot's. -/
def State.below (s : State) (slot id : Nat) : Bool := decide (classOf (s.slotOf id) > classOf slot)

/-- The first charge of a slot that the queue holds. -/
def State.headCharge (s : State) (k : StackSt) (slot : Nat) : Option Nat := (k.queue.find? fun q => s.slotOf q.charge == slot).map (·.charge)

/-- The first main-engine descriptor of a preempting charge could start but for the engine being busy (R203 step 2): nothing that is not
about to be withdrawn holds it back, and a descriptor of a lower class runs on the main engine, or stands ahead of it there and waits. -/
def State.preemptDue (s : State) (stack slot : Nat) : Bool :=
  let k := s.stk stack
  let w := k.queue.take (256 - k.running.length - k.halted.length)
  match s.headCharge k slot with
  | none => false
  | some id =>
    let i := w.findIdx fun q => q.charge == id && engineOf q.bits == .main
    match w[i]? with
    | none => false
    | some q =>
      let pre := (w.take i).filter fun p => !s.below slot p.charge
      let lower : Bool := match k.runOn .main with
        | some r => s.below slot r.charge
        | none => (w.take i).any fun p => engineOf p.bits == .main && s.below slot p.charge
      decide (classOf slot ≤ 1) && lower
        && k.stops.all (fun p => decide (classOf slot < classOf p.slot))
        && pre.all (fun p => engineOf p.bits != .main && !s.waitsFor p.charge p.bits q.charge q.bits)
        && k.running.all fun r => r.eng == .main || !s.waitsFor r.charge r.bits q.charge q.bits

/-- The preempting charge has ended, and the engines of the descriptors that it stopped are free. -/
def State.resumeDue (s : State) (stack : Nat) : Bool :=
  let k := s.stk stack
  match k.stops with
  | p :: _ => p.saved && !(s.charges.any fun c => c.id == p.charge && c.phase == .admitted)
      && k.halted.all fun r => r.stoppedBy != some p.slot || (k.runOn r.eng).isNone
  | [] => false

/-- Slots of one class with main-engine work left on a stack. -/
def State.sliceSlots (s : State) (stack cls : Nat) : List Nat :=
  let k := s.stk stack
  let of : Nat → Option Nat := fun id => if classOf (s.slotOf id) = cls then some (s.slotOf id) else none
  ((k.queue.filterMap fun q => if engineOf q.bits = .main then of q.charge else none) ++ k.halted.filterMap fun r => of r.charge).eraseDups
/-- The slots whose turns follow, in ascending order, around. -/
def turnsAfter (p : Nat) (xs : List Nat) : List Nat :=
  (List.range 16).filter (fun q => xs.contains q && decide (p < q)) ++ (List.range 16).filter fun q => xs.contains q && decide (q < p)
/-- The slices of a stack: those under way, and for every other class that of the patron whose main-engine descriptor stands first, the lowest slot of
those that the pass admitted (07 R208). -/
def State.slicesOn (s : State) (stack : Nat) : List SliceSt :=
  let k := s.stk stack
  k.slices ++ (List.range 4).filterMap fun cls => if k.slices.any fun x => x.cls == cls then none else
    (k.queue.find? fun q => engineOf q.bits == .main && classOf (s.slotOf q.charge) == cls).map fun q =>
      { cls := cls, slot := s.slotOf q.charge, used := lookupD 0 (s.slotOf q.charge) k.sliceCarry }
/-- A stack with the descriptors of a slot ahead of the others of its class, and of what stands before them of lower classes (R203, R208). -/
def State.switched (s : State) (stack slot : Nat) : StackSt :=
  let k := s.stk stack
  match (k.queue.reverse.find? fun e => s.slotOf e.charge == slot).map (·.charge) with
  | some id => { k with queue := withdraw k.queue (fun e => s.sameClass slot e || s.below slot e.charge) id }
  | none => k
/-- The main engine could go on with a slot, were it its turn: with a descriptor of it that an earlier slice has halted, or with its next one. -/
def State.couldTake (s : State) (stack slot : Nat) : Bool :=
  (s.stk stack).halted.any (fun r => r.eng == .main && r.stoppedBy.isNone && s.slotOf r.charge == slot) ||
  let z := s.modStk stack fun _ => s.switched stack slot
  z.couldStart stack .main && ((z.stk stack).nextOf .main).any fun p => s.slotOf p.2.charge == slot
/-- With the main engine idle a slice ends where its patron has had its Q cycles or none of its descriptors can start: the slot that goes on then, the
first in turn that can. -/
def State.idleNext (s : State) (stack : Nat) (x : SliceSt) : Option Nat :=
  let k := s.stk stack
  let others := turnsAfter x.slot (s.sliceSlots stack x.cls)
  if others.isEmpty || (k.runOn .main).isSome || !k.stops.isEmpty || !k.usable || k.inv.isSome then none
  else match k.nextOf .main with
    | some q =>
      if classOf (s.slotOf q.2.charge) ≠ x.cls then none
      else if s.slotOf q.2.charge = x.slot ∧ x.used < s.getN .schedSlice ∧ s.couldStart stack .main then none
      else others.find? (s.couldTake stack)
    | none => others.find? (s.couldTake stack)

/-- What nothing holds the scheduler back from on a stack. -/
def State.turnsDue (s : State) (stack : Nat) : List Turn :=
  let k := s.stk stack
  if !k.usable then [] else
  ([0, 1].filter (s.preemptDue stack)).map Turn.preempt
    ++ (if s.resumeDue stack then [.resume] else [])
    ++ ((s.slicesOn stack).filter fun x => (s.idleNext stack x).isSome).map fun x => .slice x.cls

/-- The instant of a turn: the one from which nothing holds it back; now, where the stack has noted none. -/
def State.turnAt (s : State) (stack : Nat) (x : Turn) : Tick := (((s.stk stack).turns.find? fun y => y.1 == x).map (·.2)).getD s.now

/-- The engines of a stack. -/
def engines : List Engine := [.fill, .ledIn, .main, .ledOut]
/-- The stacks note, as of an instant, which descriptors nothing holds back any longer, and which turns of the scheduler: their instants are exact,
whenever they are commanded (06 R159, 08 R220). -/
def State.noteReady (s : State) (t : Tick) : State :=
  (List.range 4).foldl (fun s i => s.modStk i fun k => { k with
    ready := engines.filterMap fun e => if !s.couldStart i e then none else (k.nextOf e).map fun p =>
      ((k.ready.find? fun x => x.1 == e && x.2.1 == p.2.charge && x.2.2.1 == p.2.index).getD (e, p.2.charge, p.2.index, t))
    turns := (s.turnsDue i).map fun x => (k.turns.find? fun y => y.1 == x).getD (x, t) }) s
/-- The instant at which the next descriptor of an engine starts: the one from which nothing holds it back, and no earlier than its stack and the
scheduler let it; now, where the stack has noted none. -/
def State.startAt (s : State) (stack : Nat) (e : Engine) : Tick :=
  let k := s.stk stack
  match k.nextOf e with
  | none => s.now
  | some (_, q) =>
    let since := ((k.ready.find? fun x => x.1 == e && x.2.1 == q.charge && x.2.2.1 == q.index).map (·.2.2.2)).getD s.now
    max since (max q.from0 k.heldTo)

/-- A stop request holds a descriptor at a stop point before its end (06 R181). -/
def RunSt.halts (r : RunSt) : Bool := r.stopAt.any fun e => decide (e < r.cost)
/-- The instant at which a running descriptor has had some cycles of its cost. -/
def RunSt.instantOf (r : RunSt) (cycles : Nat) : Tick := r.start + (cycles - (r.cost - r.left)) * r.cyc
/-- The instant at which every descriptor that the latest preemption has stopped stands at its stop point or has ended; none while one still runs on. -/
def StackSt.stopInstant (k : StackSt) : Option Tick :=
  match k.stops with
  | p :: _ =>
    let mine := k.running.filter fun r => r.stoppedBy == some p.slot
    if p.saved || !mine.all RunSt.halts then none else some ((mine.map fun r => r.instantOf (r.stopAt.getD r.cost)).foldl max p.at0)
  | [] => none
/-- The stop point at which a running main-engine descriptor lets a slice end: its first one at or after the slice's Q cycles. -/
def State.sliceStop (s : State) (stack : Nat) (x : SliceSt) (r : RunSt) : Nat :=
  stopPointFrom (s.stk stack).shelfCount r.bits r.cost (r.cost - r.left + (s.getN .schedSlice - x.used))
/-- The slice that the main engine's descriptor runs in ends at a stop point of it, where another patron of the class has work: the slice and the instant
(R208). -/
def State.sliceInstant (s : State) (stack : Nat) : Option (SliceSt × Tick) :=
  let k := s.stk stack
  match k.runOn .main with
  | none => none
  | some r =>
    if !k.stops.isEmpty || !k.usable || !((Op.ofCode (dOp r.bits)).any (·.preemptible)) then none else
    (k.slices.find? fun x => x.slot == s.slotOf r.charge && !(turnsAfter x.slot (s.sliceSlots stack x.cls)).isEmpty && decide (s.sliceStop stack x r < r.cost)).map
      fun x => (x, r.instantOf (s.sliceStop stack x r))
/-- The instants of a stack's turns, stops and slice ends. -/
def State.turnInstants (s : State) (stack : Nat) : List Tick :=
  (s.stk stack).turns.map (·.2) ++ (s.stk stack).stopInstant.toList ++ ((s.sliceInstant stack).map (·.2)).toList
/-- Nothing on the stacks starts or turns before an instant, nor ends by it. -/
def State.quietBefore (s : State) (t : Tick) : Bool :=
  (List.range 4).all fun i => !(s.stk i).usable
    || (engines.all fun e => !s.couldStart i e || decide (t ≤ s.startAt i e))
      && (s.turnInstants i).all (fun x => decide (t ≤ x))
      && (s.stk i).running.all fun r => r.halts || decide (t < s.dueAt i r)
/-- The next descriptor of an engine can start now, and what the stacks do before it has been done. -/
def State.canStart (s : State) (stack : Nat) (e : Engine) : Bool :=
  s.couldStart stack e && decide (s.startAt stack e ≤ s.now) && s.quietBefore (s.startAt stack e)

/-! ## Reconsideration, and the abandonment of a charge -/

/-- Reconsider the heads of the patrons' queues on a stack in class order, at an instant (02 R40, 07 R210). -/
def State.reconsider (s : State) (k : Nat) (at0 : Tick) : State :=
  if !(s.stk k).passDone then s else
  (passOrder.foldl (fun s p => admitRun k p false at0 s.charges.length s) s).noteReady at0
/-- Reconsider every stack, in ascending number, after a completion at an instant. -/
def State.reconsiderAll (s : State) (due : Tick) : State :=
  let at0 := due + schedLag * s.cycTicks
  ((List.range 4).foldl (fun s k => s.reconsider k at0) s).noteReady at0

/-- A charge ends on a stack: the overlap counted since the last end is released (07 R210). -/
def State.releaseOverlap (s : State) (stack slot : Nat) : State :=
  let n := (s.stk stack).overlap
  (s.modStk stack fun k => { (k.freeCycles n) with overlap := 0 }).modCtr slot fun t => { t with admitted := t.admitted - n, overlap := natSat (t.overlap + n) 32 }

/-- The rows of a charge whose step has committed and whose streams have lost their copies. -/
def ChargeSt.undone (c : ChargeSt) (lost : List Nat) : List Nat := c.done.filter fun i => lost.contains (rowAt c.rows i).sid
/-- It has something left to run: its commit, or a committed row whose copy is lost (06 R186, 05 R134). -/
def ChargeSt.runsAnew (c : ChargeSt) (lost : List Nat) : Bool := !c.committed || !(c.undone lost).isEmpty
/-- A charge as it runs again: the rows that it has committed run with it, from the images that they took before, so that every output and digest is the
same again; their commits have been (05 R134, 08 R218, R224). -/
def ChargeSt.anew (c : ChargeSt) : ChargeSt :=
  { c with
    redo := (c.redo ++ c.done).eraseDups
    phase := .queued, started := false, fed := false, unrun := 0, committed := false, done := [], headRows := [], shadow := [], moved := []
    needs := [], clips := [], kept := [], drift := [], outs := none, reserved := false, counted := c.counted || c.committed
    rerun := c.rerun || c.started }
/-- Put a charge first in its patron's queue, to run again from a stamp on. -/
def State.requeueFirst (s : State) (c : ChargeSt) (eligible : BitVec 48) : State :=
  { s with charges := { c.anew with eligible := eligible } :: s.charges }

/-- Whether a charge names streams. -/
def ChargeSt.hasStreams (c : ChargeSt) : Bool := c.rows.any fun r => (Row.ofBits r).use

/-- Whether the abandonment of a charge at an INDEX ends a descriptor of it: every later one but a PARK (06 R186). -/
def endedBy (index i : Nat) (bits : BitVec 512) : Bool := decide (index < i) && Op.ofCode (dOp bits) != some .park

/-- Cycles of its cost that a descriptor has had. -/
def RunSt.elapsed (r : RunSt) (now : Tick) : Nat := r.cost - r.left + min r.left ((now - r.start) / r.cyc)

/-- Cycles that a running or halted descriptor of a stack has had. -/
def StackSt.had (k : StackSt) (r : RunSt) (now : Tick) : Nat := if k.running.contains r then r.elapsed now else r.cost - r.left

/-- An image to the end of the last of some pages (05 R121). -/
def Image.padded (i : Image) (pages : Nat) : Bytes :=
  let b := i.bytes
  b ++ List.replicate (8192 * pages - b.length) 0#8
/-- The bytes of a resident stream's working copy at HOME (06 R169). -/
def StreamSt.homeBytes (x : StreamSt) : Bytes := x.work.padded x.pages

/-- Write a resident stream's working copy to HOME. -/
def State.writeHome (s : State) (sid : Nat) : State :=
  let x := s.stream sid
  if x.place = .resident then s.modStk x.stack fun k => k.writeCarrel (64 * x.home) x.homeBytes else s

/-- Streams of a charge that is given up: each resident one's working copy is its committed image again (05 R133). -/
def State.resetWork (s : State) (c : ChargeSt) : State :=
  let mine := s.streams.filter fun x => c.names x.sid && x.place == .resident
  mine.foldl (fun s x => (s.modStream x.sid fun x => { x with work := x.committed, wide := [] }).writeHome x.sid) s

/-- Abandon an admitted charge at a descriptor and an instant (06 R186): its record carries the status and ends the charge, unless it was abandoned
before; every later descriptor
but a PARK completes ABANDONED; what stands before it and the PARKs still run; the rest of its cost returns to the stack (04 R110);
its streams keep their committed images; it is first in its patron's queue again where `again` gives the stamp from which it may run. The
charge has ended, so its overlap is released and the queue heads are reconsidered (06 R188, 07 R210). -/
def State.abandon (s : State) (at0 : Tick) (id : Nat) (index op status cycles detail : Nat) (again : Option (BitVec 48)) : State :=
  match s.charge? id with
  | none => s
  | some c =>
    let k := s.stk c.stack
    let queued := k.queue.filter fun q => q.charge == id
    let ran := (k.running ++ k.halted).filter fun r => r.charge == id
    let stays : RunSt → Bool := fun r => r.charge == id && r.index != index && !endedBy index r.index r.bits
    let left := (queued.filter fun q => !endedBy index q.index q.bits)
    let cost := (left.map fun q => descCost s k.shelfCount c.rows q.bits).sum + ((ran.filter stays).map fun r => r.left).sum
    let s := s.record c op index (!c.abandoned) status cycles 0 detail
    let s := (ran.filter fun r => endedBy index r.index r.bits).foldl (fun s r => s.record c (dOp r.bits) r.index false stAbandoned (k.had r at0) 0 0) s
    let s := (queued.filter fun q => endedBy index q.index q.bits).foldl (fun s q => s.record c (dOp q.bits) q.index false stAbandoned 0 0 0) s
    let s := s.resetWork c
    let rest : ChargeSt := { c with id := s.nextCharge, abandoned := true, unrun := cost, cost := cost }
    let none' : Bool := left.isEmpty && !ran.any stays
    let s : State := { s with
      nextCharge := s.nextCharge + 1
      charges := (s.charges.filter fun x => x.id ≠ id) ++ (if none' then [] else [rest]) }
    let mend : List RunSt → List RunSt := fun rs => (rs.filter fun r => r.charge != id || stays r).map fun r =>
      if r.charge = id then { r with charge := rest.id } else r
    let s := s.modStk c.stack fun k => { (k.freeCycles (c.unrun - cost)) with
      queue := (k.queue.filter fun q => q.charge != id || !endedBy index q.index q.bits).map fun q =>
        if q.charge = id then { q with charge := rest.id } else q
      running := mend k.running
      halted := mend k.halted
      ctxs := k.ctxs.filter fun x => x.charge ≠ id }
    let s := match again with
      | some n => s.requeueFirst c n
      | none => s
    ((s.noteReady at0).releaseOverlap c.stack c.slot).reconsiderAll at0

end Sys2Proof.Machine
end

