-- ==== Sys2Proof/Machine/Compute.lean ====
section
/-! DEFINITION. What the descriptors compute: the matrix layer with rescale, calibration and fused operations (03 R54 to R71, 04
R95 to R110, 06 R164 to R167), the state layer (05 R123 to R130), the element-wise operations (06 R171), and the clip counts
and needs they record. -/

namespace Sys2Proof.Machine

/-! ## Reading operands -/

/-- A code at an element index of a tensor: unsigned A8 or signed A16 (06 R165). -/
def codeAt (m : Mem) (base i : Nat) (wide : Bool) : Int :=
  if wide then toSigned (leNat (memRead m (base + 2 * i) 2)) 16 else (memGet m (base + i)).toNat
/-- The bytes of an output code. -/
def codeBytes (v : Int) (wide : Bool) : Bytes := if wide then leBytes 2 (ofSigned v 16) else leBytes 1 (ofSigned v 8)
/-- clampn of 06 R167. -/
def clampN (v : Int) (wide : Bool) : Int := if wide then sat v 16 else usat v 8
/-- The tag of the weight-store line that holds a byte address (04 R92). -/
def tagAt (k : StackSt) (addr : Nat) : Nat := (memGet k.tags (addr / 64)).toNat % 16

/-! ## The matrix layer -/

/-- Page, pass in the page and row in the block of weight (r, p) (04 R89). -/
def MatBody.pageOf (m : MatBody) (r p : Nat) : Nat := r / m.blockRows * m.blockPages + p / 4
def MatBody.weightAddr (m : MatBody) (r p l : Nat) : Nat :=
  let ρ := r % m.blockRows
  64 * m.pages + 4096 * m.pageOf r p + p % 4 * 1024 + (if m.mode = 1 then ρ / 2 else ρ) * 32 + l
def MatBody.slipAddr (m : MatBody) (r p : Nat) : Nat :=
  let per := m.group / 32
  64 * m.slips + m.slipStride * m.pageOf r p + (p / per - p / 4 * 4 / per) * m.blockRows + r % m.blockRows

/-- A weight code (04 Table 4.2). -/
def MatBody.weight (m : MatBody) (st : Mem) (r p l : Nat) : Int :=
  let b := (memGet st (m.weightAddr r p l)).toNat
  if m.mode = 1 then (if r % 2 = 0 then b % 16 else b / 16 : Nat) else b

/-- A row record (04 Table 4.4): MULT, SHIFT, ZW, BIAS. -/
structure RowRec where
  mult : Nat
  shift : Nat
  zw : Nat
  bias : Int
def MatBody.rowRec (m : MatBody) (st : Mem) (r : Nat) : RowRec :=
  let v := leNat (memRead st (64 * m.rowf + 8 * r) 8)
  { mult := bitsOf v 15 0, shift := bitsOf v 21 16, zw := bitsOf v 31 24, bias := toSigned (bitsOf v 63 32) 32 }

/-- One leaf dot product, over the reduction elements that exist (03 R61), of an activation part. -/
def MatBody.dot (m : MatBody) (st : Mem) (act : Nat → Int) (zw r p : Nat) : Int :=
  ((List.range (min 32 (m.din - 32 * p))).map fun l => (m.weight st r p l - zw) * act (32 * p + l)).sum

/-- The accumulator updates of entry (r, b), in pass order, the annex's last (03 R59, R71, 04 R98). -/
def MatBody.updates (m : MatBody) (st : Mem) (car : Mem) (r b : Nat) : List Int :=
  let x : Nat → Int := fun i => codeAt car (64 * m.xin) (b * m.din + i) m.ifmt
  let zw := (m.rowRec st r).zw
  let passes := (List.range m.passes).flatMap fun p =>
    let s : Int := (memGet st (m.slipAddr r p)).toNat
    if m.mode = 2 then
      [m.dot st (fun i => x i % 256) zw r p * s, m.dot st (fun i => x i / 256) zw r p * s * 256]
    else [m.dot st (fun i => x i - m.zin) zw r p * s]
  let annex := ((List.range m.wide).map fun c =>
    toSigned (leNat (memRead st (64 * m.wpages + (r * m.wide + c) * 2) 2)) 16 * codeAt car (64 * m.xwide) (b * m.wide + c) true).sum
  passes ++ (if m.wide = 0 then [] else [rnd annex (-m.walign)])

/-- The accumulator after its updates, or none when one leaves the 44-bit range (03 R60). -/
def accumulate : Int → List Int → Option Int
  | acc, [] => some acc
  | acc, u :: us => if -(2 ^ 43 : Int) ≤ acc + u ∧ acc + u ≤ 2 ^ 43 - 1 then accumulate (acc + u) us else none

/-- The table of a fused or standalone TABLE. -/
def tableAt (car : Mem) (a : Nat) : FTable := FTable.ofBytes (memRead car (64 * a) 784)

/-- The fused operation on a rescaled code: result and whether a saturation changed the element (06 R167). -/
def MatBody.fused (m : MatBody) (car : Mem) (y : Int) (r b : Nat) : Int × Bool :=
  let o := codeAt car (64 * m.eop) (b * m.dout + r) m.outw
  let fin : Int → Int × Bool := fun v => (clampN v m.outw, decide (clampN v m.outw ≠ v))
  match m.fuse with
  | 1 =>
    let t := tableAt car m.ftab
    let v := t.eval (y - m.zout)
    let c := t.clips (y - m.zout)
    if m.outw then (v, c) else (usat (v + m.zout) 8, c || decide (usat (v + m.zout) 8 ≠ v + m.zout))
  | 2 => fin (y + rnd (o - m.ez) m.esh)
  | 3 => fin (m.zout + rnd ((y - m.zout) * (o - m.ez)) m.esh)
  | _ => (y, false)

/-! ## Tags, validity and check bits -/

/-- Output rows of a row tile on n available shelves (03 R57, R62). -/
def MatBody.tileRows (m : MatBody) (n : Nat) : Nat := tileOf m.mode n

/-- The rows of a row tile. -/
def MatBody.tileOfRows (m : MatBody) (n t : Nat) : List Nat :=
  let w := m.tileRows n
  (List.range (min w (m.dout - t * w))).map (t * w + ·)
/-- The cycles into a layer at which pass p of row tile t has its lines, and at which the tile starts to drain (log 138). -/
def MatBody.passAt (m : MatBody) (n t p : Nat) : Nat := t * matTileCycles m n + p * (if m.mode = 2 then 2 else 1) + 1
def MatBody.drainAt (m : MatBody) (n t : Nat) : Nat := (t + 1) * matTileCycles m n

/-- The slip-skew comparisons of a layer in the order in which it makes them, each with its cycle, row tile by row tile: each page line with the
slip line of its scale codes, pass by pass, the wide lines, and, as the tile starts to drain, its row-file lines, with the tags of 04 R92. The first
mismatch gives its cycle and the two tags (04 R109). A page and a slip that carry one tag, but not the one that R164 expects, raise no fault (log
112). -/
def MatBody.skew (m : MatBody) (k : StackSt) : Option (Nat × Nat × Nat) :=
  let n := k.shelfCount
  ((List.range (ceilDiv m.dout (m.tileRows n))).flatMap fun t =>
    let rows := m.tileOfRows n t
    ((List.range m.passes).flatMap fun p => rows.map fun r => (m.passAt n t p, tagAt k (m.weightAddr r p 0), tagAt k (m.slipAddr r p)))
      ++ (rows.flatMap fun r => (List.range m.wide).map fun c =>
        let off := (r * m.wide + c) * 2
        (m.drainAt n t, (m.pageCount + off / 4096) % 16, tagAt k (64 * m.wpages + off)))
      ++ rows.map fun r => (m.drainAt n t, r / m.blockRows * m.blockPages % 16, tagAt k (64 * m.rowf + 8 * r))).find? fun p => p.2.1 ≠ p.2.2

/-- The weight-store bytes that a layer reads, each with the cycle at which it has them. -/
def MatBody.readsAt (m : MatBody) (n : Nat) : List (Nat × Span) :=
  (List.range (ceilDiv m.dout (m.tileRows n))).flatMap fun t =>
    let rows := m.tileOfRows n t
    ((List.range m.passes).flatMap fun p => rows.flatMap fun r =>
        [(m.passAt n t p, (m.weightAddr r p 0, 32)), (m.passAt n t p, (m.slipAddr r p, 1))])
      ++ rows.flatMap fun r => [(m.drainAt n t, (64 * m.wpages + r * m.wide * 2, 2 * m.wide)), (m.drainAt n t, (64 * m.rowf + 8 * r, 8))]
/-- The first word that a layer reads and that holds an uncorrectable error: the cycle at which it has it, and its region (03 R67). -/
def MatBody.ecc (m : MatBody) (k : StackSt) : Option (Nat × Nat) :=
  if k.badWords.isEmpty then none else
  (m.readsAt k.shelfCount).findSome? fun x => (k.badWords.find? fun w => Span.meets x.2 (8 * w, 8)).map fun w => (x.1, 8 * w / 262144)

/-- The first region read that is not valid (03 R64). -/
def badRegion (k : StackSt) (spans : List Span) : Option Nat := (regionsOf spans).find? fun r => !k.valid.getLsbD r
/-- Words read in which the stack corrects a single-bit error (03 R67). -/
def softReads (k : StackSt) (spans : List Span) : Nat := (k.softWords.filter fun w => spans.any fun sp => Span.meets sp (8 * w, 8)).length
/-- A carrel word read that holds an uncorrectable error (03 R69). -/
def badCarrelRead (k : StackSt) (spans : List Span) : Option Nat := k.badCarrel.find? fun w => spans.any fun sp => Span.meets sp (8 * w, 8)
/-- The region of the first word read that holds an uncorrectable error (03 R67). -/
def eccRegion (k : StackSt) (spans : List Span) : Option Nat :=
  (k.badWords.find? fun w => spans.any fun sp => Span.meets sp (8 * w, 8)).map fun w => 8 * w / 262144

/-! ## Range steps -/

/-- The patron's live calibration of a tensor (04 Table 4.6): floor, ceiling and window. -/
def State.klo (s : State) (p t : Nat) : Nat := s.getN (.tensorKlo p t)
def State.khi (s : State) (p t : Nat) : Nat := ((s.get (.tensorKhi p t)).getD 7).toNat
def State.window (s : State) (p t : Nat) : Nat := ((s.get (.tensorWindow p t)).getD 16).toNat
/-- The range step of an output row (04 R102, 06 R166). -/
def State.kOut (s : State) (p t ring : Nat) (runcal : Bool) (i : Image) : Nat :=
  if runcal then rangeStep (s.klo p t) (s.khi p t) (lastNeeds (i.rings.getD ring []) i.step.toNat (s.window p t)) else s.klo p t

/-! ## Results of a descriptor's run -/

/-- How a computing descriptor ends: its status, the cycles after which a fault stops it, the carrel writes of each of its stop-point units, and what
else it leaves. -/
structure RunOut where
  status : Nat := stDone
  after : Nat := 0
  detail : Nat := 0
  units : List (List (Nat × Bytes)) := []
  fx : RunEnd := {}

/-- Clip counts added element by element. -/
def addClip (tensor sid produced clipped : Nat) : List ClipCount → List ClipCount
  | [] => [{ tensor := tensor, sid := sid, produced := produced, clipped := clipped }]
  | c :: cs => if c.tensor = tensor ∧ c.sid = sid then { c with produced := c.produced + produced, clipped := c.clipped + clipped } :: cs
    else c :: addClip tensor sid produced clipped cs
def mergeClips (new old : List ClipCount) : List ClipCount :=
  new.foldl (fun o c => addClip c.tensor c.sid c.produced c.clipped o) old

/-- A need joined to those of its row and ring: the largest counts (05 R118). -/
def addNeed (row ring need : Nat) : List (Nat × Nat × Nat) → List (Nat × Nat × Nat)
  | [] => [(row, ring, need)]
  | n :: ns => if n.1 = row ∧ n.2.1 = ring then (row, ring, max n.2.2 need) :: ns else n :: addNeed row ring need ns

/-- The stream number of batch row b under a descriptor's first row and streams; none when rows name no stream. -/
def batchRow (row0 nsm b : Nat) : Option Nat := if nsm = 0 then none else some (row0 + b % nsm)
/-- SID under which a row's elements are counted, and whose rings give its range step: the stream's; 0 for a row that names none (log 112). -/
def rowSid (c : ChargeSt) (row : Option Nat) : Nat :=
  match row with
  | some i => let r := rowAt c.rows i; if r.use then r.sid else 0
  | none => 0

/-- The batch rows that take operands: a MOVED row takes none (06 R166). -/
def MatBody.liveRows (m : MatBody) (moved : List Nat) : List Nat :=
  (List.range m.b).filter fun b => !(batchRow m.row0 m.nsm b).any moved.contains

/-- One batch row of a MATMUL's output: its codes, its range step, the elements clipped, its need and its sums. -/
structure MatRow where
  b : Nat
  codes : List Bytes
  kOut : Nat
  clipped : Nat
  need : Nat
  sums : List Int

/-- Drain one batch row: rescale, fused operation and need (04 R99, R103, 06 R167). -/
def MatBody.drain (m : MatBody) (s : State) (c : ChargeSt) (k : StackSt) (b : Nat) (sums : List Int) : MatRow :=
  let img := (s.stream (rowSid c (batchRow m.row0 m.nsm b))).work
  let kIn := if m.tags then (memGet k.carrel (64 * m.xtag + b)).toNat % 8 else 0
  let kOut := s.kOut c.slot m.clipt m.ring m.runcal img
  let code : Nat → Int → Nat → Int × Bool := fun r a n =>
    let q := m.rowRec k.store r
    rescale a q.bias q.mult q.shift kIn n m.zout m.outw
  let outs := sums.mapIdx fun r a => (m.fused k.carrel (code r a kOut).1 r b, (code r a kOut).2)
  { b := b
    codes := outs.map fun e => codeBytes e.1.1 m.outw
    kOut := kOut
    clipped := (outs.filter fun e => e.1.2 || e.2).length
    need := needOf fun n => (sums.mapIdx fun r a => (code r a n).2).all not
    sums := sums }

/-- The carrel writes of row tile t of batch tile u: the tile's output codes, and with the last row tile the rows' range step tags. -/
def MatBody.tileWrites (m : MatBody) (w tiles : Nat) (rows : List MatRow) (u t : Nat) : List (Nat × Bytes) :=
  (rows.filter fun x => x.b / 32 == u).flatMap fun x =>
    [(64 * m.yout + (x.b * m.dout + t * w) * m.eout, ((x.codes.drop (t * w)).take w).flatten)]
      ++ if t + 1 = tiles then [(64 * m.ytag + x.b, [BitVec.ofNat 8 (x.kOut % 8)])] else []

/-- The accumulator entries after a layer: tile τ accumulates in set τ mod 4, in W4A8 in sets 2τ and 2τ + 1 mod 4, so the sets hold the last
tiles, each cleared before its tile (03 R58, log 112). -/
def MatBody.entries (m : MatBody) (shelves : List Nat) (w tiles : Nat) (rows : List MatRow) : List (Nat × BitVec 44) :=
  let per := if m.mode = 1 then 2 else 1
  let total := ceilDiv m.b 32 * tiles
  (lastN (4 / per) (List.range total)).flatMap fun τ =>
    let u := τ / tiles
    let t := τ % tiles
    (List.range shelves.length).flatMap fun i => (List.range per).flatMap fun h => (List.range 32).map fun j =>
      let sum := ((rows.find? fun x => x.b == 32 * u + j).bind fun x => x.sums[t * w + per * i + h]?).getD 0
      (shelves.getD i 0 * 128 + (per * τ + h) % 4 * 32 + j, BitVec.ofInt 44 sum)

/-- The sums of each live batch row; none where an update leaves the accumulator. -/
def MatBody.sumsOf (m : MatBody) (c : ChargeSt) (k : StackSt) : List (Nat × List (Option Int)) :=
  (m.liveRows c.moved).map fun b => (b, (List.range m.dout).map fun r => accumulate 0 (m.updates k.store k.carrel r b))
/-- The first row tile in which an update leaves the accumulator, of the tiles of all batch tiles in turn (03 R60). -/
def MatBody.overTile (m : MatBody) (n : Nat) (sums : List (Nat × List (Option Int))) : Option Nat :=
  let w := m.tileRows n
  let tiles := ceilDiv m.dout w
  (List.range (ceilDiv m.b 32 * tiles)).find? fun τ => sums.any fun x => x.1 / 32 == τ / tiles
    && (List.range m.dout).any fun r => r / w == τ % tiles && (x.2.getD r (some 0)).isNone

/-- The faults of a layer that runs, each with its cycle; a slip-skew fault precedes the others of a cycle, and a check-bit error an accumulator
range. -/
def MatBody.faults (m : MatBody) (k : StackSt) (sums : List (Nat × List (Option Int))) : List RunOut :=
  ((m.skew k).map fun x => { status := stSkew, after := x.1, detail := x.2.1 + 16 * x.2.2 }).toList
    ++ ((m.ecc k).map fun x => { status := stEcc, after := x.1, detail := x.2 }).toList
    ++ ((m.overTile k.shelfCount sums).map fun τ => { status := stRange, after := m.drainAt k.shelfCount τ }).toList
/-- The earliest of them. -/
def firstOut : List RunOut → Option RunOut
  | [] => none
  | o :: os => match firstOut os with
    | some p => if p.after < o.after then some p else some o
    | none => some o

/-- Run a MATMUL: outputs and tags row tile by row tile, needs, counts and sums (06 R164 to R167). A region that is not valid ends it at its start; any
other fault in the cycle in which it shows itself: the row tiles written before stay, but an accumulator range discards the whole result (03 R60, 04
R110). -/
def runMatmul (s : State) (c : ChargeSt) (d : BitVec 512) : RunOut :=
  let m := MatBody.of d
  let k := s.stk c.stack
  if m.empty then {} else
  match badRegion k (storeReads d) with
  | some r => { status := stInvalidReg, detail := r }
  | none =>
    let sums := m.sumsOf c k
    let rows := sums.map fun p => m.drain s c k p.1 (p.2.map (·.getD 0))
    let w := m.tileRows k.shelfCount
    let tiles := ceilDiv m.dout w
    let units := (List.range (ceilDiv m.b 32)).flatMap fun u => (List.range tiles).map fun t => m.tileWrites w tiles rows u t
    match firstOut (m.faults k sums) with
    | some o => if o.status = stRange then o else { o with units := units.take (unitsDone k.shelfCount d (matCost m k.shelfCount) o.after) }
    | none =>
      { units := units
        fx := {
          needs := if m.ringv then rows.foldl (fun ns x => match batchRow m.row0 m.nsm x.b with
            | some i => addNeed i m.ring x.need ns
            | none => ns) [] else []
          clips := rows.foldl (fun cs x => addClip m.clipt (rowSid c (batchRow m.row0 m.nsm x.b)) m.dout x.clipped cs) []
          acc := m.entries ((List.range 32).filter fun i => k.shelves.getLsbD i) w tiles rows } }

/-! ## The state layer -/

/-- A state layer's parameters at its first parameter page (05 R128). -/
structure StateParams where
  a : Nat → Nat → Int
  dd : Nat → Int
  tsp : FTable
  tne : FTable
  tgate : FTable
def stateParams (st : Mem) (b : ScanBody) : StateParams :=
  let base := 64 * b.param
  let dBase := base + 2 * b.d * b.nn
  let tBase := dBase + 2 * b.d
  { a := fun c n => leNat (memRead st (base + 2 * (c * b.nn + n)) 2)
    dd := fun c => toSigned (leNat (memRead st (dBase + 2 * c) 2)) 16
    tsp := FTable.ofBytes (memRead st tBase 784)
    tne := FTable.ofBytes (memRead st (tBase + 784) 784)
    tgate := FTable.ofBytes (memRead st (tBase + 1568) 784) }

/-- One channel of one row: new state elements, the exact y × g before its shift, the clipped count, and the α and β of
each element (05 R124). `wide` carries the state at 32 bits (R149, R150). -/
structure ChanOut where
  h : List Int
  wide : List Int
  prod : Int
  clipped : Nat
  alphas : List Int
  betas : List Int
def scanChannel (q : StateParams) (b : ScanBody) (k j : Nat) (xin : Nat → Int) (h wide : List Int) (reset : Bool) (c : Nat) : ChanOut :=
  let Δ := q.tsp.eval (xin (2 * b.d + c))
  let x := xin c
  let ns := List.range b.nn
  let alphas := ns.map fun n => clampAlpha (q.tne.eval (sat (rnd (Δ * q.a c n) b.sa) 16)) k
  let betas := ns.map fun n => sat (rnd (Δ * xin (3 * b.d + n)) b.sb) 16
  let old : Nat → Int := fun n => if reset then 0 else h.getD n 0
  let oldW : Nat → Int := fun n => if reset then 0 else wide.getD n 0
  let vs := ns.map fun n => stateUpdate (alphas.getD n 0) (betas.getD n 0) (old n) x j b.aal
  let ws := ns.map fun n => shadowUpdate (alphas.getD n 0) (betas.getD n 0) (oldW n) x j b.aal
  let h' := if b.w32 then ws.map fun w => sat (rnd w 16) 16 else vs.map fun v => sat v 16
  let y := sat (rnd ((ns.map fun n => xin (3 * b.d + b.nn + n) * h'.getD n 0).sum + q.dd c * x) b.sy) 16
  { h := h', wide := ws, prod := y * q.tgate.eval (xin (b.d + c))
    clipped := if b.w32 then 0 else (vs.filter fun v => sat v 16 ≠ v).length, alphas := alphas, betas := betas }

/-- Parameter lines whose tag is not their page number mod 16 (05 R128). -/
def ScanBody.skew (b : ScanBody) (k : StackSt) : Option (Nat × Nat) :=
  ((List.range (ceilDiv (2 * b.d * b.nn + 2 * b.d + 2352) 64)).map fun l =>
    (l / 64 % 16, tagAt k (64 * b.param + 64 * l))).find? fun p => p.1 ≠ p.2

/-- Elements of a layer's state cut into channels. -/
def channelsOf (nn d : Nat) (xs : List Int) : List (List Int) := (List.range d).map fun c => (xs.drop (c * nn)).take nn

/-- The state layer's unit follows a live change of the state shift at the stream's first step under it (05 R126). -/
def applyShift (s : State) (layer : Nat) (i : Image) : Image :=
  match s.held (.streamShift i.sid layer) with
  | some (some j) =>
    let old := i.shifts.getD layer 0
    if (old : Int) = j then i
    else { i with shifts := i.shifts.set layer j.toNat
                  state := i.state.set layer ((i.state.getD layer []).map fun h => sat (rnd h (j - old)) 16) }
  | _ => i

/-- The 32-bit state of a layer follows a change of the state shift as the 16-bit state does (05 R126, R150, log 142). -/
def rescaleWide (x : StreamSt) (w : Image) (layer : Nat) (wide : List (List Int)) : List (List Int) :=
  let n : Int := (w.shifts.getD layer 0 : Nat) - (x.work.shifts.getD layer 0 : Nat)
  wide.set layer ((wide.getD layer []).map fun v => sat (rnd v n) 32)

/-- The clamp exponent: the live setting of the patron's layer, 10 by default (05 R125, log 21). -/
def State.clampOf (s : State) (slot layer : Nat) : Nat := s.getN (.layerClamp slot layer)

/-- Byte of a stream's image at which a state layer begins (05 R121), and byte of the rebuild area at which its 32-bit form does. -/
def layerAt (dims : List (Nat × Nat)) (layer : Nat) : Nat := 1024 + ((dims.take layer).map fun d => 2 * d.1 * d.2).sum
def wideAt (dims : List (Nat × Nat)) (pages layer : Nat) : Nat := 8192 * pages + rebuildBytes (dims.take layer)
/-- The bytes of 32-bit state. -/
def wordBytes (xs : List Int) : Bytes := xs.flatMap fun w => leBytes 4 (ofSigned w 32)
/-- The state arrays that a stream's working copy holds at HOME (06 R169). -/
def StreamSt.stateIn (x : StreamSt) (car : Mem) : List (List Int) :=
  statesOf x.work.dims (memRead car (64 * x.home + 1024) (x.work.length - 1024))
/-- The 32-bit state arrays in the rebuild area that follows it. -/
def StreamSt.wideIn (x : StreamSt) (car : Mem) : List (List Int) :=
  x.work.dims.mapIdx fun l d => (List.range (d.1 * d.2)).map fun i =>
    toSigned (leNat (memRead car (64 * x.home + wideAt x.work.dims x.pages l + 4 * i) 4)) 32

/-- What a SCAN has left so far: carrel writes, what it leaves at its end, and its streams. -/
structure ScanAcc where
  writes : List (Nat × Bytes) := []
  fx : RunEnd := {}
  streams : List StreamSt := []

/-- One time step of one stream row of a SCAN. A row that names no stream writes nothing (log 112). -/
def scanRow (s : State) (c : ChargeSt) (b : ScanBody) (q : StateParams) (mon : Monitor) (car : Mem) (t i : Nat) (o : ScanAcc) : ScanAcc :=
  let row := b.row0 + i
  if c.moved.contains row then o else
  let r := rowAt c.rows row
  match o.streams.find? fun x => x.sid == r.sid with
  | none => o
  | some x =>
    let batch := t * b.ns + i
    let width := 3 * b.d + 2 * b.nn
    let xin : Nat → Int := fun e => codeAt car (64 * b.xin) (batch * width + e) true
    let reset := if b.rmask then (memGet car (64 * b.rmaddr + batch / 8)).getLsbD (batch % 8) else r.reset && t = 0
    let k := s.clampOf c.slot b.layer
    let j := x.work.shifts.getD b.layer 0
    let hs := channelsOf b.nn b.d (x.work.state.getD b.layer [])
    let ws := channelsOf b.nn b.d (x.wide.getD b.layer [])
    let rescale : Int := if t = 0 then (j : Int) - ((s.stream r.sid).work.shifts.getD b.layer 0 : Nat) else 0
    let outs := (List.range b.d).map fun ch => scanChannel q b k j xin (hs.getD ch []) (ws.getD ch []) reset ch
    let kOut := s.kOut c.slot b.clipt b.ring b.runcal x.work
    let y : ChanOut → Nat → Int := fun u n => sat (rnd u.prod (b.sg + n)) 16
    let bytes := outs.flatMap fun u => codeBytes (y u kOut) true
    let clipped := (outs.filter fun u => y u kOut ≠ rnd u.prod (b.sg + kOut)).length
    let need := needOf fun n => outs.all fun u => y u n = rnd u.prod (b.sg + n)
    let work := { x.work with state := x.work.state.set b.layer (outs.flatMap (·.h)) }
    let watched := mon.valid && mon.sid == r.sid && mon.layer == b.layer
    let ko : Option ChanOut := if watched then outs[mon.chan]? else none
    { writes := o.writes ++ [(64 * b.yout + batch * b.d * 2, bytes), (64 * b.ytag + batch, [BitVec.ofNat 8 (kOut % 8)])]
      fx := { o.fx with
        needs := if b.ringv then addNeed row b.ring need o.fx.needs else o.fx.needs
        clips := addClip b.sclipt r.sid (b.d * b.nn) (outs.map (·.clipped)).sum (addClip b.clipt r.sid b.d clipped o.fx.clips)
        kept := match ko with
          | none => o.fx.kept
          | some u => o.fx.kept ++ [{
              row := row
              layer := b.layer
              chan := mon.chan
              alphas := u.alphas
              betas := u.betas
              x := xin mon.chan
              reset := reset
              aal := b.aal
              h := hs.getD mon.chan []
              hNew := u.h
              rescale := rescale }] }
      streams := o.streams.map fun z => if z.sid = r.sid then
        { z with work := work, wide := if b.w32 then z.wide.set b.layer (outs.flatMap (·.wide)) else z.wide } else z }

/-- The bytes that a SCAN leaves at a stream's HOME: the layer of its working copy, and in the rebuild form the layer's 32-bit state. -/
def ScanBody.homeWrites (b : ScanBody) (x : StreamSt) : List (Nat × Bytes) :=
  [(64 * x.home + layerAt x.work.dims b.layer, (x.work.state.getD b.layer []).flatMap fun h => leBytes 2 (ofSigned h 16))]
    ++ if b.w32 then [(64 * x.home + wideAt x.work.dims x.pages b.layer, wordBytes (x.wide.getD b.layer []))] else []

/-- Run a SCAN: time steps in ascending order, each stream's working copy read at HOME and carried from step to step (06 R169). -/
def runScan (s : State) (c : ChargeSt) (d : BitVec 512) : RunOut :=
  let b := ScanBody.of d
  let k := s.stk c.stack
  if b.empty then {} else
  let reads := storeReads d
  match badRegion k reads, b.skew k, eccRegion k reads with
  | some r, _, _ => { status := stInvalidReg, detail := r }
  | none, some (p, q), _ => { status := stSkew, detail := p + 16 * q }
  | none, none, some r => { status := stEcc, detail := r }
  | none, none, none =>
    let q := stateParams k.store b
    let xs := (List.range b.ns).filterMap fun i =>
      let r := rowAt c.rows (b.row0 + i)
      if r.use && !c.moved.contains (b.row0 + i) then
        let x := s.stream r.sid
        let w := applyShift s b.layer { x.work with state := x.stateIn k.carrel }
        some { x with work := w, wide := if b.w32 then rescaleWide x w b.layer (x.wideIn k.carrel) else x.wide }
      else none
    let o := (List.range b.l).foldl (fun o t => (List.range b.ns).foldl (fun o i => scanRow s c b q (s.patron c.slot).monitor k.carrel t i o) o)
      { streams := xs }
    { units := [o.writes ++ o.streams.flatMap b.homeWrites]
      fx := { o.fx with works := o.streams.map fun x => (x.sid, x.work.shifts, x.work.state, x.wide) } }

/-! ## Element-wise operations -/

/-- One element of a BIND and whether it clipped (06 R171). -/
def bindElement (b : BindBody) (t : FTable) (x o : Int) : Int × Bool :=
  let fin : Int → Int × Bool := fun v => (clampN v b.w, decide (clampN v b.w ≠ v))
  match b.opb with
  | 4 => (x, false)
  | 1 => let r := fin (t.eval (x - b.zx) + b.zy); (r.1, r.2 || t.clips (x - b.zx))
  | 2 => fin (x - b.zx + rnd (o - b.ez) b.esh + b.zy)
  | _ => fin (b.zy + rnd ((x - b.zx) * (o - b.ez)) b.esh)

/-- Run a BIND, 1,024 elements to a unit; its clipped elements count against CLIPT 0 of the patron (06 R171), under SID 0, and every element is
read before any is written (log 112). -/
def runBind (s : State) (c : ChargeSt) (d : BitVec 512) : RunOut :=
  let b := BindBody.of d
  let car := (s.stk c.stack).carrel
  if b.count = 0 then {} else
  let t := tableAt car b.ftab
  let outs := (List.range b.count).map fun i =>
    bindElement b t (codeAt car (64 * b.xin) i b.w) (codeAt car (64 * b.eop) i b.w)
  let width := if b.w then 2 else 1
  { units := (List.range (ceilDiv b.count 1024)).map fun u =>
      [(64 * b.yout + 1024 * u * width, ((outs.drop (1024 * u)).take 1024).flatMap fun e => codeBytes e.1 b.w)]
    fx := { clips := [{ tensor := 0, sid := rowSid c none, produced := b.count, clipped := (outs.filter (·.2)).length }] } }

/-! ## The drift shadow -/

/-- Run a SHADOW: nothing where the monitor is off, its triple is not the monitor's or no card is held; else the watched channel's 32-bit
update over the values that the preceding SCAN kept, and the drift of the step (05 R149, 06 R176). -/
def runShadow (s : State) (c : ChargeSt) (d : BitVec 512) : Option (List Int × Nat) :=
  let b := ShadowBody.of d
  let mon := (s.patron c.slot).monitor
  let r := rowAt c.rows b.row
  if s.getN .driftMonitor = 1 && mon.valid && mon.card.isSome && r.use && r.sid == mon.sid && b.layer == mon.layer && b.ch == mon.chan then
    (c.kept.reverse.find? fun q => q.row == b.row && q.layer == b.layer && q.chan == b.ch).map fun q =>
      let j := (s.stream r.sid).work.shifts.getD b.layer 0
      let hs := (List.range q.alphas.length).map fun n =>
        shadowUpdate (q.alphas.getD n 0) (q.betas.getD n 0) (if q.reset then 0 else sat (rnd (mon.shadow.getD n 0) q.rescale) 32) q.x j q.aal
      (hs, driftOf hs q.hNew)
  else none

end Sys2Proof.Machine
end

