-- ==== Sys2Proof/Machine/Twin.lean ====
section
/-! DEFINITION. The classical twin of a cell (09 R242 to R244): its five states, what a parameter set says at a temperature, prediction, correction and
terminal voltage; and what the mains twin measures (09 R252). It is the extended Kalman filter of R242 in exact arithmetic; the firmware release fixes
the number formats and the roundings, and these are free values (log 10). -/

namespace Sys2Proof.Machine

/-! ## Its state -/

/-- The states of a twin: σ, v_a, v_b, κ and ρ, and the 15 entries of its covariance on and above the diagonal, row by row. -/
structure TwinSt where
  soc : Int
  va : Int
  vb : Int
  cap : Int
  res : Int
  cov : List Int
  deriving DecidableEq, Repr

/-- The 96 bytes of a twin's state (09 R243): the five states as signed 32-bit words, then the covariance as signed 40-bit words (log 10). -/
def TwinSt.bits (t : TwinSt) : BitVec 768 :=
  BitVec.ofNat 768 (ofSigned t.soc 32 + ofSigned t.va 32 * 2 ^ 32 + ofSigned t.vb 32 * 2 ^ 64 + ofSigned t.cap 32 * 2 ^ 96
    + ofSigned t.res 32 * 2 ^ 128 + (t.cov.mapIdx fun k c => ofSigned c 40 * 2 ^ (160 + 40 * k)).sum)
def TwinSt.ofBits (w : BitVec 768) : TwinSt :=
  let f : Nat → Int := fun i => toSigned (bitsOf w.toNat (32 * i + 31) (32 * i)) 32
  { soc := f 0, va := f 1, vb := f 2, cap := f 3, res := f 4
    cov := (List.range 15).map fun k => toSigned (bitsOf w.toNat (199 + 40 * k) (160 + 40 * k)) 40 }

/-- Codes of a state to one unit of its record: 2^−15 for σ and κ, 2^−12 for ρ, 100 µV for the voltages (09 Table 9.2, 14 Table 14.5). -/
def twinUnit (state : Nat) : Int := 2 ^ (Config.twinFrac state).val

/-- A quotient as the release rounds it: down or up where it is not whole. -/
def twinDiv (place : Nat) (num : Int) (den : Nat) : Int :=
  if den = 0 then 0 else num / den + if num % den = 0 then 0 else (Config.roundsUp place num den).toNat

/-- A value as the release rounds it to a whole code. -/
def twinRound (place : Nat) (x : Rat) : Int := twinDiv place x.num x.den

/-! ## A parameter set (14 Table 14.5) -/

/-- An unsigned item of n bytes of a parameter set. -/
def setItem (set : Bytes) (at0 n : Nat) : Nat := leNat ((set.drop at0).take n)
/-- The value on a piecewise linear table at x, where the table reaches that far. -/
def onTable (place : Nat) (ps : List (Int × Int)) (x : Int) : Option Int :=
  ((ps.zip ps.tail).find? fun p => decide (p.1.1 ≤ x ∧ x ≤ p.2.1)).map fun p =>
    p.1.2 + twinDiv place ((x - p.1.1) * (p.2.2 - p.1.2)) (p.2.1 - p.1.1).toNat
/-- An item of the 8 temperature points, interpolated in temperature; beyond the points the spec states no value. -/
def atTemp (set : Bytes) (at0 : Nat) (temp : Int) : Int :=
  (onTable at0 ((List.range 8).map fun m => (toSigned (setItem set (260 + 2 * m) 2) 16, (setItem set (at0 + 2 * m) 2 : Int))) temp).getD
    (Config.twinBeyond at0 set temp)
/-- A current that charges; at rest the release decides. -/
def twinCharges (cur : Int) : Bool := decide (cur < 0) || (cur == 0 && Config.twinRestCharges)
/-- The OCV table of a current: 64 points, σ in codes of the twin and 100 µV (14 R405). -/
def ocvPoints (set : Bytes) (cur : Int) : List (Int × Int) :=
  let at0 := if twinCharges cur then 4 else 132
  (List.range 64).map fun j => ((32768 * j / 63 : Nat) * twinUnit 0, (setItem set (at0 + 2 * j) 2 : Int))
/-- The slope of OCV at σ, in 100 µV a record unit of σ; between two segments it is the lower one's. -/
def ocvSlope (set : Bytes) (cur soc : Int) : Rat :=
  let ps := ocvPoints set cur
  match (ps.zip ps.tail).find? fun p => decide (p.1.1 ≤ soc ∧ soc ≤ p.2.1) with
  | some p => ((p.2.2 - p.1.2) * twinUnit 0 : Int) / ((p.2.1 - p.1.1 : Int) : Rat)
  | none => Config.twinBeyond 6 set soc
/-- OCV(σ). -/
def ocvAt (set : Bytes) (cur soc : Int) : Int := (onTable 4 (ocvPoints set cur) soc).getD (Config.twinBeyond 4 set soc)
/-- The σ whose OCV is a voltage. -/
def socAt (set : Bytes) (cur volt : Int) : Int :=
  (onTable 5 ((ocvPoints set cur).map Prod.swap) volt).getD (Config.twinBeyond 5 set volt)

/-! ## The covariance

It is in record units: entry i, j in the product of the units of states i and j, of σ, v_a, v_b, κ and ρ in this order. -/

/-- A matrix over the five states. -/
abbrev Mat5 := Nat → Nat → Rat
def sum5 (f : Nat → Rat) : Rat := f 0 + f 1 + f 2 + f 3 + f 4
/-- The place of an entry on or above the diagonal. -/
def covPlace (i j : Nat) : Nat := min i j * (9 - min i j) / 2 + max i j
/-- The covariance that a state holds. -/
def TwinSt.matrix (t : TwinSt) : Mat5 := fun i j =>
  (t.cov.getD (covPlace i j) 0 : Rat) / (2 ^ (Config.twinCovFrac (min i j) (max i j)).val : Nat)
/-- The covariance as a state holds it. -/
def covCodes (place : Nat) (m : Mat5) : List Int :=
  (List.range 5).flatMap fun i => ((List.range 5).filter fun j => i ≤ j).map fun j =>
    sat (twinRound (place + covPlace i j) (m i j * (2 ^ (Config.twinCovFrac i j).val : Nat))) 40

/-! ## Start, prediction, terminal voltage and correction -/

/-- A twin starts at its first sample: σ from the OCV table, v_a = v_b = 0, κ and ρ at 1.0, and the set's initial covariance, from the standard deviations
P0 (09 R243). -/
def twinInit (set : Bytes) (volt cur : Int) : BitVec 768 :=
  ({ soc := socAt set cur volt, va := 0, vb := 0, cap := 2 ^ 15 * twinUnit 3, res := 2 ^ 12 * twinUnit 4
     cov := covCodes 60 fun i j => if i = j then ((setItem set (368 + 2 * i) 2) ^ 2 : Nat) else 0 } : TwinSt).bits

/-- e^(−num/den) for a quotient of at most 1, in 2^−96: 30 terms of its series. -/
def expTerms (num den : Nat) : Nat → Nat → Int → Int
  | 0, _, _ => 0
  | n + 1, i, term => term + expTerms num den n (i + 1) (-(term * num / (den * (i + 1) : Nat)))
def expUnit (num den : Nat) : Nat := (expTerms num den 30 0 (2 ^ 96)).toNat
/-- e^(−Δt/τ) in 2^−32, rounded as the release rounds it: the codes in Δt, 64,000 a second, and τ in 0.1 s; 0 for a τ of 0. -/
def twinDecay (codes : Nat) (tau : Int) : Nat :=
  let den := 6400 * tau.toNat
  if den = 0 then 0 else
  let whole := codes / den
  let v := (List.range (min whole 80)).foldl (fun v _ => v * expUnit 1 1 / 2 ^ 96) (expUnit (codes % den) den)
  (twinDiv 18 (if whole > 80 then 0 else v) (2 ^ 64)).toNat

/-- A polarisation voltage after n codes that sum to charge: e^(−Δt/τ) × v + r × (1 − e^(−Δt/τ)) × I, with I their mean, under a current scale
in nA a code (09 R242). -/
def polarise (state : Nat) (v : Int) (r tau : Int) (scale : Nat) (charge : Int) (n : Nat) : Int :=
  if n = 0 then v else
  let e := twinDecay n tau
  twinDiv state (v * e * (n * 10 ^ 11) + twinUnit state * ((2 ^ 32 : Int) - e) * r * charge * scale) (2 ^ 32 * (n * 10 ^ 11))

/-- The Jacobian of the prediction: ∂σ/∂κ is ΔQ / (κ² × Q), v_a and v_b decay. -/
def twinJacobian (set : Bytes) (t : TwinSt) (charge : Int) (n : Nat) (temp : Int) : Mat5 := fun i j =>
  let decay : Nat → Rat := fun at0 => if n = 0 then 1 else (twinDecay n (atTemp set at0 temp) : Rat) / (2 ^ 32 : Nat)
  if i = j then (if i = 1 then decay 324 else if i = 2 then decay 340 else 1)
  else if i = 0 ∧ j = 3 then
    let k : Rat := (t.cap : Rat) / twinUnit 3
    (charge * 2 ^ 30 : Int) / (k * k * (setItem set 0 4 : Rat))
  else 0
/-- The covariance after a prediction: F P Fᵀ and the process noise of the time that has passed (QN, a standard deviation per second: a random walk's
variance grows with the time, log 10). -/
def twinSpread (set : Bytes) (t : TwinSt) (charge : Int) (n : Nat) (temp : Int) : Mat5 :=
  let f := twinJacobian set t charge n temp
  let p := t.matrix
  fun i j => sum5 (fun a => sum5 fun b => f i a * p a b * f j b)
    + if i = j then ((setItem set (356 + 2 * i) 2) ^ 2 * n : Nat) / 64000 else 0

/-- Prediction over the n codes since the previous sample: σ falls by ΔQ / (κ × Q) (09 R242). -/
def twinPredict (set : Bytes) (scale : Nat) (w : BitVec 768) (charge : Int) (n : Nat) (temp : Int) : BitVec 768 :=
  let t := TwinSt.ofBits w
  ({ t with
    soc := t.soc - twinDiv 0 (charge * 2 ^ 30 * twinUnit 0 * twinUnit 3) (t.cap * setItem set 0 4).toNat
    va := polarise 1 t.va (atTemp set 292 temp) (atTemp set 324 temp) scale charge n
    vb := polarise 2 t.vb (atTemp set 308 temp) (atTemp set 340 temp) scale charge n
    cov := covCodes 20 (twinSpread set t charge n temp) } : TwinSt).bits

/-- The terminal voltage OCV(σ) − v_a − v_b − ρ × r_s × I, as a node voltage code (09 R242). -/
def twinVolt (set : Bytes) (scale : Nat) (w : BitVec 768) (cur temp : Int) : Nat :=
  let t := TwinSt.ofBits w
  (usat (ocvAt set cur t.soc - twinDiv 6 t.va (twinUnit 1).toNat - twinDiv 7 t.vb (twinUnit 2).toNat
    - twinDiv 8 (t.res * atTemp set 276 temp * cur * scale) ((twinUnit 4).toNat * 2 ^ 12 * 10 ^ 11)) 16).toNat

/-- The Jacobian of the terminal voltage in 100 µV: OCV'(σ), −1, −1, 0 and −r_s × I. -/
def twinSlope (set : Bytes) (scale : Nat) (t : TwinSt) (cur temp : Int) : Nat → Rat
  | 0 => ocvSlope set cur t.soc
  | 1 => -1
  | 2 => -1
  | 3 => 0
  | _ => -((atTemp set 276 temp * cur * scale : Int) : Rat) / (2 ^ 12 * 10 ^ 11 : Nat)
/-- The Kalman gain of a state, in record units to 100 µV: P Hᵀ over H P Hᵀ and the measurement noise RN. Where that is 0, P Hᵀ is 0 too and nothing
moves. -/
def twinGain (set : Bytes) (scale : Nat) (t : TwinSt) (cur temp : Int) (i : Nat) : Rat :=
  let h := twinSlope set scale t cur temp
  let p := t.matrix
  sum5 (fun a => p i a * h a) / (sum5 (fun a => sum5 fun b => h a * p a b * h b) + ((setItem set 366 2) ^ 2 : Nat))

/-- Correction against a measured terminal voltage: each state moves by its gain times the residual, and P becomes (I − K H) P (09 R242). -/
def twinCorrect (set : Bytes) (scale : Nat) (w : BitVec 768) (volt : Nat) (cur temp : Int) : BitVec 768 :=
  let t := TwinSt.ofBits w
  let h := twinSlope set scale t cur temp
  let p := t.matrix
  let k := twinGain set scale t cur temp
  let y : Int := (volt : Int) - twinVolt set scale w cur temp
  let move : Nat → Int → Int := fun i x => x + twinRound (9 + i) (k i * y * twinUnit i)
  ({ soc := move 0 t.soc, va := move 1 t.va, vb := move 2 t.vb, cap := move 3 t.cap, res := move 4 t.res
     cov := covCodes 40 fun i j => p i j - k i * sum5 fun a => h a * p a j } : TwinSt).bits

/-! ## The fields of a record (09 Tables 9.2, 9.3) -/

/-- SOC_T, CAP_T and RES_T. -/
def twinSoc (w : BitVec 768) : Nat := (usat (twinDiv 14 (TwinSt.ofBits w).soc (twinUnit 0).toNat) 16).toNat
def twinCap (w : BitVec 768) : Nat := (usat (twinDiv 15 (TwinSt.ofBits w).cap (twinUnit 3).toNat) 16).toNat
def twinRes (w : BitVec 768) : Nat := (usat (twinDiv 16 (TwinSt.ofBits w).res (twinUnit 4).toNat) 16).toNat

/-! ## The mains twin's measures (09 R252, Table 9.6) -/

/-- The sum of squares of samples. -/
def squares (xs : List Int) : Nat := (xs.map fun x => x.natAbs * x.natAbs).sum
/-- The RMS of samples against a limit in 0.1 % of nominal: above, or below it. -/
def rmsAbove (xs : List Int) (nom limit : Nat) : Bool := decide (limit * limit * (nom * nom * xs.length) < squares xs * 1000000)
def rmsBelow (xs : List Int) (nom limit : Nat) : Bool := decide (squares xs * 1000000 < limit * limit * (nom * nom * xs.length))
/-- The RMS of samples in 2^−12 of nominal, down or up to a whole code. -/
def rmsCode (xs : List Int) (nom : Nat) : Nat :=
  let d := xs.length * (nom * nom)
  let n := squares xs * 2 ^ 24
  let r := isqrt (n / d)
  if d = 0 ∨ r * r * d = n then r else r + (Config.roundsUp 17 n d).toNat

/-- Channels 8 to 15 of Table 9.6 of a stamp's samples: RMS deviations of the three phases, frequency deviation and its rate of change, distortion,
unbalance, and neutral RMS. -/
def mainsChannels (rows : List (List Int)) (nom : Nat) (hz : Int) : List Int :=
  let phase : Nat → List Int := fun i => rows.map fun r => r.getD i 0
  let thd := [0, 1, 2].map fun i => Config.mainsThd nom (phase i)
  ([0, 1, 2].map fun i => sat (rmsCode (phase i) nom - 4096) 16)
    ++ [sat (Config.mainsFreqDev (phase 0) hz) 16, sat (Config.mainsFreqRate (phase 0) hz) 16, sat (thd.foldl max 0 : Nat) 16,
      sat (Config.mainsUnbalance nom (phase 0) (phase 1) (phase 2) : Nat) 16, sat (rmsCode (phase 3) nom) 16]

end Sys2Proof.Machine
end

