-- ==== Sys2Proof/Machine/Estimate.lean ====
section
/-! DEFINITION. The estimator's side of a step: its input row (09 Table 9.1), the ensemble's means, the estimate record (09 Table
9.3), divergence and advisories, the refit history, mains watch, and the results of rollouts and other requests. -/

namespace Sys2Proof.Machine

/-! ## Input rows (09 R236, R237, R262) -/

/-- The sums and count of current codes up to the mark of a stamp of this run. -/
def Sense.cumAt (q : Sense) (n : BitVec 48) : Option (Int × Int × Nat) := (q.cums.find? fun p => p.1 == n).map (·.2)

/-- The front-end code of a node's current channel from the codes of both: A, B, or their mean. -/
def State.channelOf (s : State) (shelf : Nat) (a b : Int) : Int :=
  match s.getN (.nodeCurrent shelf) with
  | 0 => a
  | 1 => b
  | _ => divr (a + b) 2

/-- The mean of a node's current channel over sums of n codes of each channel (log 28). -/
def State.channelMean (s : State) (shelf : Nat) (a b : Int) (n : Nat) : Int :=
  match s.getN (.nodeCurrent shelf) with
  | 0 => divr a n
  | 1 => divr b n
  | _ => divr (a + b) (2 * n)

/-- A front-end code in the input unit. -/
def State.inputCurrent (s : State) (code : Int) : Int := sat (rnd code (s.getN .packIshift)) 16

/-- Channel 5: the mean current from the sample of the previous committed step, or over the sample's own span (R237). -/
def State.spanMean (s : State) (c : CellSt) (sample : BitVec 48) : Int :=
  let z : Int × Int × Nat := (0, 0, 0)
  let now := (s.sense.cumAt sample).getD z
  let own := (s.sense.cumAt (sample - 1)).getD z
  let from0 := if c.prevVolt.isSome then (s.sense.cumAt c.prevStamp).getD own else own
  s.inputCurrent (s.channelMean c.shelf (now.1 - from0.1) (now.2.1 - from0.2.1) (now.2.2 - from0.2.2))

/-- The sensors of a cell: the set mask, or every fitted sensor (11 Table 11.10). -/
def State.sensorsOf (s : State) (c : CellSt) : Nat :=
  ((s.get (.cellSensors c.shelf c.cell)).getD (s.getN (.nodeTfit c.shelf) : Int)).toNat % 16

/-- The cell's temperature code: the lowest sensor set; a free value where none is (log 8). -/
def State.cellTemp (s : State) (c : CellSt) : Int :=
  match (List.range 4).find? (fun i => (s.sensorsOf c).testBit i), s.node? c.shelf with
  | some i, some n => n.report.temps.getD i 0
  | _, _ => Config.freeInt (256 * c.shelf + c.cell)

/-- A sense-wire break is suspected beside a cell. -/
def State.breakBeside (s : State) (c : CellSt) : Bool :=
  (s.node? c.shelf).any fun n => n.breaks.any fun b => b.suspected && (b.wire == c.cell || b.wire + 1 == c.cell)

/-- The bleed bit of a cell in its node's last report. -/
def State.bleeding (s : State) (c : CellSt) : Bool := (s.node? c.shelf).any fun n => n.report.bleed.getLsbD (c.cell - 1)

/-- Channels 1, 5 and 6 of a row, which span the time from the previous committed step to a sample. -/
def State.spanChannels (s : State) (c : CellSt) (sample : BitVec 48) (row : List Int) : List Int :=
  let d1 := match c.prevVolt with
    | some v => sat (row.getD 0 0 + 32768 - v) 16
    | none => 0
  let d6 : Int := if c.prevVolt.isSome then min 32767 (sample.toNat - c.prevStamp.toNat : Nat) else 0
  ((row.set 1 d1).set 5 (s.spanMean c sample)).set 6 d6

/-- The estimator input row of a cell for this stamp's sample, with the mains features that the stamp before had committed (02 R39). -/
def State.inputRow (s : State) (c : CellSt) : List Int :=
  let modtot : Int := ((s.node? c.shelf).map (·.report.modtot)).getD 0
  let row := [(c.volt : Int) - 32768, 0, s.cellTemp c, sat (rnd modtot 4 - 32768) 16,
    s.inputCurrent (s.channelOf c.shelf s.sense.markA s.sense.markB), 0, 0, (if s.bleeding c then 4096 else 0),
    (if c.bleedRaw then 4096 else 0) + (if s.breakBeside c then 8192 else 0), (10 * s.stamp.period : Nat),
    sat (s.stamp.number.toNat - s.mains.usedStamp.toNat : Nat) 16, 0, 0, 0, 0, 0] ++ s.mains.used
  s.spanChannels c s.stamp.number row

/-- The bytes of a row of A16 codes. -/
def rowBytes (xs : List Int) : Bytes := xs.flatMap fun x => leBytes 2 (ofSigned x 16)

/-! ## Draws (08 R229 to R231) -/

/-- The bytes of a draw in the form that its site declares: an index takes four, a bit one, a code two (log 113). -/
def drawBytes (f : DrawForm) (y : BitVec 64) : Bytes :=
  match f with
  | .index n => leBytes 4 (drawIndex y n)
  | .bernoulli p => leBytes 1 (drawBernoulli y p).toNat
  | .uniform => leBytes 2 (ofSigned (drawField y 0) 16)
  | .spread => leBytes 2 (ofSigned (drawSpread y) 16)
/-- The draws of a site for one position of a seed. -/
def siteBlock (d : DrawSite) (seed : BitVec 64) (pos : Nat) : Bytes :=
  (List.range d.count).flatMap fun e => drawBytes d.form (drawAt seed pos d.site e)

/-- Time steps of a request on each of its streams: of a job the rows of its TENSOR frame; without one its folio decides, and the spec does not say how
(log 40). -/
def Request.steps (r : Request) : Nat :=
  match r.kind with
  | .rollout | .regenerate => r.total
  | .job => max 1 (if r.rows = 0 then Config.reading 64 r.num else r.rows)
/-- Time steps of chunk number index of a stream: 4,096, or what is left (07 R209); of a regeneration one (14 R411). -/
def Request.stepsOf (r : Request) (index : Nat) : Nat :=
  match r.kind with
  | .rollout | .job => min 4096 (r.steps - 4096 * index)
  | .regenerate => 1
/-- Chunks of one stream of a request. -/
def Request.perStream (r : Request) : Nat :=
  match r.kind with
  | .rollout | .job => ceilDiv r.steps 4096
  | .regenerate => r.total
/-- The streams of a request, in ascending order; a job without streams counts as one (log 40). -/
def Request.streams (r : Request) : List Nat :=
  match r.kind with
  | .rollout => (r.cells.map (·.copy)).reverse
  | .regenerate => r.copy.toList
  | .job => if r.sids.isEmpty then [0] else r.sids
/-- Chunks of a request in all. -/
def Request.chunksOf (r : Request) : Nat := r.streams.length * r.perStream
/-- Chunk k of a request: its stream, its place among the stream's chunks, and whether it is the last of a rollout's stream or of another request.
Streams ascend, and chunks within each (07 R209); a rollout's copies descend as its cells ascend (09 R261). -/
def Request.chunkAt (r : Request) (k : Nat) : Option (Nat × Nat × Bool) :=
  let per := r.perStream
  (r.streams[k / per]?).map fun x => (x, k % per, if r.kind = .rollout then decide (k % per + 1 = per) else decide (k + 1 = r.chunksOf))
/-- The number of a chunk within its request (07 R209). -/
def Request.chunkNumber (r : Request) (sid index : Nat) : Nat := r.streams.findIdx (· == sid) * r.perStream + index
/-- The seed and position of a charge's draws at the sites that no stream's seed serves (08 Table 8.5). -/
def State.siteSeed (s : State) (c : ChargeSt) : Option (BitVec 64 × Nat) :=
  match c.kind with
  | .refit => s.draft.map fun d => (BitVec.ofNat 64 (s.getN .refitSeed), d.step)
  | .chunk req sid index _ => (s.req? req).map fun r => (r.seed, r.chunkNumber sid index)
  | _ => none
/-- Time steps that a charge takes of each of its streams. -/
def State.timeSteps (s : State) (c : ChargeSt) : Nat :=
  match c.kind with
  | .chunk req _ index _ => ((s.req? req).map fun r => r.stepsOf index).getD 0
  | _ => 1
/-- The seed and position of each batch row of a charge's stream noise, time step by time step: the committed POS of its streams, and one more for
each time step (08 Table 8.5). -/
def State.noiseRows (s : State) (c : ChargeSt) : List (BitVec 64 × Nat) :=
  match c.kind with
  | .chunk _ _ _ _ | .step _ _ => (List.range (s.timeSteps c)).flatMap fun t => c.rows.filterMap fun w =>
      let r := Row.ofBits w
      let i := (s.stream r.sid).committed
      if r.use then some (i.seed, i.pos.toNat + t) else none
  | _ => []
/-- The draws of a site for a charge, row by row. -/
def State.siteBytes (s : State) (c : ChargeSt) (d : DrawSite) : Bytes :=
  if d.site < 128 then (s.noiseRows c).flatMap fun p => siteBlock d p.1 p.2
  else match s.siteSeed c with
    | some p => siteBlock d p.1 p.2
    | none => []
/-- The draws that the steward writes into a charge's input blocks before it starts (08 R231). -/
def State.drawInputs (s : State) (c : ChargeSt) (f : FolioInfo) : List (Nat × Bytes) :=
  f.sites.flatMap fun d => c.lay d.place (s.siteBytes c d)
/-- The draws of a stream's next step, site by site, as the input log keeps them. -/
def State.stepDraws (s : State) (f : FolioInfo) (sid : Nat) : List (Nat × Bytes) :=
  let i := (s.stream sid).committed
  (f.sites.filter fun d => decide (d.site < 128)).map fun d => (d.site, siteBlock d i.seed i.pos.toNat)

/-! ## Refit windows (09 R254, R255) -/

/-- The steps of a stream that the refit history holds, oldest first. -/
def State.historyOf (s : State) (sid : Nat) : List (BitVec 48 × Nat × List Int × Int) := s.history.filter fun h => h.2.1 == sid
/-- The rows of window i of a refit step: W committed steps of one cell and the successor whose channel 0 is the last target. A last step drawn with fewer
held before it gives the window of those that there are: the spec does not say what such a draw trains on (09 R255, log 144). -/
def State.refitWindow (s : State) (d : Draft) (i : Nat) : List (List Int) :=
  let seed := BitVec.ofNat 64 (s.getN .refitSeed)
  let w := s.getN .refitLength
  let live := (s.streams.filter fun x => x.slot == 1 && x.committed.live && (x.place == .parked || x.place == .resident)).map (·.sid)
  let hs := s.historyOf (live.getD (drawIndex (drawAt seed d.step 128 (2 * i)) live.length) 0)
  let last := drawIndex (drawAt seed d.step 128 (2 * i + 1)) (hs.length - 1)
  ((hs.drop (last + 1 - w)).take (min w (last + 1) + 1)).map (·.2.2.1)
/-- The input rows of a refit step: its windows, one after the other, each in the order of its steps (log 67). -/
def State.refitRows (s : State) : Bytes :=
  match s.draft with
  | some d => (List.range (s.getN .refitWindows)).flatMap fun i => (s.refitWindow d i).flatMap rowBytes
  | none => []

/-! ## Heads (09 R238, R239) -/

/-- The 64 head channels of a batch row in the carrel. -/
def headAtRow (car : Mem) (base b : Nat) : List Int := (List.range 64).map fun i => codeAt car (64 * base) (64 * b + i) true
/-- Quantity q of the eight members. -/
def headOf (h : List Int) (q : Nat) : List Int := (List.range 8).map fun m => h.getD (8 * m + q) 0
/-- μ_q, the mean of the members. -/
def meanOf (h : List Int) (q : Nat) : Int := rnd (headOf h q).sum 3
/-- The spread of the state of charge. -/
def spreadOf (h : List Int) : Int :=
  let xs := headOf h 0
  xs.foldl max (xs.getD 0 0) - xs.foldl min (xs.getD 0 0)

/-- The learned fields that a committed step gives its cell (09 Table 9.3). -/
def learnedOf (h : List Int) (i : Image) (folio : BitVec 32) (sample features : BitVec 48) (rerun : Bool) : Learned :=
  { soc := (usat (meanOf h 0) 16).toNat, spread := (usat (spreadOf h) 16).toNat, cap := (usat (meanOf h 1) 16).toNat
    res := (usat (meanOf h 2) 16).toNat, faults := [4, 5, 6, 7].map fun q => (usat (rnd (meanOf h q) 7) 8).toNat
    forecast := meanOf h 3, step := i.step, pos := i.pos, seed := i.seed, folio := folio, sample := sample
    features := features, rerun := rerun }

/-- The 64-byte estimate record of a cell (09 Table 9.3). -/
def State.recordBytes (s : State) (c : CellSt) (l : Learned) (stale rerun : Bool) : Bytes :=
  let w : (BitVec 768 → Nat) → Nat := fun f => (c.twin.map f).getD 0
  let tripped := s.limits.any fun x => x.tripped && x.key == 256 * c.shelf + c.cell
  leBytes 64 (field (c.sid.getD 0) 0 13 + stale.toNat * 2 ^ 13 + ((s.node? c.shelf).any (·.rota)).toNat * 2 ^ 14 + rerun.toNat * 2 ^ 15
    + (c.divs.any (·.isOpen)).toNat * 2 ^ 16 + tripped.toNat * 2 ^ 17 + c.bleedRaw.toNat * 2 ^ 18 + (s.breakBeside c).toNat * 2 ^ 19
    + field l.soc 32 16 + w twinSoc * 2 ^ 48 + field l.spread 64 16 + field l.cap 80 16
    + w twinCap * 2 ^ 96 + field l.res 112 16 + w twinRes * 2 ^ 128
    + field (l.faults.getD 0 0) 144 8 + field (l.faults.getD 1 0) 152 8 + field (l.faults.getD 2 0) 160 8 + field (l.faults.getD 3 0) 168 8
    + l.step.toNat * 2 ^ 176 + l.pos.toNat * 2 ^ 224 + l.seed.toNat * 2 ^ 272 + l.folio.toNat * 2 ^ 336
    + l.sample.toNat * 2 ^ 368 + l.features.toNat * 2 ^ 416)

/-! ## Divergence and advisories (09 R248 to R250) -/

/-- Open divergences of the estimator. -/
def State.openDivs (s : State) : Nat := (s.cells.map fun c => (c.divs.filter (·.isOpen)).length).sum

/-- One compared stamp: the counters, and whether a divergence opens or closes. -/
def DivSt.compare (d : DivSt) (diff theta n : Nat) : DivSt × Bool × Bool :=
  let count := if diff > theta then d.count + 1 else 0
  let calm := if diff ≤ theta / 2 then d.calm + 1 else 0
  if d.isOpen then
    (if calm ≥ n then ({ count := 0, isOpen := false, calm := 0 }, false, true) else ({ d with count := count, calm := calm }, false, false))
  else if count ≥ n then ({ count := count, isOpen := true, calm := 0 }, true, false)
  else ({ d with count := count, calm := 0 }, false, false)

def quantAt (q : Nat) : Quant := match q with
  | 0 => .soc
  | 1 => .cap
  | _ => .res

/-- Compare one quantity of a cell with its twin. -/
def State.compareQuant (s : State) (sid q learned twin : Nat) : State :=
  match s.cell? sid with
  | none => s
  | some c =>
    let diff := if learned < twin then twin - learned else learned - twin
    let r := (c.divs.getD q {}).compare diff (s.getN (.divTheta (quantAt q))) (s.getN (.divN (quantAt q)))
    let many := s.openDivs > 64
    let s := s.modCell sid fun c => { c with divs := c.divs.set q r.1 }
    if r.2.1 then
      (if many then { s with events := { s.events with divRolled := true } }
       else s.raise 0x10 (some 1) none sid q learned twin)
    else if r.2.2 then s.raise 0x11 (some 1) none sid q learned twin
    else s

/-- Compare the three quantities where the cell has a twin. -/
def State.compareCell (s : State) (sid : Nat) (l : Learned) : State :=
  match (s.cell? sid).bind (·.twin) with
  | none => s
  | some t => ((s.compareQuant sid 0 l.soc (twinSoc t)).compareQuant sid 1 l.cap (twinCap t)).compareQuant sid 2 l.res (twinRes t)

def scoreAt (q : Nat) : Score := match q with
  | 0 => .short
  | 1 => .sense
  | 2 => .therm
  | _ => .self

/-- Learned fault scores above their thresholds raise advisories. -/
def State.advise (s : State) (sid : Nat) (l : Learned) : State :=
  (List.range 4).foldl (fun s q =>
    if l.faults.getD q 0 > s.getN (.advisory (scoreAt q)) then s.raise 0x03 (some 1) none sid q (l.faults.getD q 0) 0 else s) s

/-! ## The commit of a live step (05 R132, 09 R240 to R255, 12 R351, R352) -/

/-- Depth of the refit history in stamps (09 R254). -/
def State.historyDepth (s : State) : Nat :=
  let live := (s.cells.filter (·.sid.isSome)).length
  (s.patron 3).pages * 8192 / (live * 66)

/-- The refit history with one more step; stamps beyond its depth leave it. -/
def State.remember (s : State) (sid : Nat) (row : List Int) (forecast : Int) : State :=
  { s with history := (s.history ++ [(s.stamp.number, sid, row, forecast)]).filter fun h =>
      decide (s.stamp.number.toNat < h.1.toNat + s.historyDepth) }

/-- A record of an act on a stream (08 Table 8.6). -/
def onStream : SealRec → Bool
  | .step _ _ _ _ _ _ | .rebuild _ _ _ | .shift _ _ _ | .create _ _ _ _ | .imported _ _ _ _ | .exported _ | .freed _ => true
  | .setting _ _ | .report _ _ _ _ | .order _ _ _ _ _ | .fin _ _ _ _ => false
/-- An act enters the seal of its stamp, and the step log where it changes a committed stream image, a step with its reset bits (08 R232, 12 R351). -/
def State.act (s : State) (r : SealRec) (resets : Bits := []) : State :=
  let s := if onStream r then s.logAct (.act r resets) else s
  if s.leads && s.spine.partner then { s with spine := { s.spine with acts := r :: s.spine.acts } } else s
/-- An act on a stream enters the step log, and the seal too where the stream is live: only live streams have a standby's copy (12 R353). -/
def State.actOn (s : State) (live : Bool) (r : SealRec) (resets : Bits := []) : State := if live then s.act r resets else s.logAct (.act r resets)
/-- SHIFT entries of the state layers whose shift a step changes (05 R126). -/
def State.shiftActs (s : State) (live : Bool) (sid : Nat) (old new : List Nat) : State :=
  (new.mapIdx fun l j => (l, j)).foldl (fun s p => if old[p.1]? = some p.2 then s else s.actOn live (.shift sid p.1 p.2)) s

/-- The input log's entry of a step is committed, with the state shifts under which it ran (05 R152). -/
def State.logCommitted (s : State) (sid : Nat) (sample : BitVec 48) (shifts : List Nat) : State :=
  { s with inputLog := s.inputLog.map fun e => if e.sid = sid ∧ e.sample = sample then { e with committed := true, shifts := shifts } else e }

/-- A seal that still has a record to apply or a digest to form. -/
def HeldSeal.waits (h : HeldSeal) : Bool := !(h.recs.isEmpty && h.cards.isEmpty)
/-- The first record of the seals not yet applied that a test picks goes. -/
def State.dropRecord (s : State) (p : SealRec → Bool) : State :=
  let drop : List HeldSeal → List HeldSeal := fun hs => (hs.foldl (fun (acc : Bool × List HeldSeal) h =>
    if !acc.1 && h.recs.any p then (true, acc.2 ++ [{ h with recs := h.recs.eraseIdx (h.recs.findIdx p) }]) else (acc.1, acc.2 ++ [h])) (false, [])).2
  { s with spine := { s.spine with pendingSeals := (drop s.spine.pendingSeals).filter HeldSeal.waits } }
/-- The stream that a record concerns. -/
def recordSid : SealRec → Option Nat
  | .step x _ _ _ _ _ => some x
  | .rebuild x _ _ => some x
  | .shift x _ _ => some x
  | .create x _ _ _ => some x
  | .imported x _ _ _ => some x
  | .exported x => some x
  | .freed x => some x
  | _ => none
def isStepOf (sid : Nat) (sample : BitVec 48) : SealRec → Bool
  | .step i _ _ _ n _ => i == sid && n == sample
  | _ => false
def isRebuildOf (sid : Nat) : SealRec → Bool
  | .rebuild i _ _ => i == sid
  | _ => false

/-- Elements produced and clipped enter a patron's counts of the stamp (04 R107). -/
def State.takeClips (s : State) (slot : Nat) (clips : List ClipCount) : State :=
  s.modPatron slot fun p => { p with tensors := clips.foldl (fun ts n =>
    let put : TensorCnt → TensorCnt := fun t => { t with
      produced := t.produced + n.produced
      clipped := t.clipped + n.clipped
      byStream := addKey n.sid n.clipped t.byStream }
    if ts.any fun t => t.tensor == n.tensor then ts.map fun t => if t.tensor = n.tensor then put t else t
    else putBy TensorCnt.tensor (put { tensor := n.tensor }) ts) p.tensors }

/-- Commit a live step: the image, the estimates, and what they set off. The step of the stamp's own sample is compared with the twin at once; where only
a rerun or a carried step commits in a stamp, that is compared as the stamp ends (09 R249, log 131). -/
def State.commitLive (s : State) (sid : Nat) (u : Unsealed) : State :=
  let s := s.shiftActs true sid (s.stream sid).committed.shifts u.img.shifts
  let s := s.modStream sid fun x => { x with
    committed := u.img
    work := u.img
    unsealed := none
    rebuilt := none
    ledger := if x.place = .parked then u.img else x.ledger }
  let s := ((s.logCommitted sid u.sample u.img.shifts).dropRecord (isStepOf sid u.sample)).takeClips (s.stream sid).slot u.clips
  let l := learnedOf u.head u.img ((s.patron 1).folio.getD 0) u.sample u.features u.rerun
  let own : Bool := u.sample == s.stamp.number && !u.rerun && !s.stamp.framed
  let s := s.modCell sid fun c => { c with
    learned := l
    inputs := u.row
    prevVolt := some (u.row.getD 0 0 + 32768).toNat
    prevStamp := u.sample
    stepped := c.stepped || own
    extra := if own then c.extra else c.extra ++ [l]
    isStale := if own then false else c.isStale
    compared := c.compared || !u.rerun
    behind := c.behind || u.rerun }
  let s := (s.remember sid u.row l.forecast).act (.step sid 1 u.reset u.rerun u.sample u.features) [u.reset]
  (if u.rerun then s else s.compareCell sid l).advise sid l

/-- The cells of which only a rerun or a carried step has committed in the stamp are compared as it ends, but for those that the rota leaves out (09
R249, 01 R16, log 131). -/
def State.compareBehind (s : State) : State :=
  s.cells.foldl (fun s c => match c.sid with
    | some sid =>
      let out : Bool := (s.node? c.shelf).any fun n => n.rota && decide (s.stamp.number.toNat % 2 ≠ n.shelf % 2)
      if c.behind && !c.compared && !out then s.compareCell sid c.learned else s
    | none => s) s

/-- A drift above the threshold at a committed step: DRIFT, and a rebuild, at most one in a dwell (05 R150), while the monitor is on. -/
def State.driftCheck (s : State) (slot sid drift : Nat) (shadow : List Int) : State :=
  let m := (s.patron slot).monitor
  if !(m.valid && m.sid == sid) || s.getN .driftMonitor = 0 then s else
  let s := s.modPatron slot fun p => { p with monitor := { p.monitor with
    shadow := shadow
    shadowed := p.monitor.shadowed + 1
    dmax := max p.monitor.dmax drift } }
  if drift > s.getN .driftThreshold * 65536 then
    let s := s.raise 0x27 (some slot) none sid (m.layer * 4096 + m.chan) ((s.stream sid).committed.step.toNat % 2 ^ 32) drift
    s.modPatron slot fun p => { p with monitor := { p.monitor with
      evented := true
      rebuildDue := p.monitor.rebuildDue || !p.monitor.rebuiltDwell } }
  else s

/-! ## Mains watch (09 R251, R252, 15 R426) -/

/-- The mains twin's channels 8 to 15 of a stamp's samples. -/
def State.mainsTwinRow (s : State) (rows : List (List Int)) : List Int := mainsChannels rows (s.getN .mainsNominal) (s.getN .mainsHz)
/-- The twin's class of a stamp's samples: the lowest class whose threshold is exceeded, NORMAL where none is. Distortion and unbalance are compared
as their channels hold them, in 2^−12. -/
def State.mainsTwinClass (s : State) (rows : List (List Int)) : Nat :=
  let phases := [0, 1, 2].map fun i => rows.map fun r => r.getD i 0
  let nom := s.getN .mainsNominal
  let peak : Int := (s.getN .mainsTransient : Int)
  let ch : Nat → Int := fun i => (s.mainsTwinRow rows).getD (i - 8) 0
  let tests : List (Nat × Bool) := [
    (1, phases.any fun p => rmsBelow p nom (s.getN .mainsSag)), (2, phases.any fun p => rmsAbove p nom (s.getN .mainsSwell)),
    (3, phases.any fun p => rmsBelow p nom (s.getN .mainsInterrupt)),
    (4, decide ((ch 11).natAbs > s.getN .mainsFreq)),
    (5, decide (ch 13 * 1000 > s.getN .mainsHarmonic * 4096)),
    (6, phases.any fun p => p.any fun x => decide (x * x * 1000000 > peak * peak * 2 * nom * nom)),
    (7, decide (ch 14 * 1000 > s.getN .mainsUnbalance * 4096))]
  ((tests.find? (·.2)).map (·.1)).getD 0

/-- The channel of the highest score, the lowest on a tie. -/
def topClass (f : List Int) : Nat :=
  (List.range 8).foldl (fun b i => if f.getD i 0 > f.getD b 0 then i else b) 0

/-- A mains pass commits its features, and its class is compared with the twin's of the same samples (R251). -/
def State.mainsCommit (s : State) (features : List Int) : State :=
  let learned := topClass features
  let twin := s.mains.twin
  let n := s.getN .mainsN
  let m := s.mains
  let differ := if learned ≠ twin then m.differ + 1 else 0
  let agree := if learned = twin then m.agree + 1 else 0
  let opens := !m.isOpen && decide (differ ≥ n)
  let closes := m.isOpen && decide (agree ≥ n)
  let s := { s with mains := { m with
    features := features
    stamp := s.stamp.number
    past := ((s.stamp.number, features) :: m.past).take 128
    committed := true
    learned := learned
    differ := if closes then 0 else differ
    agree := if opens then 0 else agree
    isOpen := (m.isOpen || opens) && !closes } }
  if opens then s.raise 0x13 (some 2) none learned twin 1 0
  else if closes then s.raise 0x13 (some 2) none learned twin 0 0 else s

/-! ## Rollouts and other requests (09 R260 to R265, 13 R381, 14 R411) -/

/-- The plan's value at step g, counted from 0, in the input unit of channel 4. -/
def State.planCurrent (s : State) (r : Request) (g : Nat) : Int := go r.segs g
where
  /-- The segment that holds step g. -/
  go : List Seg → Nat → Int
    | [], _ => 0
    | q :: qs, g =>
      if g < q.steps then
        (if q.power then s.inputCurrent (divr (divr (q.value * 10000) r.vnom * 1000000000) (s.getN .packIscale)) else q.value)
      else go qs (g - q.steps)

/-- The input row of step g of a rollout (09 R262); channel 2 plus the offset saturates, which the spec does not say (log 144). -/
def State.rolloutRow (s : State) (r : Request) (c : RollCell) (g : Nat) : List Int :=
  let x : Nat → Int := fun i => c.row.getD i 0
  let cur := s.planCurrent r g
  [x 0, 0, sat (x 2 + r.toff) 16, x 3, cur, cur, 1, 0, 0, (10 * r.stepMs : Nat), 0, 4096, 0, 0, 0, 0] ++ (List.range 16).map fun i => x (16 + i)

/-- Bytes of a request's input from one place on. -/
def Request.part (r : Request) (a n : Nat) : Bytes := (r.input.drop a).take n
/-- The counts that head a regeneration's input: its taps and settings (14 R411). -/
def Request.ntap (r : Request) : Nat := bitsOf (leNat (r.part 0 8)) 23 16
def Request.nset (r : Request) : Nat := bitsOf (leNat (r.part 0 8)) 31 24
/-- Where the reset bitmap, the tap numbers and the settings of a regeneration's input begin. -/
def Request.resetsAt (r : Request) : Nat := 8 + 64 * r.total
def Request.tapsAt (r : Request) : Nat := r.resetsAt + 8 * ceilDiv r.total 64
def Request.setsAt (r : Request) : Nat := r.tapsAt + 8 * ceilDiv r.ntap 8
/-- The reset bit of a regeneration's step. -/
def Request.resetBit (r : Request) (t : Nat) : Bool := ((r.part (r.resetsAt + t / 8) 1).headD 0).getLsbD (t % 8)
/-- The tap numbers of a regeneration. -/
def Request.tapNumbers (r : Request) : List Nat := (r.part r.tapsAt r.ntap).map (·.toNat)

/-- The settings of 08 Table 8.1 that a regeneration's input may name, in a patron's slot or the estimator's, and of the card's stream, each with
the setting that it stands for in the request's slot and its working stream. -/
def State.regenNames (s : State) (r : Request) : List (SName × SName) :=
  match s.folio? r.slot with
  | none => []
  | some f =>
    let sid := r.copy.getD 0
    ([r.slot, 1].flatMap fun p => (f.tensors.flatMap fun t => [(SName.tensorMode p t.index, SName.tensorMode r.slot t.index),
        (.tensorWindow p t.index, .tensorWindow r.slot t.index), (.tensorKlo p t.index, .tensorKlo r.slot t.index),
        (.tensorKhi p t.index, .tensorKhi r.slot t.index)])
      ++ (List.range f.stateLayers.length).map fun l => (.layerClamp p l, .layerClamp r.slot l))
    ++ [r.card.sid, sid].flatMap fun x => (List.range f.stateLayers.length).map fun l => (.streamShift x l, .streamShift sid l)
/-- A byte of text with its letter in lower case. -/
def lowerByte (b : BitVec 8) : BitVec 8 := if 0x41 ≤ b.toNat ∧ b.toNat ≤ 0x5A then b + 0x20#8 else b
/-- The value of a digit in a base; none for another byte. -/
def digitOf (base : Nat) (b : BitVec 8) : Option Nat :=
  let n := (lowerByte b).toNat
  (if 0x30 ≤ n ∧ n ≤ 0x39 then some (n - 0x30) else if 0x61 ≤ n ∧ n ≤ 0x66 then some (n - 0x57) else none).filter fun v => decide (v < base)
def digitsOf (base : Nat) (b : Bytes) : Option Nat :=
  if b.isEmpty then none else b.foldl (fun v d => v.bind fun v => (digitOf base d).map fun x => base * v + x) (some 0)
/-- A plain count: a decimal or hexadecimal integer (13 Table 13.17). -/
def countOf (b : Bytes) : Option Nat := if b.take 2 = asciiOf "0x" then digitsOf 16 (b.drop 2) else digitsOf 10 b
/-- The value that a text gives a setting of a form of 08 Table 8.1: a word, in either case, or a count in its range. -/
def valueOf (f : SForm) (b : Bytes) : Option Int :=
  match f with
  | .words ws => (ws.findIdx? fun w => (asciiOf w.text).map lowerByte == b.map lowerByte).map fun i => (i : Int)
  | .count lo hi => (countOf b).bind fun v => if lo ≤ (v : Int) ∧ (v : Int) ≤ hi then some (v : Int) else none
  | _ => none
/-- The setting that a text name=value gives; the name counts in either case (13 R385). -/
def settingOfText (names : List (SName × SName)) (b : Bytes) : Option (SName × Option Int) :=
  let t := b.takeWhile (· != 0#8)
  names.findSome? fun p =>
    let head := p.1.text ++ asciiOf "="
    if (t.take head.length).map lowerByte = head then (valueOf p.1.form (t.drop head.length)).map fun v => (p.2, some v) else none
/-- The settings that a regeneration's input makes live at one of its steps, the last given last (14 R411). -/
def State.regenSettings (s : State) (r : Request) (t : Nat) : List (SName × Option Int) :=
  ((List.range r.nset).filterMap fun i =>
    let e := r.part (r.setsAt + 64 * i) 64
    if leNat (e.take 2) ≤ t then settingOfText (s.regenNames r) (e.drop 2) else none)
/-- The state under the settings, and the state shifts that hosts had set, of an earlier stamp (08 R216, R233). -/
def State.asOf (s : State) (m : BitVec 48) : State :=
  match s.settings.past.reverse.find? fun p => decide (m < p.1) with
  | none => s
  | some p =>
    let shift : Nat → Nat × Nat → Option (Nat × Nat) := fun sid x =>
      let old := settingIn (.streamShift sid x.1) p.2
      if old = settingIn (.streamShift sid x.1) s.settings.live then some x else old.map fun v => (x.1, (v.getD 0).toNat)
    { s with
      settings := { s.settings with live := p.2 }
      streams := s.streams.map fun x => { x with shiftTo := x.shiftTo.filterMap (shift x.sid) } }
/-- The steps that the input log holds of a rebuild's stream, from the k-th on. -/
def State.rebuildStep (s : State) (c : ChargeSt) (sid k : Nat) : Option LoggedStep := (s.windowOf c.slot sid)[k]?
/-- The stamp whose settings a charge runs under, however late it runs and whether again: that of its submission, in which its step takes its sample; a
replayed step's is that of the sample (02 R45, 08 R218, R233, R234, log 150). -/
def ChargeSt.ruled (c : ChargeSt) : BitVec 48 := c.under.getD c.sub
/-- The state as the arithmetic of a charge sees it before its k-th commit: a step of a regeneration under the settings that its input names (08
R227), each step of a rebuild under those, and the state shifts, of the step that it replays (05 R150), any other charge under those of its stamp. -/
def State.underAt (s : State) (c : ChargeSt) (k : Nat) : State :=
  match c.kind with
  | .chunk req _ index _ => match s.req? req with
    | some r => if r.kind = .regenerate then (s.regenSettings r index).foldl State.hold (s.asOf c.ruled) else s.asOf c.ruled
    | none => s.asOf c.ruled
  | .rebuild sid => match s.rebuildStep c sid k with
    | some e => (s.asOf e.ran).modStream sid fun x => { x with shiftTo := e.shifts.mapIdx fun l j => (l, j) }
    | none => s
  | _ => s.asOf c.ruled
/-- The steps that a rebuild has replayed so far. -/
def State.replayed (s : State) (c : ChargeSt) : Nat :=
  match c.kind, (s.patron c.slot).monitor.card with
  | .rebuild sid, some i => (s.stream sid).work.step.toNat - i.step.toNat
  | _, _ => 0
/-- The state as the arithmetic of a charge sees it now. -/
def State.under (s : State) (c : ChargeSt) : State := s.underAt c (s.replayed c)

/-- The input rows of a chunk of a request; of a job the rows of its frame that the chunk's time steps take, or its whole body. -/
def State.chunkRows (s : State) (r : Request) (sid index : Nat) : Bytes :=
  match r.kind, r.cells.find? fun c => c.copy == sid with
  | .rollout, some c => (List.range (r.stepsOf index)).flatMap fun i => rowBytes (s.rolloutRow r c (4096 * index + i))
  | .regenerate, _ => r.part (8 + 64 * index) 64
  | .job, _ => if r.rows = 0 then r.input else r.part (r.input.length / r.rows * (4096 * index)) (r.input.length / r.rows * r.stepsOf index)
  | _, _ => []
/-- The range step tags of a chunk's input rows: 0 in every row, but in a job's what its input frame states (04 R100). -/
def Request.rowTags (r : Request) (index : Nat) : Bytes :=
  match r.kind with
  | .job => if r.rows = 0 then [] else List.replicate (r.stepsOf index) (BitVec.ofNat 8 r.kstep)
  | _ => List.replicate (r.stepsOf index) 0#8

/-- The limits of a parameter set that a rollout cell is compared with, as node voltage codes (09 R263). -/
def State.rollLimits (s : State) (set : Nat) : Option Nat × Option Nat :=
  let mv : Lim → Option Nat := fun l => (s.get (.limitValue set l)).map fun v => 10 * v.toNat
  (mv .ov, mv .uv)

/-- A voltage or state of charge outside its bounds. -/
def crosses (r : Request) (lims : Option Nat × Option Nat) (volt soc : Nat) : Bool :=
  lims.1.any (fun l => decide (volt > l)) || lims.2.any (fun l => decide (volt < l)) || decide (soc < r.socLo) || decide (soc > r.socHi)

/-- The current scale in nA a code; a free value while pack.iscale is not given. -/
def State.twinScale (s : State) : Nat := ((s.get .packIscale).map Int.toNat).getD Config.twinScale
/-- The twin of a rollout cell at second k + 1 of the horizon, under the plan's current at the second's last step (log 69). -/
def State.rollSecond (s : State) (r : Request) (lims : Option Nat × Option Nat) (c : RollCell) (k : Nat) : RollCell :=
  match c.twin with
  | none => c
  | some t =>
    let set := lookupD [] c.set s.settings.twinsets
    let temp := c.row.getD 2 0 + r.toff
    let g := ceilDiv (1000 * (k + 1)) r.stepMs
    let code := s.planCurrent r (g - 1) * 2 ^ s.getN .packIshift
    let t := twinPredict set s.twinScale t (code * 64000) 64000 temp
    let v := twinVolt set s.twinScale t code temp
    let soc := twinSoc t
    { c with
      twin := some t
      twinVolts := c.twinVolts ++ [v]
      vminT := min c.vminT v
      vmaxT := max c.vmaxT v
      socT := soc
      xT := if c.xT.isNone && crosses r lims v soc then some g else c.xT }
/-- Steward pair B runs a rollout cell's twin forward over the horizon, a step a second, whatever the stacks do (R263, 01 R14). -/
def State.rollTwin (s : State) (r : Request) (c : RollCell) : RollCell :=
  (List.range (r.total * r.stepMs / 1000)).foldl (s.rollSecond r (s.rollLimits c.set)) c

/-- Step number g, counted from 1, of a rollout cell: the comparison with the twin at a whole second, and the report point (R263, 01 R16). -/
def rollStep (r : Request) (lims : Option Nat × Option Nat) (c : RollCell) (g : Nat) (h : List Int) : RollCell :=
  let vl := (usat (meanOf h 3 + 32768) 16).toNat
  let second : Bool := decide (g * r.stepMs / 1000 > (g - 1) * r.stepMs / 1000)
  let c := { c with
    steps := g
    dvmax := match (if second then c.twinVolts[g * r.stepMs / 1000 - 1]? else none) with
      | some vt => max c.dvmax ((vl : Int) - vt).natAbs
      | none => c.dvmax }
  if r.interval = 0 ∨ g % r.interval ≠ 0 then c else
  let soc := (usat (meanOf h 0) 16).toNat
  { c with
    points := c.points ++ [(soc, vl)]
    vminL := min c.vminL vl
    vmaxL := max c.vmaxL vl
    xL := if c.xL.isNone && crosses r lims vl soc then some g else c.xL }

/-- A rollout chunk's committed head rows enter its cell's result; the last one's state of charge stands (R263, R264). -/
def State.rollChunk (s : State) (r : Request) (sid index : Nat) (heads : List (List Int)) : State :=
  s.modReq r.num fun r => { r with chunks := r.chunks + 1, cells := r.cells.map fun c =>
    if c.copy = sid then
      let c := (heads.mapIdx fun i h => (i, h)).foldl (fun c p => rollStep r (s.rollLimits c.set) c (4096 * index + p.1 + 1) p.2) c
      { c with
        chunks := c.chunks + 1
        socL := match heads.getLast? with
          | some h => (usat (meanOf h 0) 16).toNat
          | none => c.socL }
    else c }

/-- The summary of a rollout cell (09 Table 9.8). -/
def RollCell.summary (c : RollCell) (theta : Nat) : Bytes :=
  leBytes 64 (field c.sid 0 13 + c.xL.isSome.toNat * 2 ^ 13 + c.xT.isSome.toNat * 2 ^ 14 + (decide (c.dvmax > theta)).toNat * 2 ^ 15
    + c.old.toNat * 2 ^ 16 + c.step0.toNat * 2 ^ 32 + field c.vminL 80 16 + field c.vmaxL 96 16 + field c.vminT 112 16
    + field c.vmaxT 128 16 + field c.socL 144 16 + field c.socT 160 16 + field (c.xL.getD 0xFFFFFFFF) 176 32
    + field (c.xT.getD 0xFFFFFFFF) 208 32 + field c.dvmax 240 16)

/-- The points of a cell as ROLLOUT frames of at most 16,000 points; the summary and the colophon end the last (13 R381). -/
def State.rollFrames (s : State) (r : Request) (c : RollCell) (colophon : Bytes) : State :=
  let parts := max 1 (ceilDiv c.points.length 16000)
  (List.range parts).foldl (fun s i =>
    let pts := (c.points.drop (16000 * i)).take 16000
    let last := i + 1 = parts
    s.sendFrame 3 0x07 s.stamp.number pts.length (payloadHead r.num c.sid 0 last 0 i pts.length 0
      ++ pts.flatMap (fun p => leBytes 4 (field p.1 0 16 + field p.2 16 16))
      ++ (if last then c.summary (s.getN .rolloutTheta) ++ colophon else []))) s

/-- A rollout cell's last chunk has committed: its results go to ring 3 and its copy is freed; after the last cell the request is
DONE, and one divergence event names the cells beyond the threshold (09 R264). -/
def State.rollCellEnd (s : State) (num sid : Nat) (colophon : Bytes) : State :=
  match s.req? num with
  | none => s
  | some r => match r.cells.find? fun c => c.copy == sid && !c.fin with
    | none => s
    | some c =>
      let s := s.rollFrames r c colophon
      let s := s.modReq num fun r => { r with cells := r.cells.map fun x => if x.copy = sid then { x with fin := true } else x }
      let s := s.freeCopy r.slot sid
      match s.req? num with
      | none => s
      | some r =>
        if r.state != .running || !r.cells.all (·.fin) then s else
        let s := s.endRequest r .done 0
        let bad := r.cells.filter fun c => c.dvmax > s.getN .rolloutTheta
        match bad with
        | [] => s
        | b :: bs =>
          let top := bs.foldl (fun (a : RollCell) c => if c.dvmax > a.dvmax then c else a) b
          s.raise 0x15 (some r.slot) none num bad.length top.sid top.dvmax

/-- Carrel bytes that a charge's folio names by a program address. -/
def State.folioBytes (s : State) (c : ChargeSt) (a n : Nat) : Bytes :=
  ((List.range (ceilDiv n 64)).flatMap fun i => memRead (s.stk c.stack).carrel (64 * c.place (a + i)) 64).take n
/-- The intermediates of the taps that a regeneration lists, in the order of its list (08 R227). -/
def State.tapBytes (s : State) (c : ChargeSt) (f : FolioInfo) (r : Request) : Bytes :=
  r.tapNumbers.flatMap fun n => match f.taps[n]? with
    | some p => s.folioBytes c p.1 p.2
    | none => []
/-- What a charge gives its request: a regeneration's tapped intermediates, a job's result bytes. -/
def State.givenBytes (s : State) (c : ChargeSt) : Bytes :=
  match c.kind, s.folio? c.slot with
  | .chunk req _ _ _, some f => match s.req? req with
    | some r => match r.kind with
      | .regenerate => s.tapBytes c f r
      | .job => s.folioBytes c f.resultAt f.resultLen
      | .rollout => []
    | none => []
  | _, _ => []
/-- It is taken as the charge's last descriptor on the main engine has left it, before those of another charge write over it (08 R227). -/
def State.takeOuts (s : State) (id : Nat) : State :=
  match s.charge? id with
  | none => s
  | some c =>
    let k := s.stk c.stack
    let more : Bool := k.queue.any (fun q => q.charge == id && ((Op.ofCode (dOp q.bits)).map Op.engine).getD .main == .main)
      || (k.running ++ k.halted).any fun r => r.charge == id && r.eng == .main
    if more then s else s.modCharge id fun x => { x with outs := some (x.outs.getD (s.givenBytes c)) }
/-- The image that a regeneration returns: its working stream's, under the identity of the card that it began from. -/
def Request.regenImage (r : Request) (i : Image) : Image :=
  { i with sid := r.card.sid, patron := r.card.patron, gen := r.card.gen, portable := r.card.portable, live := r.card.live }

/-- A chunk of a regeneration or of another job ends: a job's result bytes go out in a JOBOUT frame of their own, a regeneration's tapped
intermediates are gathered for its one REGEN frame; after the last the request is DONE (13 Table 13.9, log 40). -/
def State.jobChunkEnd (s : State) (c : ChargeSt) (num sid : Nat) (last : Bool) : State :=
  match s.req? num with
  | some r =>
    let outs := c.outs.getD (s.givenBytes c)
    let regen : Bool := r.kind == .regenerate
    let head := payloadHead num 0 0 false 0 0 0 0
    let r := { r with chunks := r.chunks + 1, result := if regen then r.result ++ outs else [] }
    let s := s.modReq num fun _ => r
    let s := if regen then s else s.sendFrame 3 0x0A s.stamp.number 0 (head ++ outs)
    if !last || r.state != .running then s else
    let s := if regen then
        s.sendFrame 3 0x09 s.stamp.number r.tapNumbers.length (head ++ r.result ++ (r.regenImage (s.stream sid).committed).bytes)
      else s
    s.endRequest r .done 0
  | none => s

end Sys2Proof.Machine
end

