-- ==== Sys2Proof/Machine/Limits.lean ====
section
/-! DEFINITION. Steward pair B at each sample: the correction for bleed current (11 R331), the twin (09 R242), the protective limits (09
R245 to R247), the patterns of a broken wire (11 R334 to R336), and the messages that they send to nodes. -/

namespace Sys2Proof.Machine

/-! ## Messages to nodes -/

/-- The quiet window of a node is as long as the stamp period or longer: it never bleeds (02 R30, 11 R329). -/
def NodeSt.quiet (n : NodeSt) (period : Nat) : Bool := decide (10 * period ≤ n.wpre + n.wpost)
/-- A node with a balancing order's mark, "no bleed time" or not (02 R30). -/
def NodeSt.marked (n : NodeSt) (m : Msg) (period : Nat) : NodeSt := if m.mtype = 1 then { n with noBleed := n.quiet period } else n

/-- Put a message last among those of its node; a balancing order carries its mark (02 R30). -/
def State.queueMsg (s : State) (m : Msg) : State :=
  let m := { m with sub := s.air.subs, at0 := s.now, noBleed := m.mtype == 1 && (s.node? m.shelf).any fun n => NodeSt.quiet n s.stamp.period }
  ({ s with air := { s.air with subs := s.air.subs + 1 } }).modNode m.shelf fun n => { n.marked m s.stamp.period with queue := n.queue ++ [m] }
/-- Put a broadcast last among the broadcasts; a balancing order carries its mark (02 R30). -/
def State.queueBroadcast (s : State) (m : Msg) : State :=
  let m := { m with sub := s.air.subs, noBleed := m.mtype == 1 && s.nodes.any fun n => NodeSt.quiet n s.stamp.period }
  { s with
    nodes := s.nodes.map fun n => n.marked m s.stamp.period
    air := { s.air with subs := s.air.subs + 1, bqueue := s.air.bqueue ++ [m] } }

/-- A BALANCE message, type 0x01 of 8 bytes: cells of a mask for a number of seconds; 0 is a stop order (11 R322, Table 11.10a). -/
def balanceMsg (shelf mask dur : Nat) : Msg :=
  { shelf := shelf, mtype := 0x01, rest := leBytes 6 (field mask 0 16 + field dur 16 16), stop := dur = 0 }
/-- The balancing that a node is left with after an order: the cells of a mask bleed for a number of seconds; 0 withdraws them (11 R339). -/
def NodeSt.ordered (n : NodeSt) (mask dur now : Nat) : NodeSt :=
  let cells := ((List.range 16).filter mask.testBit).map (· + 1)
  { n with balance := if dur = 0 then n.balance.filter fun b => !cells.contains b.1
                      else cells.foldl (fun bs i => setKey i (now + dur * 1000 * msTicks) bs) n.balance }
/-- An OWTEST message: type 0x02 of 4 bytes (11 R322). -/
def owtestMsg (shelf wire dir : Nat) : Msg := { shelf := shelf, mtype := 0x02, rest := leBytes 2 (field wire 0 5 + field dir 5 2) }

/-! ## Limits -/

def limCode : Lim → Nat
  | .ov => 0 | .uv => 1 | .ot => 2 | .ut => 3 | .occ => 4 | .ocd => 4 | .cd => 5 | .ns => 6

/-- One limit of one cell, node or channel. -/
def State.lim (s : State) (l : Lim) (key : Nat) : LimSt := (s.limits.find? fun x => x.lim == l && x.key == key).getD { lim := l, key := key }
def State.putLim (s : State) (x : LimSt) : State :=
  let rest := s.limits.filter fun y => !(y.lim == x.lim && y.key == x.key)
  { s with limits := if x.count = 0 ∧ !x.tripped then rest else rest ++ [x] }

/-- The sequence number of the last PROTECT event raised; while pair B restarts 2^32 plus the place among
those held back. -/
def State.lastProtect (s : State) : Nat :=
  if s.steward.bDown.isSome then 2 ^ 32 + (s.steward.heldProtect.length - 1) else (((s.events.kept.filter fun e => e.code == 1).getLast?).map fun e => e.seq.toNat).getD (2 ^ 32)

/-- A limit clears: PCLEAR (09 R247), after the restart where pair B is down (16 R453). -/
def State.clearLim (s : State) (x : LimSt) (a1 : Nat) : State :=
  let s := s.putLim { lim := x.lim, key := x.key }
  if s.steward.bDown.isSome then s.holdProtect 2 (limCode x.lim) a1 0 0 else s.raise 0x02 none none (limCode x.lim) a1 0 0

/-- Whether a limit needs the host's acknowledgement to clear (09 Table 9.5). -/
def needsAck : Lim → Bool
  | .cd | .ns => false
  | _ => true

/-- One test of a limit: trip after the debounce count, clear after its own count and the acknowledgement (R245, R247). -/
def State.testLimit (s : State) (l : Lim) (key a1 set : Nat) (value : Int) (trip clears : Bool) (debounce clearN : Nat) : State :=
  let x := s.lim l key
  if x.tripped then
    let x := { x with clear := if clears then x.clear + 1 else 0 }
    if clearN ≤ x.clear ∧ (x.acked ∨ !needsAck l) then s.clearLim x a1 else s.putLim x
  else
    let count := if trip then x.count + 1 else 0
    if trip ∧ debounce ≤ count then
      let s := s.raiseProtect (limCode l) a1 (word32 value) set
      s.putLim { x with count := count, tripped := true, seq := s.lastProtect, acked := false, clear := 0 }
    else s.putLim { x with count := count }

/-- The parameter set of a node. -/
def State.setOf (s : State) (shelf : Nat) : Nat := s.getN (.nodeTwinset shelf)
def State.limitCode? (s : State) (set : Nat) (l : Lim) (scale : Int) : Option Int := (s.get (.limitValue set l)).map (· * scale)

/-- The parameter set's bytes. -/
def State.twinset (s : State) (shelf : Nat) : Bytes := lookupD [] (s.setOf shelf) s.settings.twinsets

/-- How the voltage of a cell is tested: its reading, or, beside a broken wire, the pair's sum and the twin's terminal voltage. -/
inductive VoltTest where
  | none
  | reading (v : Nat)
  | pair (sum twin : Nat)
  | twin (v : Nat)

/-- A break that is suspected or confirmed on a wire. -/
def NodeSt.broken (n : NodeSt) (w : Nat) : Bool := n.breaks.any fun b => b.wire == w && (b.suspected || b.confirmed)

/-- The test that applies to cell i (09 R246, 11 R335, R336). Beside a broken wire an INVALID reading of either cell leaves both without a test: 11 R321
settles its own cell alone (log 167). -/
def voltTest (n : NodeSt) (i : Nat) (twin : Option Nat) : VoltTest :=
  let v : Nat → Nat := fun k => n.report.volts.getD (k - 1) 0
  let bad : Nat → Bool := fun k => n.report.invalid.getLsbD (k - 1)
  let w := if 1 ≤ i ∧ i ≤ 15 ∧ n.broken i then some i else if 2 ≤ i ∧ n.broken (i - 1) then some (i - 1) else none
  let endWire := (i = 1 ∧ n.breaks.any fun b => b.wire == 0 && b.confirmed) ∨ (i = 16 ∧ n.breaks.any fun b => b.wire == 16 && b.confirmed)
  match w with
  | some k => if bad k || bad (k + 1) then .none else .pair (v k + v (k + 1)) (twin.getD (v i))
  | none =>
    if bad i then .none
    else if endWire then (match twin with
      | some t => .twin t
      | none => .reading (v i))
    else .reading (v i)

/-- A cell's voltage tests of one sample. Of a pair's test PROTECT names the twin's terminal voltage, even where the sum alone has tripped: the spec does
not say which value it names (09 R246, log 167). -/
def State.testVolts (s : State) (n : NodeSt) (i : Nat) (twin : Option Nat) : State :=
  let set := s.setOf n.shelf
  let key := 256 * n.shelf + i
  let one : State → Lim → State := fun s l =>
    let above := l == .ov
    match s.limitCode? set l 10, voltTest n i twin with
    | some lim, .reading v =>
      let hyst : Int := 10 * s.getN (.limitHyst set l)
      let db := s.getN (.limitDebounce set l)
      s.testLimit l key key set v (if above then decide ((v : Int) > lim) else decide ((v : Int) < lim))
        (if above then decide ((v : Int) ≤ lim - hyst) else decide ((v : Int) ≥ lim + hyst)) db db
    | some lim, .twin v =>
      let hyst : Int := 10 * s.getN (.limitHyst set l)
      let db := s.getN (.limitDebounce set l)
      s.testLimit l key key set v (if above then decide ((v : Int) > lim) else decide ((v : Int) < lim))
        (if above then decide ((v : Int) ≤ lim - hyst) else decide ((v : Int) ≥ lim + hyst)) db db
    | some lim, .pair sum tw =>
      let hyst : Int := 10 * s.getN (.limitHyst set l)
      let db := s.getN (.limitDebounce set l)
      let trip := if above then decide ((sum : Int) > 2 * lim ∨ (tw : Int) > lim) else decide ((sum : Int) < 2 * lim ∨ (tw : Int) < lim)
      let clr := if above then decide ((sum : Int) ≤ 2 * (lim - hyst) ∧ (tw : Int) ≤ lim - hyst)
        else decide ((sum : Int) ≥ 2 * (lim + hyst) ∧ (tw : Int) ≥ lim + hyst)
      s.testLimit l key key set tw trip clr db db
    | _, _ => s
  let s := one s .ov
  let was := (s.lim .uv key).tripped
  let s := one s .uv
  -- an under-voltage trip stops the balancing of the cell (R247)
  if !was && (s.lim .uv key).tripped then
    (s.modNode n.shelf fun n => n.ordered (2 ^ (i - 1)) 0 s.now).queueMsg (balanceMsg n.shelf (2 ^ (i - 1)) 0)
  else s

/-- A cell's temperature tests of one sample; a positive current discharges (09 R242, log 30). -/
def State.testTemps (s : State) (n : NodeSt) (c : CellSt) : State :=
  let set := s.setOf n.shelf
  let key := 256 * n.shelf + c.cell
  let ts := ((List.range 4).filter fun i => (s.sensorsOf c).testBit i).filterMap fun i =>
    let t := n.report.temps.getD i (-32768)
    if t = -32768 then none else some t
  let charges := decide (s.channelMean n.shelf s.sense.stampA s.sense.stampB s.sense.stampN < 0)
  match ts with
  | [] => s
  | t :: _ =>
    let hi := ts.foldl max t
    let lo := ts.foldl min t
    let s := match s.limitCode? set .ot 1 with
      | none => s
      | some lim =>
        let db := s.getN (.limitDebounce set .ot)
        s.testLimit .ot key key set hi (decide (hi > lim)) (decide (hi ≤ lim - s.getN (.limitHyst set .ot))) db db
    match s.limitCode? set .ut 1 with
    | none => s
    | some lim =>
      let db := s.getN (.limitDebounce set .ut)
      s.testLimit .ut key key set lo (decide (lo < lim) && charges) (decide (lo ≥ lim + s.getN (.limitHyst set .ut))) db db

/-- A 1 ms mean beyond a limit in milliamperes, compared as a front-end code under the scale of pack.iscale in nA a code (14 R402). -/
def State.beyond (s : State) (mean : Int) (limit : Int) : Bool :=
  match s.get .packIscale with
  | some k => decide (mean > divr (limit * 1000000) k.toNat)
  | none => false

/-- One over-current test of a parameter set, on a channel. -/
def State.testCurrent (s : State) (set : Nat) (l : Lim) (ch : Nat) (m : Int) : State :=
  match s.get (.limitValue set l) with
  | none => s
  | some lim =>
    let out := s.beyond m lim
    s.testLimit l (4 * set + ch) 0 set m out (!out) (s.getN (.limitDebounce set l)) 100

/-- The disagreement test of a parameter set: on the difference of the channels. -/
def State.testDisagree (s : State) (set : Nat) (a b : Int) : State :=
  match s.get (.limitValue set .cd) with
  | none => s
  | some lim =>
    let out := s.beyond ((a - b).natAbs : Int) lim
    s.testLimit .cd (4 * set) 0 set (a - b) out (!out) (s.getN (.limitDebounce set .cd)) 100

/-- The over-current and disagreement tests of one millisecond (09 Table 9.5), for every parameter set with a limit (log 31). -/
def State.testCurrents (s : State) (a b : Int) : State :=
  (List.range 16).foldl (fun s set =>
    (((((s.testCurrent set .occ 0 (-a)).testCurrent set .occ 1 (-b)).testCurrent set .ocd 0 a).testCurrent set .ocd 1 b).testDisagree set a b)) s

/-- The node-silent limit of one stamp (09 Table 9.5). -/
def State.testSilent (s : State) (n : NodeSt) : State :=
  let set := s.setOf n.shelf
  s.testLimit .ns (256 * n.shelf) (256 * n.shelf) set n.silent (!n.reported) n.reported (s.getN (.limitDebounce set .ns)) 1

/-! ## Correction for bleed current (11 R331) -/

/-- The wire resistances of a node when all 17 and the bleed resistance are given. -/
def State.wires? (s : State) (shelf : Nat) : Option (List Nat × Nat) :=
  let ws := (List.range 17).filterMap fun w => (s.get (.nodeWr shelf w)).map Int.toNat
  match s.get (.nodeRb shelf) with
  | some rb => if ws.length = 17 then some (ws, rb.toNat) else none
  | none => none

/-- A report with its readings corrected. -/
def correctReport (r : Report) (ws : List Nat) (rb : Nat) : Report :=
  let bv : Nat → Int := fun i => if 1 ≤ i ∧ i ≤ 16 ∧ r.bleed.getLsbD (i - 1) then (r.volts.getD (i - 1) 0 : Nat) else 0
  let t : Nat → Int := fun w => divr (ws.getD w 0 * (bv w - bv (w + 1))) (100 * rb)
  { r with
    volts := (List.range 16).map fun i => (usat ((r.volts.getD i 0 : Nat) + t (i + 1) - t i) 16).toNat
    modtot := (usat ((r.modtot : Nat) + t 16 - t 0) 32).toNat }

/-! ## The twin (09 R242, R243) -/

/-- A cell's twin predicts over the stamp's codes; with a reading it then corrects, and without one stands. A missing twin starts at
the first reading. Its predicted terminal voltage goes with it. -/
def State.runTwin (s : State) (c : CellSt) (reading : Option Nat) : CellSt × Option Nat :=
  let set := s.twinset c.shelf
  let temp := s.cellTemp c
  let q := s.sense
  let charge : Int := match s.getN (.nodeCurrent c.shelf) with
    | 0 => q.stampA
    | 1 => q.stampB
    | _ => divr (q.stampA + q.stampB) 2
  let cur := s.channelOf c.shelf q.markA q.markB
  match c.twin with
  | none => ({ c with twin := reading.map fun v => twinInit set v cur, ran := true }, none)
  | some t =>
    let p := twinPredict set s.twinScale t charge q.stampN temp
    let volt := twinVolt set s.twinScale p cur temp
    ({ c with ran := true, residual := (reading.map fun v => (v : Int) - volt).getD 0
              twin := some (match reading with
                | some v => twinCorrect set s.twinScale p v cur temp
                | none => p) }, some volt)

/-- Run the twins that this stamp's sample has not reached, predicting without correcting. -/
def State.runLateTwins (s : State) : State :=
  { s with cells := s.cells.map fun c => if c.ran then c else (s.runTwin c none).1 }

/-! ## Broken wires (11 R334 to R336) -/

def NodeSt.breakAt (n : NodeSt) (w : Nat) : BreakSt := (n.breaks.find? fun b => b.wire == w).getD { wire := w }
def NodeSt.putBreak (n : NodeSt) (b : BreakSt) : NodeSt :=
  let rest := n.breaks.filter fun x => x.wire ≠ b.wire
  { n with breaks := if b.count = 0 ∧ !b.suspected ∧ !b.confirmed then rest else rest ++ [b] }

/-- Send an open-wire test of the hub's own for a wire, whatever others of the node are pending; one of the same wire that is pending serves. -/
def State.autoTest (s : State) (shelf wire : Nat) : State :=
  match s.node? shelf with
  | none => s
  | some n =>
    if n.owt.any (fun o => o.wire == wire) then s.modNode shelf fun n => n.putBreak { n.breakAt wire with tested := true }
    else if s.get .packOwauto ≠ some 1 then s else
    (s.queueMsg (owtestMsg shelf wire 3)).modNode shelf fun n => { (n.putBreak { n.breakAt wire with tested := true }) with
      owt := n.owt ++ [{ wire := wire, left := 2 }] }

/-- One sample of the pattern on wire k: suspicion after the debounce count, its test, and its lapse (R335). -/
def State.patternAt (s : State) (shelf k : Nat) (holds : Bool) : State :=
  match s.node? shelf with
  | none => s
  | some n =>
    let b := n.breakAt k
    let db := s.getN .packBreakdeb
    let count := if holds then b.count + 1 else 0
    let calm := if holds then 0 else b.calm + 1
    let b := { b with count := count, calm := if b.suspected then calm else 0 }
    if holds ∧ db ≤ count ∧ !b.suspected ∧ !b.confirmed then
      (s.modNode shelf fun n => n.putBreak { b with suspected := true, calm := 0 }).autoTest shelf k
    else if b.suspected ∧ !b.confirmed ∧ !b.tested then
      (if 16 ≤ calm then s.modNode shelf fun n => n.putBreak { wire := k } else (s.modNode shelf fun n => n.putBreak b).autoTest shelf k)
    else s.modNode shelf fun n => n.putBreak b

/-- One sample of a deviation of an end cell: once it has held for the debounce count, one open-wire test of its end wire (R336). -/
def State.endDeviation (s : State) (shelf wire : Nat) (holds : Bool) : State :=
  match s.node? shelf with
  | none => s
  | some n =>
    let b := n.breakAt wire
    let count := if holds then b.count + 1 else 0
    let s := s.modNode shelf fun n => n.putBreak { b with count := count, tested := b.tested && holds }
    if holds ∧ s.getN .packBreakdeb ≤ count ∧ !b.tested ∧ !b.confirmed then s.autoTest shelf wire else s

/-- The patterns of Table 11.11 in one sample of a node: d holds the residuals of its valid cells. The spec does not say how E is formed of a sample
with an INVALID cell: the model makes no sum test of it, takes |E| as within the tolerance, and starts the count anew (log 128). -/
def State.patterns (s : State) (n : NodeSt) (d : Nat → Option Int) : State :=
  let theta : Int := s.getN .packBreakres
  let valid := n.report.invalid = 0#16
  let excluded := n.breaks.any fun b => b.confirmed && (b.wire == 0 || b.wire == 16)
  let e : Int := ((n.report.volts.map fun (v : Nat) => (v : Int)).sum) - n.report.modtot
  let off := valid && !excluded && decide (e.natAbs > s.getN .packSumtol)
  let sum := if off then n.sumCount + 1 else 0
  let fault := off && decide (s.getN .packBreakdeb ≤ sum)
  let s := if fault && !n.sumRaised then s.raise 0x55 none none n.shelf (word32 e) 0 0 else s
  let s := s.modNode n.shelf fun n => { n with sumCount := sum, sumRaised := off && (n.sumRaised || fault) }
  let opposite : Nat → Bool := fun k => !off && match d k, d (k + 1) with
    | some a, some b => decide (a * b < 0 ∧ theta ≤ a.natAbs ∧ theta ≤ b.natAbs ∧ 2 * ((a + b).natAbs : Int) ≤ theta)
    | _, _ => false
  let s := (List.range 15).foldl (fun s i => s.patternAt n.shelf (i + 1) (opposite (i + 1))) s
  let lone : Nat → Nat → Bool := fun i j => !off && match d i, d j with
    | some a, some b => decide (theta ≤ a.natAbs ∧ 2 * (b.natAbs : Int) < theta)
    | _, _ => false
  (s.endDeviation n.shelf 0 (lone 1 2)).endDeviation n.shelf 16 (lone 16 15)

/-- A cell's voltage reading in a report, unless it is INVALID (11 R321). -/
def Report.valid (r : Report) (cell : Nat) : Option Nat := if r.invalid.getLsbD (cell - 1) then none else some (r.volts.getD (cell - 1) 0)

/-- Whether the learned forecasts of both cells of a wire show the same opposite residuals (R335). -/
def State.learnedAgree (s : State) (n : NodeSt) (k : Nat) : Bool :=
  let theta : Int := s.getN .packBreakres
  let d : Nat → Option Int := fun i => (s.cells.find? fun c => c.shelf == n.shelf && c.cell == i).bind fun c =>
    (n.report.valid i).map fun v => (v : Int) - (c.learned.forecast + 32768)
  match d k, d (k + 1) with
  | some a, some b => decide (a * b < 0 ∧ theta ≤ a.natAbs ∧ theta ≤ b.natAbs ∧ 2 * ((a + b).natAbs : Int) ≤ theta)
  | _, _ => false

/-- One OWRESULT: an open phase confirms the break; after the last phase an intact wire clears it (R333, R335). The deviation of an end cell that
goes on has had its test (R336). -/
def State.owResult (s : State) (shelf wire : Nat) (dlo dhi dmod : Int) : State :=
  match s.node? shelf with
  | none => s
  | some n => match n.owt.find? fun o => o.wire == wire with
    | none => s
    | some o =>
      let th := s.getN .packOwthresh
      let opened := decide (dlo.natAbs > th ∨ dhi.natAbs > th ∨ ((wire = 0 ∨ wire = 16) ∧ dmod.natAbs > th))
      let s := if opened && !o.hit then
          (s.modNode shelf fun n => n.putBreak { n.breakAt wire with suspected := true, confirmed := true }).raise 0x57 none none shelf wire
            (s.learnedAgree n wire).toNat 0
        else s
      let any := opened || o.hit
      let others := n.owt.filter fun x => x.wire != wire
      if o.left ≤ 1 then
        let s := s.modNode shelf fun n => { n with owt := others }
        if any then s else
        (s.modNode shelf fun n => n.putBreak (if wire = 0 ∨ wire = 16 then { n.breakAt wire with suspected := false, confirmed := false }
          else { wire := wire })).raise 0x56 none none shelf wire 0 0
      else s.modNode shelf fun n => { n with owt := { o with left := o.left - 1, hit := any } :: others }

/-! ## An accepted report (11 R320) -/

/-- The fields of a REPORT body (11 Table 11.7). -/
def reportOf (b : Bytes) : Report :=
  let v := leNat (b.take 64)
  { volts := (List.range 16).map fun i => bitsOf v (16 * i + 15) (16 * i)
    temps := (List.range 4).map fun i => toSigned (bitsOf v (271 + 16 * i) (256 + 16 * i)) 16
    modtot := bitsOf v 351 320, bleed := BitVec.ofNat 16 (bitsOf v 367 352), status := BitVec.ofNat 16 (bitsOf v 383 368)
    last := bitsOf v 391 384, blast := bitsOf v 399 392, invalid := BitVec.ofNat 16 (bitsOf v 415 400) }

/-- A report as the hub takes it, and whether its readings were corrected (11 R331). -/
def State.fixedReport (s : State) (shelf : Nat) (raw : Report) : Report × Bool :=
  match s.wires? shelf with
  | some w => (correctReport raw w.1 w.2, true)
  | none => (raw, false)
/-- A cell with what a report says of it: its voltage, unless the reading is INVALID, and whether it is an uncorrected one taken while bleeding. -/
def CellSt.reads (c : CellSt) (r : Report) (corrected : Bool) : CellSt :=
  let bleed : Nat → Bool := fun i => decide (1 ≤ i ∧ i ≤ 16) && r.bleed.getLsbD (i - 1)
  { c with
    volt := if r.invalid.getLsbD (c.cell - 1) then c.volt else r.volts.getD (c.cell - 1) 0
    bleedRaw := !corrected && (bleed (c.cell - 1) || bleed c.cell || bleed (c.cell + 1)) }

/-- The twin of a cell beside a suspected or confirmed break predicts without correcting (R335). -/
def NodeSt.holdsTwin (n : NodeSt) (i : Nat) : Bool := (decide (1 ≤ i ∧ i ≤ 15) && n.broken i) || n.broken (i - 1) || (i == 16 && n.broken 16)

/-- Take a report's sample: the correction, the twins' predictions and the patterns of the residuals, then the twins' own corrections, which a break
suspected now already withholds, the protective checks, and the estimator's inputs. -/
def State.takeSample (s : State) (shelf : Nat) (raw : Report) : State :=
  let fixed := s.fixedReport shelf raw
  let r := fixed.1
  let s := s.modNode shelf fun n => { n with report := r, corrected := fixed.2, reported := true, reportAt := s.now, lost := false, silent := 0 }
  match s.node? shelf with
  | none => s
  | some n =>
    let cells := (s.cells.filter fun c => c.shelf == shelf).map fun c => c.reads r fixed.2
    let residual : Nat → Option Int := fun i => (cells.find? fun c => c.cell == i).bind fun c =>
      match r.valid i, (s.runTwin c none).2 with
      | some v, some w => some ((v : Int) - (w : Int))
      | _, _ => none
    let s := s.patterns n residual
    let n := (s.node? shelf).getD n
    let run := cells.map fun c =>
      let p := s.runTwin c (if n.holdsTwin c.cell then none else r.valid c.cell)
      ({ p.1 with residual := (residual c.cell).getD 0 }, p.2)
    let s : State := { s with cells := s.cells.map fun c => ((run.find? fun p => p.1.shelf == c.shelf && p.1.cell == c.cell).map (·.1)).getD c }
    let s := run.foldl (fun s p => (s.testVolts n p.1.cell p.2).testTemps n p.1) s
    s.testSilent n

end Sys2Proof.Machine
end

