-- ==== Sys2Proof/Machine/Rota.lean ====
section
/-! DEFINITION. The demand of the estimator: which nodes a stamp steps, what their batches cost on each stack, and the half-rate rota
(02 R39, R48, R49, 07 R211, R493). -/

namespace Sys2Proof.Machine

/-- The live cells of a node, those whose streams hold an image. -/
def State.liveCells (s : State) (shelf : Nat) : List CellSt :=
  s.cells.filter fun c => c.shelf == shelf && match c.sid with
    | some sid => (s.stream sid).place == .parked || (s.stream sid).place == .resident
    | none => false

/-- Ledger pages of a node's live cells. -/
def State.nodePages (s : State) (shelf : Nat) : Nat := ((s.liveCells shelf).map fun c => (s.stream (c.sid.getD 0)).pages).sum

/-- A node in the rota is stepped in stamps of its shelfmark's parity (02 R48). -/
def State.rotaTurn (s : State) (n : NodeSt) : Bool := !n.rota || decide (s.stamp.number.toNat % 2 = n.shelf % 2)

/-- The records of a stream in the seals not yet applied, in their order, each with the stamp of its seal. -/
def State.sealedOf (s : State) (sid : Nat) : List (BitVec 48 × SealRec) :=
  s.spine.pendingSeals.flatMap fun h => (h.recs.filter fun r => recordSid r == some sid).map fun r => (h.stamp, r)
/-- A state shift of a stream. -/
def isShift : SealRec → Bool
  | .shift _ _ _ => true
  | _ => false
/-- Pair B is up, a cell's sample of this stamp is there and valid, no charge steps it yet or has stepped it, no sealed act on its stream waits, and the rota lets it
be stepped (02 R48, 05 R118, 09 R237, 11 R321, 16 Table 16.1). -/
def State.stepDue (s : State) (sid : Nat) : Bool :=
  match s.cell? sid with
  | none => false
  | some c => match s.node? c.shelf with
    | none => false
    | some n => s.steward.bDown.isNone && n.reported && !n.report.invalid.getLsbD (c.cell - 1) && s.rotaTurn n && !c.stepped
      && !(s.inputLog.any fun e => e.sid == sid && e.sample == s.stamp.number && e.charge != 0)
      && !(c.prevVolt.isSome && c.prevStamp == s.stamp.number) && (s.stream sid).unsealed.isNone && (s.sealedOf sid).all fun r => isShift r.2

/-- The shelfmarks whose cells this stamp steps. -/
def State.dueShelves (s : State) : List Nat :=
  (s.nodes.filter fun n => n.due && s.rotaTurn n && !(s.liveCells n.shelf).isEmpty).map (·.shelf)

/-- Shelfmarks two by two, a batch each. -/
def pairUp : List Nat → List (List Nat)
  | [] => []
  | [a] => [[a]]
  | a :: b :: rest => [a, b] :: pairUp rest

/-- The step cost that the folio declares, on a stack with n available shelves: its layers' MATMULs take longer there (02 R38, 06 R179). -/
def stepOn (f : FolioInfo) (n : Nat) : Nat :=
  f.stepCost + (f.layers.map fun l => matCycles l.mode 32 l.din l.dout l.wide n - matCycles l.mode 32 l.din l.dout l.wide 32).sum

/-- The exact cost of a live batch on a stack: its step, a recall and a park of each stream, 64 for the watched one, and the surcharge. -/
def State.batchCost (s : State) (f : FolioInfo) (stack : Nat) (shelves : List Nat) : Nat :=
  let m := (s.patron 1).monitor
  stepOn f (s.stk stack).shelfCount + surcharge (s.stk stack) 1 + 512 * (shelves.map s.nodePages).sum
    + if m.valid && shelves.any (fun h => (s.liveCells h).any fun c => c.sid == some m.sid) then 64 else 0

/-- Reruns, carried steps and rebuilds of the estimator that were submitted before this stamp: they are numbered ahead of its own batches
(07 R493). -/
def State.carried (s : State) (c : ChargeSt) : Bool :=
  c.slot == 1 && decide (c.sub < s.stamp.number) && !c.abandoned && match c.kind with
    | .step _ _ | .rebuild _ => true
    | _ => false

/-- The stack of the estimator's batch j: of its k stacks the one at place j mod k (07 R493). -/
def State.batchStack (s : State) (j : Nat) : Option Nat := let es := s.stacksOf 1; es[j % es.length]?

/-- A stamp numbers the batches that earlier ones have left, first to last, and each goes to the stack of its number (07 R493). -/
def State.numberBatches (s : State) : State :=
  let old := s.charges.filter fun c => s.carried c && c.phase == .queued
  let s := (old.mapIdx fun j c => (j, c)).foldl (fun s p => match s.batchStack p.1 with
    | some k => s.moveCharge p.2 (k, p.2.parkCost)
    | none => s) s
  { s with rota := { s.rota with formed := old.length } }

/-- The class 1 need on a stack (02 R39, R49, 07 R493): the batches carried to it, and those of the due batches, numbered after all the carried
ones, whose number falls to it. -/
def State.stepNeed (s : State) (due : List Nat) (stack : Nat) : Nat :=
  match s.folio? 1 with
  | none => 0
  | some f =>
    let first := (s.charges.filter s.carried).length
    ((s.charges.filter fun c => s.carried c && c.stack == stack).map s.costNow).sum
      + ((pairUp due).mapIdx fun j h => if s.batchStack (first + j) = some stack then s.batchCost f stack h else 0).sum

/-- What class 1 may take of a stack in this stamp: A less the debt that the estimator has paid or still owes there (02 R44). -/
def State.classOneLimit (s : State) (stack : Nat) : Nat := s.limit stack 1 - lookupD 0 1 (s.stk stack).debts

/-- What is left for class 1 on the estimator's stacks under its limits, less the class 0 reservation. -/
def State.classOneRoom (s : State) (zeroNeed : Nat → Nat) : Nat := ((s.stacksOf 1).map fun k => s.classOneLimit k - zeroNeed k).sum

/-- The class 0 reservation of a stack (07 R207): the bursts of the frame that fall to it, of NCH channels. -/
def State.receiverNeed (s : State) (stack : Nat) : Nat :=
  let es := s.stacksOf 0
  match s.folio? 0 with
  | none => 0
  | some f =>
    if !es.contains stack then 0 else
    let chans := ((List.range s.air.nch).filter fun c => c % es.length == es.idxOf stack).length
    chans * (s.air.nu + s.air.nrt) * (f.decodeCost + surcharge (s.stk stack) 0)

/-- The full-rate cost of a node: half of a batch's step, rounded up, and a recall and a park of its streams. The spec does not say how two
nodes share the cost of their batch (log 41). -/
def State.nodeCost (s : State) (shelf : Nat) : Nat :=
  match s.folio? 1 with
  | none => 0
  | some f => ceilDiv f.stepCost 2 + 512 * s.nodePages shelf

/-- Whether the class 1 demand of the due nodes fits. -/
def State.demandFits (s : State) : Bool :=
  decide (((s.stacksOf 1).map (s.stepNeed s.dueShelves)).sum ≤ s.classOneRoom s.receiverNeed)

/-- Put a node in the rota or take it out, with its event (07 R211). -/
def State.setRota (s : State) (shelf : Nat) (on : Bool) : State :=
  (s.modNode shelf fun n => { n with rota := on }).raise 0x31 (some 1) none shelf on.toNat 0 0

/-- Enter nodes, the highest shelfmark not in the rota first, until the demand fits (02 R48). -/
def enterRota : Nat → State → State
  | 0, s => s
  | n + 1, s =>
    if s.demandFits then s else
    match (s.nodes.filter fun x => !x.rota).getLast? with
    | none => s
    | some x => enterRota n (s.setRota x.shelf true)

/-- Leave the rota, one node in a stamp: the lowest shelfmark in it, when the unused cycles were at least its cost in each of the 16 stamps
before. -/
def State.leaveRota (s : State) : State :=
  match s.nodes.find? (·.rota) with
  | none => s
  | some x =>
    if !s.rota.gone ∧ s.rota.unused.length = 16 ∧ s.rota.unused.all (fun u => decide (s.nodeCost x.shelf ≤ u)) then
      { (s.setRota x.shelf false) with rota := { s.rota with gone := true } }
    else s

/-- Decide the rota at an admission pass, under what the passes before it have shown of the stamp's debts: a node leaves where the demand fits, and
nodes enter until it fits, also where the one that has left is too much; only with every node in the rota does the estimator starve (02 R48, R49). -/
def State.decideRota (s : State) : State :=
  if (s.stacksOf 1).isEmpty then s else
  let s := enterRota s.nodes.length s.leaveRota
  let starving := !s.demandFits && s.nodes.all (·.rota)
  let s := { s with rota := { s.rota with starving := starving } }
  s.modCtr 1 fun t => { t with
    rotaNodes := max t.rotaNodes (s.nodes.filter (·.rota)).length
    rota := t.rota || s.nodes.any (·.rota) }

/-- The unused admissible cycles of the stamp that ends enter the history (07 R211). -/
def State.endRota (s : State) : State :=
  let u := ((s.stacksOf 1).map fun k => s.classOneLimit k - (s.stk k).taken01).sum
  { s with rota := { s.rota with unused := lastN 16 (s.rota.unused ++ [u]), gone := false } }

end Sys2Proof.Machine
end

