-- ==== Sys2Proof/Machine/Air.lean ====
section
/-! DEFINITION. The air interface as the state takes it (10, 11): ports and the mode, hopping, the frame plan and its slots, the bursts
that the hub sends, the placement of messages, and an accepted report. -/

namespace Sys2Proof.Machine

/-! ## Ports and the mode (02 R29, 10 R269 to R271, R293) -/

/-- A port named by the fitted mask. -/
def State.fitted (s : State) (x : Nat) : Bool := (s.getN .airPorts).testBit x
/-- Fitted and not marked faulty. -/
def State.healthy (s : State) (x : Nat) : Bool := s.fitted x && (s.port? x).fault.isNone
def State.healthyPorts (s : State) : List Nat := (List.range 4).filter s.healthy

/-- The node limit at a period with a number of logical channels (02 R29). -/
def nodeLimit (nch period : Nat) : Nat := min (64 * nch) (nch * ((1000 * period - 800) / 100))

/-- The mode that air.mode gives (10 R271) for a setting, a fitted mask, a period and a count of nodes: pair mode, and NCH. -/
def State.modePlan (s : State) (mode mask period count : Nat) : Bool × Nat :=
  let well : Nat → Bool := fun x => mask.testBit x && (s.port? x).fault.isNone
  let n := ((List.range 4).filter well).length
  let four := mask = 15
  match mode with
  | 1 => if four ∧ (well 0 || well 1) ∧ (well 2 || well 3) then (true, 2) else (false, n)
  | 2 => if n = 4 ∧ count ≤ nodeLimit 2 period then (true, 2) else (false, n)
  | _ => (false, n)

/-- The plan under the live settings. -/
def State.liveMode (s : State) (count : Nat) : Bool × Nat := s.modePlan (s.getN .airMode) (s.getN .airPorts) s.stamp.period count

/-- The limit of an accession: that of the mode with the most channels that the settings allow (02 R29, 11 R315). -/
def State.accLimit (s : State) : Nat := nodeLimit (s.liveMode 257).2 s.stamp.period

/-- Decide the mode and take it into force (10 R271). -/
def State.applyMode (s : State) : State :=
  let m := s.liveMode s.nodes.length
  { s with air := { s.air with pairs := m.1, nch := m.2, serving := s.healthyPorts } }

/-- Ports A and B form a diversity pair in accession (11 R311). -/
def State.accPair (s : State) : Bool := s.healthy 0 && s.healthy 1

/-- Ports of a logical channel, healthy ones only. -/
def State.portsOf (s : State) (lch : Nat) : List Nat :=
  if s.air.acc then (if lch = 0 then [0, 1].filter s.healthy else [])
  else if s.air.pairs then [2 * lch, 2 * lch + 1].filter s.healthy
  else match s.air.serving[lch]? with
    | some x => if s.healthy x then [x] else []
    | none => []
/-- The port that transmits for a channel: the first of them whose transmit path works (R293). -/
def State.txPort (s : State) (lch : Nat) : Option Nat := (s.portsOf lch).find? fun x => !(s.port? x).txFault
/-- Logical channels in use. -/
def State.channels (s : State) : Nat := if s.air.acc then 1 else s.air.nch

/-- The air interface runs: powered, booted, in a stamp, not in reset, and not silenced by a brown-out (15 R430). -/
def State.airUp (s : State) : Bool :=
  s.power.porter && s.power.booted && s.stamp.started && s.power.rstLow.isNone && !s.power.quiet && s.air.running
/-- The hub may transmit: it leads, and beacons have begun (10 R303). -/
def State.sends (s : State) : Bool :=
  s.airUp && s.leads && s.air.beacons && s.roleSt.silentFrom.all fun n => decide (s.stamp.number < n)

/-- TCK is driven on every fitted port from the moment the PLLs lock (10 R267). -/
def State.driveTck (s : State) : State := { s with air := { s.air with ports := s.air.ports.mapIdx fun x p => { p with tck := s.fitted x } } }

/-! ## Hopping (10 R272, R273) -/

def State.centres (s : State) : List Nat := (List.range 9).filter fun k => (s.getN .airCmap).testBit k
/-- Centre of a logical channel in a stamp. -/
def State.centreOf (s : State) (stamp : BitVec 48) (lch : Nat) : Nat :=
  let ls := s.centres
  let y := draw (BitVec.ofNat 64 (s.getN .airHopkey)) (stamp.setWidth 64)
  ls.getD ((drawIndex y ls.length + lch) % ls.length) 0

/-! ## The frame (10 R285 to R287, 11 R312) -/

/-- Hundred-microsecond slots of a stamp after its head. -/
def State.frameF (s : State) : Nat := (1000 * s.stamp.period - 800) / 100
/-- Plan the frame of the stamp that begins. -/
def State.planFrame (s : State) : State :=
  let a := s.air
  if a.acc ∨ a.nch = 0 then { s with air := { a with nu := 0, nrt := 0, nd := 0 } } else
  let f := s.frameF
  let nu := min (min 64 f) (ceilDiv s.nodes.length a.nch)
  let nrt := min (s.getN .airRetries) (f - nu)
  { s with air := { a with nu := nu, nrt := nrt, nd := 1 + min (s.getN .airDownlink - 1) (f - nu - nrt) } }

/-- Instants from the boundary. -/
def us (n : Nat) : Tick := n * usTicks
def State.callAt (s : State) : Tick := s.stamp.t0 + us (500 + 100 * s.air.nu)
def State.downAt (s : State) (d : Nat) : Tick := s.stamp.t0 + us (600 + 100 * (s.air.nu + s.air.nrt + d))
/-- The frame end E. -/
def State.frameEnd (s : State) : Tick := s.stamp.t0 + us (600 + 100 * (s.air.nu + s.air.nrt + s.air.nd))
/-- Accession slots of a stamp. -/
def State.accSlots (s : State) : Nat := (1000 * s.stamp.period - 400) / 1000
/-- Start of accession slot j of the stamp. -/
def State.accAt (s : State) (j : Nat) : Tick := s.stamp.t0 + us (300 + 1000 * j)
/-- Start of a slot in which a node may send, at the antenna. -/
def State.slotAt (s : State) : Slot → Tick
  | .uplink i => s.stamp.t0 + us (500 + 100 * i)
  | .retry k => s.stamp.t0 + us (600 + 100 * (s.air.nu + k))
  | .accession => s.accAt (s.acc.slotJ - 1) + us 396
/-- The last instant at which a report can become final (02 R41): 28 symbols after the last uplink or retry slot. -/
def State.lossAt (s : State) : Tick :=
  s.stamp.t0 + us (if s.air.nrt = 0 then 500 + 100 * s.air.nu else 600 + 100 * (s.air.nu + s.air.nrt)) + 28 * symbolTicks

/-- Logical channel and uplink slot of a shelfmark (R286). -/
def State.lchOf (s : State) (shelf : Nat) : Nat := (shelf - 1) % s.air.nch
def State.upSlot (s : State) (shelf : Nat) : Nat := (shelf - 1) / s.air.nch
/-- The shelfmark that a slot of a channel serves in this stamp. -/
def State.slotShelf (s : State) (lch : Nat) : Slot → Option Nat
  | .uplink i =>
    let h := s.air.nch * i + lch + 1
    if i < s.air.nu ∧ lch < s.air.nch then (s.node? h).map (·.shelf) else none
  | .retry k => if k < s.air.nrt then (((lookupD [] lch s.air.named)[k]?).bind s.node?).map (·.shelf) else none
  | .accession => none

/-! ## What the hub sends -/

/-- Ticks of a number of samples (R267). -/
def sampleTicks (n : Nat) : Tick := 500 * n
/-- From when to when TXEN of a port is high for a burst: from the staged lead before its first sample, but not before `clear`, to 2 µs after its
last one; its samples leave the port TXLAT before they reach the antenna (R269). -/
def State.txSpan (s : State) (x : Nat) (at0 : Tick) (symbols : Nat) (clear : Tick) : Tick × Tick :=
  let first := at0 - sampleTicks (s.getN (.portTxlat x))
  (max (first - 12 * s.getN .airTxlead) clear, first + symbols * symbolTicks + us 2)

/-- Send a burst from a channel's port, its codewords with it (R279). -/
def State.transmit (s : State) (lch : Nat) (at0 : Tick) (low : Nat) (payload : Bytes) (symbols : Nat) (clear : Tick) : State :=
  match s.txPort lch with
  | none => s
  | some x =>
    let span := s.txSpan x at0 symbols clear
    let s := s.modPort x fun p => { p with txFrom := span.1, txTo := span.2 }
    s.emit (.burst lch at0 (withHcrc low) payload (crc32 (leBytes 5 (low % 2 ^ 40) ++ payload)) (burstWords (withHcrc low) payload))

/-- The body of a message: SEQ, SYNC, and the rest (11 Table 11.10a). -/
def Msg.body (m : Msg) (seq : Nat) : Bytes := leBytes 2 (seq % 256 + m.sync.toNat * 256) ++ m.rest
/-- A message with its header: TYPE, LEN and the shelfmark (10 Table 10.6, 11 R322). -/
def Msg.bytes (m : Msg) : Bytes :=
  leBytes 4 (field m.mtype 0 8 + field (2 + m.rest.length) 8 8 + field m.shelf 16 9) ++ m.body (m.seq.getD 0)
def Msg.size (m : Msg) : Nat := 6 + m.rest.length

/-- A slot burst of TYPE and TS with its payload: MCS 2 up to 77 bytes, MCS 3 up to 117 (R278, R291). -/
def State.sendSlotBurst (s : State) (lch : Nat) (at0 : Tick) (type ts : Nat) (payload : Bytes) (clear : Tick) : State :=
  let small := decide (payload.length ≤ 77)
  let low := type + (if small then 2 else 3) * 16 + s.spine.sideB.toNat * 128 + ts * 256
  s.transmit lch at0 low payload 484 clear

/-! ## Unicast messages (10 R291, R292, 11 R324, R325) -/

/-- Stop orders go first, then the order of submission. -/
def msgKey (m : Msg) : Nat := (if m.stop then 0 else 2 ^ 64) + m.sub
/-- New messages of a node in their order: stop orders, then the others. -/
def newFirst (ms : List Msg) : List Msg := ms.filter (·.stop) ++ ms.filter (!·.stop)

/-- The node is ADRIFT or silent as the hub can tell it by an instant: a report was due in this stamp and none has come, or its node-silent limit is
tripped; its orders are held until it reports (14 R403). The hub learns of ADRIFT from the missing report alone (11 R337, R339, log 163). -/
def State.holdsOrders (s : State) (n : NodeSt) (by0 : Tick) : Bool :=
  !(n.reported && decide (n.reportAt ≤ by0)) && (n.due || (s.lim .ns (256 * n.shelf)).tripped)

/-- What may go to a node in this stamp, as it stands by an instant: the unacknowledged messages not yet sent again, then new ones up to 16 in all. -/
def State.lane (s : State) (by0 : Tick) (n : NodeSt) : List Msg :=
  if s.holdsOrders n by0 then [] else
  (n.unacked.filter fun m => m.lastStamp ≠ some s.stamp.number)
    ++ (newFirst (n.queue.filter fun m => decide (m.at0 ≤ by0))).take (16 - n.unacked.length)

/-- Take messages for one burst: always the first message of the lane with the earliest key behind it; a message that does not fit
blocks its lane. -/
def fillBurst : Nat → Nat → List (List Msg) → List Msg
  | 0, _, _ => []
  | n + 1, room, lanes =>
    let key : List Msg → Nat := fun l => (l.map msgKey).foldl min (2 ^ 80)
    let best := lanes.foldl (fun b l => if key l < key b then l else b) []
    match best with
    | [] => []
    | m :: _ =>
      let rest := lanes.map fun l => if l = best then (if m.size ≤ room then l.drop 1 else []) else l
      if m.size ≤ room then m :: fillBurst n (room - m.size) rest else fillBurst n room rest

/-- Messages for the nodes of a channel in one burst, as they stand by an instant. -/
def State.messagesFor (s : State) (lch room : Nat) (by0 : Tick) : List Msg :=
  let lanes := (s.nodes.filter fun n => s.lchOf n.shelf == lch).map (s.lane by0)
  fillBurst (lanes.map List.length).sum room lanes

/-- Place a message: a first placement numbers it, seals it and answers its command; a repeat counts. -/
def State.placeMsg (s : State) (m : Msg) : State × Msg :=
  match s.node? m.shelf with
  | none => (s, m)
  | some n =>
    match m.seq with
    | some _ =>
      let m := { m with sends := m.sends + 1, lastStamp := some s.stamp.number }
      (s.modNode m.shelf fun n => { n with unacked := n.unacked.map fun x => if x.sub = m.sub then m else x }, m)
    | none =>
      let m := { m with seq := some n.seqNext, sync := n.syncNext, sends := 1, lastStamp := some s.stamp.number }
      let s := s.modNode m.shelf fun n => { n with
        seqNext := (n.seqNext + 1) % 256
        syncNext := false
        unacked := n.unacked ++ [m]
        queue := n.queue.filter fun x => x.sub ≠ m.sub
        owt := n.owt.map fun o => if m.mtype = 2 ∧ o.seq = 256 ∧ o.wire = leNat m.rest % 32 then { o with seq := m.seq.getD 0 } else o }
      let s := s.act (.order m.shelf m.mtype (m.seq.getD 0) m.sync (m.body (m.seq.getD 0)))
      match m.reply with
      | some r => (s.answer r.1 r.2 [.ok [("seq", .nat (m.seq.getD 0))]], m)
      | none => (s, m)

/-- Place messages in order; their bytes. -/
def placeAll : List Msg → State → State × Bytes
  | [], s => (s, [])
  | m :: ms, s =>
    let p := s.placeMsg m
    let q := placeAll ms p.1
    (q.1, p.2.bytes ++ q.2)

/-- A node's open-wire tests are no longer awaited where a condition on the SEQ of the order says so; their wires count as not tested (R335). -/
def NodeSt.dropTest (n : NodeSt) (gone : Nat → Bool) : NodeSt :=
  let lost := n.owt.filter fun o => gone o.seq
  { lost.foldl (fun n o => n.putBreak { n.breakAt o.wire with tested := false }) n with owt := n.owt.filter fun o => !gone o.seq }
/-- The messages of a node that are left after one was given up; the next message is sent with SYNC (11 R325). -/
def NodeSt.withOrders (n : NodeSt) (kept : List Msg) : NodeSt := { n with unacked := kept, syncNext := true }

/-- Give up a message that its repeats have not had acknowledged, with every later unacknowledged one of its node (R292, R325). -/
def State.giveUp (s : State) (n : NodeSt) : State :=
  let above : Msg → Bool := fun m => decide (1 + s.getN .airRepeats ≤ m.sends) && m.lastStamp != some s.stamp.number
  match n.unacked.find? above with
  | none => s
  | some m =>
    let kept := n.unacked.takeWhile fun x => x.sub != m.sub
    let s := s.modNode n.shelf fun n => (n.dropTest fun q => n.unacked.any (fun x => x.seq == some q) && !kept.any (fun x => x.seq == some q)).withOrders kept
    s.raise 0x42 none none n.shelf (m.seq.getD 0) (n.unacked.length - kept.length) 0
def State.giveUps (s : State) (lch : Nat) : State :=
  (s.nodes.filter fun n => s.lchOf n.shelf == lch && !s.holdsOrders n s.now).foldl State.giveUp s

/-! ## Broadcasts (11 R326, R318) -/

/-- The broadcast of the beacons that now begin: the one under way, or the next one, numbered. -/
def State.nextBroadcast (s : State) : State :=
  let a := s.air
  if 0 < a.bleft then s else
  match newFirst a.bqueue with
  | [] => { s with air := { a with bmsg := none } }
  | m :: _ =>
    let seq := if a.bseq = 255 then 1 else a.bseq + 1
    let m := { m with seq := some seq }
    let s : State := { s with air := { a with
      bseq := seq
      bmsg := some m
      bleft := 4
      bqueue := a.bqueue.filter fun x => x.sub ≠ m.sub } }
    let s := s.act (.order 0 m.mtype seq false (m.body seq))
    match m.reply with
    | some r => s.answer r.1 r.2 [.ok [("seq", .nat seq)]]
    | none => s

/-- After its fourth stamp a broadcast is followed up: every node's next accepted report is to show it. -/
def State.endBroadcast (s : State) : State :=
  match s.air.bmsg with
  | none => s
  | some m =>
    if s.air.bleft ≠ 0 then s else
    let s := { s with air := { s.air with bmsg := none } }
    if m.mtype = 5 ∨ m.mtype = 6 then s
    else { s with nodes := s.nodes.map fun n => { n with follows := n.follows ++ [m] } }

/-- The 32-byte beacon block (10 Table 10.7). -/
def State.beaconBlock (s : State) : Bytes :=
  let a := s.air
  leBytes 32 (s.stamp.number.toNat + s.stamp.run.toNat * 2 ^ 48 + field s.stamp.period 80 6
    + (if a.acc then s.accPair else a.pairs).toNat * 2 ^ 86 + a.acc.toNat * 2 ^ 87 + field s.channels 88 3
    + s.roleSt.takeoverBeacon.toNat * 2 ^ 91 + s.spine.sideB.toNat * 2 ^ 92 + field s.nodes.length 96 9 + field a.nu 105 7
    + field a.nrt 112 2 + field a.nd 114 4 + field (s.getN .airCmap) 120 9 + field (s.getN .airHopkey) 136 64)

/-- Send the beacons of the stamp on every logical channel (10 R283, R291); a standby only counts the stamps of its primary's broadcast. -/
def State.sendBeacons (s : State) : State :=
  if !s.sends then (if s.isStandby then { s with air := { s.air with bleft := s.air.bleft - 1 } } else s) else
  let s := if s.steward.bDown.isSome then s else s.nextBroadcast
  let msgs : Bytes := if s.air.bleft = 0 then [] else (s.air.bmsg.map Msg.bytes).getD []
  let payload := s.beaconBlock ++ msgs
  let s := (List.range s.channels).foldl (fun s c =>
    let low := 1 + 64 + s.spine.sideB.toNat * 128 + (s.stamp.number.toNat % 2 ^ 24) * 256 + c * 2 ^ 32
      + s.roleSt.takeoverBeacon.toNat * 2 ^ 34
    s.transmit c s.stamp.t0 low payload 1584 0) s
  { s with air := { s.air with bleft := s.air.bleft - 1 }, roleSt := { s.roleSt with takeoverBeacon := false } }

/-! ## Settings of the nodes (11 R340) -/

/-- A CONFIG message: type 0x03 of 4 bytes (11 R322, Table 11.10a). -/
def configMsg (shelf pre post fit : Nat) : Msg :=
  { shelf := shelf, mtype := 0x03, rest := leBytes 2 (field pre 0 5 + field post 5 3 + field fit 8 4) }
/-- The windows and sensors that the settings give a node. -/
def State.nodeConfig (s : State) (shelf : Nat) : Nat × Nat × Nat := (s.getN .packWpre, s.getN .packWpost, s.getN (.nodeTfit shelf))
/-- Send CONFIG to every node whose settings differ from those it was last sent; one broadcast where it serves every node. -/
def State.syncConfigs (s : State) (broadcast : Bool) : State :=
  let off := s.nodes.filter fun n => s.nodeConfig n.shelf != (n.wpre, n.wpost, n.tfit)
  let same := match off with
    | [] => false
    | n :: _ => off.length == s.nodes.length && off.all fun m => s.nodeConfig m.shelf == s.nodeConfig n.shelf
  let c : Nat → Nat → Msg := fun dest h => let k := s.nodeConfig h; configMsg dest k.1 k.2.1 k.2.2
  let s' := if broadcast && same then s.queueBroadcast (c 0 ((off.map (·.shelf)).headD 0))
    else off.foldl (fun s n => s.queueMsg (c n.shelf n.shelf)) s
  { s' with nodes := s'.nodes.map fun n => let k := s.nodeConfig n.shelf; { n with wpre := k.1, wpost := k.2.1, tfit := k.2.2 } }

/-! ## An accepted report (11 R320 to R326, R339) -/

/-- The messages of a node's payload: type, length, sender, body; each is skipped by its LEN, whatever its type (11 R322). -/
def messagesOf : Nat → Bytes → List (Nat × Nat × Nat × Bytes)
  | 0, _ => []
  | n + 1, b =>
    let h := leNat (b.take 4)
    let len := bitsOf h 15 8
    if b.length < 4 ∨ bitsOf h 7 0 = 0 ∨ b.length < 4 + len then []
    else (bitsOf h 7 0, len, bitsOf h 24 16, (b.drop 4).take len) :: messagesOf n (b.drop (4 + len))

/-- A payload begins with the sender's REPORT, type 0x40 with a body of 64 bytes (11 R320, R322). -/
def reportFirst (shelf : Nat) (b : Bytes) : Bool :=
  match messagesOf 30 b with
  | m :: _ => m.1 == 0x40 && m.2.1 == 64 && m.2.2.1 == shelf
  | [] => false

/-- A report acknowledges the messages whose SEQ lies from LAST − 15 to LAST (11 R324). -/
def acknowledged (last : Nat) (m : Msg) : Bool := decide ((last + 256 - m.seq.getD 0) % 256 < 16)

/-- Reissue the balancing that a node lost with the beacon and the host has not withdrawn (R339): for what is left of it,
in one message for the cells of which the same number of seconds is left, but for those that an order on its way to the node names. -/
def State.reissue (s : State) (n : NodeSt) : State :=
  let asked := ((n.queue ++ n.unacked).filter fun m => m.mtype == 1).map fun m => leNat (m.rest.take 2)
  let left := (n.balance.filter fun b => decide (s.now < b.2) && !asked.any fun m => m.testBit (b.1 - 1)).map fun b =>
    (b.1, ceilDiv (b.2 - s.now) (1000 * msTicks))
  (left.map (·.2)).eraseDups.foldl (fun s d =>
    s.queueMsg (balanceMsg n.shelf (((left.filter fun b => b.2 == d).map fun b => 2 ^ (b.1 - 1)).sum) d)) s

/-- One message of an accepted payload beside the report: OWRESULT, type 0x41 of 8 bytes, or NODEINFO, type 0x42 of 32 bytes (11 R322). -/
def State.takeMessage (s : State) (shelf : Nat) (m : Nat × Nat × Nat × Bytes) : State :=
  let v := leNat m.2.2.2
  if m.1 = 0x41 ∧ m.2.1 = 8 then
    s.owResult shelf (bitsOf v 12 8) (toSigned (bitsOf v 31 16) 16) (toSigned (bitsOf v 47 32) 16) (toSigned (bitsOf v 63 48) 16)
  else if m.1 = 0x42 ∧ m.2.1 = 32 then
    s.modNode shelf fun n => { n with
      kind := BitVec.ofNat 16 (bitsOf v 79 64)
      fwver := BitVec.ofNat 16 (bitsOf v 95 80)
      tfitted := BitVec.ofNat 4 (bitsOf v 99 96)
      rbnom := BitVec.ofNat 16 (bitsOf v 127 112) }
  else s

/-- Take an accepted payload of a node: its acknowledgements, its sample and its other messages. A node that shows no open-wire test any more
(11 Table 11.8, R332) has sent its last OWRESULT: a test still awaited then is over without a result. -/
def State.takePayload (s : State) (shelf : Nat) (b : Bytes) : State :=
  match messagesOf 30 b with
  | [] => s
  | m :: ms =>
    let r := reportOf m.2.2.2
    let s := s.modNode shelf fun n => { n with
      unacked := n.unacked.filter fun x => !acknowledged r.last x
      blast := r.blast }
    let missed := ((s.node? shelf).map (·.follows)).getD []
    let s := s.modNode shelf fun n => { n with follows := [] }
    let s := (missed.filter fun f => f.seq ≠ some r.blast).foldl (fun s f =>
      s.queueMsg { shelf := shelf, mtype := f.mtype, rest := f.rest, stop := f.stop }) s
    let s := match s.node? shelf with
      | some n => if r.status.getLsbD 4 then s.reissue n else s
      | none => s
    (ms.foldl (fun s m => s.takeMessage shelf m) (s.takeSample shelf r)).modNode shelf fun n =>
      n.dropTest fun q => q != 256 && !r.status.getLsbD 3 && !n.unacked.any fun x => x.seq == some q

/-- Accept a report: its marks, its link record, its seal, and its payload (10 R298, R301). -/
def State.acceptReport (s : State) (shelf : Nat) (slot : Slot) (outcome : Nat) (b : Bytes) : State :=
  let again : Bool := match slot with
    | .retry _ => true
    | _ => false
  let s := s.modNode shelf fun n => { n with
    outcome := outcome
    fromRetry := again
    link := { n.link with accepted := natSat (n.link.accepted + 1) 16 } }
  let s := match slot with
    | .uplink i =>
      let c := s.lchOf shelf
      { s with air := { s.air with acks := setKey c (lookupD 0#64 c s.air.acks ||| BitVec.ofNat 64 (2 ^ i)) s.air.acks } }
    | _ => s
  (s.act (.report shelf (Slot.pos s.air.nu slot) outcome b)).takePayload shelf b

end Sys2Proof.Machine
end

