-- ==== Sys2Proof/Machine/Radio.lean ====
section
/-! DEFINITION. The commands of the air interface (10): bursts of nodes and their outcomes, the instants of the frame, calls, orders,
tune scripts and port faults. -/

namespace Sys2Proof.Machine

/-! ## Bursts of nodes (10 R281, R295 to R299, 11 R320) -/

/-- Whether a header is that of a burst which its slot may hold: HCRC, TYPE, MCS and NCW (R281, 11 R313). -/
def headerOk (slot : Slot) (hdr : BitVec 48) : Bool :=
  let v := hdr.toNat
  hcrcOk hdr && bitsOf v 6 6 == 0 && match slot with
  | .accession => bitsOf v 3 0 == 6 && bitsOf v 5 4 == 2
  | _ => bitsOf v 3 0 == 2 && (bitsOf v 5 4 == 2 || bitsOf v 5 4 == 3)

/-- A report's header names the slot's node and this stamp (11 R320). -/
def State.headerFits (s : State) (shelf : Nat) (hdr : BitVec 48) : Bool :=
  bitsOf hdr.toNat 16 8 == shelf && bitsOf hdr.toNat 25 18 == s.stamp.number.toNat % 256

/-- The codeword that a decoder of normalised min-sum ends with (R296, R297). It stops at a zero syndrome; hard decisions that satisfy every check
stay, since a message then has the sign of the bit it goes to (log 17). -/
def softWord (k : Nat) (llrs factors : List Int) : BitVec 1296 :=
  let ls := llrs.map fun l => sat l 8
  let hard := BitVec.ofNat 1296 (bitsNat (ls.map fun l => decide (l < 0)))
  if syndromeZero k hard then hard else Config.minSum k ls factors
/-- A receiver passes when its codeword satisfies the parity checks and its CRC-32 matches: the payload of 1,296 LLRs (R279, R280, R297). -/
def passes (hdr : BitVec 48) (llrs factors : List Int) : Option Bytes :=
  if llrs.length = 1296 then wordPayload hdr (softWord (infoBlocks (bitsOf hdr.toNat 5 4)) llrs factors) else none
/-- The learned receiver: the steered decoder on what the decode charge wrote (R296). -/
def BurstSt.learned (b : BurstSt) : Option Bytes := passes b.hdr (b.soft.take 1296) (b.soft.drop 1296)
/-- The twin receiver: its LLRs, and 48/64 in each of 12 iterations (R297). -/
def BurstSt.twin (b : BurstSt) (llrs : List Int) : Option Bytes := passes b.hdr llrs (List.replicate 12 48)

/-- Table 10.9: the outcome code of 13 Table 13.12 and the accepted payload. -/
def outcomeOf (late : Bool) (learned twin : Option Bytes) : Nat × Option Bytes :=
  if late then (match twin with
    | some p => (5, some p)
    | none => (4, none))
  else match learned, twin with
    | some a, some b => if a = b then (0, some a) else (1, none)
    | some a, none => (2, some a)
    | none, some b => (3, some b)
    | none, none => (4, none)

/-- The learned side of a burst is LATE or was not run. -/
def BurstSt.learnedLate (b : BurstSt) (final : Bool) : Bool := !b.submitted || b.late || !b.fin || !final

/-- The burst of a channel and slot whose outcome is not yet known. -/
def State.burst? (s : State) (lch : Nat) (slot : Slot) : Option BurstSt :=
  s.air.bursts.find? fun b => b.lch == lch && b.slot == slot && !b.done
def State.modBurstAt (s : State) (lch : Nat) (slot : Slot) (f : BurstSt → BurstSt) : State :=
  { s with air := { s.air with bursts := s.air.bursts.map fun b => if b.lch = lch ∧ b.slot = slot then f b else b } }

/-- A burst is awaited in a slot: a node sends there, and none has come yet. -/
def State.awaits (s : State) (lch : Nat) (slot : Slot) : Bool :=
  !(s.air.bursts.any fun b => b.lch == lch && b.slot == slot) && !(s.portsOf lch).isEmpty && match slot with
  | .accession => s.air.acc && lch == 0 && decide (0 < s.acc.slotJ)
  | _ => !s.air.acc && (s.slotShelf lch slot).isSome

/-- RXLAT of a channel's receiving port in ticks: samples reached the antenna so much earlier than they arrived (R269). -/
def State.rxLat (s : State) (lch : Nat) : Tick := ((s.portsOf lch).head?.map fun x => sampleTicks (s.getN (.portRxlat x))).getD 0

/-- BURST_RECEIVE (R287, R295): a node burst is detected within 4 µs of its nominal start at the antenna; `offset` is its arrival at the port against
that nominal start. A failed header ends it with FAIL. In pair mode the correlation sums both ports, and the spec does not say which port then
detected the burst: the model counts it for every healthy port of the pair (log 129). -/
def State.receiveBurst (s : State) (lch : Nat) (slot : Slot) (hdr : BitVec 48) (offset : Int) : State :=
  let s := (s.portsOf lch).foldl (fun s x => s.modPort x fun p => { p with heard := true }) s
  let at0 := ((s.slotAt slot + us 4 : Nat) + (offset - s.rxLat lch)).toNat
  let ok := headerOk slot hdr
  let s : State := { s with air := { s.air with bursts := s.air.bursts ++ [{ lch := lch, slot := slot, hdr := hdr, at0 := at0, done := !ok }] } }
  match s.slotShelf lch slot with
  | some shelf => if ok || !(s.leads || s.roleSt.lostAt.isSome) then s else s.modNode shelf fun n => { n with outcome := 4 }
  | none => s

/-- LEARNED_DEADLINE (R296): the learned result is LATE; a decode charge still queued goes. -/
def State.learnedDeadline (s : State) (lch : Nat) (slot : Slot) : State :=
  let s := s.modBurstAt lch slot fun b => { b with fin := true, late := true }
  let pos := Slot.pos s.air.nu slot
  { s with charges := s.charges.filter fun c => !(c.phase == .queued && c.kind == .decode lch pos) }

/-- An ACCREPLY that the twin decoded (11 R315): it answers the current offer, or repeats an identity. -/
def State.takeReply (s : State) (hdr : BitVec 48) (p : Bytes) : State :=
  let v := BitVec.ofNat 256 (leNat (p.take 32))
  let nid : BitVec 64 := v.setWidth 64
  let a := s.acc
  if a.offer = 0 ∨ bitsOf hdr.toNat 16 8 ≠ a.offer ∨ (s.leads ∧ bitsOf hdr.toNat 24 17 ≠ a.attempt) ∨ nid = 0 ∨ a.endDue then s
  else if a.confirmed.any fun c => c.2.setWidth 64 == nid then
    s.raise 0x51 none none a.offer (nid.toNat % 2 ^ 32) (nid.toNat / 2 ^ 32) 0
  else { s with acc := { a with reply := some v } }

/-- The counts of an outcome: the link record, the receiver's twin count of the channel, and twin-only bursts (R299, R301). -/
def State.countOutcome (s : State) (lch shelf code : Nat) (late : Bool) (m : RxMeas) : State :=
  let one : Nat → Nat := fun c => if code = c then 1 else 0
  let ok := code = 0 ∨ code = 2 ∨ code = 3 ∨ code = 5
  let s := s.modNode shelf fun n => { n with link := { n.link with
    learned := natSat (n.link.learned + one 2) 16
    twin := natSat (n.link.twin + one 3) 16
    late := natSat (n.link.late + late.toNat) 8
    snr := if ok then m.snr % 256 else n.link.snr
    cfo := if ok then max (-127) (min 127 m.cfo) else n.link.cfo
    toff := if ok then m.toff else n.link.toff } }
  let s := { s with air := { s.air with rxdiv := s.air.rxdiv.modify lch fun d => { d with twins := d.twins + one 3 } } }
  s.modCtr 0 fun t => { t with twinOnly := natSat (t.twinOnly + one 5) 16 }

/-- BURST_OUTCOME (R298, R300, 11 R320), with whether the steered decoder ended in its time, and the twin's LLRs: a burst in which no receiver's payload begins with the sender's REPORT is FAIL; a standby keeps what it
decoded until the primary's acceptance is known. -/
def State.burstOutcome (s : State) (lch : Nat) (slot : Slot) (b : BurstSt) (learned : Bool) (twin : List Int) (m : RxMeas) : State :=
  let s := s.modBurstAt lch slot fun x => { x with done := true }
  if slot = .accession then (match b.twin twin with
    | some p => s.takeReply b.hdr p
    | none => s)
  else match s.slotShelf lch slot with
    | none => s
    | some shelf =>
      let late := b.learnedLate learned
      let passed := (if late then [] else b.learned.toList) ++ (b.twin twin).toList
      let r := if s.headerFits shelf b.hdr && passed.any (reportFirst shelf) then outcomeOf late b.learned (b.twin twin) else (4, none)
      let s := if r.1 = 1 then s.raise 0x40 none none shelf (Slot.pos s.air.nu slot) 0 0 else s
      let s := s.countOutcome lch shelf r.1 late m
      if !s.leads && s.roleSt.lostAt.isNone then s.modBurstAt lch slot fun x => { x with payload := r.2, outcome := r.1 }
      else match r.2 with
        | some p => s.acceptReport shelf slot r.1 p
        | none => s.modNode shelf fun n => { n with outcome := r.1 }

def execBurstReceive (t : Tick) (lch : Nat) (slot : Slot) (hdr : BitVec 48) (offset : Int) : State → Host.Outcome State Fault Refusal :=
  occurs t (fun s => s.airUp && s.awaits lch slot && decide ((offset - s.rxLat lch).natAbs ≤ us 4) && decide (s.slotAt slot ≤ s.now))
    fun s => s.receiveBurst lch slot hdr offset

def execLearnedDeadline (t : Tick) (lch : Nat) (slot : Slot) : State → Host.Outcome State Fault Refusal :=
  occurs t (fun s => s.airUp && (s.burst? lch slot).any fun b => !b.fin && decide (b.at0 + burstTicks + us 14 ≤ s.now))
    fun s => s.learnedDeadline lch slot

/-- A burst has ended and its results may still come: each is final no later than 20 µs after its last sample reaches the antenna (R295). -/
def BurstSt.deciding (b : BurstSt) (now : Tick) : Bool := decide (b.at0 + burstTicks ≤ now ∧ now ≤ b.at0 + burstTicks + us 20)

def execBurstOutcome (t : Tick) (lch : Nat) (slot : Slot) (learned : Bool) (twin : List Int) (m : RxMeas) : State → Host.Outcome State Fault Refusal :=
  occurs t (fun s => s.airUp && (s.burst? lch slot).any fun b => b.deciding s.now) fun s =>
    match s.burst? lch slot with
    | some b => s.burstOutcome lch slot b learned twin m
    | none => s

/-! ## The instants of the frame (02 R41) -/

/-- A standby has decoded a node's retry, whose acceptance the seal is still to tell (R300, 12 R352). -/
def State.heldRetry (s : State) (shelf : Nat) : Bool :=
  s.air.bursts.any fun b => b.payload.isSome && s.slotShelf b.lch b.slot == some shelf && match b.slot with
    | .retry _ => true
    | _ => false

/-- LOSS_INSTANT: reports not accepted are lost; their share of the class 1 reservation returns, and their cells are stale. The share on a stack
is the drop in its need when the nodes left are paired anew; the spec does not say how the share of one node of a batch is measured
(log 41). -/
def State.loseReports (s : State) : State :=
  let due := s.dueShelves
  let lost := (s.nodes.filter fun n => n.due && !n.reported && !s.heldRetry n.shelf).map (·.shelf)
  let left := due.filter fun h => !lost.contains h
  let share : Nat → Nat := fun k => min (s.stk k).reserved1 (s.stepNeed due k - s.stepNeed left k)
  let s := (List.range 4).foldl (fun s' k => s'.modStk k fun x => { x with
    reserved1 := x.reserved1 - share k
    sum := x.sum - share k
    taken01 := x.taken01 - share k }) s
  let s : State := { s with
    air := { s.air with lossDone := true }
    nodes := s.nodes.map fun n => if lost.contains n.shelf then { n with lost := true } else n
    cells := s.cells.map fun c => if lost.contains c.shelf then { c with isStale := true } else c }
  (List.range 4).foldl (fun s k => s.reconsider k s.now) s.runLateTwins

/-- Every hub that runs its own admission has the instant, a standby too (R41, 07 R211). -/
def execLossInstant (t : Tick) : State → Host.Outcome State Fault Refusal :=
  occurs t (fun s => s.airUp && !s.air.acc && !s.air.lossDone && decide (0 < s.air.nu ∧ s.lossAt ≤ s.now)) State.loseReports

/-- RECEIVER_RELEASE: at the end of the last slot what is left of the class 0 reservation returns. -/
def State.releaseReceiver (s : State) : State :=
  let s := (List.range 4).foldl (fun s k => s.modStk k fun x => { x with
    reserved0 := 0
    sum := x.sum - x.reserved0
    taken01 := x.taken01 - x.reserved0 }) s
  (List.range 4).foldl (fun s k => s.reconsider k s.now) { s with air := { s.air with released := true } }

def execReceiverRelease (t : Tick) : State → Host.Outcome State Fault Refusal :=
  occurs t (fun s => s.airUp && !s.air.acc && !s.air.released && decide (0 < s.air.nd ∧ s.frameEnd ≤ s.now)) State.releaseReceiver

/-! ## Calls and orders (10 R284, R289, R291, R292) -/

/-- The instant after which TXEN may rise for a burst whose slot follows one in which the port receives (R269). -/
def afterSlot (slot : Tick) : Tick := slot - us 100 + 508 * symbolTicks + us 2
/-- That instant for the call: where the last uplink slot of the channel has a burst due. -/
def State.callClear (s : State) (lch : Nat) : Tick :=
  if s.air.nu ≠ 0 ∧ (s.slotShelf lch (.uplink (s.air.nu - 1))).isSome then afterSlot s.callAt else 0
/-- And for a downlink slot: where the last retry slot stands before it and a node was called to it. -/
def State.orderClear (s : State) (lch d : Nat) : Tick :=
  if d = 0 ∧ s.air.nrt ≠ 0 ∧ (s.slotShelf lch (.retry (s.air.nrt - 1))).isSome then afterSlot (s.downAt 0) else 0

/-- What a downlink slot carries (R291): the messages as they stand when TXEN rises for its burst, the staged lead before the first sample (R269). -/
def State.ordersFor (s : State) (lch d : Nat) : List Msg :=
  match s.txPort lch with
  | some x => s.messagesFor lch 117 (s.txSpan x (s.downAt d + us 4) 484 (s.orderClear lch d)).1
  | none => []

/-- The results of a channel's uplink bursts are final, that of the last slot with them (R289, R295). -/
def State.uplinkFinal (s : State) (lch : Nat) : Bool :=
  s.air.bursts.all fun b => b.lch != lch || b.done || decide (b.at0 + burstTicks + us 20 < s.now) || match b.slot with
    | .uplink _ => false
    | _ => true

/-- A call names a node to retry (10 R301). -/
def State.countRetry (s : State) (shelf : Nat) : State :=
  s.modNode shelf fun n => { n with link := { n.link with retried := natSat (n.link.retried + 1) 16 } }
/-- CALL_SEND: acknowledgements, the shelfmarks to retry, and as many messages as fit. -/
def State.sendCall (s : State) (lch : Nat) : State :=
  let s := if s.steward.bDown.isSome then s else s.giveUps lch
  let failed := ((s.nodes.filter fun n => n.due && s.lchOf n.shelf == lch && (n.outcome == 4 || n.outcome == 1)).map (·.shelf)).take s.air.nrt
  let msgs := if s.steward.bDown.isSome then [] else s.messagesFor lch 109 s.now
  let p := placeAll msgs s
  let s := p.1
  let s := failed.foldl State.countRetry s
  let acks := lookupD 0#64 lch s.air.acks
  let ts := failed.getD 0 0 + failed.getD 1 0 * 2 ^ 9 + failed.getD 2 0 * 2 ^ 18 + lch * 2 ^ 27
  let s := { s with air := { s.air with named := setKey lch failed s.air.named } }
  s.sendSlotBurst lch (s.callAt + us 4) 3 ts (leBytes 8 acks.toNat ++ p.2) (s.callClear lch)

def execCallSend (t : Tick) (lch : Nat) : State → Host.Outcome State Fault Refusal :=
  occurs t (fun s => s.sends && !s.air.acc && decide (lch < s.air.nch ∧ s.callAt ≤ s.now ∧ s.now < s.callAt + us 23) && s.uplinkFinal lch && !(s.air.named.any fun p => p.1 == lch))
    fun s => s.sendCall lch

/-- ORDER_SEND: the messages that a downlink slot carries. -/
def State.sendOrder (s : State) (lch d : Nat) : State :=
  let p := placeAll (s.ordersFor lch d) s
  let s := { p.1 with air := { p.1.air with ordered := (lch, d) :: p.1.air.ordered } }
  s.sendSlotBurst lch (s.downAt d + us 4) 4 (d + lch * 2 ^ 3) p.2 (s.orderClear lch d)

def execOrderSend (t : Tick) (lch dslot : Nat) : State → Host.Outcome State Fault Refusal :=
  occurs t (fun s => s.sends && !s.air.acc && s.steward.bDown.isNone && decide (lch < s.air.nch ∧ dslot < s.air.nd ∧ s.downAt dslot ≤ s.now ∧ s.now ≤ s.downAt dslot + us 4)
      && !(s.air.ordered.contains (lch, dslot)) && !(s.ordersFor lch dslot).isEmpty) fun s => s.sendOrder lch dslot

/-! ## Tune scripts and port faults (10 R268, R274, R294) -/

/-- Free bytes, as many as a transceiver returned (log 8). -/
def freeBytes : Nat → State → Bytes × State
  | 0, s => ([], s)
  | n + 1, s =>
    let v := s.freeNat
    let r := freeBytes n v.2
    (BitVec.ofNat 8 v.1 :: r.1, r.2)

/-- Length of the last transaction of a script of length-prefixed transactions. -/
def lastTransaction : Nat → Bytes → Nat
  | 0, _ => 0
  | _, [] => 0
  | k + 1, n :: bs => if bs.length ≤ n.toNat then n.toNat else lastTransaction k (bs.drop n.toNat)

/-- Run a port's script of a list of scripts: its bytes go out, and what came back on SDI in the last transaction is the port's readback. -/
def State.runScriptOf (s : State) (scripts : List (Nat × Option Nat × Bytes)) (x : Nat) (centre : Option Nat) : State :=
  match scripts.find? fun p => p.1 == x && p.2.1 == centre with
  | none => s
  | some p =>
    let r := freeBytes (lastTransaction p.2.2.length p.2.2) s
    (r.2.modPort x fun q => { q with readback := r.1 }).emit (.script x centre p.2.2)
/-- Run a live script of a port. -/
def State.runScript (s : State) (x : Nat) (centre : Option Nat) : State := s.runScriptOf s.settings.scripts x centre

/-! ## The air interface as the next boundary leaves it (R271, R273, 02 R26) -/

/-- Whether a setting bears on the mode of the air interface (R271). -/
def modeSetting : SName → Bool
  | .airMode | .airPorts | .stampPeriod => true
  | _ => false
/-- The settings committed for the stamp, in the order of their commits. -/
def State.dueSettings (s : State) : List (SName × Option Int) :=
  (s.settings.commits.filter fun c => decide (c.1 ≤ s.stamp.number)).flatMap fun c => c.2.reverse
/-- The scripts committed for the stamp. -/
def State.dueScripts (s : State) : List (Nat × Option Nat × Bytes) :=
  (s.settings.scriptCommits.filter fun c => decide (c.1 ≤ s.stamp.number)).flatMap (·.2)
/-- A list of scripts with further ones, each in place of the one of its port and centre. -/
def putScripts (new old : List (Nat × Option Nat × Bytes)) : List (Nat × Option Nat × Bytes) :=
  new.foldl (fun xs x => (xs.filter fun y => !(y.1 == x.1 && y.2.1 == x.2.1)) ++ [x]) old
/-- A port as the head of a stamp finds it: in service again where its PORT RESTORE was for it (14 R412). -/
def PortSt.restored (p : PortSt) (n : BitVec 48) : PortSt :=
  if p.restoreAt.any (fun b => decide (b ≤ n)) then { p with fault := none, restoreAt := p.restoreAt.filter fun b => decide (n < b), silent := 0 } else p
/-- The mode is decided again in the stamp. -/
def State.modeDue (s : State) : Bool := s.air.modeAt.any (fun b => decide (b ≤ s.stamp.number)) || s.air.nch == 0

/-- What of the next stamp bears on its tuning: its number, period, settings and scripts, the ports then in service, and the mode. -/
def State.nextAir (s : State) : State :=
  let acc := s.acc.phase == .waking || (s.acc.phase == .running && !s.acc.endDue)
  let ends := s.air.acc && !acc
  let q : State := { s with stamp := { s.stamp with number := s.stamp.number + 1 } }
  let new := q.dueSettings
  let q := new.foldl State.hold q
  let q : State := { q with
    stamp := { q.stamp with period := q.getN .stampPeriod }
    settings := { q.settings with scripts := putScripts q.dueScripts q.settings.scripts }
    air := { q.air with acc := acc, ports := q.air.ports.map fun p => p.restored q.stamp.number } }
  if q.modeDue || ends || new.any (fun p => modeSetting p.1) then q.applyMode else q

/-- TUNE_SCRIPT: every port of a logical channel is tuned to the channel's centre in the next stamp. -/
def State.tune (s : State) : State :=
  let q := s.nextAir
  let s := (List.range q.channels).foldl (fun s c => (q.portsOf c).foldl (fun s x =>
    let k := q.centreOf q.stamp.number c
    (s.runScriptOf q.settings.scripts x (some k)).modPort x fun p => { p with centre := some k }) s) s
  { s with air := { s.air with tuned := true } }

/-- From when the tune scripts may start: the end of the frame, or of the last accession slot. -/
def State.tuneFrom (s : State) : Tick := if s.air.acc then s.accAt s.accSlots else s.frameEnd
/-- They start from then on and no later than P − 100 µs (R274). -/
def execTuneScript (t : Tick) : State → Host.Outcome State Fault Refusal :=
  occurs t (fun s => s.airUp && !s.air.tuned && decide (s.tuneFrom ≤ s.now ∧ s.now + us 100 ≤ s.stamp.t0 + s.stamp.period * msTicks)) State.tune

/-- Decide the mode again at the boundary that R26 gives. -/
def State.decideMode (s : State) : State := { s with air := { s.air with modeAt := s.air.modeAt ++ [s.atStamp] } }

def causeCode : PortCause → Nat
  | .rck => 0 | .rfr => 1 | .silent => 2

/-- PORTFAULT: the port is faulty; in pair mode a pair that keeps one healthy port carries on. -/
def State.portFault (s : State) (port : Nat) (cause : PortCause) : State :=
  let s := (s.modPort port fun p => { p with fault := some cause, silent := 0 }).raise 0x41 none none port (causeCode cause) 0 0
  if s.air.pairs && s.healthy (port / 2 * 2 + (1 - port % 2)) then s else s.decideMode

def execPortfault (t : Tick) (port : Nat) (cause : PortCause) : State → Host.Outcome State Fault Refusal :=
  occurs t (fun s => s.power.porter && s.power.booted && s.stamp.started && s.power.rstLow.isNone && decide (port < 4) && s.healthy port
      && (cause != .silent || decide (16 ≤ (s.port? port).silent))) fun s => s.portFault port cause

end Sys2Proof.Machine
end

