-- ==== Sys2Proof/Machine/Accession.lean ====
section
/-! DEFINITION. Accession and the baton (11 R308 to R318): the wake pulse, the accession slots, and the ways accession ends. -/

namespace Sys2Proof.Machine

/-- A node enters the accessioned nodes with its 16 cells. The twins of a shelfmark whose identity the roster already has go on
(09 R243). -/
def State.addNode (s : State) (shelf : Nat) (info : BitVec 256) : State :=
  let nid : BitVec 64 := info.setWidth 64
  let v := info.toNat
  let same := s.archive.roster.any fun r => r.1 == shelf && r.2 == nid
  let old := s.cells.filter fun c => c.shelf == shelf
  let mine : List CellSt := if same ∧ old.length = 16 then old else (List.range 16).map fun i => { shelf := shelf, cell := i + 1 }
  { s with
    nodes := putBy NodeSt.shelf {
      shelf := shelf
      nid := nid
      kind := BitVec.ofNat 16 (bitsOf v 79 64)
      fwver := BitVec.ofNat 16 (bitsOf v 95 80)
      tfitted := BitVec.ofNat 4 (bitsOf v 99 96)
      rbnom := BitVec.ofNat 16 (bitsOf v 127 112) } s.nodes
    cells := mine.foldl (fun cs c => putBy (fun c => 256 * c.shelf + c.cell) c cs) s.cells }

/-- No node counts as accessioned (11 R318). -/
def State.dropNodes (s : State) : State :=
  let s := (s.nodes.flatMap fun n => (n.queue ++ n.unacked).filterMap (·.reply)).foldl (fun s r => s.answer r.1 r.2 [.err 11 []]) s
  { s with
    nodes := []
    cells := s.cells.map fun c => { c with isStale := true } }

/-- The shelfmarks whose identity differs between two rosters, ascending. -/
def rosterDiff (old new : List (Nat × BitVec 64)) : List Nat :=
  (List.range 257).filter fun h => (old.find? fun p => p.1 == h).map (·.2) != (new.find? fun p => p.1 == h).map (·.2)

/-- Accession ends: the roster and its event, the cells that are left, and the nodes' settings (R317, R340). A standby
whose confirmations give another roster than its primary's takes that one (log 126). -/
def State.endAccession (s : State) : State :=
  let heard := s.nodes.map fun n => (n.shelf, n.nid)
  let new := if s.isStandby then s.spine.roster.getD heard else heard
  let diff := rosterDiff s.archive.roster new
  let s : State := { s with
    acc := { s.acc with endDue := true }
    archive := { s.archive with roster := new }
    cells := s.cells.filter fun c => s.nodes.any fun n => n.shelf == c.shelf }
  let s := if diff.isEmpty then s else s.raise 0x54 none none diff.length (diff.headD 0) 0 0
  (s.remapCells).syncConfigs false

/-- An accession is under way: from its command or its wake pulse to its end. -/
def Acc.busy (a : Acc) : Bool := match a.phase with
  | .idle => a.due.isSome
  | .ended => a.due.isSome
  | _ => true

/-- Begin a slot: confirm the last one's node, and offer the next shelfmark (R312, R315). -/
def State.offerNext (s : State) : State :=
  let a := s.acc
  let s : State := { s with air := { s.air with bursts := s.air.bursts.filter fun b => b.slot != .accession } }
  let slot : Acc := { a with slotG := a.slotG + 1, slotJ := a.slotJ + 1, sampled := false, reply := none, confirm := 0, cid := 0 }
  if a.slotG = 0 then { s with acc := { slot with offer := 1, attempt := 1 } }
  else match a.reply with
    | none => { s with acc := { slot with attempt := natSat (a.attempt + 1) 8 } }
    | some v =>
      let s := s.addNode a.offer v
      let last := a.offer = 256 ∨ a.confirmed.length + 1 = s.accLimit
      { s with acc := { slot with
          confirm := a.offer
          cid := v.setWidth 64
          confirmed := a.confirmed ++ [(a.offer, v)]
          offer := if last then 0 else a.offer + 1
          attempt := if last then 0 else 1 } }

/-- The same shelfmark has been offered in the retry limit of slots, the last of them unanswered (R316). -/
def State.chainBroken (s : State) : Bool :=
  let a := s.acc
  a.phase == .running && !a.endDue && a.reply.isNone && a.offer != 0 && decide (s.getN .packAccretry ≤ a.attempt ∧ 0 < a.slotJ)

/-- ACCOFFER_SEND (11 Tables 11.3 to 11.5). -/
def State.sendOffer (s : State) : State :=
  let s := s.offerNext
  let a := s.acc
  s.sendSlotBurst 0 (s.accAt (a.slotJ - 1) + us 4) 5 (a.offer + a.confirm * 2 ^ 9 + a.attempt * 2 ^ 18) (leBytes 16 a.cid.toNat) 0

/-- The offer of the next accession slot is still to be sent in this stamp. -/
def State.offerWaits (s : State) : Bool :=
  s.sends && s.air.acc && s.acc.phase == .running && !s.acc.endDue && !s.chainBroken && (s.acc.slotG == 0 || s.acc.offer != 0)
    && decide (s.acc.slotJ < s.accSlots)

def execAccofferSend (t : Tick) : State → Host.Outcome State Fault Refusal :=
  occurs t (fun s => s.offerWaits && decide (s.accAt s.acc.slotJ ≤ s.now)) State.sendOffer

/-! ## IQx_TXEN and IQx_RXEN (10 R269) -/

/-- The bursts that the hub is about to send in this stamp: channel, first symbol at the antenna, and the instant before which TXEN stays low. -/
def State.burstsAhead (s : State) : List (Nat × Tick × Tick) :=
  if s.offerWaits then [(0, s.accAt s.acc.slotJ + us 4, 0)]
  else if !s.sends || s.air.acc then []
  else (List.range s.air.nch).flatMap fun c =>
    (if (s.air.named.any fun p => p.1 == c) || decide (s.callAt + us 23 ≤ s.now) then [] else [(c, s.callAt + us 4, s.callClear c)])
      ++ (if s.steward.bDown.isSome then []
          else ((List.range s.air.nd).filter fun d => !s.air.ordered.contains (c, d) && decide (s.now ≤ s.downAt d + us 4) && !(s.ordersFor c d).isEmpty).map
            fun d => (c, s.downAt d + us 4, s.orderClear c d))

/-- The instant of the next beacon, where this hub will send it (R283): it leads and goes on leading, or takes over then. -/
def State.beaconAhead (s : State) : Option Tick :=
  let n := s.stamp.number + 1
  if !s.airUp || s.power.brownAt.isSome then none
  else if s.roleSt.takeoverAt.isSome then s.roleSt.takeoverAt
  else if s.leads && (s.air.beacons || s.acc.phase == .waking) && s.roleSt.silentFrom.all (fun b => decide (n < b))
      && s.roleSt.yieldAt.all (fun b => decide (n < b)) then some s.nextBoundary
  else none

/-- TXEN of a port: high for the burst sent last, and from its lead on for one that is about to be sent. -/
def State.txen (s : State) (x : Nat) : Bool :=
  let within : Tick × Tick → Bool := fun w => decide (w.1 ≤ s.now ∧ s.now < w.2)
  let q := s.nextAir
  s.airUp && s.fitted x && (within ((s.port? x).txFrom, (s.port? x).txTo)
    || (s.burstsAhead.any fun b => s.txPort b.1 == some x && within (s.txSpan x b.2.1 484 b.2.2))
    || (s.beaconAhead.any fun t0 => (List.range q.channels).any fun c => q.txPort c == some x && within (s.txSpan x t0 1584 0)))
/-- RXEN of a port: high whenever TXEN is low and the air interface runs. -/
def State.rxen (s : State) (x : Nat) : Bool := s.airUp && s.fitted x && !s.txen x

/-- BTN_SENSE_SAMPLE (R316): high in a slot that confirmed a node, accession is complete; low when that node was the last that the hub
can serve, nodes are left over. -/
def execBtnSenseSample (t : Tick) (high : Bool) : State → Host.Outcome State Fault Refusal :=
  occurs t (fun s => s.airUp && s.acc.phase == .running && !s.acc.endDue && !s.acc.sampled
      && decide (0 < s.acc.slotJ ∧ s.accAt (s.acc.slotJ - 1) + us 250 ≤ s.now)) fun s =>
    let s : State := { s with acc := { s.acc with sampled := true } }
    if s.acc.confirm = 0 then s
    else if high then s.endAccession
    else if s.acc.confirmed.length = s.accLimit then (s.raise 0x53 none none s.acc.confirmed.length 0 0 0).endAccession
    else s

/-- CHAINBREAK (R316): accession ends, naming the last shelfmark confirmed. -/
def execChainbreak (t : Tick) : State → Host.Outcome State Fault Refusal :=
  occurs t (fun s => s.airUp && s.chainBroken && decide (s.accAt (s.acc.slotJ - 1) + us 500 + 4 * symbolTicks ≤ s.now)) fun s =>
    (s.raise 0x52 none none s.acc.confirmed.length 0 0 0).endAccession

/-- BATON_RETURN (R309): the wake pulse is back on BTN_SENSE within 2 ms. -/
def execBatonReturn (t : Tick) : State → Host.Outcome State Fault Refusal :=
  occurs t (fun s => s.airUp && s.acc.pulse.any fun p => decide (s.now ≤ p + 2 * msTicks)) fun s => { s with acc := { s.acc with pulse := none } }

/-- BATONBREAK (R309): it is not. -/
def execBatonbreak (t : Tick) : State → Host.Outcome State Fault Refusal :=
  occurs t (fun s => s.airUp && s.acc.pulse.any fun p => decide (p + 2 * msTicks ≤ s.now)) fun s =>
    ({ s with acc := { s.acc with pulse := none } } : State).raise 0x50 none none 0 0 0 0

/-! ## What a boundary does to accession and the air interface -/

/-- Accession moves on at a boundary (R309, R311, R316, R318); only a hub that leads drives the baton (01 R19). -/
def State.accBoundary (s : State) : State :=
  let a := s.acc
  let n := s.stamp.number
  let mine : Bool := s.leads
  let start : State → State := fun s => if !mine then s else { s with acc := { s.acc with due := none, phase := .releasing 4 } }
  match a.phase with
  | .idle => if a.due.any (fun d => decide (d ≤ n)) ∧ s.air.bleft = 0 then start s else s
  | .ended => if a.due.any (fun d => decide (d ≤ n)) ∧ s.air.bleft = 0 then start s else s
  | .releasing 0 => ({ s with acc := { a with phase := .lowering, btnOut := false } } : State).dropNodes
  | .releasing _ => s
  | .lowering => if !mine then s else ({ s with acc := { a with phase := .waking, pulse := some s.stamp.t0, first := n + 1 } } : State).emit (.wake s.stamp.t0)
  | .wakeDue => if !mine then s else ({ s with acc := { a with phase := .waking, pulse := some s.stamp.t0, first := n + 1 } } : State).emit (.wake s.stamp.t0)
  | .waking => { s with
      acc := { phase := .running, first := n, pulse := a.pulse, btnOut := mine }
      air := { s.air with acc := true, beacons := true, bseq := 0 } }
  | .running => if a.endDue then ({ s with acc := { a with phase := .ended, endDue := false, first := n }, air := { s.air with acc := false } } : State).applyMode
    else { s with acc := { a with slotJ := 0, reply := a.reply } }

/-- A RELEASE beacon has gone out; a standby counts its primary's. -/
def State.countRelease (s : State) : State :=
  match s.acc.phase with
  | .releasing (k + 1) =>
    if !s.leads || s.air.bmsg.any (fun m => m.mtype == 6) then { s with acc := { s.acc with phase := .releasing k } } else s
  | _ => s

/-- The RELEASE broadcast goes ahead of every other when its accession begins (R318). -/
def State.queueRelease (s : State) : State :=
  match s.acc.phase with
  | .releasing 4 => if (s.air.bmsg.toList ++ s.air.bqueue).any (fun m => m.mtype == 6) then s else { s with air := { s.air with subs := s.air.subs + 1, bqueue := { shelf := 0, mtype := 0x06, rest := [], stop := true, sub := s.air.subs } :: s.air.bqueue } }
  | _ => s

/-- Port detection over the stamp that ends (10 R294): silent counts rise where another port heard a node. -/
def State.countSilence (s : State) : State :=
  let any := s.air.ports.any (·.heard)
  { s with air := { s.air with ports := s.air.ports.map fun p =>
      { p with heard := false, silent := if p.heard then 0 else if any then p.silent + 1 else p.silent } } }

/-- Receiver divergence of the stamp that ends (10 R299). -/
def State.countRxdiv (s : State) : State :=
  let n := s.getN .airRxdivN
  (List.range 4).foldl (fun s c =>
    let d := s.air.rxdiv.getD c {}
    let count := if s.getN .airRxdivTheta ≤ d.twins then d.count + 1 else 0
    let calm := if d.twins = 0 then d.calm + 1 else 0
    let opens := !d.isOpen && decide (n ≤ count)
    let closes := d.isOpen && decide (n ≤ calm)
    let d' : RxDiv := { twins := 0, count := if closes then 0 else count, isOpen := (d.isOpen || opens) && !closes, calm := if opens then 0 else calm }
    let s : State := { s with air := { s.air with rxdiv := s.air.rxdiv.set c d' } }
    if opens then s.raise 0x14 (some 0) none c d.twins 1 0 else if closes then s.raise 0x14 (some 0) none c d.twins 0 0 else s) s

/-- Node-silent counts of the stamp that ends, outside accession (09 R245). -/
def State.countSilentNodes (s : State) : State :=
  if s.air.acc then s else
  (s.nodes.filter (!·.reported)).foldl (fun s n =>
    let s := s.modNode n.shelf fun n => { n with silent := n.silent + 1 }
    match s.node? n.shelf with
    | some n => s.testSilent n
    | none => s) s

/-- The air interface at the head of a stamp: restored ports, the mode, accession, the frame, and what each node is due. -/
def State.airBoundary (s : State) : State :=
  let s : State := { s with air := { s.air with ports := s.air.ports.map fun p => p.restored s.stamp.number } }
  let s := if s.modeDue then s.applyMode else s
  let s : State := { s with air := { s.air with modeAt := s.air.modeAt.filter fun b => decide (s.stamp.number < b) } }
  let s := (((s.endBroadcast).accBoundary).queueRelease).planFrame
  let due : NodeSt → Bool := fun n => !s.air.acc && decide (s.lchOf n.shelf < s.air.nch ∧ s.upSlot n.shelf < s.air.nu) && (s.air.beacons || s.isStandby)
  { s with
    nodes := s.nodes.map fun n => { n with
      due := due n
      outcome := if due n then 4 else 6
      fromRetry := false
      reported := false
      lost := false
      link := { n.link with due := natSat (n.link.due + (due n).toNat) 16 } }
    air := { s.air with bursts := [], acks := [], named := [], ordered := [], lossDone := false, tuned := false, released := false } }

end Sys2Proof.Machine
end

