-- ==== Sys2Proof/Machine/Ed25519.lean ====
section
/-! DEFINITION. The signature check on folios (16 R468): SHA-512 of FIPS 180-4 and pure Ed25519 of RFC 8032. -/

namespace Sys2Proof.Machine

/-! ## SHA-512 -/

abbrev W64 := BitVec 64

/-- The initial hash value, H₀ uppermost. -/
def wideStart : Nat := 0x6a09e667f3bcc908bb67ae8584caa73b3c6ef372fe94f82ba54ff53a5f1d36f1510e527fade682d19b05688c2b3e6c1f1f83d9abfb41bd6b5be0cd19137e2179
/-- The round constants, K₀ uppermost. -/
def wideConstants : Nat :=
  0x428a2f98d728ae227137449123ef65cdb5c0fbcfec4d3b2fe9b5dba58189dbbc3956c25bf348b53859f111f1b605d019923f82a4af194f9bab1c5ed5da6d8118d807aa98a303024212835b0145706fbe243185be4ee4b28c550c7dc3d5ffb4e272be5d74f27b896f80deb1fe3b1696b19bdc06a725c71235c19bf174cf692694e49b69c19ef14ad2efbe4786384f25e30fc19dc68b8cd5b5240ca1cc77ac9c652de92c6f592b02754a7484aa6ea6e4835cb0a9dcbd41fbd476f988da831153b5983e5152ee66dfaba831c66d2db43210b00327c898fb213fbf597fc7beef0ee4c6e00bf33da88fc2d5a79147930aa72506ca6351e003826f142929670a0e6e7027b70a8546d22ffc2e1b21385c26c9264d2c6dfc5ac42aed53380d139d95b3df650a73548baf63de766a0abb3c77b2a881c2c92e47edaee692722c851482353ba2bfe8a14cf10364a81a664bbc423001c24b8b70d0f89791c76c51a30654be30d192e819d6ef5218d69906245565a910f40e35855771202a106aa07032bbd1b819a4c116b8d2d0c81e376c085141ab532748774cdf8eeb9934b0bcb5e19b48a8391c0cb3c5c95a634ed8aa4ae3418acb5b9cca4f7763e373682e6ff3d6b2b8a3748f82ee5defb2fc78a5636f43172f6084c87814a1f0ab728cc702081a6439ec90befffa23631e28a4506cebde82bde9bef9a3f7b2c67915c67178f2e372532bca273eceea26619cd186b8c721c0c207eada7dd6cde0eb1ef57d4f7fee6ed17806f067aa72176fba0a637dc5a2c898a6113f9804bef90dae1b710b35131c471b28db77f523047d8432caab7b40c724933c9ebe0a15c9bebc431d67c49c100d4c4cc5d4becb3e42b6597f299cfc657e2a5fcb6fab3ad6faec6c44198c4a475817

/-- Word i of the n words of a number, the first uppermost. -/
def wideWord (v n i : Nat) : W64 := BitVec.ofNat 64 (v / 2 ^ (64 * (n - 1 - i)))
/-- The exclusive or of a word's rotations. -/
def wideSpread (x : W64) (by_ : List Nat) : W64 := by_.foldl (fun y n => y ^^^ x.rotateRight n) 0

/-- A digest under way: the last four values of a and of e, and the sixteen message words from this round's on, all newest first. -/
structure WideDigest where
  as : List W64
  es : List W64
  words : List W64

/-- Round t. -/
def WideDigest.round (x : WideDigest) (t : Nat) : WideDigest :=
  let a : Nat → W64 := fun i => x.as.getD i 0
  let e : Nat → W64 := fun i => x.es.getD i 0
  let w : Nat → W64 := fun i => x.words.getD i 0
  let choice := e 2 ^^^ (e 0 &&& (e 1 ^^^ e 2))
  let majority := (a 0 &&& a 1) ||| (a 2 &&& (a 0 ||| a 1))
  let sum := wideWord wideConstants 80 t + w 15 + choice + wideSpread (e 0) [14, 18, 41] + e 3
  { as := (sum + majority + wideSpread (a 0) [28, 34, 39]) :: x.as.take 3
    es := (sum + a 3) :: x.es.take 3
    words := (w 15 + w 6 + (wideSpread (w 14) [1, 8] ^^^ (w 14 >>> 7)) + (wideSpread (w 1) [19, 61] ^^^ (w 1 >>> 6))) :: x.words.take 15 }

/-- The chaining value, as a number of eight words, after one 128-byte block. -/
def wideBlock (h : Nat) (block : Bytes) : Nat :=
  let m := beNat block
  let x := (List.range 80).foldl WideDigest.round
    { as := (List.range 4).map (wideWord h 8), es := (List.range 4).map fun i => wideWord h 8 (4 + i), words := (List.range 16).reverse.map (wideWord m 16) }
  ((x.as ++ x.es).mapIdx fun i v => (v + wideWord h 8 i).toNat * 2 ^ (64 * (7 - i))).sum

/-- SHA-512 of a byte sequence. -/
def sha512 (m : Bytes) : Bytes :=
  let n := m.length
  let padded := m ++ [0x80#8] ++ List.replicate ((239 - n % 128) % 128) 0#8 ++ (leBytes 16 (8 * n)).reverse
  let h := (List.range (padded.length / 128)).foldl (fun h i => wideBlock h ((padded.drop (128 * i)).take 128)) wideStart
  (leBytes 64 h).reverse

/-! ## The curve (RFC 8032, 5.1) -/

/-- The field's prime, the order of the base point, and the curve's d. -/
def edP : Nat := 2 ^ 255 - 19
def edL : Nat := 2 ^ 252 + 27742317777372353535851937790883648493
def edD : Nat := 37095705934669439343138083508754565189542113879843219016388785533085940283555

/-- A power in the field, of an exponent of at most 256 bits. -/
def edPow (b e : Nat) : Nat := (List.range 256).foldr (fun i r => (if e.testBit i then b else 1) * (r * r % edP) % edP) 1
/-- A difference in the field. -/
def edSub (a b : Nat) : Nat := (a + edP - b % edP) % edP

/-- A point in extended coordinates: x = X / Z, y = Y / Z, x y = T / Z. -/
structure EdPoint where
  x : Nat
  y : Nat
  z : Nat
  t : Nat
  deriving DecidableEq, Repr

/-- The sum of two points. -/
def EdPoint.add (p q : EdPoint) : EdPoint :=
  let a := edSub p.y p.x * edSub q.y q.x % edP
  let b := (p.y + p.x) * (q.y + q.x) % edP
  let c := 2 * p.t * edD % edP * q.t % edP
  let d := 2 * p.z * q.z % edP
  let e := edSub b a
  let f := edSub d c
  let g := (d + c) % edP
  let h := (b + a) % edP
  { x := e * f % edP, y := g * h % edP, z := f * g % edP, t := e * h % edP }
/-- The neutral point. -/
def edZero : EdPoint := { x := 0, y := 1, z := 1, t := 0 }
/-- A multiple of a point, of at most 256 bits. -/
def EdPoint.mul (p : EdPoint) (n : Nat) : EdPoint :=
  (List.range 256).foldr (fun i r => let r := r.add r; if n.testBit i then r.add p else r) edZero
/-- Two points are the same. -/
def EdPoint.same (p q : EdPoint) : Bool := p.x * q.z % edP == q.x * p.z % edP && p.y * q.z % edP == q.y * p.z % edP

/-- The point that 32 bytes encode, if they encode one (RFC 8032, 5.1.3). -/
def edDecode (b : Bytes) : Option EdPoint :=
  let v := leNat b
  let y := v % 2 ^ 255
  let sign := v / 2 ^ 255
  if edP ≤ y ∨ b.length ≠ 32 then none else
  let u := edSub (y * y) 1
  let w := (edD * (y * y % edP) + 1) % edP
  let w3 := w * w % edP * w % edP
  let r := u * w3 % edP * edPow (u * (w3 * w3 % edP * w % edP) % edP) ((edP - 5) / 8) % edP
  let back := w * (r * r % edP) % edP
  let root := if back = u then some r else if back = edSub 0 u then some (r * edPow 2 ((edP - 1) / 4) % edP) else none
  root.bind fun x =>
    if x = 0 ∧ sign = 1 then none else
    let x := if x % 2 = sign then x else edP - x
    some { x := x, y := y, z := 1, t := x * y % edP }
/-- The base point. -/
def edBase : EdPoint := (edDecode (leBytes 32 (4 * edPow 5 (edP - 2) % edP))).getD edZero

/-- Whether a signature verifies: key, message, signature. The RFC gives the equation with the cofactor 8 and lets an implementation leave the factor
out; this is the equation that it gives (log 9). -/
def ed25519Verifies (key msg sig : Bytes) : Bool :=
  match edDecode key, edDecode (sig.take 32) with
  | some a, some r =>
    let s := leNat (sig.drop 32)
    let k := leNat (sha512 (sig.take 32 ++ key ++ msg)) % edL
    decide (sig.length = 64 ∧ s < edL) && ((edBase.mul s).mul 8).same ((r.add (a.mul k)).mul 8)
  | _, _ => false

end Sys2Proof.Machine
end

