-- ==== Sys2Proof/Machine/Gcm.lean ====
section
/-! DEFINITION. AES-256-GCM as NIST SP 800-38D and FIPS 197 define it, which the spine (12 R346) and the loading of folios (16 R468) take from
those standards: the cipher on one block, the counter mode, and the tag. -/

namespace Sys2Proof.Machine

/-! ## The cipher on one block (FIPS 197) -/

/-- A byte of GF(2⁸) times x, modulo x⁸ + x⁴ + x³ + x + 1. -/
def xTimes (b : Byte) : Byte := (b <<< 1) ^^^ (if b.getLsbD 7 then 0x1B#8 else 0#8)
/-- The product of two bytes of the field. -/
def gfMul (a b : Byte) : Byte :=
  ((List.range 8).foldl (fun (p : Byte × Byte) i => (if b.getLsbD i then p.1 ^^^ p.2 else p.1, xTimes p.2)) (0, a)).1
/-- The inverse of a byte as its 254th power; 0 for 0. -/
def gfInverse (a : Byte) : Byte :=
  ((List.range 7).foldl (fun (p : Byte × Byte) _ => let q := gfMul p.2 p.2; (gfMul p.1 q, q)) (1, a)).1
/-- The byte substitution: the inverse, and its affine transformation. -/
def subByte (b : Byte) : Byte :=
  let x := gfInverse b
  x ^^^ x.rotateLeft 1 ^^^ x.rotateLeft 2 ^^^ x.rotateLeft 3 ^^^ x.rotateLeft 4 ^^^ 0x63#8

/-- The exclusive or of two byte sequences, as long as the first. -/
def xorBytes (a b : Bytes) : Bytes := a.mapIdx fun i x => x ^^^ b.getD i 0

/-- Word i of the key schedule of a 256-bit key, from the words before it, newest first. -/
def nextKeyWord (i : Nat) (ws : List Bytes) : Bytes :=
  let last := ws.headD []
  let mixed :=
    if i % 8 = 0 then xorBytes ((last.drop 1 ++ last.take 1).map subByte) [(List.range (i / 8 - 1)).foldl (fun r _ => xTimes r) 1#8]
    else if i % 8 = 4 then last.map subByte else last
  xorBytes (ws.getD 7 []) mixed
/-- The fifteen round keys of a 256-bit key. -/
def roundKeys (key : Bytes) : List Bytes :=
  let first := ((List.range 8).map fun i => (key.drop (4 * i)).take 4).reverse
  let all := ((List.range 52).foldl (fun ws i => nextKeyWord (i + 8) ws :: ws) first).reverse
  (List.range 15).map fun r => ((all.drop (4 * r)).take 4).flatten

/-- The rows of the state, column by column in the sequence, are rotated by their number. -/
def shiftRows (b : Bytes) : Bytes := (List.range 16).map fun i => b.getD (i % 4 + 4 * ((i / 4 + i % 4) % 4)) 0
/-- Each column of the state is multiplied by the fixed polynomial. -/
def mixColumns (b : Bytes) : Bytes := (List.range 16).map fun i =>
  let x : Nat → Byte := fun k => b.getD (i / 4 * 4 + (i + k) % 4) 0
  xTimes (x 0) ^^^ xTimes (x 1) ^^^ x 1 ^^^ x 2 ^^^ x 3
/-- One block under round keys. -/
def encryptBlock (keys : List Bytes) (block : Bytes) : Bytes :=
  let k : Nat → Bytes := fun r => keys.getD r []
  let mid := (List.range 13).foldl (fun b r => xorBytes (mixColumns (shiftRows (b.map subByte))) (k (r + 1))) (xorBytes block (k 0))
  xorBytes (shiftRows (mid.map subByte)) (k 14)

/-! ## Galois/counter mode (NIST SP 800-38D) -/

/-- The 128-bit number that a block spells, its first bit uppermost; a short last block is followed by zeros. -/
def blockBits (b : Bytes) : BitVec 128 := BitVec.ofNat 128 (beNat (b ++ List.replicate (16 - b.length) 0#8))
def bitsBlock (v : BitVec 128) : Bytes := (leBytes 16 v.toNat).reverse
/-- The product of two blocks in GF(2¹²⁸). -/
def blockMul (x y : BitVec 128) : BitVec 128 :=
  ((List.range 128).foldl (fun (p : BitVec 128 × BitVec 128) i =>
    (if x.getLsbD (127 - i) then p.1 ^^^ p.2 else p.1, (p.2 >>> 1) ^^^ (if p.2.getLsbD 0 then 0xE1#128 <<< 120 else 0#128))) (0, y)).1
/-- The blocks of a sequence. -/
def blocksOf (b : Bytes) : List Bytes := (List.range (ceilDiv b.length 16)).map fun i => (b.drop (16 * i)).take 16
/-- The hash of associated data and ciphertext under a hash key. -/
def gHash (h : BitVec 128) (aad ct : Bytes) : BitVec 128 :=
  let sizes := BitVec.ofNat 128 (8 * aad.length * 2 ^ 64 + 8 * ct.length)
  ((blocksOf aad ++ blocksOf ct).map blockBits ++ [sizes]).foldl (fun y x => blockMul (y ^^^ x) h) 0
/-- The counter block of a 96-bit nonce. -/
def counterBlock (nonce : Bytes) (n : Nat) : Bytes := nonce.take 12 ++ (leBytes 4 n).reverse

/-- Counter mode: the ciphertext of a plaintext, and the plaintext of a ciphertext. -/
def gcmText (key nonce text : Bytes) : Bytes :=
  let keys := roundKeys key
  xorBytes text ((List.range (ceilDiv text.length 16)).flatMap fun i => encryptBlock keys (counterBlock nonce (i + 2)))
/-- The 16-byte tag of a ciphertext with its associated data. -/
def gcmTag (key nonce aad ct : Bytes) : Bytes :=
  let keys := roundKeys key
  let h := blockBits (encryptBlock keys (List.replicate 16 0#8))
  xorBytes (encryptBlock keys (counterBlock nonce 1)) (bitsBlock (gHash h aad ct))
/-- The plaintext of a ciphertext whose tag holds. -/
def gcmOpen (key nonce aad ct tag : Bytes) : Option Bytes :=
  if tag = gcmTag key nonce aad ct then some (gcmText key nonce ct) else none

end Sys2Proof.Machine
end

