-- ==== Sys2Proof/Machine/Line.lean ====
section
/-! DEFINITION. The spine's line code (12 R341, R342): PAM-4 levels, the order of bits and bytes, the preamble, the scrambler and the idle output. -/

namespace Sys2Proof.Machine

/-- The level of a bit pair (b1, b0) (12 Table 12.1). -/
def levelOf (b1 b0 : Bool) : Int :=
  match b1, b0 with
  | false, false => -3
  | false, true => -1
  | true, true => 1
  | true, false => 3
/-- The pair that a level carries, b0 first. -/
def pairOf (l : Int) : List Bool := [l == -1 || l == 1, l == 1 || l == 3]

/-- Two bits a symbol, the lower one first. -/
def symbolsOf : List Bool → List Int
  | b0 :: b1 :: bs => levelOf b1 b0 :: symbolsOf bs
  | _ => []
/-- The bytes that bits spell, a byte for each of some number. -/
def spelledBytes : Nat → List Bool → Bytes
  | 0, _ => []
  | n + 1, bs => BitVec.ofNat 8 (((List.range 8).map fun i => (bs.getD i false).toNat * 2 ^ i).sum) :: spelledBytes n (bs.drop 8)

/-- The preamble: 32 symbols, at either end of the scale (12 Table 12.1). -/
def spinePreamble : List Int := (List.range 32).map fun i => if (0xB3A1C0E7#32).getLsbD i then 3 else -3

/-- The scrambler's register at the first bit after a preamble (12 R342). -/
def scramStart : BitVec 23 := 0x7FFFFF#23
/-- The register after n bits. -/
def scramAfter : Nat → BitVec 23 → BitVec 23
  | 0, s => s
  | n + 1, s => scramAfter n (spineScramStep s).2

/-- A frame as it stands on the line: the preamble, and its bytes scrambled. -/
def pamOf (frame : Bytes) : List Int := spinePreamble ++ symbolsOf (spineScramble scramStart (frame.flatMap byteBits))
/-- What a receiver that has found a preamble reads after it: so many bytes. -/
def readPam (n : Nat) (line : List Int) : Bytes := spelledBytes n (spineScramble scramStart (line.flatMap pairOf))

/-- Symbols of 1.6 ns that pass in a span, and the span of a number of symbols, rounded up: 625 Mbaud (12 Table 12.1). -/
def symbolsIn (span : Tick) : Nat := span * 5 / 96
def symbolSpan (n : Nat) : Tick := ceilDiv (n * 96) 5

end Sys2Proof.Machine
end

