-- ==== Sys2Proof/Machine/Port.lean ====
section
/-! DEFINITION. When a running descriptor ends (06 R159): its cost after its start, the sharing of a wing's archive port (03 R73), the one digest
engine (06 R177), and the stop requests that hold it at a stop point (06 R181). -/

namespace Sys2Proof.Machine

/-- A running descriptor has had its cycles. -/
def State.dueBy (s : State) (stack : Nat) (r : RunSt) : Bool := decide (s.dueAt stack r ≤ s.now) && !r.halts

/-- A stream-in counts anew from an instant, after cycles that the port has given it. -/
def State.rebase (s : State) (stack : Nat) (r : RunSt) (served : Nat) (t : Tick) : State :=
  let s := s.modCharge r.charge fun c => { c with unrun := c.unrun - served }
  s.modStk stack fun k => { k with running := k.running.map fun x => if x.eng = .fill then { x with left := x.left - served, start := t } else x }

/-- Whether a stream-in that starts on a stack takes the first block of the sharing: the lower stack's does, unless its sibling's has waited for a first
block before; that one's comes first then, so that no sharing makes a stream-in take more than twice its cost (03 R73, 06 R183, log 148). -/
def State.firstBlock (s : State) (stack : Nat) : Bool := decide (stack % 2 = 0) && !((s.stk (siblingOf stack)).runOn .fill).any (·.ceded)
/-- A stream-in that starts on a stack waits for its sibling's first block. -/
def State.cedesBlock (s : State) (stack : Nat) : Bool := ((s.stk (siblingOf stack)).runOn .fill).isSome && !s.firstBlock stack

/-- A stream-in starts on a stack at an instant: the sibling's shares the port with it from then, and its running block is broken off (log 148). -/
def State.joinPort (s : State) (stack : Nat) (t : Tick) : State :=
  match (s.stk (siblingOf stack)).runOn .fill with
  | none => s
  | some x =>
    let first := s.firstBlock stack
    let s := s.rebase (siblingOf stack) x (min x.left ((t - x.start) / x.cyc)) (min t (s.dueAt (siblingOf stack) x))
    s.modStk (siblingOf stack) fun k => { k with running := k.running.map fun x =>
      if x.eng = .fill then { x with portFirst := !first, ceded := x.ceded || first } else x }

/-- A stack's stream-in ends or is dropped at an instant: the sibling's has the port to itself from then. -/
def State.leavePort (s : State) (stack : Nat) (t : Tick) : State :=
  match (s.stk stack).runOn .fill with
  | none => s
  | some r => match s.portMate stack r with
    | none => s
    | some x => s.rebase (siblingOf stack) x (sharedServed x.portFirst x.left r.left ((t - x.start) / x.cyc)) (min t (s.dueAt (siblingOf stack) x))

/-- COLOPHONs end in the order in which the digest engine serves them; completions are taken in the order of their instants, those of one instant in
ascending stack number, and after the starts and turns that precede them (06 R177, 08 R220). -/
def State.completionTurn (s : State) (stack : Nat) (r : RunSt) : Bool :=
  (Op.ofCode (dOp r.bits) != some .colophon || s.colophons.all fun x => x.1 == stack || ahead (stack, r) x)
    && (List.range 4).all fun k => !(s.stk k).usable
      || (engines.all fun e => !s.couldStart k e || decide (s.dueAt stack r ≤ s.startAt k e))
        && (s.turnInstants k).all (fun x => decide (s.dueAt stack r ≤ x))
        && (s.stk k).running.all fun x => x.halts || decide (s.dueAt stack r < s.dueAt k x) || (s.dueAt stack r == s.dueAt k x && decide (stack ≤ k))

end Sys2Proof.Machine
end

