-- ==== Sys2Proof/Machine/Loans.lean ====
section
/-! DEFINITION. Loans: placement of stacks and layers (03 R80, 07 R196, R493), how a stack passes from one patron to the next
(07 R197 to R200), and lapses (R494). -/

namespace Sys2Proof.Machine

/-! ## Regions and blocks -/

/-- The first n numbers below 48 that are not in a list. -/
def firstFree (used : List Nat) (n : Nat) : List Nat := ((List.range 48).filter fun r => !used.contains r).take n

/-- Regions of a stack that some share holds. -/
def StackSt.usedRegions (k : StackSt) : List Nat := k.shares.flatMap (·.regions)
/-- Blocks that a patron of a class cannot be lent: those of every share, but for blocks claimed over that class (07 R194). -/
def StackSt.usedBlocks (k : StackSt) (cls : Nat) : List Nat :=
  k.shares.flatMap fun sh => if classOf sh.slot < cls then sh.blocks.filter fun b => !sh.claim.contains b else sh.blocks
/-- A claim of n blocks: the highest that are lent to a lower class and to no patron of the same or a higher class, but for `busy` ones, which hold
images, rings or tags of the lower classes (07 R194). -/
def StackSt.claimBlocks (k : StackSt) (cls n : Nat) (busy : List Nat) : List Nat :=
  (((List.range 48).reverse.filter fun b =>
    !busy.contains b && k.shares.any (fun sh => classOf sh.slot > cls && sh.blocks.contains b)
      && k.shares.all fun sh => classOf sh.slot > cls || !sh.blocks.contains b).take n)

/-! ## Placing layers -/

/-- The region numbers that a patron may use on one stack. -/
structure Room where
  stack : Nat
  free : List Nat
  deriving DecidableEq, Repr

/-- The first stack from the current one on with room for n regions, and the stacks from it onward (03 R80). -/
def fitFrom (n : Nat) : List Room → Option (Room × List Room)
  | [] => none
  | r :: rs => if n ≤ r.free.length then some (r, rs) else fitFrom n rs

/-- The first wing from the current stack on whose stacks both have room for n regions, and the stacks after it (03 R81). -/
def wingFrom (n : Nat) : List Room → Option (Room × Room × List Room)
  | a :: b :: rs => if a.stack / 2 = b.stack / 2 ∧ n ≤ a.free.length ∧ n ≤ b.free.length then some (a, b, rs) else wingFrom n (b :: rs)
  | _ => none
/-- A stack's room without its first n regions. -/
def Room.use (r : Room) (n : Nat) : Room := { r with free := r.free.drop n }

/-- A layer's place: stack, layer, regions. -/
abbrev Placed := List (Nat × Nat × List Nat)

/-- Layers placed in folio order; placement never returns to an earlier stack. A paired layer takes its regions on both stacks of a wing
(03 R80, R81). -/
def placeLayers : Nat → List LayerInfo → List Room → Option Placed
  | _, [], _ => some []
  | l, y :: ys, rooms =>
    if y.paired then
      match wingFrom y.regions rooms with
      | none => none
      | some (a, b, rs) =>
        (placeLayers (l + 1) ys (a.use y.regions :: b.use y.regions :: rs)).map
          fun p => (a.stack, l, a.free.take y.regions) :: (b.stack, l, b.free.take y.regions) :: p
    else
      match fitFrom y.regions rooms with
      | none => none
      | some (r, rs) => (placeLayers (l + 1) ys (r.use y.regions :: rs)).map fun p => (r.stack, l, r.free.take y.regions) :: p

/-- A whole folio on one stack (07 R493). -/
def placeWhole (ys : List LayerInfo) (r : Room) : Option Placed := placeLayers 0 (ys.map fun y => { y with paired := false }) [r]

/-- Where the layers of a slot's folio go on its stacks: whole on each for slot 1, layer by layer elsewhere. -/
def placeFolio (slot : Nat) (f : FolioInfo) (rooms : List Room) : Option Placed :=
  if slot = 1 then
    rooms.foldr (fun r acc => match placeWhole f.layers r, acc with
      | some p, some q => some (p ++ q)
      | _, _ => none) (some [])
  else placeLayers 0 f.layers rooms

def folioWide (f : FolioInfo) : Bool := f.layers.any fun y => y.wide ≠ 0
def folioPaired (f : FolioInfo) : Bool := f.layers.any (·.paired)

/-! ## Which stacks a loan takes (07 R196) -/

/-- An accepted loan change promises a stack to a patron. -/
def State.promised (s : State) (k : Nat) : Bool := s.changes.any fun c => c.lend && c.stack == k && !c.begun
/-- FREE under 07 Table 7.3, neither weeded nor under inventory, with the annex that the folio needs (03 R72). -/
def State.freeNow (s : State) (f : FolioInfo) (k : Nat) : Bool :=
  let x := s.stk k
  x.usable && x.shares.isEmpty && x.inv.isNone && (x.annexOk || !folioWide f)
/-- Free for a change that begins at stamp b: also a stack whose every loan is released by then (07 R196). -/
def State.freeAt (s : State) (f : FolioInfo) (b : BitVec 48) (k : Nat) : Bool :=
  let x := s.stk k
  !s.promised k && x.usable && x.inv.isNone && (x.annexOk || !folioWide f)
    && x.shares.all fun sh => sh.st == .draining
      || s.changes.any fun c => !c.lend && c.stack == k && c.slot == sh.slot && decide (c.begins ≤ b)

/-- Cycles for which a descriptor of a folio holds the main engine without a stop point, a COLOPHON at its bound (07 R195, 06 R181). -/
def fixedCycles (d : BitVec 512) : Nat :=
  match Op.ofCode (dOp d) with
  | some .scan => if emptyDesc .scan d then 0 else scanCost (ScanBody.of d)
  | some .colophon => 8192
  | _ => 0
/-- The longest non-preemptible main-engine descriptor in a folio's programs (07 R195). -/
def longestFixed (f : FolioInfo) : Nat := ((f.programs.flatMap (·.2)).map fixedCycles).foldl max 0
/-- The receiver's slack under the live clock (07 R195). -/
def State.slackOf (s : State) (f : FolioInfo) : Nat := if s.stamp.economy then f.slackEconomy else f.slackNominal
/-- R195 permits two folios on one stack: none, or the slack that forbids it. -/
def State.slackFault (s : State) (k slot : Nat) (f : FolioInfo) : Option Nat :=
  let slots := (s.stk k).shares.map (·.slot) ++ (s.changes.filter fun c => c.lend && c.stack == k && !c.begun).map (·.slot)
  let others := slots.filterMap fun p => (s.folio? p).map fun g => (p, g)
  match others.find? fun o =>
    (o.1 == 0 && decide (longestFixed f > s.slackOf o.2)) || (slot == 0 && decide (longestFixed o.2 > s.slackOf f)) with
  | some o => some (if o.1 = 0 then s.slackOf o.2 else s.slackOf f)
  | none => none

/-- Whole stacks for a loan of n: the first n free ones, or the lowest wings whose stacks are both free for a folio with
paired layers. -/
def State.wholeStacks (s : State) (f : FolioInfo) (b : BitVec 48) (n : Nat) : Option (List Nat) :=
  if folioPaired f then
    let wings := [[0, 1], [2, 3]].filter fun (w : List Nat) => w.all fun k => s.freeAt f b k
    let got := (wings.take (ceilDiv n 2)).flatten
    if got.length < n then none else some got
  else
    let got := ((List.range 4).filter (s.freeAt f b)).take n
    if got.length < n then none else some got

/-- The regions, blocks and claim of a shared loan are there to be lent (07 R194, R196). -/
def StackSt.shareRoom (x : StackSt) (cls regions blocks claim : Nat) (busy : List Nat) : Bool :=
  decide ((firstFree x.usedRegions regions).length = regions) && decide ((firstFree (x.usedBlocks cls) blocks).length = blocks)
    && decide ((x.claimBlocks cls claim busy).length = claim)
/-- Patrons of a stack: those of its shares, and of further slots. -/
def StackSt.tenants (x : StackSt) (more : List Nat) : List Nat := (x.shares.map (·.slot) ++ more).eraseDups
/-- A stack that can take a share of a stack (07 R196, expert form), its slack set apart: beside what it has lent it keeps what accepted loans are
still to take (log 133). -/
def State.shareFits (s : State) (slot k regions blocks claim : Nat) : Bool :=
  let x := s.stk k
  let due := s.changes.filter fun c => c.lend && c.stack == k && !c.begun
  x.usable && x.inv.isNone && decide ((x.tenants (due.map (·.slot))).length < 4) && !(x.tenants (due.map (·.slot))).contains slot
    && x.shareRoom (classOf slot) (regions + (due.map (·.regions)).sum) (blocks + (due.map (·.blocks)).sum) (claim + (due.map (·.claim)).sum)
      (s.claimBusy k (classOf slot))

/-- The rooms that a slot holds or will hold: its shares, its accepted loans, and new stacks with region counts. -/
def State.roomsOf (s : State) (slot : Nat) (new : List (Nat × Nat)) : List Room :=
  (List.range 4).filterMap fun k =>
    match new.find? fun p => p.1 == k with
    | some p => some { stack := k, free := List.range p.2 }
    | none =>
      let going : Bool := s.changes.any fun c => !c.lend && c.stack == k && c.slot == slot
      match (s.stk k).share? slot, s.changes.find? (fun c => c.lend && c.stack == k && c.slot == slot && !c.begun) with
      | some sh, _ => if sh.st = .draining ∨ going then none else some { stack := k, free := sh.regions }
      | none, some c => some { stack := k, free := List.range c.regions }
      | none, none => none

/-- The layers, with their regions, that a placement puts on a stack. -/
def layersOn (stack : Nat) (p : Placed) : List (Nat × List Nat) := (p.filter fun x => x.1 == stack).map (·.2)
/-- A layer of a slot's folio lies on a stack, or is to lie on one that an accepted loan has not reached yet. -/
def State.liesOn (s : State) (slot layer k : Nat) : Bool :=
  ((s.stk k).shares.any fun sh => sh.slot == slot && sh.st != .draining && sh.layers.any fun y => y.1 == layer)
    || s.changes.any fun c => c.lend && !c.begun && c.slot == slot && c.stack == k
/-- It lies on one of a slot's other stacks, a paired layer on both of a wing. -/
def State.layerLies (s : State) (slot : Nat) (ks : List Nat) (l : Nat) (y : LayerInfo) : Bool :=
  let on : Nat → Bool := fun k => ks.contains k && s.liesOn slot l k
  if y.paired then on 0 && on 1 || on 2 && on 3 else ks.any on
/-- Layers placed in order on the regions of one stack; a paired one has no place there. -/
def placeAmong : List (Nat × LayerInfo) → List Nat → Option (List (Nat × List Nat))
  | [], _ => some []
  | p :: ps, free =>
    if p.2.paired ∨ free.length < p.2.regions then none
    else (placeAmong ps (free.drop p.2.regions)).map fun q => (p.1, free.take p.2.regions) :: q
/-- The layers that a further stack of a slot takes (03 R80): those that the placement of the folio on all of the slot's stacks puts there, where the
others already lie as it puts them; else those that lie nowhere, as after the loss of a stack, since what a stack has filled is not filled anew (log
151). The folio of slot 1 lies whole on each (07 R493). -/
def State.placeNew (s : State) (slot : Nat) (f : FolioInfo) (new : Room) (skip : Option Nat) : Option (List (Nat × List Nat)) :=
  if slot = 1 then (placeWhole f.layers new).map (layersOn new.stack) else
  let others := (s.roomsOf slot []).filter fun r => r.stack ≠ new.stack ∧ some r.stack ≠ skip
  let all := placeFolio slot f ((List.range 4).filterMap fun j => if j = new.stack then some new else others.find? fun r => r.stack == j)
  if all.any fun p => p.all fun q => q.1 == new.stack || s.liesOn slot q.2.1 q.1 then all.map (layersOn new.stack)
  else placeAmong ((f.layers.mapIdx fun l y => (l, y)).filter fun p => !s.layerLies slot (others.map (·.stack)) p.1 p.2) new.free

/-! ## Charges that fill regions -/

/-- The STREAMIN of one whole region, from region place `at0` of the stored form. -/
def fillDesc (slot index : Nat) (last : Bool) (region at0 : Nat) : BitVec 512 :=
  BitVec.ofNat 512 (0x01 + field index 8 8 + field slot 16 4 + last.toNat * 2 ^ 20 + field (4096 * region) 64 18
    + field 262144 88 19 + 2 ^ 107 + field region 108 6 + field (4096 * at0) 128 32)

/-- Put a charge of the hub's own making last in its patron's queue, or first. -/
def State.queueCharge (s : State) (c : ChargeSt) (first : Bool) : State :=
  let c : ChargeSt := { c with id := s.nextCharge, tag := BitVec.ofNat 32 s.nextCharge, cost := s.ownCost c }
  { s with nextCharge := s.nextCharge + 1, charges := if first then c :: s.charges else s.charges ++ [c] }

/-- The weight stream-in of a share's layers: one charge a region (07 R198 step 7). -/
def State.queueFills (s : State) (f : FolioInfo) (slot stack : Nat) (layers : List (Nat × List Nat)) : State :=
  (layers.flatMap fun y => y.2.mapIdx fun j r => (r, regionPlace f y.1 j)).foldl (fun s p =>
    s.queueCharge { id := 0, slot := slot, stack := stack, kind := .fill, descs := [fillDesc slot 0 true p.1 p.2], rows := []
                    eligible := s.stamp.number } false) s

/-! ## Readiness -/

/-- A FILLING share whose every region with a layer is valid is READY (07 R198 step 8). -/
def Share.filled (sh : Share) (valid : BitVec 48) : Bool := sh.layers.all fun y => y.2.all fun r => valid.getLsbD r

/-- A share of a whole stack (07 R193). -/
def Share.whole (sh : Share) : Bool := sh.regions.length == 48 && sh.blocks.length == 48
/-- What a slot holds, as its kept loan names it. -/
def State.keptLoan (s : State) (p : Nat) : Option KeptLoan :=
  let held := s.stackList.filterMap fun k => k.shares.find? fun sh => sh.slot == p && sh.st != .draining
  let pages := (s.patron p).pages
  if held.isEmpty ∧ pages = 0 then none else some {
    slot := p
    count := (held.filter Share.whole).length
    shared := (held.filter fun sh => !sh.whole).map fun sh => (sh.regions.length, sh.blocks.length - sh.claim.length, sh.claim.length)
    pages := pages }
/-- The archive's copy of the bindings and loans of slots 0 to 3 (15 R440). -/
def State.keepLoans (s : State) : State :=
  if !s.keptPlaced then s else
  { s with archive := { s.archive with
      bindings := (List.range 4).filterMap fun p => (s.patron p).folio.map fun f => (p, f)
      loans := (List.range 4).filterMap s.keptLoan } }

/-- The calibration and clip figures that a folio's tensors start with (04 R108). -/
def State.clearTensors (s : State) (p : Nat) : State :=
  let f := s.folio? p
  s.modPatron p fun q => { q with tensors :=
    ((f.map fun f => f.tensors.map (·.index)).getD []).foldl (fun ts t => putBy TensorCnt.tensor { tensor := t } ts) [] }

/-- A patron holds some stack, LENT or FILLING. -/
def State.holdsStack (s : State) (p : Nat) : Bool := (List.range 4).any fun k => (s.stk k).shares.any fun sh => sh.slot == p && sh.st != .draining

/-- The 32-byte record of a patron (07 Table 7.2); zeros until start-up has rebuilt the catalogue (R191). -/
def State.patronRecord (s : State) (p : Nat) : Bytes :=
  if !s.power.booted then List.replicate 32 0#8 else
  let x := s.patron p
  let mine : List Share := s.stackList.flatMap fun k => k.shares.filter fun sh => sh.slot == p && sh.st != .draining
  let filling := s.stackMask fun k => k.shares.any fun sh => sh.slot == p && sh.st == .filling
  let draining : Bool := s.stackList.any fun k => k.shares.any fun sh => sh.slot == p && sh.st == .draining
  let lent := s.stackMask fun k => k.lentTo p
  let st := if x.folio.isNone then 0 else if filling ≠ 0 ∨ draining then 3 else if lent ≠ 0 then 2 else 1
  leBytes 32 (field p 0 4 + field (classOf p) 4 2 + field st 6 2 + field lent 8 4 + field filling 12 4
    + field ((x.folio.map BitVec.toNat).getD 0) 16 32 + field (mine.map (·.regions.length)).sum 48 8 + field (mine.map (·.blocks.length)).sum 56 8
    + field ((mine.map (·.claim.length)).foldl max 0) 64 4 + field x.pages 72 14
    + field (s.streams.filter fun y => y.slot == p && (y.place == .parked || y.place == .resident)).length 88 14
    + field (min 255 (s.charges.filter fun c => c.slot == p && c.phase == .queued).length) 104 8 + field (s.getN (.patronBalance p)) 112 1
    + field (((s.folio? p).any folioPaired).toNat) 113 1 + field x.since.toNat 128 48)

/-- Drop the queued re-reads of a slot on a stack, the reruns behind them and its fills (04 R113): UNLENT. -/
def State.dropUnlent (s : State) (slot stack : Nat) : State :=
  let reread : Bool := s.charges.any fun c => c.slot == slot && c.stack == stack && c.phase == .queued && c.kind == .reread
  let gone : ChargeSt → Bool := fun c => c.slot == slot && c.stack == stack && c.phase == .queued
    && (c.kind == .reread || c.kind == .fill || c.kind == .park || (reread && c.rerun))
  let s := (s.charges.filter gone).foldl (fun s c => s.record c 0 0 true stUnlent 0 0 0) s
  { s with charges := s.charges.filter fun c => !gone c }

/-- Begin the drain of a slot's share of a stack (07 R198 steps 1 to 5): once what overran the boundary has ended, parks; debt clearing and
invalidation. -/
def State.beginDrain (s : State) (slot stack : Nat) (fid : Option (BitVec 32)) : State :=
  let mine : Share → Bool := fun sh => sh.slot == slot && sh.fid == fid && sh.st != .draining
  let k := s.stk stack
  if !k.shares.any mine then s else
  let regions := (k.shares.filter mine).flatMap (·.regions)
  let parked := s.streams.filter fun x => x.slot == slot && x.place == .resident && x.stack == stack
  let cyc := (parked.map fun x => 256 * x.pages).sum
  let done := (k.running.map (s.dueAt stack)).foldl max (max s.now k.heldTo) + cyc * s.cycTicks
  let s := (s.parkAll fun x => x.slot == slot && x.stack == stack).dropUnlent slot stack
  let s := s.modStk stack fun k => { k with
    shares := k.shares.map fun sh => if mine sh then { sh with st := .draining, doneAt := done } else sh
    valid := regions.foldl (fun v r => v &&& ~~~ (BitVec.ofNat 48 (2 ^ r))) k.valid
    debts := k.debts.filter fun d => d.1 ≠ slot
    paying := k.paying.filter fun d => d.1 ≠ slot
    ctxs := k.ctxs.filter fun x => x.slot ≠ slot
    heldTo := done }
  s

/-! ## Filling and lending -/

/-- A folio promoted on its own stack (09 R258): the new share keeps the blocks of the old one, whose regions are no longer the patron's, and
what is queued follows its layers. -/
def State.mergeShares (s : State) (stack slot : Nat) : State :=
  match (s.stk stack).shares.filter fun sh => sh.slot == slot && sh.st == .lent with
  | old :: new :: _ =>
    let sh : Share := { new with blocks := old.blocks ++ new.blocks, claim := old.claim ++ new.claim }
    let s := s.modStk stack fun k => { k with
      shares := (k.shares.filter fun x => !(x.slot == slot && x.st == .lent)) ++ [sh]
      valid := old.regions.foldl (fun v r => v &&& ~~~ (BitVec.ofNat 48 (2 ^ r))) k.valid }
    { s with charges := s.charges.map fun c => if c.slot = slot ∧ c.stack = stack ∧ c.phase = .queued then c.moveTo stack sh else c }
  | _ => s

/-- A READY share becomes LENT; a promoted folio becomes its slot's with it (07 R198 step 8, 09 R258). -/
def State.lendShare (s : State) (stack slot : Nat) (fid : Option (BitVec 32)) : State :=
  let s := s.modStk stack fun k => { k with shares := k.shares.map fun sh =>
    if sh.slot = slot ∧ sh.fid = fid ∧ sh.st = .filling then { sh with st := .lent, fid := none } else sh }
  let s := s.modPatron slot fun p => { p with since := s.stamp.number, folio := match fid with
    | some f => some f
    | none => p.folio }
  let s : State := match fid with
    | some _ =>
      let s := s.clearTensors slot
      -- every other share of the slot ran the old folio
      (List.range 4).foldl (fun s k => if k = stack then s.mergeShares k slot else s.beginDrain slot k none) s
    | none => s
  let s := (s.changes.filter fun c => c.begun && c.stack == stack && c.slot == slot).foldl (fun s c =>
    match c.moveFrom with
    | some k => s.beginDrain slot k none
    | none => s) s
  { s with changes := s.changes.filter fun c => !(c.begun && c.stack == stack && c.slot == slot) }

/-- Look for READY on a stack: LOANREADY is raised, and a rescue's share becomes LENT at once (16 R449). -/
def State.checkReady (s : State) (stack : Nat) : State :=
  (s.stk stack).shares.foldl (fun s sh =>
    if sh.st = .filling ∧ !sh.ready ∧ sh.filled (s.stk stack).valid then
      let s := s.modStk stack fun k => { k with shares := k.shares.map fun x =>
        if x.slot = sh.slot ∧ x.fid = sh.fid ∧ x.st = .filling then { x with ready := true } else x }
      let s := s.raise 0x32 (some sh.slot) (some stack) sh.slot stack 0 0
      if sh.atReady then s.lendShare stack sh.slot sh.fid else s
    else s) s

/-- The stacks that a change touches: its own, and the one that a move leaves (07 R197, R200). -/
def LoanChange.touches (c : LoanChange) (k : Nat) : Bool := c.stack == k || c.moveFrom == some k
/-- A change has reached READY: it has begun, and its share does not fill any longer. -/
def State.reachedReady (s : State) (c : LoanChange) : Bool :=
  c.begun && !((s.stk c.stack).shares.any fun sh => sh.slot == c.slot && sh.st == .filling && !sh.ready)
/-- An earlier change that touches a stack of this one is still to reach READY, or a share fills on its stack (07 R197). -/
def State.changeWaits (s : State) (c : LoanChange) (earlier : List LoanChange) : Bool :=
  earlier.any (fun e => (e.touches c.stack || c.moveFrom.any e.touches) && !s.reachedReady e)
    || (s.stk c.stack).shares.any fun sh => sh.st == .filling && !sh.ready

/-- The folio that a change lends its stack for. -/
def State.folioOf (s : State) (c : LoanChange) : Option FolioSt :=
  (match c.fid with
    | some f => some f
    | none => (s.patron c.slot).folio).bind s.folioSt?

/-- Whether an accepted loan can begin on its stack now: no earlier change waits there, nothing fills there, its regions and
blocks are free, it makes no fifth co-tenant, the annex that its folio needs is there, and a gated stack may wake (03 R72, 07 R193, R197, R198,
16 R457). -/
def State.canBegin (s : State) (c : LoanChange) (earlier : List LoanChange) : Bool :=
  let k := s.stk c.stack
  k.usable && k.inv.isNone && !s.changeWaits c earlier
    && !(k.shares.any fun sh => sh.st == .draining && sh.slot == c.slot)
    && k.shareRoom (classOf c.slot) c.regions c.blocks c.claim (s.claimBusy c.stack (classOf c.slot))
    && decide ((k.tenants [c.slot]).length ≤ 4)
    && (k.annexOk || !(s.folioOf c).any fun f => folioWide f.info)
    && (!k.gated || c.rescue || (List.range 4).all fun j => (s.stk j).inv.isNone)

/-- Layers with their regions, region by region, on other regions. -/
def relay : List (Nat × List Nat) → List Nat → List (Nat × List Nat)
  | [], _ => []
  | y :: ys, free => (y.1, free.take y.2.length) :: relay ys (free.drop y.2.length)

/-- The layers that a loan puts on its stack, on the regions that it takes there: those of the stack that a move leaves, so that no other stack has to
fill again (07 R200, log 134), else those that placement gives it (03 R80). A forwarded loan whose folio does not fit the stacks that this hub can use
lends its share with no layer (log 132). -/
def State.layersFor (s : State) (c : LoanChange) (f : FolioInfo) (regions : List Nat) : List (Nat × List Nat) :=
  match c.moveFrom.bind fun j => (s.stk j).share? c.slot with
  | some old => relay old.layers regions
  | none => (if c.fid.isSome then (placeFolio c.slot f [{ stack := c.stack, free := regions }]).map (layersOn c.stack)
      else s.placeNew c.slot f { stack := c.stack, free := regions } c.moveFrom).getD []

/-- Begin a loan on its stack: wake, zero-fill of the blocks that pass to it, the FILLING share and its stream-ins (07 R198 steps 5 to 7). A claimed block
stays lent to the patrons of the lower classes (R194). -/
def State.beginLend (s : State) (c : LoanChange) : State :=
  let k := s.stk c.stack
  match s.folioOf c with
  | none => s
  | some fs =>
    let f := fs.info
    let regions := firstFree k.usedRegions c.regions
    let own := firstFree (k.usedBlocks (classOf c.slot)) c.blocks
    let claim := k.claimBlocks (classOf c.slot) c.claim (s.claimBusy c.stack (classOf c.slot))
    let layers := s.layersFor c f regions
    let wake := if k.gated then 100 * usTicks else 0
    let done := max s.now k.heldTo + 32 * own.length * s.cycTicks + wake
    let fresh := !s.holdsStack c.slot
    let s := s.modStk c.stack fun k => { k with
      gated := false
      carrel := own.foldl (fun m b => memZero m (65536 * b) (65536 * (b + 1))) k.carrel
      badCarrel := k.badCarrel.filter fun w => !own.contains (w / 8192)
      heldTo := done
      shares := k.shares ++ [{ slot := c.slot, st := .filling, regions := regions, blocks := own ++ claim, claim := claim
                               layers := layers, atReady := c.rescue, doneAt := done, fid := c.fid }] }
    let s := s.modPatron c.slot fun p => { p with pages := p.pages + c.pages }
    let s := if fresh && !c.rescue then s.clearTensors c.slot else s
    (s.queueFills f c.slot c.stack layers).checkReady c.stack

/-- At its boundary a loan that nothing holds back but the patrons before it passes from them to its own once they have drained (07 R198). -/
def State.passes (s : State) (c : LoanChange) (earlier : List LoanChange) : Bool :=
  (s.stk c.stack).usable && (s.stk c.stack).inv.isNone && !s.changeWaits c earlier
/-- Act on the accepted changes whose stamp has come, in the order received. They begin at a boundary (07 R197); in between goes on what passes from
patron to patron (R198), and a rescue begins (16 R449). -/
def beginIn (bd : Bool) : List LoanChange → List LoanChange → State → List LoanChange × State
  | done, [], s => (done, s)
  | done, c :: cs, s =>
    let may := c.rescue || c.passing || (bd && decide (c.begins ≤ s.stamp.number))
    if c.begun || !may then beginIn bd (done ++ [c]) cs s
    else if !c.lend then
      if s.changeWaits c done then beginIn bd (done ++ [c]) cs s
      else beginIn bd done cs (s.beginDrain c.slot c.stack none)
    else if s.canBegin c done then
      beginIn bd (done ++ [{ c with begun := true, pages := 0 }]) cs (s.beginLend c)
    else beginIn bd (done ++ [{ c with passing := c.passing || s.passes c done }]) cs s

/-- Gated stacks that a change has woken wake 100 µs apart, in ascending number (15 R423). -/
def State.stagger (s old : State) : State :=
  let woken := (List.range 4).filter fun k => (old.stk k).gated && !(s.stk k).gated
  (woken.mapIdx fun i k => (i, k)).foldl (fun s p => s.modStk p.2 fun k =>
    let late := p.1 * 100 * usTicks
    { k with
      heldTo := k.heldTo + late
      shares := k.shares.map fun sh => if sh.st = .filling then { sh with doneAt := sh.doneAt + late } else sh
      inv := k.inv.map fun v => { v with start := v.start + late } }) s

/-- The changes of loans whose stamp has come begin, in the order received, at a boundary or in between; ledger pages that come without a stack at their
stamp too. -/
def State.beginChanges (s : State) (bd : Bool) : State :=
  let due := s.pageChanges.filter fun c => decide (c.1 ≤ s.stamp.number)
  let s := due.foldl (fun s c => s.modPatron c.2.1 fun p => { p with pages := p.pages + c.2.2 })
    { s with pageChanges := s.pageChanges.filter fun c => decide (s.stamp.number < c.1) }
  let r := beginIn bd [] s.changes s
  ({ r.2 with changes := r.1.filter fun c => !c.begun || (r.2.stk c.stack).shares.any fun sh => sh.slot == c.slot && sh.st == ShareSt.filling }).keepLoans

/-- At a boundary every READY share becomes LENT (07 R198 step 8). -/
def State.lendReady (s : State) : State :=
  (List.range 4).foldl (fun s k => (s.stk k).shares.foldl (fun s sh =>
    if sh.st = .filling ∧ sh.ready then s.lendShare k sh.slot sh.fid else s) s) s

/-- The drain of a slot's share of a stack has ended: its time is over, and no descriptor of the slot runs there (03 R82). -/
def State.drained (s : State) (slot stack : Nat) : Bool :=
  (s.stk stack).shares.any (fun sh => sh.slot == slot && sh.st == .draining && decide (sh.doneAt ≤ s.now))
    && !(s.stk stack).running.any fun r => s.slotOf r.charge == slot

/-- The drain of a slot's share of a stack ends: the share goes, what waited for it begins, and a stack left with none is gated (03 R82);
one that passes to another patron stays awake (07 R198 step 6). A gated stack keeps its accumulator entries, of which the spec says nothing (log
135). -/
def State.endDrain (s : State) (slot stack : Nat) : State :=
  let s := s.modStk stack fun k => { k with shares := k.shares.filter fun sh => !(sh.slot == slot && sh.st == .draining) }
  let s := (s.modPatron slot fun p => { p with since := s.stamp.number }).beginChanges false
  (s.modStk stack fun k => if k.shares.isEmpty then { k with gated := true } else k).reconsiderAll s.now

/-! ## Lapses (07 R494) -/

/-- The accepted changes of a stack that have not begun, and that a test picks, lapse. -/
def State.lapseOf (s : State) (stack cause : Nat) (pick : LoanChange → Bool) : State :=
  let out : LoanChange → Bool := fun c => c.stack == stack && !c.begun && pick c
  let gone := s.changes.filter out
  let s := gone.foldl (fun s c => s.raise 0x34 (some c.slot) (some stack) c.slot stack cause 0) s
  { s with changes := s.changes.filter fun c => !out c }
/-- Every accepted change of a stack that has not begun lapses. -/
def State.lapse (s : State) (stack cause : Nat) : State := s.lapseOf stack cause fun _ => true

end Sys2Proof.Machine
end

