-- ==== Sys2Proof/Machine/Refit.lean ====
section
/-! DEFINITION. The draft and its update (04 R96, R114 to R116, 09 R253 to R258): the weights that refit trains, one group of a row at a
time. -/

namespace Sys2Proof.Machine

/-! ## The draft -/

/-- A group as the draft begins: its parent's codes, f = 128, moments 0. -/
def newGroup (l r wmax : Nat) (g : WeightGroup) : DraftGroup :=
  { layer := l, row := r, wmax := wmax, codes := g.codes, fracs := g.codes.map fun _ => 128
    mCodes := g.codes.map fun _ => 0, mExp := 0, vCodes := g.codes.map fun _ => 0, vExp := 0 }

/-- The draft of a refit folio: the weights of its parent in the layers that it marks trainable. -/
def newDraft (f parent : FolioInfo) : Draft :=
  let marks := f.layers.mapIdx fun l y => (l, y.trainable)
  let groups := (marks.filter (·.2)).flatMap fun p =>
    match parent.layers[p.1]? with
    | none => []
    | some y => (y.rows.mapIdx fun r w => w.groups.map fun g => newGroup p.1 r y.codeMax g).flatten
  { parent := parent.fid, groups := groups, published := groups.map (·.codes) }

/-- Bind a refit folio: the draft is created, and one with another parent goes (R253). Its creation counts as publication 0 in the draft
area of the archive (log 34). -/
def State.bindRefit (s : State) (f : FolioInfo) : State :=
  if s.draft.any fun d => d.parent == f.parent then s else
  match s.folioSt? f.parent with
  | none => { s with draft := none, archive := { s.archive with draft := none } }
  | some p =>
    let d := newDraft f p.info
    { s with draft := some d, archive := { s.archive with draft := some d } }

/-! ## The update (R256) -/

/-- The divisor isqrt(v̂) + 2^ε. -/
def stepOf (mhat : Int) (vhat lambda eps : Nat) : Int := divr (mhat * 2 ^ lambda) (isqrt vhat + 2 ^ eps)
/-- E′ from E = 256 × w + f. -/
def extended (e : Nat) (u : Int) (wmax : Nat) : Nat := (min (max ((e : Int) - u) 0) (256 * wmax + 255 : Nat)).toNat

/-- Update one group from its exact gradients: its G8 gradients, moments, codes and fractions, and how many gradient and moment codes
saturated. -/
def DraftGroup.update (g : DraftGroup) (xs : List Int) (b1 b2 lambda eps : Nat) : DraftGroup × Nat × Nat :=
  let n := g.codes.length
  let gr := encodeG8 ((List.range n).map fun i => xs.getD i 0)
  let m := encodeG8 ((List.range n).map fun i => moment1 (decodeG8 (g.mCodes.getD i 0) g.mExp) (decodeG8 (gr.1.getD i 0) gr.2.1) b1)
  let v := encodeV8 ((List.range n).map fun i =>
    (moment2 ((g.vCodes.getD i 0 * 2 ^ g.vExp : Nat) : Int) (decodeG8 (gr.1.getD i 0) gr.2.1) b2))
  let e := (List.range n).map fun i =>
    extended (256 * g.codes.getD i 0 + g.fracs.getD i 0) (stepOf (decodeG8 (m.1.getD i 0) m.2.1) (v.1.getD i 0 * 2 ^ v.2.1) lambda eps) g.wmax
  ({ g with codes := e.map (· / 256), fracs := e.map (· % 256), mCodes := m.1, mExp := m.2.1, vCodes := v.1, vExp := v.2.1,
            gCodes := gr.1, gExp := gr.2.1 },
   gr.2.2, m.2.2 + v.2.2)

/-- The exponent byte of a G8 group and of a V8 group: the exponent in the low bits, zeros above (04 R114). -/
def expByte (e : Nat) (wide : Bool) : Byte := BitVec.ofNat 8 (e % if wide then 128 else 64)
/-- The draft's groups with the place of each one's slip in its layer, in the order of the slips (04 R91, R114). -/
def Draft.slipOrder (d : Draft) (parent : FolioInfo) : List DraftGroup :=
  let keyed := d.groups.mapIdx fun i g =>
    let m := ((parent.layers[g.layer]?).map LayerInfo.mat).getD (MatBody.of 0)
    let before := ((d.groups.take i).filter fun x => x.layer == g.layer && x.row == g.row).length
    (g.layer * 2 ^ 24 + m.slipAddr g.row (before * (m.group / 32)), g)
  (keyed.foldl (fun xs x => putBy Prod.fst x xs) []).map (·.2)
/-- A draft's bytes beside its weight codes: fractions and moment codes group by group in the weights' order, then the exponent bytes in the order
of the slips (04 R114). -/
def Draft.areaBytes (d : Draft) (parent : FolioInfo) : Bytes :=
  let slips := d.slipOrder parent
  d.groups.flatMap (fun g => g.fracs.map (BitVec.ofNat 8)) ++ d.groups.flatMap (fun g => g.mCodes.map fun c => BitVec.ofNat 8 (ofSigned c 8))
    ++ d.groups.flatMap (fun g => g.vCodes.map (BitVec.ofNat 8))
    ++ slips.map (fun g => expByte g.mExp false) ++ slips.map fun g => expByte g.vExp true

/-- Elements of a tensor and how many of them saturated, added to a patron's counts of the stamp (04 R107). -/
def addCounts (tensor produced clipped : Nat) (ts : List TensorCnt) : List TensorCnt :=
  let old := (ts.find? fun t => t.tensor == tensor).getD { tensor := tensor }
  putBy TensorCnt.tensor { old with produced := old.produced + produced, clipped := old.clipped + clipped } ts
/-- Saturated codes count as clipped against a tensor of the refit patron (04 R115). -/
def State.countClips (s : State) (tensor produced clipped : Nat) : State :=
  s.modPatron 3 fun p => { p with tensors := addCounts tensor produced clipped p.tensors }

/-- The exact gradients that a refit charge has left in its patron's blocks, group by group (09 R255, log 67). -/
def State.gradsOf (s : State) (c : ChargeSt) (f : FolioInfo) (d : Draft) : List (List Int) :=
  let n := (d.groups.map (·.codes.length)).sum
  let b := s.folioBytes c f.gradAt (n * f.gradBytes)
  (d.groups.foldl (fun (p : List (List Int) × Nat) g =>
    (p.1 ++ [(List.range g.codes.length).map fun i =>
      toSigned (leNat ((b.drop ((p.2 + i) * f.gradBytes)).take f.gradBytes)) (8 * f.gradBytes)], p.2 + g.codes.length)) ([], 0)).1
/-- A refit charge has committed: the update reads its gradients (09 R256). -/
def State.keepGrads (s : State) (c : ChargeSt) : State :=
  match s.draft, s.folio? c.slot with
  | some d, some f => { s with draft := some { d with pendingUpdate := true, grads := s.gradsOf c f d } }
  | _, _ => s

/-- Update every group, and count the step, as one act; the saturated codes are counted (04 R115). -/
def State.updateDraft (s : State) (d : Draft) : State :=
  let out := d.groups.mapIdx fun i g =>
    g.update (d.grads.getD i []) (s.getN .refitB1) (s.getN .refitB2) (s.getN .refitLambda) (s.getN .refitEps)
  let n := (d.groups.map (·.codes.length)).sum
  let f := s.folio? 3
  let s : State := { s with draft := some { d with
      groups := out.map (·.1)
      gradClips := d.gradClips + (out.map fun x => x.2.1 + x.2.2).sum
      step := d.step + 1
      grads := []
      pendingUpdate := false } }
  match f with
  | some f => (s.countClips f.gradTensor n (out.map (·.2.1)).sum).countClips f.momentTensor (2 * n) (out.map (·.2.2)).sum
  | none => s

/-- One page with a corrected error: the second within 24 h retires it (16 R460). -/
def State.scrubPage (s : State) (page : Nat) : State :=
  let w := s.steward
  if w.retiredPages.contains page then s
  else if w.corrected.any fun p => p.1 == page && decide (s.now < p.2 + 86400000 * msTicks) then
    let s : State := { s with steward := { w with
      retired := w.retired + 1
      retiredPages := w.retiredPages ++ [page]
      corrected := w.corrected.filter fun p => p.1 ≠ page } }
    s.raise 0x86 none none page s.steward.retired 0 0
  else { s with steward := { w with corrected := setKey page s.now w.corrected } }

/-- REFIT_UPDATE: the gradients are those that the committed charge has left in the carrel (09 R256); `corrected` names the ledger pages of the draft
whose read needed a correction (03 R69, 16 R460). -/
def execRefitUpdate (t : Tick) (corrected : List Nat) : State → Host.Outcome State Fault Refusal :=
  occurs t (fun s => s.up && s.steward.aDown.isNone && s.draft.any (·.pendingUpdate)) fun s =>
    match s.draft with
    | some d => corrected.foldl State.scrubPage (s.updateDraft d)
    | none => s

/-! ## Publication (R96, R257) -/

/-- A publication is due: E steps more have been made. -/
def State.publishDue (s : State) : Bool :=
  s.draft.any fun d => d.step != 0 && d.step % (s.getN .refitPublish) == 0 && d.checked != d.step && !d.pendingUpdate

/-- The codes of a row, group by group. -/
def Draft.rowGroups (d : Draft) (codes : List (List Nat)) (l r : Nat) : List (List Nat) :=
  ((d.groups.zip codes).filter fun p => p.1.layer == l && p.1.row == r).map (·.2)

/-- The bound of R96 on a row under some codes. -/
def rowBound (x : Nat) (w : WeightRow) (codes : List (List Nat)) : Bool :=
  let sums := (w.groups.zip codes).map fun p => p.1.scale * (p.2.map fun (c : Nat) => ((c : Int) - (w.zw : Int)).natAbs).sum
  decide (w.bias.natAbs + x * sums.sum + w.y ≤ 2 ^ 43 - 1)

/-- The first row of a trainable layer that fails the bound: layer and row. -/
def draftFault (d : Draft) (f parent : FolioInfo) (codes : List (List Nat)) : Option (Nat × Nat) :=
  (f.layers.mapIdx fun l y => (l, y.trainable)).findSome? fun p =>
    if !p.2 then none else
    match parent.layers[p.1]? with
    | none => none
    | some y => (y.rows.mapIdx fun r w => (r, w)).findSome? fun q =>
        if rowBound y.inputMax q.2 (d.rowGroups codes p.1 q.1) then none else some (p.1, q.1)

/-- The refit folio and its parent. -/
def State.refitFolios (s : State) (d : Draft) : Option (FolioInfo × FolioInfo) :=
  match s.folio? 3, s.folioSt? d.parent with
  | some f, some p => some (f, p.info)
  | _, _ => none

/-- Publish the draft, or raise DRAFTRANGE. -/
def State.publish (s : State) (d : Draft) : State :=
  match s.refitFolios d with
  | none => s
  | some (f, p) =>
    match draftFault d f p (d.groups.map (·.codes)) with
    | some (l, r) => ({ s with draft := some { d with checked := d.step } } : State).raise 0x28 (some 3) none d.parent.toNat l r (d.pub + 1)
    | none =>
      let d := { d with checked := d.step, pub := d.pub + 1, published := d.groups.map (·.codes), fillDue := true }
      { s with draft := some d, archive := { s.archive with draft := some { d with fillDue := false }, draftArea := d.areaBytes p } }

/-- The stream-ins of a publication's trainable regions, first in the patron's queue at a boundary. -/
def State.draftFills (s : State) : State :=
  match s.draft with
  | none => s
  | some d =>
    if !d.fillDue then s else
    let s : State := { s with draft := some { d with fillDue := false } }
    match s.folio? 3 with
    | none => s
    | some f =>
      let want : List (Nat × Nat × Nat) := (s.stacksOf 3).flatMap fun k =>
        let layers := (((s.stk k).share? 3).map (·.layers)).getD []
        (layers.filter fun y => (f.layers[y.1]?).any (·.trainable)).flatMap fun y => y.2.mapIdx fun j r => (k, r, regionPlace f y.1 j)
      want.reverse.foldl (fun s w => s.queueCharge { id := 0, slot := 3, stack := w.1, kind := .fill, descs := [fillDesc 3 0 true w.2.1 w.2.2]
                                                     rows := [], eligible := s.stamp.number } true) s

/-! ## A folio with other codes (R258, 04 R89) -/

/-- The stored byte of weight i of row r in a layer of rows of n weights: its place from the layer's first byte, and whether it is the
high half of a W4 byte. -/
def codePlace (w4 : Bool) (n r i : Nat) : Nat × Bool :=
  let m : MatBody := { MatBody.of 0 with mode := if w4 then 1 else 0, din := n }
  let ρ := r % m.blockRows
  (4096 * (r / m.blockRows * m.blockPages + i / 32 / 4) + i / 32 % 4 * 1024 + (if w4 then ρ / 2 else ρ) * 32 + i % 32, w4 && r % 2 == 1)

/-- One code put into the stored lines at a byte address. -/
def putCode (lines : List (Bytes × BitVec 4)) (at0 : Nat) (w4 high : Bool) (c : Nat) : List (Bytes × BitVec 4) :=
  lines.modify (at0 / 64) fun l => (l.1.modify (at0 % 64) fun b =>
    if !w4 then BitVec.ofNat 8 c
    else if high then BitVec.ofNat 8 (b.toNat % 16 + 16 * (c % 16))
    else BitVec.ofNat 8 (b.toNat / 16 * 16 + c % 16), l.2)

/-- The stored lines of a folio with the draft's published codes; a layer's pages begin its first region (log 25). -/
def Draft.overlay (d : Draft) (f : FolioInfo) : List (Bytes × BitVec 4) :=
  let keys := ((d.groups.map fun g => (g.layer, g.row, g.wmax)).eraseDups)
  keys.foldl (fun ls k =>
    let w4 := k.2.2 == 15
    let row := (d.rowGroups d.published k.1 k.2.1).flatten
    (row.mapIdx fun i c => (i, c)).foldl (fun ls p =>
      let at0 := codePlace w4 row.length k.2.1 p.1
      putCode ls (262144 * regionPlace f k.1 0 + at0.1) w4 at0.2 p.2) ls) f.weightLines

/-- A row with published codes. -/
def withCodes (w : WeightRow) (cs : List (List Nat)) : WeightRow :=
  if cs.isEmpty then w else { w with groups := (w.groups.zip cs).map fun p => { p.1 with codes := p.2 } }
/-- The layers with published codes in their rows. -/
def Draft.newLayers (d : Draft) (f : FolioInfo) : List LayerInfo :=
  f.layers.mapIdx fun l y => { y with rows := y.rows.mapIdx fun r w => withCodes w (d.rowGroups d.published l r) }

/-- The weight digest of stored lines (08 R223). -/
def weightDigest (lines : List (Bytes × BitVec 4)) : Bytes := sha256 (lines.flatMap fun l => l.1 ++ [l.2.setWidth 8])

/-- The promoted folio: the parent with the publication's pages, its own digest, and the identity that this gives it (R258). -/
def Draft.promoted (d : Draft) (parent : FolioInfo) : FolioInfo :=
  let lines := d.overlay parent
  let dig := weightDigest lines
  { parent with
    fid := BitVec.ofNat 32 (leNat (dig.take 4)) ||| 0x80000000#32
    parent := parent.fid
    layers := d.newLayers parent
    weightLines := lines
    wdigest := dig }

end Sys2Proof.Machine
end

