-- ==== Sys2Proof/Machine/Rescue.lean ====
section
/-! DEFINITION. Stack faults, weeding and inventories as the state takes them (16 R448 to R450, R457 to R460): what is abandoned,
which stack rescues a patron, and what an inventory leaves. -/

namespace Sys2Proof.Machine

/-! ## Abandoning what runs on a stack -/

/-- Whether a charge that is given up goes back to its queue: one that has not started stays queued (02 R38); a started one runs again where it
has streams (04 R111), and so does the hub's own work; what is left of an abandoned charge does not. -/
def ChargeSt.returns (c : ChargeSt) : Bool :=
  !c.abandoned && (!c.started || c.hasStreams || c.kind == .fill || c.kind == .reread || c.kind == .park)

/-- The learned decode of an abandoned charge is not delivered (04 R111). -/
def State.decodeLost (s : State) (c : ChargeSt) : State :=
  match c.kind with
  | .decode lch sl => if c.sub = s.stamp.number then s.modBurst lch sl fun b => { b with fin := true, late := true } else s
  | _ => s

/-- Take every unended charge of a stack that a test picks from it, without records (16 R448, R449). Each that returns goes first in its
patron's queue, in its former order; a committed one only where a copy of its streams is lost with the stack (05 R134). -/
def State.dropAdmitted (s : State) (stack : Nat) (lost : List Nat) (pick : ChargeSt → Bool) : State :=
  let gone : ChargeSt → Bool := fun c => c.stack == stack && c.phase == .admitted && pick c
  let mine := s.charges.filter gone
  let ids := mine.map (·.id)
  let s := if (s.stk stack).running.any fun r => r.eng == .fill && ids.contains r.charge then s.leavePort stack s.now else s
  let s := (mine.filter fun c => !c.returns || c.started).foldl State.decodeLost s
  let s := (mine.filter (·.started)).foldl State.resetWork s
  let s : State := { s with charges := s.charges.filter fun c => !gone c }
  let s := s.modStk stack fun k => { (k.freeCycles (mine.map (·.unrun)).sum) with
    queue := k.queue.filter fun q => !ids.contains q.charge
    running := k.running.filter fun r => !ids.contains r.charge
    halted := k.halted.filter fun r => !ids.contains r.charge
    ctxs := k.ctxs.filter fun x => !ids.contains x.charge }
  (mine.reverse.filter fun c => c.returns && c.runsAnew lost).foldl (fun s c => s.requeueFirst c s.stamp.number) s

/-! ## Weeding and inventory -/

/-- The weeding map of the archive follows the stack (16 R460). It names stacks by number, so that after a change of ENMASK in MANUFACTURE its entries
stand for the stacks that have the numbers then: the spec does not say how the map names its units (log 152). -/
def State.keepWeeding (s : State) (stack : Nat) : State :=
  let k := s.stk stack
  { s with archive := { s.archive with weeding :=
      (s.archive.weeding.filter fun w => w.1 ≠ stack) ++ [(stack, ~~~ k.shelves, !k.annexOk, k.weeded)] } }

/-- Weed a stack whole: its accepted changes lapse (16 R459, 07 R494). -/
def State.weedStack (s : State) (stack : Nat) : State :=
  let s := (s.stk stack).shares.foldl (fun s sh => s.dropUnlent sh.slot stack) s
  let s := (s.modStk stack fun k => { k with weeded := true, gated := true, shares := [], valid := 0 }).keepWeeding stack
  (s.lapse stack 0).raise 0x82 none (some stack) stack 2 0 0
/-- Weed shelves; with none left the stack is weeded whole. -/
def State.weedShelves (s : State) (stack : Nat) (failed : BitVec 32) : State :=
  let left := (s.stk stack).shelves &&& ~~~ failed
  if failed &&& (s.stk stack).shelves = 0 then s
  else if left = 0 then (s.modStk stack fun k => { k with shelves := 0 }).weedStack stack
  else
    let s := (s.modStk stack fun k => { k with shelves := left }).keepWeeding stack
    s.raise 0x82 none (some stack) stack 0 (s.stk stack).shelfCount 0
/-- Weed an annex (03 R72). An accepted loan of a folio that needs it lapses (log 136). -/
def State.weedAnnex (s : State) (stack : Nat) : State :=
  if !(s.stk stack).annexOk then s else
  let s := (s.modStk stack fun k => { k with annexOk := false }).keepWeeding stack
  let s := s.lapseOf stack 0 fun c => c.lend && (s.folioOf c).any fun f => folioWide f.info
  s.raise 0x82 none (some stack) stack 1 (s.stk stack).shelfCount 0

/-- Re-initialise a stack after an inventory: carrel zeroed, regions invalid, gated; nothing written before survives (16 R458). -/
def StackSt.reinit (k : StackSt) : StackSt :=
  { k with carrel := [], store := [], tags := [], acc := [], valid := 0, gated := true, inv := none, invalid := [], badWords := [], softWords := []
           badCarrel := [], faulty := false, heldTo := 0 }

/-- Another 30 ms inventory runs. -/
def State.invRunning (s : State) : Bool := (List.range 4).any fun k => match (s.stk k).inv with
  | some v => !v.startup
  | none => false

/-- Begin an inventory: the stack is awake and isolated. -/
def State.startInventory (s : State) (stack : Nat) : State :=
  s.modStk stack fun k => { k with gated := false, inv := some { start := s.now, startup := false }, invDue := none }

/-- End an inventory early: ABORTED, earlier weeding stands (16 Table 16.4, R458). -/
def State.abortInventory (s : State) (stack : Nat) : State :=
  match (s.stk stack).inv with
  | none => s
  | some v =>
    let s := s.modStk stack fun k => { k.reinit with lastInv := some (s.stamp.number, .aborted) }
    if v.startup then s else s.raise 0x81 none (some stack) stack 5 0 0

/-! ## Rescue (16 R449) -/

/-- The folio of a slot fits on a stack with some of its regions free. -/
def State.holdsFolio (s : State) (slot stack regions : Nat) : Bool :=
  match s.folio? slot with
  | none => false
  | some f => ((s.stk stack).annexOk || !folioWide f) && (s.placeNew slot f { stack := stack, free := List.range regions } none).isSome

/-- Tenants' classes of a stack. -/
def StackSt.tenantsIn (k : StackSt) (lo : Nat) : Bool := !k.shares.isEmpty && k.shares.all fun sh => decide (lo ≤ classOf sh.slot)

/-- The stack that rescues a slot: the step of R449's order, and the stack. -/
def State.rescueStack (s : State) (slot : Nat) : Option (Nat × Nat) :=
  let up : Nat → Bool := fun k => (s.stk k).usable
  let step1 := (List.range 4).find? fun k => up k && (s.stk k).shares.isEmpty && !s.promised k && s.holdsFolio slot k 48
  let step2 := (List.range 4).reverse.find? fun k => up k && (s.stk k).inv.isNone && (s.stk k).tenantsIn 3 && s.holdsFolio slot k 48
  let step3 := (List.range 4).reverse.find? fun k => up k && (s.stk k).inv.isNone && (s.stk k).tenantsIn 2 && s.holdsFolio slot k 48
  let step4 := (List.range 4).find? fun k =>
    let x := s.stk k
    let room := 48 - x.usedRegions.length
    up k && (x.shares.any fun sh => decide (classOf sh.slot ≤ 1)) && (x.share? slot).isNone && decide (x.shares.length < 4)
      && s.holdsFolio slot k room && decide ((firstFree (x.usedBlocks (classOf slot)) 1).length = 1)
      && match s.folio? slot with
        | some f => (s.slackFault k slot f).isNone
        | none => false
  match step1, step2, step3, step4 with
  | some k, _, _, _ => some (1, k)
  | none, some k, _, _ => some (2, k)
  | none, none, some k, _ => some (3, k)
  | none, none, none, some k => some (4, k)
  | none, none, none, none => none

/-- The instant at which the running descriptors of a stack have stopped or ended (16 R449, 06 R181). -/
def State.runOut (s : State) (stack : Nat) : Tick :=
  ((s.stk stack).running.map fun r => match Op.ofCode (dOp r.bits) with
    | some o => if o.preemptible then r.start + (stopPointFrom (s.stk stack).shelfCount r.bits r.cost (r.elapsed s.now) - (r.cost - r.left)) * r.cyc
        else s.dueAt stack r
    | none => 0).foldl max s.now

/-- Rescue one slot; its new stack, where one qualifies. -/
def State.rescue (s : State) (slot : Nat) : State × Option Nat :=
  match s.rescueStack slot with
  | none => (s, none)
  | some (step, k) =>
    let x := s.stk k
    let s := if step = 1 then s.abortInventory k else s.lapse k 2
    let s := if step = 2 ∨ step = 3 then
        let held := s.runOut k
        let s := s.dropAdmitted k [] fun _ => true
        let s := s.modStk k fun k => { k with heldTo := max k.heldTo held }
        x.shares.foldl (fun s sh => s.beginDrain sh.slot k sh.fid) s
      else s
    let need := ((s.folio? slot).map fun f => (f.layers.map (·.regions)).sum).getD 0
    let c : LoanChange := {
      begins := s.stamp.number
      slot := slot
      stack := k
      lend := true
      regions := if step = 4 then max 1 need else 48
      blocks := if step = 4 then (firstFree (x.usedBlocks (classOf slot)) 48).length else 48
      rescue := true }
    (({ s with changes := c :: s.changes }).beginChanges false, some k)

/-- What a fault ends on its stack at once: its charges, its loans and its accepted changes. A live stream whose step is rerun starts from
its ledger image. The replay of any other stream's logged acts at its next charge gives the image that it had (R450, log 153). -/
def State.failStack (s : State) (stack : Nat) (tenants : List Nat) (live : List ChargeSt) (times : List Tick) : State :=
  let s := (s.stk stack).shares.foldl (fun s sh => s.dropUnlent sh.slot stack) s
  let lost := (s.streams.filter fun x => x.place == .resident && x.stack == stack && x.committed.live && live.any (·.names x.sid)).map (·.sid)
  let s := s.dropAdmitted stack lost fun _ => true
  let leave : StreamSt → StreamSt := fun x =>
    if lost.contains x.sid then { x with place := .parked, committed := x.ledger, work := x.ledger, wide := [] }
    else if x.place = .resident ∧ x.stack = stack then x.park else x
  let s : State := { s with streams := s.streams.map leave }
  let s := s.modStk stack fun k => { k with
    faulty := true, shares := [], valid := 0, queue := [], running := [], halted := [], stops := [], saved := [], debts := []
    paying := [], ctxs := [], slices := [], sliceCarry := [], faultTimes := times, overlap := 0, ledgerUse := [] }
  (tenants.foldl (fun s p => s.modPatron p fun q => { q with since := s.stamp.number }) s).lapse stack 1

/-- Rescue a slot that held the stack. -/
def State.rescueTenant (s : State) (tenants : List Nat) (slot : Nat) : State × Option Nat :=
  if tenants.contains slot then s.rescue slot else (s, none)

/-- The faulty stack's inventory, or, at the second fault in 24 h, its weeding (R459). -/
def State.checkFaulty (s : State) (stack faults : Nat) : State :=
  if faults ≥ 2 then s.weedStack stack
  else if s.invRunning then s.modStk stack fun k => { k with invDue := some (s.stamp.number + 1) }
  else s.startInventory stack

/-- A stack becomes faulty: STACKFAULT, isolation, its charges abandoned and its loans ended, rescues, and its inventory or weeding (16
R448, R449, R459). -/
def State.stackFault (s : State) (stack cause : Nat) : State :=
  let k := s.stk stack
  if k.faulty || k.weeded || !k.present then s else
  let tenants := (k.shares.filter fun sh => sh.st != .draining).map (·.slot)
  let live := s.charges.filter fun c => c.stack == stack && c.phase == .admitted && c.hasStreams && c.returns
  let day := 86400000 * msTicks
  let times := (k.faultTimes.filter fun t => decide (s.now < t + day)) ++ [s.now]
  let failed := s.failStack stack tenants live times
  let r0 := failed.rescueTenant tenants 0
  let r1 := r0.1.rescueTenant tenants 1
  let s := (r1.1.stagger failed).raise 0x80 none (some stack) cause (r0.2.getD 0xFF) (r1.2.getD 0xFF) times.length
  (((s.checkFaulty stack times.length).rehome).keepLoans).reconsiderAll s.now

end Sys2Proof.Machine
end

