-- ==== Sys2Proof/Machine/Reports.lean ====
section
/-! DEFINITION. The frames that the hub writes on its own: estimate frames (13 R375), clip and drift frames (04 R108, 13 R376, R377),
service reports and link records (07 R214, R215, 10 R301), and the walk of the drift monitors (05 R148). -/

namespace Sys2Proof.Machine

/-! ## Estimate frames -/

/-- The 64 bytes of a REPORT body (11 Table 11.7). -/
def Report.bytes (r : Report) : Bytes :=
  ((List.range 16).flatMap fun i => leBytes 2 (r.volts.getD i 0)) ++ ((List.range 4).flatMap fun i => leBytes 2 (ofSigned (r.temps.getD i 0) 16))
    ++ leBytes 4 r.modtot ++ leBytes 2 r.bleed.toNat ++ leBytes 2 r.status.toNat ++ leBytes 1 r.last ++ leBytes 1 r.blast
    ++ leBytes 2 r.invalid.toNat ++ List.replicate 12 0#8

/-- A node block: its head (13 Table 13.12), and the report as accepted. -/
def NodeSt.block (n : NodeSt) : Bytes :=
  leBytes 16 (field n.shelf 0 9 + field n.outcome 9 4 + (n.reported && n.fromRetry).toNat * 2 ^ 13 + (n.reported && n.corrected).toNat * 2 ^ 14)
    ++ (if n.reported then n.report.bytes else List.replicate 64 0#8)

/-- The stamp block (13 Table 13.11). -/
def State.stampBlock (s : State) (nnode ncell : Nat) : Bytes :=
  let q := s.sense
  leBytes 128 (s.stamp.number.toNat + s.stamp.run.toNat * 2 ^ 48 + field s.stamp.period 80 6 + s.air.acc.toNat * 2 ^ 86
    + field nnode 96 9 + field ncell 112 14 + ofSigned q.markA 24 * 2 ^ 128 + ofSigned q.markB 24 * 2 ^ 152
    + ofSigned q.stampA 64 * 2 ^ 176 + ofSigned q.stampB 64 * 2 ^ 240 + field q.stampN 304 16 + s.mains.usedStamp.toNat * 2 ^ 320
    + leNat (rowBytes (s.mains.used.take 16)) * 2 ^ 368)

/-- The cells whose streams are live, in ascending SID. -/
def State.shownCells (s : State) : List CellSt :=
  (s.cells.filter fun c => c.sid.any fun sid => (s.stream sid).committed.live).foldl (fun cs c => putBy (fun c => c.sid.getD 0) c cs) []

/-- A cell's record of this stamp is stale; while pair B restarts every one is (16 Table 16.1). -/
def State.staleRecord (s : State) (allStale : Bool) (c : CellSt) : Bool := c.isStale || s.air.acc || allStale || s.steward.bDown.isSome
/-- The records of a cell: the reruns and carried steps since the last frame, then the stamp's own, which where it is stale tells whether the
last committed step was a rerun (08 R226). -/
def State.cellRecords (s : State) (rerun allStale : Bool) (c : CellSt) : List Bytes :=
  (c.extra.map fun l => s.recordBytes c l false true) ++ [s.recordBytes c c.learned (s.staleRecord allStale c) (rerun || c.learned.rerun)]
/-- The cell steps reported stale in this stamp enter the estimator's count (07 Table 7.6). -/
def State.countStale (s : State) (allStale : Bool) : State :=
  s.modCtr 1 fun t => { t with stale := natSat (t.stale + (s.shownCells.filter (s.staleRecord allStale)).length) 32 }

/-- The estimate frame of the stamp (13 R375); after a takeover every record carries RERUN (12 R358). -/
def State.estimateFrame (s : State) (rerun allStale : Bool) : HeldFrame :=
  let recs := s.shownCells.flatMap (s.cellRecords rerun allStale)
  { ftype := 1, stamp := s.stamp.number, nrec := recs.length
    payload := s.stampBlock s.nodes.length recs.length ++ s.nodes.flatMap NodeSt.block ++ recs.flatten }

/-- Write it to ring 0. -/
def State.writeEstimates (s : State) (rerun : Bool) : State :=
  let f := s.estimateFrame rerun false
  let s := (s.sendFrame 0 f.ftype f.stamp f.nrec f.payload).countStale false
  { s with stamp := { s.stamp with framed := true }, cells := s.cells.map fun c => { c with extra := [] } }

/-- A patron is LENT or CHANGING: it has a share of some stack. -/
def State.served (s : State) (p : Nat) : Bool := (List.range 4).any fun k => (s.stk k).shares.any fun sh => sh.slot == p
/-- A step of a sample of this stamp is still to commit: a charge that has not stepped its cell yet names it, or none does yet. -/
def State.ownStepsOpen (s : State) : Bool :=
  let n := s.stamp.number
  let open? : Nat → Bool := fun sid => (s.cell? sid).any fun c => !c.stepped
  (s.charges.any fun c => !c.abandoned && c.stamps.any fun x => x.2.1 == n && open? x.1)
    || (s.served 1 && s.cells.any fun c => c.sid.any s.stepDue)
/-- A step that this stamp has admitted, or that is its own, is still to commit. -/
def State.stepsOpen (s : State) : Bool :=
  s.ownStepsOpen || s.charges.any fun c => !c.abandoned && c.phase == .admitted && match c.kind with
    | .step _ _ => true
    | _ => false

/-- The instant at which the stamp ends: its boundary, or a takeover's early one (12 R356). -/
def State.stampEnd (s : State) : Tick := (s.roleSt.takeoverAt.toList).foldl min s.nextBoundary
/-- The stamp's frame may be written: its reports and steps have ended, or its deadline has come. A standby writes its own copy for its own host (13
R375). -/
def State.frameDue (s : State) : Bool :=
  !s.stamp.framed && !s.shownCells.isEmpty && s.steward.aDown.isNone
    && ((s.sense.marked && (s.air.acc || s.air.lossDone || s.air.nu == 0) && !s.ownStepsOpen) || decide (s.stampEnd ≤ s.now + us 200))

/-! ## Clip frames and events (04 R107, R108, 13 R376) -/

/-- One tensor at a boundary: its share, its saturation counter, and whether a clip event is due. -/
def State.clipTensor (s : State) (p : Nat) (t : TensorCnt) : TensorCnt × Bool :=
  let share := clipShare t.clipped t.produced
  if (s.tensor? p t.tensor).isNone then ({ t with share := share }, false) else
  let sat := if share > s.getN (.tensorTheta p t.tensor) then t.sat + 1 else t.sat - 1
  let due := decide (0 < sat ∧ s.getN (.tensorLimit p t.tensor) ≤ sat)
  ({ t with share := share, sat := if due then 0 else sat }, due)

/-- The stream with the most clipped elements, the lowest on a tie. -/
def mostClipped (xs : List (Nat × Nat)) : Nat :=
  ((List.foldl (fun (b : Nat × Nat) (x : Nat × Nat) => if b.2 < x.2 ∨ (b.2 = x.2 ∧ x.1 < b.1) then x else b) (xs.headD (0, 0)) xs)).1

/-- The CLIP frame and events of a patron for the stamp just ended. -/
def State.clipPatron (s : State) (p : Nat) : State :=
  let q := s.patron p
  let out := q.tensors.map fun t => (t, s.clipTensor p t)
  let s : State := if q.tensors.any fun t => t.produced != 0 then
      s.sendFrame 2 4 (s.stamp.number - 1) q.tensors.length (leBytes 8 p ++ out.flatMap fun o =>
        leBytes 8 (field o.1.tensor 0 8 + field (min 255 o.2.1.sat) 8 8 + field (min 65535 o.2.1.share) 16 16 + natSat o.1.clipped 32 * 2 ^ 32))
    else s
  let s := s.modPatron p fun q => { q with tensors := out.map fun o => { o.2.1 with produced := 0, clipped := 0, byStream := [] } }
  (out.filter fun o => o.2.2).foldl (fun s o =>
    let layer := ((s.tensor? p o.1.tensor).map (·.layer)).getD 0
    s.raise 0x26 (some p) none (q.folio.getD 0).toNat (layer * 256 + o.1.tensor) o.2.1.share (mostClipped o.1.byStream)) s
def State.clipFrames (s : State) : State := (List.range 16).foldl State.clipPatron s

/-! ## Drift monitors (05 R148, R150, R151, 13 R377) -/

/-- Live streams of a slot that are PARKED or RESIDENT, ascending. -/
def State.liveStreams (s : State) (p : Nat) : List Nat :=
  (s.streams.filter fun x => x.slot == p && x.committed.live && (x.place == .parked || x.place == .resident)).map (·.sid)

/-- The DRIFT frame of a patron, where its stamp has something to show. -/
def State.driftFrame (s : State) (p : Nat) : State :=
  let m := (s.patron p).monitor
  let show? := decide (0 < m.shadowed) || m.rebuilt || m.dropped.isSome
  let s := if show? && !(s.liveStreams p).isEmpty then
      s.sendFrame 2 5 (s.stamp.number - 1) 1 (leBytes 16 (field p 0 4 + (s.getN .driftMonitor) % 2 * 16 + field m.layer 5 3 + field m.sid 8 13
        + field m.chan 24 12 + natSat m.dmax 32 * 2 ^ 40 + natSat m.shadowed 8 * 2 ^ 72 + m.evented.toNat * 2 ^ 80 + m.rebuilt.toNat * 2 ^ 81
        + m.dropped.isSome.toNat * 2 ^ 82 + (m.dropped.getD false).toNat * 2 ^ 83))
    else s
  s.modPatron p fun q => { q with monitor := { m with
    shadowed := 0
    dmax := 0
    evented := false
    rebuilt := false
    rebuiltDwell := m.rebuiltDwell || m.rebuilt
    dropped := none } }
def State.driftFrames (s : State) : State := (List.range 16).foldl State.driftFrame s

/-- The triple after one: the next channel, the next layer, the next live stream, around. -/
def nextTriple (dims : List (Nat × Nat)) (live : List Nat) (m : Monitor) : Nat × Nat × Nat :=
  let chans := (dims.getD m.layer (0, 0)).1
  if m.chan + 1 < chans then (m.sid, m.layer, m.chan + 1)
  else if m.layer + 1 < dims.length then (m.sid, m.layer + 1, 0)
  else (((live.find? fun x => decide (m.sid < x)).getD (live.headD 0)), 0, 0)

/-- At the boundary of a mirror stamp a rebuild that has not started is dropped, which the record of the stamp that ends tells (R151). -/
def State.lapseRebuild (s : State) (p : Nat) : State :=
  let m := (s.patron p).monitor
  let waits : ChargeSt → Bool := fun c => c.phase == .queued && c.slot == p && c.kind == .rebuild m.sid
  if !(m.rebuildDue || s.charges.any waits) then s else
  ({ s with charges := s.charges.filter fun c => !waits c } : State).modPatron p fun q => { q with monitor := { m with
    rebuildDue := false
    dropped := some true } }

/-- A mirror stamp begins: the monitor moves. The spec does not say which triple it watches first, nor where it goes when its stream is no
longer live: it takes the lowest live stream, or the next higher one, at layer 0 and channel 0 (log 117). -/
def State.moveMonitor (s : State) (p : Nat) : State :=
  let m := (s.patron p).monitor
  let live := s.liveStreams p
  let dims := ((s.folio? p).map (·.stateLayers)).getD []
  if live.isEmpty ∨ dims.isEmpty ∨ s.getN .driftMonitor = 0 then s.modPatron p fun q => { q with monitor := {} }
  else
    let tr := if m.valid then (if live.contains m.sid then nextTriple dims live m else nextTriple dims live { m with layer := dims.length, chan := 0 })
      else (live.headD 0, 0, 0)
    s.modPatron p fun q => { q with monitor := { sid := tr.1, layer := tr.2.1, chan := tr.2.2, valid := true } }

/-- At the end of a mirror stamp the watched image becomes the monitor card, and the shadow starts from it (R149). -/
def State.takeMonitor (s : State) (p : Nat) : State :=
  let m := (s.patron p).monitor
  if !m.valid then s else
  let i := (s.stream m.sid).committed
  let nn := (i.dims.getD m.layer (0, 0)).2
  s.modPatron p fun q => { q with monitor := { m with
    card := some i
    shadow := (((i.state.getD m.layer []).drop (m.chan * nn)).take nn).map (· * 65536) } }

/-- The drift monitors at a boundary: after a mirror stamp the card, at one the end of the dwell, the records of the stamp that ends, and at a
mirror stamp the move (R148, R149, R151, 13 R377). -/
def State.monitors (s : State) : State :=
  let n := s.stamp.number.toNat
  let all : (State → Nat → State) → State → State := fun f s => (List.range 16).foldl f s
  let s := if n % 64 = 1 then all State.takeMonitor s else s
  let s := (if n % 64 = 0 then all State.lapseRebuild s else s).driftFrames
  if n % 64 = 0 then all State.moveMonitor s else s

/-! ## Service reports and link records (02 R51, 07 R214, R215, 10 R301) -/

/-- The boundaries at which reports are written. -/
def reportBoundary (n period : Nat) : Bool := decide (0 < n ∧ n * period / 1000 ≠ (n - 1) * period / 1000)

/-- The slow-down of R215. -/
def slowdown (solo admitted : Nat) : Nat :=
  if admitted ≠ 0 then min 65535 (ceilDiv (256 * solo) admitted) else if solo ≠ 0 then 65535 else 256

/-- The 64-byte service report (07 Table 7.6). -/
def State.serviceReport (s : State) (p : Nat) : Bytes :=
  let c := (s.patron p).ctr
  leBytes 64 (field p 0 4 + field (classOf p) 4 2 + c.rota.toNat * 64 + c.starved.toNat * 128
    + field (s.stackMask fun k => k.lentTo p) 8 4 + c.first.toNat * 2 ^ 16 + natSat c.nstamps 16 * 2 ^ 64 + natSat c.admitted 48 * 2 ^ 80
    + natSat c.solo 48 * 2 ^ 128 + natSat c.late 16 * 2 ^ 176 + natSat c.lateMax 16 * 2 ^ 192 + field (slowdown c.solo c.admitted) 208 16
    + natSat c.busy 16 * 2 ^ 224 + natSat c.preempt 16 * 2 ^ 240 + natSat c.spilled 16 * 2 ^ 256 + natSat c.lost 16 * 2 ^ 272
    + natSat c.rotaNodes 16 * 2 ^ 288 + natSat c.twinOnly 16 * 2 ^ 304 + natSat c.stale 32 * 2 ^ 320 + natSat c.debt 32 * 2 ^ 352
    + natSat c.overlap 32 * 2 ^ 384)

/-- The 16-byte link record (10 Table 10.10). -/
def State.linkRecord (s : State) (n : NodeSt) : Bytes :=
  let l := n.link
  leBytes 16 (field n.shelf 0 9 + field (s.lchOf n.shelf) 9 2 + s.air.pairs.toNat * 2 ^ 11 + natSat l.due 16 * 2 ^ 16 + natSat l.accepted 16 * 2 ^ 32
    + natSat l.retried 16 * 2 ^ 48 + natSat l.learned 16 * 2 ^ 64 + natSat l.twin 16 * 2 ^ 80 + field l.snr 96 8 + ofSigned l.cfo 8 * 2 ^ 104
    + ofSigned l.toff 8 * 2 ^ 112 + natSat l.late 8 * 2 ^ 120)

/-- The SERVICE and LINK frames of a report boundary, of the stamps that have ended, the link records as they stood at their end; the counts start
again. -/
def State.serviceFrames (s : State) (links : List Bytes) : State :=
  let n := s.stamp.number
  if !reportBoundary n.toNat s.stamp.period then s else
  let ps := (List.range 16).filter s.served
  let reps := ps.map fun p => (p, s.serviceReport p)
  let s := s.sendFrame 2 3 (n - 1) reps.length (reps.flatMap (·.2))
  let s := reps.foldl (fun s r => s.modPatron r.1 fun q => { q with latest := some r.2, ctr := { first := n } }) s
  let s := s.sendFrame 2 6 (n - 1) links.length links.flatten
  { s with nodes := s.nodes.mapIdx fun i x => { x with latest := links[i]?, link := { snr := x.link.snr, cfo := x.link.cfo, toff := x.link.toff } } }

/-- A stamp of each served patron's report has passed. -/
def State.countStamps (s : State) : State :=
  { s with patrons := s.patrons.map fun q => if s.served q.slot then
      { q with ctr := { q.ctr with first := if q.ctr.nstamps = 0 then s.stamp.number else q.ctr.first, nstamps := natSat (q.ctr.nstamps + 1) 16 } } else q }

end Sys2Proof.Machine
end

