-- ==== Sys2Proof/Machine/Reset.lean ====
section
/-! DEFINITION. What a loss of power, a reset or a life-cycle move leaves (15 R421, R437, 16 R463, R465), and how a hub takes a role (15
R439, R441, 12 R356, R359). -/

namespace Sys2Proof.Machine

/-! ## Volatile state -/

/-- Everything but the archive, the fuses, the retired ledger pages and the count of shutdowns as power-up leaves it. The stacks are numbered by the fuses as they stand then: a
FUSEPROG of ENMASK shows in the numbering, GRADE and NSTACK from the next power-up, reset or restart on (00 R3, log 144). -/
def State.fresh (s : State) : State :=
  { State.reset with
    now := s.now
    archive := s.archive
    free := s.free
    out := s.out
    pending := s.pending
    stackList := Sys2Proof.Machine.stacksOf s.test.fuses
    power := { shutdowns := s.power.shutdowns }
    steward := { retired := s.steward.retired, retiredPages := s.steward.retiredPages }
    test := { fuses := s.test.fuses, lifeEvent := s.test.lifeEvent } }

/-- A power-up is counted in the archive (02 R32). -/
def State.countPowerUp (s : State) : State := { s with archive := { s.archive with powerUps := s.archive.powerUps + 1 } }

/-- The timeline resumes at its 12 ms point, rails and porter up, as a power-up (15 R437). -/
def State.resumeAt12 (s : State) (start : StartKind) : State :=
  let p := s.power
  { s.fresh.countPowerUp with power := {
      porter := true
      origin := s.now - 12 * msTicks
      bken := p.bken
      good := p.good
      enabledAt := p.enabledAt
      shutdowns := p.shutdowns
      railFault := p.railFault
      start := start } }

/-- A rail shutdown (15 R421): the enables go in reverse order, 200 µs apart. Those for a rail fault and after a snapshot are counted (16 R456, log 158). -/
def State.shutRails (s : State) (fault : Option Nat) (counted : Bool) (wait : PorterWait) : State :=
  let p := s.power
  let on := [4, 3, 2, 1, 0].filter fun k => p.bken.getLsbD k
  { s.fresh with power := {
      porter := true
      origin := p.origin
      waiting := wait
      waitFrom := s.now
      offTimes := on.mapIdx fun i k => (k, s.now + i * us 200)
      shutdowns := p.shutdowns + counted.toNat
      railFault := if fault.isSome then fault else p.railFault
      rstLow := p.rstLow } }

/-- BKENk now: raised, or not yet removed by a shutdown. -/
def Power.bkenNow (p : Power) (now : Tick) (k : Nat) : Bool := p.bken.getLsbD k || p.offTimes.any fun o => o.1 == k && decide (now < o.2)

/-- An instant of the timeline of 15 Table 15.6 has come. -/
def State.reached (s : State) (ms : Nat) : Bool := decide (s.power.origin + ms * msTicks ≤ s.now)

/-- The steward runs: booted, not held by RST_N, rails up. -/
def State.awake (s : State) : Bool := s.power.porter && s.power.booted && s.power.rstLow.isNone

/-! ## Life-cycle moves (16 R463 to R466) -/

/-- Blow fuse bits. -/
def State.blow (s : State) (bits : Nat) : State := { s with test := { s.test with fuses := s.test.fuses ||| BitVec.ofNat 1344 bits } }
/-- KEY0 to KEY3 and ENCKEY, bits 64 to 1343, with KILL. -/
def keyFuses : Nat := 2 ^ 5 + (2 ^ 1344 - 2 ^ 64)

/-- The lectern selections of a start or a move (R461). -/
def State.resetLectern (s : State) : State := { s with test := { s.test with lect0 := .stamp, lect1 := .ready } }

/-- Steps 3 to 7 of a move to RETURNED (R465). -/
def State.finishReturn (s : State) : State :=
  let s := (s.blow keyFuses).blow (2 ^ 3)
  let a := s.archive
  let s : State := { s with archive := { a with
    folios := []
    draft := none
    draftArea := []
    staging := []
    snapshot := {}
    spineKey := none
    bindings := []
    loans := []
    saved := a.saved.filter fun p => match p.1 with
      | .streamShift _ _ => false
      | _ => true } }
  ({ s with test := { s.test with lifeEvent := some (3, 4) } }).resumeAt12 .cold

/-- An accepted move takes effect; the state entered is 1 to 4 (R463). -/
def State.lifeMove (s : State) (dest : Nat) : State :=
  let s : State := { s with test := { s.test with lifeDue := [] } }
  match dest with
  | 1 => ({ (s.blow 1) with test := { (s.blow 1).test with lifeEvent := some (0, 1) } } : State).resumeAt12 .cold
  | 4 => (s.blow (2 ^ 4)).finishReturn
  | n => ((s.blow (2 ^ (n - 1))).resetLectern).raise 0x88 none none (n - 1) n 0 0

/-! ## Taking a role -/

/-- IRQ[11] marks a change of ROLE. -/
def State.setRole (s : State) (r : Role) : State :=
  let s' : State := { s with roleSt := { s.roleSt with role := r, decided := true, listenTo := none } }
  if s.roleSt.role = r then s' else s'.irqSet 11

/-- IRQ[11] marks a change of SPINE. -/
def State.setSpine (s : State) (x : SpineState) : State :=
  if s.spine.state = x then s else ({ s with spine := { s.spine with state := x } } : State).irqSet 11

/-- Training begins at phase 0 (12 R343): the session's sequences, counts and secured counts start again. -/
def State.startTraining (s : State) : State :=
  let s := s.setSpine .training
  let draw := s.freeNat
  let s := if s.spine.sideB then s else { draw.2 with spine := { s.spine with session := BitVec.ofNat 32 draw.1 } }
  { s with spine := { s.spine with
      phase := 0, phaseAt := s.now, detects := 0, goodRx := 0, goodTx := 0, rounds := [], txSeq := 0, rxSeq := 0, ackIn := 0
      ackAt := s.now, sent := [], txCount := 0, rxCount := none, discards := [], partnerRole := none } }

/-- A primary without nodes sends its wake pulse once HRDY has risen (15 R441). -/
def State.wakeChain (s : State) : State :=
  if s.leads && !s.port.boot && s.acc.phase == .idle && !s.blank then { s with acc := { s.acc with phase := .wakeDue } } else s

/-- Take the role of a primary, or of a hub alone. -/
def State.becomePrimary (s : State) : State :=
  let s := s.setRole (if s.spine.partner then .primary else .alone)
  (({ s with roleSt := { s.roleSt with unaligned := false } } : State).wakeChain).syncConfigs true

/-- Give back every loan and what runs under it. -/
def State.dropLoans (s : State) : State :=
  { s with
    charges := []
    changes := []
    pageChanges := []
    patrons := s.patrons.map fun p => { p with pages := 0, mirror := 0 }
    stackList := s.stackList.map fun k => { k with
      shares := [], valid := 0, queue := [], running := [], halted := [], stops := [], saved := [], slices := [], sliceCarry := [], ctxs := []
      debts := [], paying := [], ledgerUse := [], overlap := 0, gated := true }
    streams := s.streams.map StreamSt.park }

/-- Accession on a hub that stops leading: one that has begun no slot lapses (01 R19). -/
def Acc.lapse (a : Acc) (known : Bool) : Acc :=
  { a with
    btnOut := false
    due := none
    phase := match a.phase with
      | .running => .running
      | .ended => .ended
      | _ => if known then .ended else .idle }

/-- Take the role of a standby: every live stream is unaligned, nothing is transmitted, and its own front end's codes no longer count (12 R354, 15
R439, 01 R20). At start-up it consumes its snapshot and drops the loans it placed. -/
def State.becomeStandby (s : State) (startup : Bool) : State :=
  let s := s.setRole .standby
  let s := if startup then
      let s := s.dropLoans
      { s with
        keptPlaced := true
        restoring := none
        streams := s.streams.map fun x => { x with held := false }
        power := { s.power with start := .cold }
        archive := { s.archive with snapshot := { s.archive.snapshot with consumed := true } } }
    else s
  { s with
    roleSt := { s.roleSt with
      informed := false, adopted := false, yieldAt := none, silentFrom := none, lostAt := none, takeoverAt := none
      failing := s.power.brownAt.isSome }
    patrons := s.patrons.map fun p => { p with mirror := 0 }
    mains := { s.mains with samples := [] }
    streams := s.streams.map fun x => { x with aligned := false }
    spine := { s.spine with
      acts := [], pendingSeals := [], sealedRx := none, sealIn := none, partSeal := [], cards := [], digests := [], cardsDue := []
      seals := [], lateCards := [], heard := [], frames := [], roster := none }
    sense := { s.sense with msA := [], msB := [], msMains := [], fullMs := [] }
    air := { s.air with beacons := false }
    acc := s.acc.lapse (!s.nodes.isEmpty) }

end Sys2Proof.Machine
end

