-- ==== Sys2Proof/Machine/Link.lean ====
section
/-! DEFINITION. Sending on the spine (12): the bytes of its frames, sequences, secured mode, and heartbeats. -/

namespace Sys2Proof.Machine

/-! ## Frames byte by byte (R344, Tables 12.3 to 12.6). The spec gives the header, the heartbeat and what the others hold; the layout of the others
is the model's (log 123) -/

/-- TYPE of a frame (12 Table 12.4). -/
def SpineMsg.ftype : SpineMsg → Nat
  | .train _ => 1 | .heartbeat _ => 2 | .role _ => 3 | .config _ _ => 4 | .sense _ _ _ _ _ => 5 | .seal _ => 6 | .card _ _ _ => 7

/-- Fields of given widths, one after the other from bit 0 on. -/
def packBits : List (Nat × Nat) → Nat
  | [] => 0
  | f :: fs => f.2 % 2 ^ f.1 + 2 ^ f.1 * packBits fs

/-- Bytes of a seal record (12 Table 12.6): an order whose body is longer than 8 bytes takes two. -/
def SealRec.size : SealRec → Nat
  | .report _ _ _ p => ceilDiv (8 + p.length) 8 * 8
  | .order _ _ _ _ b => if b.length ≤ 8 then 16 else 32
  | _ => 32
/-- Records that it counts as. -/
def SealRec.records : SealRec → Nat
  | .order _ _ _ _ b => if b.length ≤ 8 then 1 else 2
  | _ => 1
/-- One ORDER record with the first 8 bytes of a body. -/
def orderRecord (shelf mtype seq : Nat) (sync : Bool) (body : Bytes) : Bytes :=
  leBytes 8 (packBits [(4, 0xA), (9, shelf), (8, seq), (1, sync.toNat), (8, mtype), (8, body.length)])
    ++ body.take 8 ++ List.replicate (8 - body.length) 0#8
/-- A seal record: KIND in the first four bits, and its content (12 Table 12.6). -/
def SealRec.bytes : SealRec → Bytes
  | .step sid l reset rerun sample features =>
    leBytes 32 (packBits [(4, 1), (13, sid), (16, l), (1, reset.toNat), (1, rerun.toNat), (48, sample.toNat), (48, features.toNat)])
  | .rebuild sid first last => leBytes 32 (packBits [(4, 2), (13, sid), (48, first), (48, last)])
  | .shift sid layer j => leBytes 32 (packBits [(4, 3), (13, sid), (4, layer), (3, j)])
  | .create sid portable live seed => leBytes 32 (packBits [(4, 4), (13, sid), (1, portable.toNat), (1, live.toNat), (64, seed.toNat)])
  | .imported sid portable live digest => leBytes 32 (packBits [(4, 5), (13, sid), (1, portable.toNat), (1, live.toNat), (128, leNat digest)])
  | .exported sid => leBytes 32 (packBits [(4, 6), (13, sid)])
  | .freed sid => leBytes 32 (packBits [(4, 7), (13, sid)])
  | .setting seq stamp => leBytes 32 (packBits [(4, 8), (16, seq.toNat), (48, stamp.toNat)])
  | .report shelf slot outcome p =>
    leBytes 8 (packBits [(4, 9), (9, shelf), (8, slot), (3, outcome), (8, p.length)]) ++ p ++ List.replicate (ceilDiv p.length 8 * 8 - p.length) 0#8
  | .order shelf mtype seq sync body =>
    orderRecord shelf mtype seq sync body ++ (if body.length ≤ 8 then [] else orderRecord shelf mtype seq sync (body.drop 8))
  | .fin stamp count first last => leBytes 32 (packBits [(4, 0xF), (48, stamp.toNat), (16, count), (13, first), (13, last)])

/-- The item of a CONFIG frame: settings as Usith writes them. -/
def ConfigItem.bytes : ConfigItem → Bytes
  | .setting n v => 1#8 :: (n.text ++ 0x3D#8 :: (RVal.setting n v).text)
  | .script port centre body => [2#8, BitVec.ofNat 8 port, BitVec.ofNat 8 ((centre.map (· + 1)).getD 0)] ++ body
  | .twinset set body => [3#8, BitVec.ofNat 8 set] ++ body
  | .loan (.lend slot mask pages regions blocks claim total) =>
    [4#8] ++ leBytes 8 (packBits [(4, slot), (4, mask), (16, pages), (8, regions), (8, blocks), (8, claim), (1, total.toNat)])
  | .loan (.release slot mask) => [5#8] ++ leBytes 1 (packBits [(4, slot), (4, mask)])
  | .loan (.move slot src dst) => [6#8] ++ leBytes 2 (packBits [(4, slot), (4, src), (4, dst)])
  | .promotion pub slot place => [7#8] ++ leBytes 6 (packBits [(32, pub), (8, slot), (1, place.isSome.toNat), (2, (place.map (·.1)).getD 0),
      (1, (place.any (·.2)).toNat)])
  | .roster ids => 8#8 :: ids.flatMap fun r => leBytes 2 r.1 ++ leBytes 8 r.2.toNat

/-- What a message says, byte by byte. -/
def SpineMsg.bytes : SpineMsg → Bytes
  | .train i => leBytes 24 (packBits [(2, i.role.getD 0), (1, i.role.isNone.toNat), (1, i.side.toNat), (32, i.run.toNat), (48, i.stamp.toNat),
      (32, i.session.toNat), (32, i.roundTrip), (32, i.turnaround)])
  | .heartbeat p => leBytes 16 p.toNat
  | .role n => match n with
    | .claim => [0#8]
    | .yield => [1#8]
    | .takeover => [2#8]
  | .config item live => leBytes 6 live.toNat ++ ConfigItem.bytes item
  | .sense stamp ms ca cb mains => leBytes 6 stamp.toNat ++ [BitVec.ofNat 8 ms] ++ (ca ++ cb ++ mains.flatten).flatMap fun x => leBytes 3 (ofSigned x 24)
  | .seal recs => recs.flatMap SealRec.bytes
  | .card head body twin => leBytes 16 head.toNat ++ body ++ twin

/-- Frames that a message takes, of 1,024 payload bytes at most, and what one of them carries (log 81). -/
def SpineMsg.frames (m : SpineMsg) : Nat := max 1 (ceilDiv m.bytes.length 1024)
def SpineMsg.part (m : SpineMsg) (i : Nat) : Bytes := (m.bytes.drop (1024 * i)).take 1024

/-- The frame header (12 Table 12.3). -/
def spineHeader (ftype : Nat) (sideB sec : Bool) (len : Nat) (seq ack : BitVec 16) (stamp : BitVec 48) : BitVec 128 :=
  BitVec.ofNat 128 (ftype % 16 + sideB.toNat * 2 ^ 4 + sec.toNat * 2 ^ 5 + field len 8 11 + seq.toNat * 2 ^ 32 + ack.toNat * 2 ^ 48
    + stamp.toNat * 2 ^ 64)

/-- The nonce of a secured frame: the session value, the sender's count, and its side (R347). -/
def spineNonce (session : BitVec 32) (count : Nat) (sideB : Bool) : Bytes :=
  leBytes 12 (packBits [(32, session.toNat), (63, count), (1, sideB.toNat)])
/-- The spine key; none has been set: zeros (log 124). -/
def State.spineKeyBytes (s : State) : Bytes := s.archive.spineKey.getD (List.replicate 32 0#8)

/-! ## Sending -/

/-- The bytes of a frame behind its preamble, in their order (R344). -/
def frameBytes (hdr : BitVec 128) (sent tag : Bytes) (crc : BitVec 32) : Bytes := leBytes 16 hdr.toNat ++ sent ++ tag ++ leBytes 4 crc.toNat
/-- The symbols of a frame that has left the hub (R341, R342). -/
def Out.symbols : Out → List Int
  | .spine _ _ hdr sent tag crc => pamOf (frameBytes hdr sent tag crc)
  | _ => []
/-- Between frames the register runs on, and its output is the line's idle: the symbol at this instant (R342). -/
def State.idleSymbol (s : State) : Int :=
  let r := scramAfter (2 * symbolsIn (s.now - s.spine.lineFree)) s.spine.scram
  levelOf (spineScramStep (spineScramStep r).2).1 (spineScramStep r).1

/-- A frame of a message leaves on the line. In secured mode every frame but TRAIN is encrypted, with its header as the associated data and the
first 8 bytes of the tag behind it (R346); the CRC covers the header and the payload as sent (R344). -/
def State.putSpine (s : State) (seq : BitVec 16) (stamp : BitVec 48) (m : SpineMsg) (part : Nat) : State :=
  let text := m.part part
  let sec : Bool := s.getN .spineSecure = 1 && m.ftype != 1
  let hdr := spineHeader m.ftype s.spine.sideB sec text.length seq s.spine.rxSeq stamp
  let above := leBytes 16 hdr.toNat
  let nonce := spineNonce s.spine.session s.spine.txCount s.spine.sideB
  let sent := if sec then gcmText s.spineKeyBytes nonce text else text
  let tag := if sec then (gcmTag s.spineKeyBytes nonce above sent).take 8 else []
  let size := 20 + sent.length + tag.length
  { s with
    out := .spine m part hdr sent tag (crc32 (above ++ sent)) :: s.out
    spine := { s.spine with
      txCount := s.spine.txCount + sec.toNat
      scram := scramAfter (8 * size) scramStart
      lineFree := max s.now s.spine.lineFree + symbolSpan (32 + 4 * size) } }

/-- An unsequenced frame names the last sequence sent. -/
def State.sendFree (s : State) (m : SpineMsg) : State := s.putSpine s.spine.txSeq s.stamp.number m 0

/-- Bytes outstanding: of the frames kept, header and payload (R345). -/
def State.outstanding (s : State) : Nat := (s.spine.sent.map fun f => 16 + (f.msg.part f.part).length).sum
/-- The bytes that the spine buffers hold for frames sent. -/
def spineBuffer : Nat := 524288

/-- A sequenced frame is kept until an ACK covers it, while the buffers have room (R345, log 125). -/
def State.sendPart (s : State) (m : SpineMsg) (part : Nat) : State :=
  let q := s.spine.txSeq + 1
  let keep := decide (s.outstanding + 16 + (m.part part).length ≤ spineBuffer)
  let s := s.putSpine q s.stamp.number m part
  { s with spine := { s.spine with
      txSeq := q
      ackAt := if s.spine.sent.isEmpty then s.now else s.spine.ackAt
      sent := if keep then s.spine.sent ++ [{ seq := q, stamp := s.stamp.number, msg := m, part := part }] else s.spine.sent } }
/-- Bytes that the frames of a message hold of the spine buffers. -/
def SpineMsg.held (m : SpineMsg) : Nat := 16 * m.frames + m.bytes.length
/-- A sequenced message goes out frame by frame. -/
def State.sendSeq (s : State) (m : SpineMsg) : State :=
  if s.spine.state ≠ .up then s else (List.range m.frames).foldl (fun s i => s.sendPart m i) s

/-- Live streams, and how many of them are not aligned (Table 12.5). -/
def State.liveSids (s : State) : List Nat :=
  (s.streams.filter fun x => x.committed.live && (x.place == .parked || x.place == .resident)).map (·.sid)
def State.unaligned (s : State) : Nat :=
  (s.liveSids.filter fun x => !(s.stream x).aligned).length

/-- ROLE of 12 Table 12.5. -/
def Role.code : Role → Nat
  | .alone => 0 | .primary => 1 | .standby => 2 | .yielding => 3
def Role.ofCode : Nat → Role
  | 0 => .alone | 1 => .primary | 2 => .standby | _ => .yielding

/-- The heartbeat's payload (12 Table 12.5). -/
def State.heartbeat (s : State) : BitVec 128 :=
  let done := if s.leads then s.spine.sealedTx else s.spine.sealedRx
  BitVec.ofNat 128 (s.roleSt.role.code + s.roleSt.failing.toNat * 4 + field ((s.now - s.stamp.t0) / crystalTicks) 4 21
    + s.stamp.run.toNat * 2 ^ 32 + (done.getD 0).toNat * 2 ^ 64 + field (if s.leads then 0 else s.unaligned) 112 16)

/-- Forward an item that becomes live at a stamp (02 R28, 07 R201, 09 R259). -/
def State.forward (s : State) (item : ConfigItem) (live : BitVec 48) : State :=
  if !(s.leads && s.spine.partner) then s else
  let s := s.sendSeq (.config item live)
  match item with
  | .setting _ _ => { s with spine := { s.spine with cfgSent := s.spine.cfgSent ++ [(live, s.spine.txSeq)] } }
  | _ => s

end Sys2Proof.Machine
end

