-- ==== Sys2Proof/Machine/Streams.lean ====
section
/-! DEFINITION. What the steward does to streams on request, in the order received: free, export, copy-out and import (05 R139 to
R146, 13 R371, R382), and the limits on live streams (12 R355, 15 R432). -/

namespace Sys2Proof.Machine

/-- LENGTH + 128 of a stream where a test picks it (12 R355, 15 R432). -/
def StreamSt.weight (x : StreamSt) : Nat := if x.place = .parked ∨ x.place = .resident then x.committed.length + 128 else 0
/-- Bytes per 64 stamps that a mirror may take at a period. -/
def mirrorLimit (period : Nat) : Nat := 124000 * period * 64
/-- Live bytes that the mirror takes. -/
def State.mirrorBytes (s : State) : Nat := ((s.streams.filter fun x => x.committed.live).map StreamSt.weight).sum
/-- Whether an image of a length in the place of an identifier keeps a configured pair's mirror within its limit (12 R355). -/
def State.mirrorFits (s : State) (sid len : Nat) : Bool :=
  let x := s.stream sid
  !s.spine.partner || decide (s.mirrorBytes - (if x.committed.live then x.weight else 0) + len + 128 ≤ mirrorLimit s.stamp.period)

/-- Whether it keeps the snapshot within its limit (15 R432). -/
def State.snapshotFits (s : State) (sid len : Nat) : Bool :=
  let x := s.stream sid
  decide (s.snapshotBytes - (if x.slot = 1 then x.weight else 0) + len + 128 ≤ 66060288)

/-- A pending rebuild of a stream is dropped: it was exported, freed or imported (05 R151). -/
def State.dropRebuild (s : State) (sid : Nat) : State :=
  let s : State := { s with patrons := s.patrons.map fun p =>
    if p.monitor.valid ∧ p.monitor.sid = sid ∧ p.monitor.rebuildDue then
      { p with monitor := { p.monitor with rebuildDue := false, dropped := some false } } else p }
  { s with charges := s.charges.filter fun c => c.phase == .admitted || c.kind != .rebuild sid }

/-- Park a stream where it is resident (05 R135). -/
def State.parkNow (s : State) (sid : Nat) : State := s.modStream sid StreamSt.park

/-- Free a stream (05 R139). -/
def State.freeStream (s : State) (sid : Nat) : State :=
  ((((s.dropRebuild sid).parkNow sid).modStream sid StreamSt.release).remapCells).actOn (s.stream sid).committed.live (.freed sid)

/-- The CARD frame of a stream (13 R382). -/
def State.cardFrame (s : State) (copy : Bool) (tag : Nat) (x : StreamSt) : HeldFrame :=
  { ftype := 0x0B, stamp := s.stamp.number, nrec := 1
    payload := payloadHead tag x.sid copy.toNat false 0 0 0 x.gen.toNat ++ x.committed.card }

/-- The reply of an export or copy-out whose frame is announced; an export then leaves the hub (05 R141, R142). -/
def State.cardDone (s : State) (w : StreamWait) (copy : Bool) (gen step : Nat) : State :=
  if copy then s.answer w.ses w.lineNo [.ok [("gen", .nat gen), ("step", .nat step)]]
  else
    let s := (((s.dropRebuild w.sid).modStream w.sid fun x => { x.release with place := .exported, slot := x.slot }).remapCells).actOn (s.stream w.sid).committed.live (.exported w.sid)
    s.answer w.ses w.lineNo [.ok [("gen", .nat gen)]]

/-- A new stream in the identifier of a cell's live one: the cell's learned fields, counters and spans are the new stream's from then on (09 R241,
05 R143, 16 R454). -/
def State.renewCell (s : State) (sid : Nat) (i : Image) : State :=
  if i.live then
    { s with cells := s.cells.map fun c => if c.sid = some sid then c.give (some (sid, .ofImage i (s.patron 1).folio)) else c }
  else s
/-- Import a card's image into an identifier (05 R143, R144). A drift monitor that watches the stream keeps its card and shadow for the rest of the dwell,
and only a rebuild that waits is dropped: the spec is silent on it (R149, log 156). -/
def State.importStream (s : State) (sid slot : Nat) (live : Bool) (img : Image) : State :=
  let s := (s.dropRebuild sid).parkNow sid
  let gen := nextGen (s.stream sid).gen
  let i := { img with sid := sid, patron := slot, live := live, gen := gen }
  let s := s.putStream { sid := sid, place := .parked, gen := gen, slot := slot, pages := i.pages, ledger := i, committed := i, work := i
                         shiftTo := s.savedShifts sid }
  let s : State := if live && s.leads && s.spine.partner then
      { s with spine := { s.spine with cardsDue := s.spine.cardsDue ++ [(sid, img.card)] } }
    else s
  (s.renewCell sid i).remapCells.actOn live (.imported sid true live ((sha256 img.bytes).take 16))

/-- Why an identifier cannot take an image of some pages in a slot: the pages. A patron's first live stream takes those of its monitor card too (05
R117). -/
def State.pagesShort (s : State) (sid slot pages : Nat) (live : Bool) : Bool :=
  let x := s.stream sid
  let own := if x.slot = slot ∧ (x.place = .parked ∨ x.place = .resident) then x.pages else 0
  let card := if live && s.monitorPages slot = 0 then 8 else 0
  decide (s.pagesFree slot + own < pages + card)

/-- An identifier that an open request has taken, or that a record waits to be restored into (09 R261, 15 R442). -/
def State.sidTaken (s : State) (sid : Nat) : Bool := s.takenSids.contains sid || (s.stream sid).held
/-- An identifier whose record waits to be restored: every command that names it is answered STATE (15 R442). -/
def State.awaitsRestore (s : State) (sid : Nat) : Bool := (s.stream sid).held && !s.takenSids.contains sid
/-- A stream that exists on the hub: PARKED or RESIDENT. -/
def State.hasStream (s : State) (sid : Nat) : Bool := (s.stream sid).place == .parked || (s.stream sid).place == .resident

/-- A slot whose streams an identifier cannot join: no folio, no state layer, or LIVE outside class 1 (05 R139). -/
def State.noImage (s : State) (slot : Nat) (live : Bool) : Bool :=
  (s.folio? slot).all (fun f => f.stateLayers.isEmpty) || (live && classOf slot != 1)

/-- The error that refuses a creation (05 R139, 09 R261, 12 R355, 15 R432). -/
def State.createFault (s : State) (f : FolioInfo) (sid slot : Nat) (live : Bool) : Option Nat :=
  let len := 1024 + (f.stateLayers.map fun d => 2 * d.1 * d.2).sum
  if s.hasStream sid || s.sidTaken sid || (slot == 1 && !s.snapshotFits sid len) then some 11
  else if s.pagesShort sid slot (ceilDiv len 8192) live then some 17
  else if live && !s.mirrorFits sid len then some 24 else none

/-- The reply that refuses an import (05 R143). -/
def State.importFault (s : State) (f : FolioInfo) (sid slot : Nat) (live : Bool) (body : Bytes) : Option HubLine :=
  let len := 1024 + (f.stateLayers.map fun d => 2 * d.1 * d.2).sum
  if s.sidTaken sid then some (.err 11 [])
  else match cardFault f body with
    | some .layout => some (.err 19 [])
    | some (.check w) => some (.err 22 [("check", .word w)])
    | none =>
      if slot == 1 && !s.snapshotFits sid len then some (.err 11 [])
      else if s.pagesShort sid slot (ceilDiv len 8192) live then some (.err 17 [])
      else if live && !s.mirrorFits sid len then some (.err 24 []) else none

/-- Create a stream (05 R139). -/
def State.createStream (s : State) (f : FolioInfo) (sid slot : Nat) (portable live : Bool) (seed : BitVec 64) : State :=
  let gen := nextGen (s.stream sid).gen
  let i := newImage f sid slot gen portable live seed
  let s := s.putStream { sid := sid, place := .parked, gen := gen, slot := slot, pages := i.pages, ledger := i, committed := i, work := i
                         shiftTo := s.savedShifts sid }
  (s.renewCell sid i).remapCells.actOn live (.create sid portable live seed)

/-- Act on one request. -/
def State.serveWait (s : State) (w : StreamWait) : State :=
  match w.act with
  | .free =>
    if s.awaitsRestore w.sid then s.answer w.ses w.lineNo [.err 11 []]
    else if !s.hasStream w.sid then s.answer w.ses w.lineNo [.err 15 []]
    else if s.sidTaken w.sid then s.answer w.ses w.lineNo [.err 11 []]
    else (s.freeStream w.sid).answer w.ses w.lineNo [.ok []]
  | .created slot portable live seed =>
    if s.noImage slot live then s.answer w.ses w.lineNo [.err 11 []] else
    match s.folio? slot with
    | none => s.answer w.ses w.lineNo [.err 11 []]
    | some f => match s.createFault f w.sid slot live with
      | some e => s.answer w.ses w.lineNo [.err e []]
      | none =>
        let s := s.createStream f w.sid slot portable live seed
        s.answer w.ses w.lineNo [.ok [("gen", .nat (s.stream w.sid).gen.toNat), ("pages", .nat (s.stream w.sid).pages)]]
  | .imported slot live body =>
    if s.noImage slot live then s.answer w.ses w.lineNo [.err 11 []] else
    match s.folio? slot with
    | none => s.answer w.ses w.lineNo [.err 11 []]
    | some f => match s.importFault f w.sid slot live body with
      | some e => s.answer w.ses w.lineNo [e]
      | none =>
        let s := s.importStream w.sid slot live (Image.ofBytes f.stateLayers body)
        s.answer w.ses w.lineNo [.ok [("gen", .nat (s.stream w.sid).gen.toNat)]]
  | .sent _ _ _ => s
  | .card copy tag =>
    if s.awaitsRestore w.sid then s.answer w.ses w.lineNo [.err 11 []]
    else if !s.hasStream w.sid then s.answer w.ses w.lineNo [.err 15 []]
    else if !(s.stream w.sid).committed.portable then s.answer w.ses w.lineNo [.err 11 []]
    else
    let s := s.parkNow w.sid
    let x := s.stream w.sid
    let f := s.cardFrame copy tag x
    if (s.ring 4).held.isEmpty && s.hasRoom 4 f.payload.length then
      (s.announce 4 f).cardDone w copy x.gen.toNat x.committed.step.toNat
    else
      let s := s.modRing 4 fun q => { q with held := q.held ++ [f] }
      { s with waits := s.waits ++ [{ w with act := .sent copy x.gen.toNat x.committed.step.toNat }] }

/-- A request that has acted, but for its CARD frame. -/
def StreamWait.isSent (w : StreamWait) : Bool := match w.act with
  | .sent _ _ _ => true
  | _ => false
/-- A held CARD frame as it leaves: an export's with the image that its stream, parked, then has; none while an admitted charge names the stream
(05 R141, R146). -/
def State.heldCard (s : State) (f : HeldFrame) (w : StreamWait) : Option (State × HeldFrame × StreamWait) :=
  match w.act with
  | .sent false _ _ =>
    if s.streamBusy w.sid then none else
    let s := s.parkNow w.sid
    let x := s.stream w.sid
    some (s, s.cardFrame false (leNat (f.payload.take 4)) x, { w with act := .sent false x.gen.toNat x.committed.step.toNat })
  | _ => some (s, f, w)
/-- Write the frames held on ring 4 that now have room, in order, and complete their requests (13 R371). -/
def sendHeldCards : Nat → State → State
  | 0, s => s
  | n + 1, s => match (s.ring 4).held with
    | [] => s
    | f :: fs => match s.waits.find? StreamWait.isSent with
      | none => s
      | some w => match s.heldCard f w with
        | none => s
        | some (z, f, w) =>
          if !z.hasRoom 4 f.payload.length then s else
          let s := (z.modRing 4 fun q => { q with held := fs }).announce 4 f
          let s := { s with waits := removeFirst StreamWait.isSent s.waits }
          let s := match w.act with
            | .sent copy gen step => s.cardDone w copy gen step
            | _ => s
          sendHeldCards n s

/-- Whether a request may act: no admitted charge that has neither committed nor been abandoned names its stream, and no earlier
request waits, of whichever stream (05 R146). -/
def waitReady (s : State) (earlier : List StreamWait) (w : StreamWait) : Bool :=
  !s.streamBusy w.sid && earlier.all (fun e => e.isSent && e.sid != w.sid) && !w.isSent

/-- Serve some waiting requests in the order received. -/
def serveFrom : Nat → List StreamWait → List StreamWait → State → State
  | 0, _, _, s => s
  | _, _, [], s => s
  | n + 1, done, w :: ws, s =>
    if waitReady s done w then
      let s := { s with waits := done ++ ws }
      let s := s.serveWait w
      -- a card that found no room waits again, behind the others
      serveFrom n (done ++ s.waits.drop (done ++ ws).length) ws { s with waits := (done ++ s.waits.drop (done ++ ws).length) ++ ws }
    else serveFrom n (done ++ [w]) ws s
/-- Serve the requests on streams that may act now, those first whose frames wait for ring 4. -/
def State.serveWaits (s : State) : State :=
  let s := sendHeldCards (s.ring 4).held.length s
  serveFrom s.waits.length [] s.waits s

/-- A request on a stream, in the order received (05 R146). -/
def State.streamRequest (s : State) (sid : Nat) (act : StreamAct) (ses : Sess) (lineNo : Nat) : State :=
  ({ s with waits := s.waits ++ [{ sid := sid, act := act, ses := ses, lineNo := lineNo }] } : State).serveWaits

/-- A committed image lost to an uncorrectable ledger error (16 R454): on the primary or a hub alone the stream is recreated with its
identifier, mode, liveness and seed; on a standby it becomes unaligned. The damaged page is retired. -/
def State.streamLost (s : State) (sid page : Nat) : State :=
  let x := s.stream sid
  let i := x.ledger
  let s := if s.isStandby then s.modStream sid fun x => { x with aligned := false, damaged := none }
    else match s.folio? x.slot with
      | none => s
      | some f =>
        let s := s.createStream f sid x.slot i.portable i.live i.seed
        s.raise 0x84 (some x.slot) none sid (s.stream sid).gen.toNat 0 0
  let s : State := { s with steward := { s.steward with retired := s.steward.retired + 1, retiredPages := s.steward.retiredPages ++ [page] } }
  s.raise 0x86 none none page s.steward.retired 0 0

end Sys2Proof.Machine
end

