-- ==== Sys2Proof/Machine/Engines.lean ====
section
/-! DEFINITION. The engines of a stack: which descriptor starts next and when (06 R156 to R159, 03 R66), what each descriptor does, what
a fault of it sets off (04 R110 to R113, 06 R186), and how descriptors and charges end (06 R187, R188, 07 R210). -/

namespace Sys2Proof.Machine

/-! ## Overlap (07 R210) -/

/-- Count the overlap up to an instant: in each cycle the busy engines less one. An engine whose descriptor resumes is busy from the resume on, after
what the stop has saved is restored. -/
def StackSt.tally (k : StackSt) (t : Tick) (cyc : Nat) : StackSt :=
  let busy := k.running.map fun r => (t - max k.overlapAt (max r.began r.resumed)) / cyc
  { k with overlap := k.overlap + (busy.sum - busy.foldl max 0), overlapAt := max k.overlapAt t }
def State.tallyStk (s : State) (stack : Nat) (t : Tick) : State := s.modStk stack fun k => k.tally t s.cycTicks

/-! ## The start of a charge -/

/-- The input row of each stream of a step charge, as its input blocks hold it, with the channels that span the time from the
previous committed step formed anew (09 R236, R237). -/
def State.writeRows (s : State) (c : ChargeSt) (f : FolioInfo) : State :=
  match c.kind with
  | .step _ _ => (c.rows.mapIdx fun i w => (i, Row.ofBits w)).foldl (fun s p =>
      match s.cell? p.2.sid, c.stamps.find? fun x => x.1 == p.2.sid with
      | some cell, some st =>
        let a := 64 * c.place (f.inputAt + p.1)
        s.modStk c.stack fun k =>
          let row := (List.range 32).map fun i => codeAt k.carrel a i true
          k.writeCarrel a (rowBytes (s.spanChannels cell st.2.1 row))
      | _, _ => s) s
  | _ => s

/-- The inputs of a rebuild, from the input log alone, beside the reset bits of its submission: rows, their range-step tags and draws of its window, step
by step (04 R100, 05 R150, R152). -/
def State.rebuildInputs (s : State) (c : ChargeSt) (f : FolioInfo) (sid : Nat) : List (Nat × Bytes) :=
  let w := s.windowOf c.slot sid
  c.lay f.inputAt (w.flatMap fun e => rowBytes e.row) ++ c.lay f.tagsAt (List.replicate w.length 0#8)
    ++ (f.sites.filter fun d => decide (d.site < 128)).flatMap (fun d => c.lay d.place (w.flatMap fun e => lookupD [] d.site e.draws))
/-- Bytes written into a charge's input blocks. -/
def State.putInputs (s : State) (c : ChargeSt) (xs : List (Nat × Bytes)) : State :=
  s.modStk c.stack fun k => xs.foldl (fun k p => k.writeCarrel (64 * p.1) p.2) k

/-- The inputs of a charge as it finds them: those of its submission with the spans and draws of its start, which a step's entry of the input log
keeps (05 R152). -/
def State.keepInputs (s : State) (c : ChargeSt) (f : FolioInfo) (xs : List (Nat × Bytes)) : State :=
  let car := (s.stk c.stack).carrel
  let found := xs.map fun p => (p.1, memRead car (64 * p.1) p.2.length)
  let a : Nat → Nat := fun sid => 64 * c.place (f.inputAt + c.rows.findIdx fun w => (Row.ofBits w).sid == sid)
  let s := s.modCharge c.id fun x => { x with inputs := found, whole := true }
  { s with inputLog := s.inputLog.map fun e =>
      if e.charge = c.id then { e with
        inputs := found
        row := if (s.cell? e.sid).isSome then (List.range 32).map fun i => codeAt car (a e.sid) i true else e.row
        draws := s.stepDraws f e.sid
        ran := c.ruled } else e }

/-- The inputs of a charge stand in its blocks when its first descriptor on the main engine starts, after those of the charges before it have read
theirs (log 139). A rebuild's are formed from the input log then; a charge that runs again finds what it has found before, and nothing else (05 R150,
R152, 08 R218, R231). -/
def State.feed (s : State) (c : ChargeSt) : State :=
  let s := s.modCharge c.id fun x => { x with fed := true }
  match s.folio? c.slot, c.kind with
  | some f, .rebuild sid => s.putInputs c (c.inputs ++ s.rebuildInputs c f sid)
  | some f, _ =>
    if c.whole then s.putInputs c (s.chargeInputs c)
    else
      let draws := s.drawInputs c f
      (((s.putInputs c c.inputs).writeRows c f).putInputs c draws).keepInputs c f (c.inputs ++ draws)
  | none, _ => s.putInputs c c.inputs

/-- A rebuild's stream stands at its HOME: its working copy is the monitor card, its 32-bit state in the rebuild area (05 R150). -/
def State.openRebuild (s : State) (c : ChargeSt) (sid : Nat) : State :=
  match c.kind, (s.patron c.slot).monitor.card with
  | .rebuild x, some i =>
    if x = sid ∧ (s.stream sid).place = .resident then
      let s := s.modStream sid fun x => { x with
        work := { x.work with state := i.state, rings := i.rings, step := i.step, pos := i.pos, shifts := i.shifts }
        wide := i.state.map fun l => l.map (· * 65536) }
      let y := s.stream sid
      (s.writeHome sid).modStk y.stack fun k => k.writeCarrel (64 * y.home + 8192 * y.pages) (y.wide.flatMap wordBytes)
    else s
  | _, _ => s

/-- A committed row of a charge that runs again takes the image that its step took before, where its copy has not been lost (08 R218). -/
def State.openRedo (s : State) (c : ChargeSt) (row : Nat) : State :=
  let sid := (rowAt c.rows row).sid
  let x := s.stream sid
  match c.before.find? fun b => b.1 == row with
  | some b =>
    if c.redo.contains row ∧ x.place = .resident ∧ x.committed.step ≠ b.2.step then
      (s.modStream sid fun x => { x with work := b.2 }).writeHome sid
    else s
  | none => s

/-- A rebuild starts (05 R150). -/
def State.startRebuild (s : State) (c : ChargeSt) : State :=
  match c.kind with
  | .rebuild sid =>
    (s.modPatron c.slot fun p => { p with monitor := { p.monitor with rebuildDue := false, rebuiltDwell := true } }).openRebuild c sid
  | _ => s

/-- The first descriptor of a charge starts: its rows are checked against the streams (05 R145), and of those that it has committed before the resident
ones take their images of then. -/
def State.startCharge (s : State) (c : ChargeSt) : State :=
  if c.started then s else
  let moved := s.movedRows c
  let s := (s.modCharge c.id fun c => { c with started := true, moved := moved }).startRebuild c
  (c.redo.filter fun i => !moved.contains i).foldl (fun s i => s.openRedo c i) s

/-! ## Faults of a descriptor -/

/-- The layers of the charge's patron on its stack, with their regions. -/
def State.layersAt (s : State) (c : ChargeSt) : List (Nat × List Nat) :=
  c.layers ++ ((s.stk c.stack).shares.filter fun sh => sh.slot == c.slot).flatMap (·.layers)
/-- The regions that a descriptor reads, or that it fills. -/
def usedRegions (d : BitVec 512) : List Nat := (fillRegion d).toList ++ regionsOf (storeReads d)
/-- The folio layer, with its regions, that a descriptor of a charge runs or fills. -/
def State.layerIn (s : State) (c : ChargeSt) (d : BitVec 512) : Option (Nat × List Nat) :=
  (s.layersAt c).find? fun y => y.2.any (usedRegions d).contains
def State.layerOf (s : State) (c : ChargeSt) (d : BitVec 512) : Nat := ((s.layerIn c d).map (·.1)).getD 0

/-- The regions of the layer that a descriptor runs or fills, as a re-read fills them (04 R111, 16 R455). -/
def State.rereadOf (s : State) (c : ChargeSt) (d : BitVec 512) : Option ChargeSt :=
  match s.folio? c.slot, s.layerIn c d with
  | some f, some (layer, regions) =>
    let descs := regions.mapIdx fun j r => fillDesc c.slot j (decide (j + 1 = regions.length)) r (regionPlace f layer j)
    some { id := 0, slot := c.slot, stack := c.stack, kind := .reread, descs := descs, rows := [], eligible := s.stamp.number + 1 }
  | _, _ => none

/-- A skew or check-bit fault of a layer is counted over the stamps in which it runs; the third in a row makes the stack faulty
(04 R112). -/
def State.countSkew (s : State) (stack slot layer : Nat) : State × Bool :=
  let k := s.stk stack
  let n := s.stamp.number
  let count : Nat := ((k.skews.find? fun e => e.slot == slot && e.layer == layer).map fun e =>
    if e.stamp = n then e.count else if e.ran.any fun r => decide (r < n) then 1 else e.count + 1).getD 1
  (s.modStk stack fun k => { k with skews := (k.skews.filter fun e => !(e.slot == slot && e.layer == layer))
      ++ [{ slot := slot, layer := layer, stamp := n, count := count }] }, decide (3 ≤ count))

/-- A layer ran without a fault. -/
def StackSt.ranLayer (k : StackSt) (slot layer : Nat) (n : BitVec 48) : StackSt :=
  { k with skews := k.skews.map fun e => if e.slot = slot ∧ e.layer = layer ∧ e.ran.isNone ∧ e.stamp ≠ n then { e with ran := some n } else e }

/-- The folio identity of a slot as an event names it. -/
def State.fidNat (s : State) (slot : Nat) : Nat := ((s.patron slot).folio.map BitVec.toNat).getD 0

/-- Streams of a charge whose copy at HOME holds an uncorrectable carrel word. -/
def State.badCopies (s : State) (c : ChargeSt) : List Nat :=
  (s.streams.filter fun x => x.place == .resident && x.stack == c.stack && c.names x.sid
    && (badCarrelRead (s.stk c.stack) [(64 * x.home, 8192 * x.pages)]).isSome).map (·.sid)
/-- The carrel copy of streams is lost, and the ledger image stands (05 R134). -/
def State.loseCopies (s : State) (lost : List Nat) : State :=
  { s with streams := s.streams.map fun x =>
      if lost.contains x.sid then { x with place := .parked, committed := x.ledger, work := x.ledger, wide := [] } else x }

/-- Whether a charge runs again after a status, and from which stamp: one without streams only where its region or stream
was not ready (06 R186, 04 R111, 05 R134). -/
def State.again (s : State) (c : ChargeSt) (status : Nat) (lost : List Nat) : Option (BitVec 48) :=
  if !c.abandoned && (c.hasStreams || status == stInvalidReg || status == stNotResident) && c.runsAnew lost then some (s.stamp.number + 1)
  else none

/-- A descriptor abandons its charge at an instant (06 R186): the event of its status, the abandonment, and what runs again and when. -/
def State.failDesc (s : State) (at0 : Tick) (c : ChargeSt) (q : QDesc) (status detail cycles : Nat) : State :=
  let op := dOp q.bits
  let layer := s.layerOf c q.bits
  let fid := s.fidNat c.slot
  let bad := if status = stEcc then badCarrelRead (s.stk c.stack) (carrelReads s c.rows q.bits) else none
  let lost := if bad.isSome then s.badCopies c else []
  let again := s.again c status lost
  let ps := some c.slot
  let ks := some c.stack
  let s := if status = stSkew ∨ status = stEcc then s.modStk c.stack fun k => { k with invalid := k.invalid ++ carrelWrites s c.rows q.bits } else s
  if bad.isSome then
    let s := s.raise 0x21 ps ks 1 (bad.getD 0 * 8 / 65536) 0 0
    ((s.decodeLost c).loseCopies lost).abandon at0 c.id q.index op status cycles 0 again
  else if status = stSkew ∨ status = stEcc then
    let s := if status = stSkew then s.raise 0x20 ps ks fid layer (detail % 16) (detail / 16 % 16) else s.raise 0x21 ps ks 0 detail 0 0
    let s := (s.decodeLost c).abandon at0 c.id q.index op status cycles detail again
    let s := match s.rereadOf c q.bits with
      | some r => s.queueCharge r true
      | none => s
    let r := s.countSkew c.stack c.slot layer
    if r.2 then r.1.stackFault c.stack 1 else r.1
  else if status = stRange then ((s.raise 0x22 ps ks fid layer 0 0).decodeLost c).abandon at0 c.id q.index op status cycles detail again
  else (s.raise 0x24 ps ks status detail c.tag.toNat 0).abandon at0 c.id q.index op status cycles detail again

/-! ## What each descriptor does -/

/-- Rows of a descriptor that name a stream which did not complete MOVED: row number and stream. -/
def liveRows (s : State) (c : ChargeSt) (row0 n : Nat) : List (Nat × StreamSt) :=
  (List.range n).filterMap fun i =>
    let r := rowAt c.rows (row0 + i)
    if r.use && !c.moved.contains (row0 + i) then some (row0 + i, s.stream r.sid) else none

/-- A stream of the rows that is not resident at its HOME on the charge's stack. -/
def notResident (c : ChargeSt) (xs : List (Nat × StreamSt)) : Option Nat :=
  (xs.find? fun p => !(p.2.place == .resident && p.2.stack == c.stack && p.2.home == (rowAt c.rows p.1).home)).map (·.2.sid)

/-- How a descriptor starts: its status and detail, the cycles after which a fault will stop it, the carrel writes of its stop-point units, what else it
leaves at its end, and the state. -/
structure Effect where
  status : Nat := stDone
  after : Nat := 0
  detail : Nat := 0
  units : List (List (Nat × Bytes)) := []
  fx : RunEnd := {}
  s : State

/-- A computing descriptor starts: single-bit errors in the words that it reads are corrected and counted (03 R67), and a layer that runs without
a fault is noted (04 R112). -/
def State.takeRun (s : State) (c : ChargeSt) (d : BitVec 512) (o : RunOut) : Effect :=
  let s := s.modStk c.stack fun k => { k with corrected := k.corrected + softReads k (storeReads d) }
  { status := o.status
    after := o.after
    detail := o.detail
    units := o.units
    fx := o.fx
    s := if o.status ≠ stDone then s else s.modStk c.stack fun k => k.ranLayer c.slot (s.layerOf c d) s.stamp.number }

/-- The head rows that a rollout chunk's matrix layer has left: an A16 output of 64 channels in the head tensor (log 29). -/
def State.keepHeads (s : State) (c : ChargeSt) (d : BitVec 512) : State :=
  let m := MatBody.of d
  match c.kind, s.folio? c.slot with
  | .chunk _ _ _ _, some f =>
    let head := c.place f.headAt
    if f.rollout && m.outw && m.dout = 64 && decide (head ≤ m.yout ∧ m.yout < head + 8192) then
      let car := (s.stk c.stack).carrel
      s.modCharge c.id fun x => { x with headRows := x.headRows ++ (m.liveRows c.moved).map fun b => headAtRow car m.yout b }
    else s
  | _, _ => s

def effMatmul (s : State) (c : ChargeSt) (d : BitVec 512) : Effect := s.takeRun c d (runMatmul (s.under c) c d)

def effScan (s : State) (c : ChargeSt) (d : BitVec 512) : Effect :=
  let b := ScanBody.of d
  match notResident c (liveRows s c b.row0 b.ns) with
  | some sid => { status := stNotResident, detail := sid, s := s }
  | none => s.takeRun c d (runScan (s.under c) c d)

def effBind (s : State) (c : ChargeSt) (d : BitVec 512) : Effect :=
  let o := runBind s c d
  { units := o.units, fx := o.fx, s := s }

/-- The folio whose stored form a stream-in of a slot reads: a promoted one while its share fills, else the bound one,
for the refit patron with the codes published last (09 R257). -/
def State.fillFolio (s : State) (c : ChargeSt) : Option FolioSt :=
  match (((s.stk c.stack).shares.find? fun sh => sh.slot == c.slot && sh.st == .filling).bind (·.fid)) with
  | some f => s.folioSt? f
  | none =>
    let bound := (s.patron c.slot).folio.bind s.folioSt?
    match s.draft with
    | some d => if c.slot = 3 then bound.map fun fs => { fs with info := { fs.info with weightLines := d.overlay fs.info } } else bound
    | none => bound

/-- STREAMIN: the region becomes invalid and its bytes and tags arrive (06 R172, 03 R64). SRC counts from the first line of the folio's stored form (log
149). A 256 KiB block of it that the archive cannot read is handled as a check-bit error, and a block's second failure in a row damages the folio (16
R455). -/
def effStreamin (s : State) (c : ChargeSt) (d : BitVec 512) : Effect :=
  let b := FillBody.of d
  match s.fillFolio c with
  | none => { s := s }
  | some fs =>
    let lines := ceilDiv b.bytes 64
    let blocks := (List.range ((b.src + lines - 1) / 4096 + 1)).filter fun k => decide (b.src / 4096 ≤ k)
    let bad := blocks.find? fs.badBlocks.contains
    let read := blocks.takeWhile fun k => bad != some k
    let again : Bool := bad.any fs.lastBad.contains
    let s := s.modStk c.stack fun k => { k with valid := k.valid &&& ~~~ (BitVec.ofNat 48 (2 ^ b.region)) }
    let s : State := { s with archive := { s.archive with folios := s.archive.folios.map fun f => if f.info.fid = fs.info.fid then
      { f with
        lastBad := (f.lastBad.filter fun k => !read.contains k && bad != some k) ++ (if again then [] else bad.toList)
        damaged := f.damaged || again } else f } }
    if bad.isSome then
      { status := stEcc, detail := b.region, s := if again then s.raise 0x85 none none b.src fs.info.fid.toNat 1 0 else s }
    else
      let src := (fs.info.weightLines.drop b.src).take lines
      let data := (src.flatMap (·.1)).take b.bytes
      { s := s.modStk c.stack fun k => { k with
          store := memWrite k.store (64 * b.dst) data
          tags := memWrite k.tags b.dst (src.map fun l => l.2.setWidth 8)
          badWords := k.badWords.filter fun w => !decide (64 * b.dst ≤ 8 * w ∧ 8 * w < 64 * b.dst + b.bytes)
          softWords := k.softWords.filter fun w => !decide (64 * b.dst ≤ 8 * w ∧ 8 * w < 64 * b.dst + b.bytes) } }

/-- The carrel writes of a RECALL, ledger page by ledger page: a PARKED row's pages arrive at HOME; the others leave the engine idle (06 R173). -/
def recallUnits (s : State) (c : ChargeSt) (b : MoveBody) : List (List (Nat × Bytes)) :=
  (List.range b.nr).flatMap fun i =>
    let r := rowAt c.rows (b.row0 + i)
    let x := s.stream r.sid
    let moves := !c.moved.contains (b.row0 + i) && x.place == .parked
    if !r.use then [] else (List.range (s.rowPages r.sid)).map fun p =>
      if moves then [(64 * r.home + 8192 * p, ((x.ledger.padded x.pages).drop (8192 * p)).take 8192)] else []

/-- RECALL: a row resident elsewhere than its HOME completes NOTRESIDENT; an image that the ledger has lost is recreated, and its row
completes MOVED. The streams become RESIDENT at the descriptor's end (06 R173, R181). -/
def effRecall (s : State) (c : ChargeSt) (d : BitVec 512) : Effect :=
  let b := MoveBody.of d
  let rows := liveRows s c b.row0 b.nr
  match rows.find? fun p => p.2.place == .resident && !(p.2.stack == c.stack && p.2.home == (rowAt c.rows p.1).home) with
  | some p => { status := stNotResident, detail := p.2.sid, s := s }
  | none =>
    let lost := rows.filter fun p => p.2.place == .parked && p.2.damaged.isSome
    let s := lost.foldl (fun s p => s.streamLost p.2.sid (p.2.damaged.getD 0)) s
    let s := s.modCharge c.id fun x => { x with moved := x.moved ++ (lost.filter fun p => (s.stream p.2.sid).gen != p.2.gen).map (·.1) }
    { units := recallUnits s ((s.charge? c.id).getD c) b, s := s }

def effPark (s : State) (c : ChargeSt) (d : BitVec 512) : Effect :=
  let b := MoveBody.of d
  match notResident c ((liveRows s c b.row0 b.nr).filter fun p => p.2.place != .parked) with
  | some sid => { status := stNotResident, detail := sid, s := s }
  | none => { s := s }

/-- The image that a commit of L time steps leaves: the working state, the needs in the rings, STEP + 1 and POS + L (05 R132). -/
def committedImage (x : StreamSt) (needs : List (Nat × Nat)) (l : Nat) : Image :=
  let step := x.committed.step.toNat
  { x.work with
    rings := needs.foldl (fun rs n => rs.set n.1 (ringPut (rs.getD n.1 []) step n.2)) x.committed.rings
    step := x.committed.step + 1
    pos := x.committed.pos + BitVec.ofNat 48 l }

/-- Whether the standby's seals not yet committed name a step. -/
def State.sealedStep (s : State) (sid : Nat) (sample : BitVec 48) : Bool :=
  s.spine.pendingSeals.any fun h => h.recs.any (isStepOf sid sample)

/-- A step that has run on a standby took the row that the input log holds: one that ran on readings other than the sealed ones is not the step that the
seal names, and is replayed (12 R352). -/
def State.ranAsLogged (s : State) (sid : Nat) (u : Unsealed) : Bool :=
  (s.inputLog.find? fun e => e.sid == sid && e.sample == u.sample).all fun e => [0, 2, 3, 7, 8].all fun i => u.row.getD i 0 == e.row.getD i 0
/-- A step that has run on a standby is the one that a record names. -/
def State.ranAs (s : State) (sid : Nat) (u : Unsealed) : SealRec → Bool
  | .step i _ reset _ sample features => i == sid && u.sample == sample && u.reset == reset && u.features == features && s.ranAsLogged sid u
  | _ => false

/-- Commit one row of a step charge; a step of a live stream is one time step (05 R118). A standby keeps the step until a seal names it, and gives up
its own run of a step that a seal has named otherwise (12 R352). -/
def State.commitStepRow (s : State) (c : ChargeSt) (f : FolioInfo) (p : Nat × StreamSt) (l : Nat) : State :=
  let x := p.2
  let needs := c.needs.filterMap fun n => if n.1 = p.1 then some n.2 else none
  let img := committedImage x needs (if x.committed.live then 1 else l)
  let car := (s.stk c.stack).carrel
  let st := (c.stamps.find? fun e => e.1 == x.sid).getD (x.sid, s.stamp.number, s.mains.usedStamp)
  let a := 64 * c.place (f.inputAt + p.1)
  let follows : Bool := s.isStandby && s.roleSt.lostAt.isNone
  let u : Unsealed := {
    img := img
    head := headAtRow car (c.place (f.headAt + 2 * p.1)) 0
    row := (List.range 32).map fun i => codeAt car a i true
    sample := st.2.1
    features := st.2.2
    reset := (rowAt c.rows p.1).reset
    rerun := c.rerun || st.2.1 != s.stamp.number
    clips := if follows && !c.counted then c.clips.filter fun n => n.sid == x.sid else [] }
  let named := s.sealedStep x.sid u.sample
  let drifts : State → State := fun s => match c.drift.find? fun e => e.1 == x.sid with
    | some e => s.driftCheck c.slot x.sid e.2 c.shadow
    | none => s
  if follows && !named then drifts (s.modStream x.sid fun x => { x with unsealed := some u, work := img })
  else if follows && !s.spine.pendingSeals.any fun h => h.recs.any (s.ranAs x.sid u) then s.modStream x.sid fun x => { x with work := x.committed }
  else drifts (s.commitLive x.sid u)

/-- A rebuild commits its state arrays alone, and the shadow starts again from them (05 R150). -/
def State.commitState (s : State) (sid : Nat) (state : List (List Int)) : State :=
  let x := s.stream sid
  let m := (s.patron x.slot).monitor
  let img := { x.committed with state := state }
  let window := (s.windowOf x.slot sid).length
  let s := s.modStream sid fun x => { x with committed := img, work := img, wide := [], rebuilt := none, unsealed := none }
  let nn := ((x.committed.dims.getD m.layer (0, 0)).2)
  let h := ((state.getD m.layer []).drop (m.chan * nn)).take nn
  let s := s.modPatron x.slot fun p => { p with monitor := { p.monitor with shadow := h.map (· * 65536), rebuilt := true } }
  (s.dropRecord (isRebuildOf sid)).act (.rebuild sid (img.step.toNat + 1 - window) img.step.toNat)

/-- The end of one replayed step of a rebuild: the scratch rings take its needs; the last one commits the state arrays alone and
restarts the shadow (05 R150). -/
def State.commitRebuild (s : State) (sid : Nat) (needs : List (Nat × Nat)) (last : Bool) : State :=
  let x := s.stream sid
  let step := x.work.step.toNat
  let work := { x.work with rings := needs.foldl (fun rs n => rs.set n.1 (ringPut (rs.getD n.1 []) step n.2)) x.work.rings, step := x.work.step + 1 }
  if !last then s.modStream sid fun x => { x with work := work }
  else
    let state := x.wide.map fun l => l.map fun w => sat (rnd w 16) 16
    if s.isStandby && s.roleSt.lostAt.isNone && !(s.spine.pendingSeals.any fun h => h.recs.any (isRebuildOf sid)) then
      s.modStream sid fun x => { x with work := x.committed, wide := [], rebuilt := some state }
    else s.commitState sid state

/-- The colophon that the last COLOPHON of a charge wrote (06 R177); nothing where it holds none. -/
def chargeColophon (s : State) (c : ChargeSt) : Bytes :=
  match (c.descs.filter fun d => Op.ofCode (dOp d) == some .colophon).getLast? with
  | some d => memRead (s.stk c.stack).carrel (64 * (DigestBody.of d).addr) 32
  | none => []

/-- A rollout cell's last chunk has committed and its colophon stands (09 R264). -/
def State.rolloutEnd (s : State) (id : Nat) : State :=
  match s.charge? id with
  | none => s
  | some c => match c.kind, s.folio? c.slot with
    | .chunk req sid _ true, some f =>
      let waits : Bool := (s.stk c.stack).queue.any fun q => q.charge == id && Op.ofCode (dOp q.bits) == some .colophon
      if f.rollout && c.committed && !waits then s.rollCellEnd req sid (chargeColophon s c) else s
    | _, _ => s

/-- The image from which a row of the charge began has been stepped on since, and the copy is not lost. -/
def ChargeSt.stands (c : ChargeSt) (row : Nat) (x : StreamSt) : Bool := c.before.any fun b => b.1 == row && b.2.step != x.committed.step
/-- This COMMIT of a row has been before: its step gives the outputs again. -/
def ChargeSt.repeats (c : ChargeSt) (row : Nat) (x : StreamSt) : Bool :=
  c.redo.contains row && (!c.stands row x || decide (x.work.step < x.committed.step))
/-- A step that has been committed before commits nothing again: its working copy goes on, and where the copy had been lost the image is restored (05
R134, 08 R218). -/
def State.restoreRow (s : State) (c : ChargeSt) (row : Nat) (x : StreamSt) (l : Nat) : State :=
  let needs := c.needs.filterMap fun n => if n.1 = row then some n.2 else none
  let steps := if x.committed.live then 1 else l
  if c.stands row x then s.modStream x.sid fun y => { y with work := committedImage { x with committed := x.work } needs steps }
  else
    let img := match c.kind with
      | .rebuild _ => { x.committed with state := x.wide.map fun l => l.map fun w => sat (rnd w 16) 16 }
      | _ => committedImage x needs steps
    s.modStream x.sid fun x => { x with committed := if x.unsealed.isSome then x.committed else img, work := img, wide := [] }

/-- The needs that a charge has recorded for a row. -/
def ChargeSt.needsOf (c : ChargeSt) (row : Nat) : List (Nat × Nat) := c.needs.filterMap fun n => if n.1 = row then some n.2 else none

/-- The reset bits of a row's next time steps in its charge, from an image on: at time step 0 of a descriptor the row's, or those at RMADDR, of the SCANs
of the row's first state layer; those before belong to the steps that the charge has committed since the image that it began from (06 R169, 08 R232). -/
def ChargeSt.resetBits (c : ChargeSt) (car : Mem) (row l : Nat) (i : Image) : Bits :=
  let scans := (c.descs.filter fun d => Op.ofCode (dOp d) == some .scan).map ScanBody.of
  let mine := scans.filter fun b => !b.empty && decide (b.row0 ≤ row ∧ row < b.row0 + b.ns)
  let first := mine.filter fun b => b.layer == ((mine.head?).map (·.layer)).getD 0
  let bits := first.flatMap fun b => (List.range b.l).map fun t =>
    if b.rmask then (let r := t * b.ns + (row - b.row0); (memGet car (64 * b.rmaddr + r / 8)).getLsbD (r % 8))
    else decide (t = 0) && (rowAt c.rows row).reset
  let done := ((c.before.find? fun b => b.1 == row).map fun b => i.pos.toNat - b.2.pos.toNat).getD 0
  (bits.drop done).take l

/-- One row of a COMMIT: the working copy at HOME becomes the committed image (06 R174). -/
def State.commitRow (s : State) (c : ChargeSt) (more : Bool) (lsteps : Nat) (p : Nat × Nat) : State :=
  let car := (s.stk c.stack).carrel
  let s := s.modStream p.2 fun x => { x with work := { x.work with state := x.stateIn car }, wide := if x.wide.isEmpty then [] else x.wideIn car }
  let x := s.stream p.2
  let again := c.repeats p.1 x
  let s := match c.kind, s.folio? c.slot with
    | .step _ _, some f => if again then s.restoreRow c p.1 x lsteps else s.commitStepRow c f (p.1, x) lsteps
    | .rebuild _, _ => if again && !more then s.restoreRow c p.1 x lsteps else s.commitRebuild p.2 (c.needsOf p.1) (!more)
    | _, _ =>
      if again then s.restoreRow c p.1 x lsteps else
      let img := committedImage x (c.needsOf p.1) lsteps
      let s := (s.shiftActs x.committed.live p.2 x.committed.shifts img.shifts).modStream p.2 fun x => { x with committed := img, work := img }
      let st := (c.stamps.find? fun (e : Nat × BitVec 48 × BitVec 48) => e.1 == p.2).getD (p.2, s.stamp.number, s.mains.usedStamp)
      let s := s.actOn x.committed.live (.step p.2 lsteps (rowAt c.rows p.1).reset c.rerun st.2.1 st.2.2) (c.resetBits car p.1 lsteps x.committed)
      let s := s.logCommitted p.2 st.2.1 img.shifts
      match c.drift.find? fun (e : Nat × Nat) => e.1 == p.2 with
      | some e => s.driftCheck c.slot p.2 e.2 c.shadow
      | none => s
  s.writeHome p.2

def effCommit (s : State) (c : ChargeSt) (d : BitVec 512) : Effect :=
  let b := MoveBody.of d
  match notResident c (liveRows s c b.row0 b.nr) with
  | some sid => { status := stNotResident, detail := sid, s := s }
  | none => { s := s }

def ChargeSt.isStep (c : ChargeSt) : Bool := match c.kind with
  | .step _ _ => true
  | _ => false
/-- Elements of a charge that a test picks count, unless it ran to its last COMMIT before (04 R107). -/
def State.countElements (s : State) (c : ChargeSt) (pick : ClipCount → Bool) : State :=
  if c.counted then s else s.takeClips c.slot (c.clips.filter pick)

/-- COMMIT: all its rows in one act, when it completes (05 R132, 06 R174), and with the last one of a charge its elements count in the stamp (04 R107); on
a standby those of a live step when a seal names it. An abandoned charge commits nothing (04 R110). -/
def endCommit (s : State) (c : ChargeSt) (d : BitVec 512) : State :=
  if c.abandoned then s else
  let b := MoveBody.of d
  let rows := (liveRows s c b.row0 b.nr).map fun p => (p.1, p.2.sid)
  let nums := rows.map (·.1)
  let more : Bool := (s.stk c.stack).queue.any fun e => e.charge == c.id && Op.ofCode (dOp e.bits) == some .commit
  let old := (rows.filter fun p => !c.before.any fun b => b.1 == p.1).map fun p => (p.1, (s.stream p.2).committed)
  let again := rows.all fun p => c.repeats p.1 (s.stream p.2)
  let follows : Bool := s.isStandby && s.roleSt.lostAt.isNone
  let kept : ClipCount → Bool := fun n => follows && c.isStep && rows.any fun p => p.2 == n.sid
  let s := rows.foldl (fun s p => s.commitRow c more b.lsteps p) s
  let s := if more then s else s.countElements c fun n => !kept n
  let s := s.modCharge c.id fun x => { x with
    before := x.before ++ old
    clips := if more then x.clips else []
    needs := x.needs.filter fun n => !nums.contains n.1
    drift := x.drift.filter fun (e : Nat × Nat) => !(rows.map (·.2)).contains e.1
    done := if more && goesFirst c.kind then x.done else x.done ++ nums
    committed := x.committed || !more }
  match c.kind with
  | .chunk req sid index _ => match s.req? req with
    | some r => if r.kind = .rollout && !rows.isEmpty then
        if again then (s.modCharge c.id fun x => { x with headRows := [] }).rolloutEnd c.id else
        ((s.rollChunk r sid index c.headRows).modCharge c.id fun x => { x with headRows := [] }).rolloutEnd c.id
      else s
    | none => s
  | _ => s

/-- XFER: 4 KiB to a unit; where the destination is no longer lent it completes FOREIGN and moves nothing (03 R74, 06 R175). -/
def effXfer (s : State) (c : ChargeSt) (d : BitVec 512) : Effect :=
  let b := XferBody.of d
  if !s.xferOk c.slot b then { status := stForeign, s := s } else
  let data := memRead (s.stk c.stack).carrel (64 * b.src) b.bytes
  { units := (List.range (ceilDiv b.bytes 4096)).map fun u => [(64 * b.dst + 4096 * u, (data.drop (4096 * u)).take 4096)], s := s }

/-- SHADOW: the drift of the step; its new shadow and drift count when the step commits (06 R176). -/
def effShadow (s : State) (c : ChargeSt) (d : BitVec 512) : Effect :=
  { fx := { shadow := (runShadow s c d).map fun p => ((rowAt c.rows (ShadowBody.of d).row).sid, p.2, p.1) }, s := s }

/-- DIGEST: bytes absorbed into a context (06 R177). -/
def endDigest (s : State) (c : ChargeSt) (d : BitVec 512) : State :=
  let b := DigestBody.of d
  s.modStk c.stack fun k =>
    let data := memRead k.carrel (64 * b.addr) b.bytes
    let mine : Ctx → Bool := fun x => x.slot == c.slot && x.ctx == b.ctx
    let old := if b.init then [] else ((k.ctxs.find? mine).map (·.absorbed)).getD []
    { k with ctxs := (k.ctxs.filter fun x => !mine x) ++ [{ slot := c.slot, ctx := b.ctx, charge := c.id, absorbed := old ++ data }] }

/-- The 88-byte message of a colophon (08 R222). -/
def colophonMessage (fid : Nat) (slot : Nat) (wdigest idigest : Bytes) (stepc sid : Nat) : Bytes :=
  [0x47#8, 0x41#8, 0x52#8, 0x55#8, 0x58#8, 0x43#8, 0x4F#8, 0x4C#8] ++ leBytes 4 fid ++ leBytes 1 slot ++ leBytes 1 (classOf slot) ++ [0#8, 0#8]
    ++ wdigest ++ idigest ++ leBytes 6 stepc ++ leBytes 2 sid

/-- The step counter of a colophon: the STEP that the row's stream holds once this step commits (08 R222). -/
def stepCount (s : State) (c : ChargeSt) (row : Nat) : Nat :=
  let r := rowAt c.rows row
  if !r.use then 0 else
  let step := (s.stream r.sid).work.step
  (if c.done.contains row then step else step + 1).toNat

/-- COLOPHON: finalise the context and write the colophon; a MOVED row writes nothing and the context is discarded (06 R177). -/
def endColophon (s : State) (c : ChargeSt) (d : BitVec 512) : State :=
  let b := DigestBody.of d
  let r := rowAt c.rows b.row
  let mine : Ctx → Bool := fun x => x.slot == c.slot && x.ctx == b.ctx
  let absorbed := (((s.stk c.stack).ctxs.find? mine).map (·.absorbed)).getD []
  let s := s.modStk c.stack fun k => { k with ctxs := k.ctxs.filter fun x => !mine x }
  if c.moved.contains b.row then s else
  let w := ((s.folio? c.slot).map (·.wdigest)).getD []
  let msg := colophonMessage (s.fidNat c.slot) c.slot w (sha256 absorbed) (stepCount s c b.row) (if r.use then r.sid else 0xFFFF)
  (s.modStk c.stack fun k => k.writeCarrel (64 * b.addr) (sha256 msg)).rolloutEnd c.id

def effectOf (o : Op) (s : State) (c : ChargeSt) (q : QDesc) : Effect :=
  match o with
  | .streamin => effStreamin s c q.bits
  | .matmul => effMatmul s c q.bits
  | .scan => effScan s c q.bits
  | .bind => effBind s c q.bits
  | .recall => effRecall s c q.bits
  | .park => effPark s c q.bits
  | .commit => effCommit s c q.bits
  | .xfer => effXfer s c q.bits
  | .shadow => effShadow s c q.bits
  | .colophon => { status := if c.moved.contains (DigestBody.of q.bits).row then stMoved else stDone, s := s }
  | .digest | .sync => { s := s }

/-! ## Ends of descriptors and charges -/

/-- A region filled: valid, and the share perhaps READY. A region that has been un-lent meanwhile stays invalid (03 R64). -/
def State.fillDone (s : State) (slot stack region : Nat) : State :=
  if (s.stk stack).shares.any fun sh => sh.slot == slot && sh.st != .draining && sh.regions.contains region then
    (s.modStk stack fun k => { k with valid := k.valid ||| BitVec.ofNat 48 (2 ^ region) }).checkReady stack
  else s

/-- The stack whose carrel a descriptor writes. -/
def writesTo (stack : Nat) (d : BitVec 512) : Nat :=
  if Op.ofCode (dOp d) = some .xfer then (XferBody.of d).dstk else stack
/-- The writes of units that have become whole; an isolated stack takes none (16 R448). -/
def State.putUnits (s : State) (stack : Nat) (units : List (List (Nat × Bytes))) : State :=
  if !(s.stk stack).usable then s else
  s.modStk stack fun k => units.flatten.foldl (fun k w => k.writeCarrel w.1 w.2) k

/-- Accumulator entries written; one at 0 is not listed. -/
def putAcc (new old : List (Nat × BitVec 44)) : List (Nat × BitVec 44) :=
  new.foldl (fun a e => if e.2 = 0 then a.filter fun x => x.1 ≠ e.1 else putBy Prod.fst e a) old

/-- Take what a descriptor leaves beside carrel bytes into the state. -/
def State.putEnd (s : State) (c : ChargeSt) (x : RunEnd) : State :=
  let s := s.modStk c.stack fun k => { k with acc := putAcc x.acc k.acc }
  let s := x.works.foldl (fun s w => s.modStream w.1 fun y => { y with work := { y.work with shifts := w.2.1, state := w.2.2.1 }, wide := w.2.2.2 }) s
  s.modCharge c.id fun y => { y with
    needs := x.needs.foldl (fun ns n => addNeed n.1 n.2.1 n.2.2 ns) y.needs
    clips := mergeClips x.clips y.clips
    kept := y.kept ++ x.kept
    drift := match x.shadow with
      | some z => setKey z.1 z.2.1 y.drift
      | none => y.drift
    shadow := match x.shadow with
      | some z => z.2.2
      | none => y.shadow }

/-- The drift of a row that has committed ahead of its SHADOW counts at the SHADOW's end (06 R176). -/
def State.lateDrift (s : State) (c : ChargeSt) (row : Nat) : State :=
  match c.drift.find? fun (e : Nat × Nat) => e.1 == (rowAt c.rows row).sid with
  | some e => if c.done.contains row && !c.redo.contains row then s.driftCheck c.slot e.1 e.2 c.shadow else s
  | none => s

/-- What a descriptor does at its end: a region becomes valid, streams become RESIDENT or PARKED, a step commits, a context takes its bytes or
is finalised (06 R172, R173, R174, R177, R181). -/
def State.endEffect (s : State) (c : ChargeSt) (d : BitVec 512) : State :=
  match Op.ofCode (dOp d) with
  | some .streamin => if (FillBody.of d).final then s.fillDone c.slot c.stack (FillBody.of d).region else s
  | some .matmul => s.keepHeads c d
  | some .recall =>
    let b := MoveBody.of d
    (liveRows s c b.row0 b.nr).foldl (fun s p =>
      if p.2.place = .parked then (s.putStream { p.2 with
        place := .resident
        committed := p.2.ledger
        work := p.2.ledger
        wide := []
        stack := c.stack
        home := (rowAt c.rows p.1).home }).openRebuild c p.2.sid |>.openRedo c p.1 else s) s
  | some .park =>
    let b := MoveBody.of d
    (liveRows s c b.row0 b.nr).foldl (fun s p => s.putStream p.2.park) s
  | some .commit => endCommit s c d
  | some .shadow => s.lateDrift c (ShadowBody.of d).row
  | some .digest => endDigest s c d
  | some .colophon => endColophon s c d
  | _ => s

/-- The input log drops the committed steps that no drift monitor watches once the park that follows them has ended, and keeps the last 128 of a stream
(05 R152). A step not yet committed stays while its charge stands, or, for a replay, for 128 stamps, and so do the committed steps of a standby,
which a card may undo (08 R233, R235). -/
def State.trimLog (s : State) : State :=
  let watched : Nat → Bool := fun sid => s.patrons.any fun p => p.monitor.valid && p.monitor.sid == sid
  let stands : LoggedStep → Bool := fun e => e.charge != 0 && s.charges.any fun c => c.id == e.charge
  let kept := s.inputLog.filter fun e => stands e ||
    if e.committed then watched e.sid || (s.stream e.sid).place == .resident || (s.isStandby && decide (s.stamp.number.toNat < e.sample.toNat + 128))
    else decide (s.stamp.number.toNat < e.sample.toNat + 128)
  { s with inputLog := kept.filter fun e => !e.committed || stands e
      || decide ((lastN 128 (kept.filter fun x => x.sid == e.sid && x.committed)).contains e) }

/-- What a charge's end means to its patron. -/
def State.endKind (s : State) (c : ChargeSt) : State :=
  match c.kind with
  | .decode lch sl =>
    let soft := match s.folio? c.slot with
      | some f => (List.range 1308).map fun i => codeAt (s.stk c.stack).carrel (64 * c.place f.headAt) i true
      | none => []
    s.modBurst lch sl fun b => { b with fin := true, soft := soft }
  | .mains =>
    match s.folio? c.slot with
    | some f =>
      let car := (s.stk c.stack).carrel
      let a := 64 * c.place f.headAt
      s.mainsCommit ((List.range 16).map fun i => codeAt car a i true)
    | none => s
  | .refit => s.keepGrads c
  | .chunk req sid _ last =>
    match s.req? req with
    | none => s
    | some r =>
      let s := if r.kind = .rollout then s else s.jobChunkEnd c req sid last
      if (s.req? req).any (fun r => r.state == .running || r.state == .queued) then s
      else if (r.cells.any fun x => x.copy == sid) || r.copy == some sid then
        (if s.streamBusy sid then s else s.freeCopy r.slot sid)
      else s
  | _ => s

/-- Whether a charge has no descriptor left on its stack. -/
def StackSt.spent (k : StackSt) (id : Nat) : Bool :=
  !(k.queue.any (fun q => q.charge == id) || k.running.any (fun r => r.charge == id) || k.halted.any fun r => r.charge == id)

/-- A charge ends, at an instant, when none of its descriptors is left: its overlap is released, its counts and results stand, and what waited for it
goes on (07 R210, 06 R160, 05 R146). What is left of an abandoned charge ended with it (06 R188); what that has still computed is given up (05 R133). -/
def State.chargeEnd (s : State) (id : Nat) (at0 : Tick) : State :=
  match s.charge? id with
  | none => s
  | some c =>
    if !(s.stk c.stack).spent id then s else
    let s := if c.abandoned then ({ s with charges := s.charges.filter fun x => x.id ≠ id } : State).resetWork c
      else (((((s.noteEnd id).releaseOverlap c.stack c.slot).countElements c fun _ => true).endKind c).trimLog)
    s.serveWaits.reconsiderAll at0

/-! ## Starting and completing -/

/-- Remove one entry of a queue by its place. -/
def dropAt {α : Type} (i : Nat) (xs : List α) : List α := xs.take i ++ xs.drop (i + 1)

/-- Write the record of a descriptor where one is due: with REC, for a SHADOW, with a status other than DONE, and at the charge's end, which is
the descriptor with LAST unless the charge was abandoned (06 R188). -/
def State.recordDesc (s : State) (c : ChargeSt) (bits : BitVec 512) (index : Nat) (status cycles drift detail : Nat) : State :=
  let shadow := Op.ofCode (dOp bits) == some .shadow
  let fin := dLast bits && !c.abandoned
  if dRec bits || shadow || fin || status ≠ stDone then s.record c (dOp bits) index fin status cycles drift detail else s

/-- The slice that a main-engine descriptor of a slot runs in: its patron's, or a new one, shortened by what an earlier one overran (07 R208). -/
def StackSt.turn (k : StackSt) (slot : Nat) : StackSt :=
  if k.slices.any fun x => x.slot == slot then k else
  { k with
    slices := (k.slices.filter fun x => x.cls ≠ classOf slot) ++ [{ cls := classOf slot, slot := slot, used := lookupD 0 slot k.sliceCarry }]
    sliceCarry := k.sliceCarry.filter fun x => x.1 ≠ slot }
/-- Cycles of main-engine occupation counted to a slot's slice. -/
def StackSt.spend (k : StackSt) (slot n : Nat) : StackSt :=
  { k with slices := k.slices.map fun x => if x.slot = slot then { x with used := x.used + n } else x }

/-- A status that abandons its charge (06 R186). -/
def abandons (status : Nat) : Bool := decide (stSkew ≤ status ∧ status ≤ stNotResident)

/-- A descriptor of a charge begins its cycles at an instant: its cost, or those after which a fault stops it. A RECALL of rows that are resident and a
PARK of rows that are parked complete at once, as far as their streams go; their full cost occupies the engine (06 R173, log 140). -/
def Effect.begin (e : Effect) (at0 : Tick) (stack : Nat) (c : ChargeSt) (o : Op) (pre : List QDesc) (q : QDesc) : State :=
  let cost := if abandons e.status then e.after else descCost e.s (e.s.stk stack).shelfCount c.rows q.bits
  let fills := o == .streamin
  let s := if fills then e.s.joinPort stack at0 else e.s
  s.modStk stack fun k => { (if o.engine = .main then k.turn c.slot else k) with
    running := k.running ++ [{
      eng := o.engine
      charge := c.id
      index := q.index
      bits := q.bits
      start := at0
      began := at0
      portFirst := e.s.firstBlock stack
      ceded := fills && e.s.cedesBlock stack
      units := e.units
      fx := e.fx
      cost := cost
      left := cost
      status := BitVec.ofNat 8 e.status
      detail := BitVec.ofNat 32 e.detail
      drift := BitVec.ofNat 32 ((e.fx.shadow.map (·.2.1)).getD 0)
      past := pre.map fun p => (p.charge, p.index)
      cyc := s.cycTicks }] }

/-- A descriptor leaves the queue for its engine at an instant, others ahead of it staying: the overlap is counted, its charge starts with its first
one, and has its inputs with its first one on the main engine. -/
def State.leaveQueue (s : State) (at0 : Tick) (stack : Nat) (o : Op) (i : Nat) (c : ChargeSt) : State :=
  let s := (s.tallyStk stack at0).modStk stack fun k => { k with
    queue := dropAt i k.queue, ready := k.ready.filter fun x => x.1 != o.engine }
  let s := s.startCharge c
  if o.engine = .main ∧ !c.fed then s.feed ((s.charge? c.id).getD c) else s

/-- Start the next descriptor of an opcode on a stack, as of the instant from which it could (log 14); an empty one completes at once, and a DIGEST of
no bytes still begins its context anew with INIT (06 R177, R180, log 140); an uncorrectable word in the carrel bytes that it reads ends it (03 R69). -/
def State.startDesc (s : State) (stack : Nat) (o : Op) : State :=
  match (s.stk stack).nextOf o.engine with
  | none => s
  | some (pre, q) => match s.charge? q.charge with
    | none => s.modStk stack fun k => { k with queue := dropAt pre.length k.queue }
    | some c0 =>
      let at0 := s.startAt stack o.engine
      let s := s.leaveQueue at0 stack o pre.length c0
      let c := (s.charge? c0.id).getD c0
      if emptyDesc o q.bits then
        let s := if o = .streamin ∧ (FillBody.of q.bits).final then s.fillDone c.slot stack (FillBody.of q.bits).region else s
        let s := if o = .digest then endDigest s c q.bits else s
        ((s.recordDesc c q.bits q.index stDone 0 0 0).noteReady at0).chargeEnd c.id at0
      else
        let e := if (badCarrelRead (s.stk stack) (carrelReads s c.rows q.bits)).isSome then { status := stEcc, s := s } else effectOf o s c q
        let c := (e.s.charge? c.id).getD c
        if abandons e.status ∧ e.after = 0 then e.s.failDesc at0 c q e.status e.detail 0
        else (e.begin at0 stack c o pre q).noteReady at0

/-- Cycles for which a descriptor that ends at an instant has occupied its engine: its cost, or the time that sharing or waiting
lengthened it to (06 R159). -/
def RunSt.cycles (r : RunSt) (due : Tick) : Nat :=
  match Op.ofCode (dOp r.bits) with
  | some .streamin | some .colophon => max r.cost ((due - r.began) / r.cyc)
  | _ => r.cost

/-- The debt of a slot whose descriptor ran over the boundary, while it still holds a share of the stack (02 R44). -/
def State.oweDebt (s : State) (stack slot : Nat) (r : RunSt) (due : Tick) : State :=
  let held : Bool := (s.stk stack).shares.any fun sh => sh.slot == slot && sh.st != .draining
  if r.began < s.stamp.t0 ∧ s.stamp.t0 < due ∧ held then s.modStk stack fun k => { k with debts := addKey slot ((due - s.stamp.t0) / r.cyc) k.debts }
  else s

/-- A descriptor leaves its engine at an instant: the overlap is counted, the port's other stream-in goes on alone, the digest engine is free. -/
def State.leaveEngine (s : State) (stack : Nat) (r : RunSt) (due : Tick) : State :=
  let s := s.tallyStk stack due
  let s := if r.eng = .fill then s.leavePort stack due else s
  let s : State := if Op.ofCode (dOp r.bits) = some .colophon then { s with digestFree := due } else s
  s.modStk stack fun k => { k with
    running := k.running.filter fun x => x.eng != r.eng
    stops := k.stops.map fun p => if r.stoppedBy = some p.slot then { p with at0 := max p.at0 due } else p }

/-- Complete the descriptor of an engine (06 R187), as of the instant at which it ends: what it writes and leaves, its record, a debt where it
ended after the boundary (02 R44), and its charge's end; or its charge's abandonment, where a fault has stopped it. -/
def State.completeDesc (s : State) (stack : Nat) (e : Engine) : State :=
  match (s.stk stack).runOn e with
  | none => s
  | some r =>
    let due := s.dueAt stack r
    let s := s.leaveEngine stack r due
    match s.charge? r.charge with
    | none => s
    | some c =>
      let s := s.oweDebt stack c.slot r due
      let s := if e = .main then s.modStk stack fun k => k.spend c.slot ((due - r.start) / r.cyc) else s
      let s := s.modCharge c.id fun x => { x with unrun := x.unrun - r.left }
      let s := (s.putUnits (writesTo stack r.bits) r.units).putEnd c r.fx
      let c := (s.charge? c.id).getD c
      if abandons r.status.toNat then
        s.failDesc due c { charge := r.charge, index := r.index, bits := r.bits } r.status.toNat r.detail.toNat (r.cycles due)
      else
        let s := s.endEffect c r.bits
        let s := if e = .main then s.takeOuts c.id else s
        let c := (s.charge? c.id).getD c
        ((s.recordDesc c r.bits r.index r.status.toNat (r.cycles due) r.drift.toNat r.detail.toNat).noteReady due).chargeEnd c.id due

/-- A command row of the table that starts a descriptor of an opcode. -/
def State.starts (s : State) (stack : Nat) (o : Op) : Bool :=
  s.canStart stack o.engine && ((s.stk stack).nextOf o.engine).any fun p => Op.ofCode (dOp p.2.bits) == some o

end Sys2Proof.Machine
end

