-- ==== Sys2Proof/Machine/Power.lean ====
section
/-! DEFINITION. The commands of power and the first second (15): rails, boot, start-up inventories, roles, HRDY, brown-out, the snapshot and
its restore, RST_N and the loss of power. -/

namespace Sys2Proof.Machine

/-! ## Rails (R419 to R421) -/

/-- The porter's sequence is under way: powered, and waiting for no restart. -/
def State.sequencing (s : State) : Bool := s.power.porter && s.power.waiting == .none && s.power.brownAt.isNone

/-- The first rail whose BKEN is low. -/
def Power.nextRail (p : Power) : Nat := ((List.range 5).find? fun k => !p.bken.getLsbD k).getD 5
/-- Raise a rail's BKEN. -/
def State.enableRail (s : State) (k : Nat) : State :=
  { s with power := { s.power with bken := s.power.bken ||| BitVec.ofNat 5 (2 ^ k), enabledAt := s.now } }

/-- POWER_UP: VDD_PORTER reaches its threshold, t = 0; a power-up is counted and the bus check begins. -/
def execPowerUp (t : Tick) : State → Host.Outcome State Fault Refusal :=
  occurs t (fun s => !s.power.porter) fun s =>
    { s.fresh.countPowerUp with power := { porter := true, origin := s.now, waiting := .busCheck, waitFrom := s.now, shutdowns := s.power.shutdowns } }

/-- BUS_CHECK_END (R420): VDD_IO33 is enabled, no earlier than 2 ms, and the timeline shifts by the wait. -/
def execBusCheckEnd (t : Tick) : State → Host.Outcome State Fault Refusal :=
  occurs t (fun s => s.power.porter && s.power.waiting == .busCheck && decide (s.power.waitFrom + 2 * msTicks ≤ s.now)) fun s =>
    ({ s with power := { s.power with waiting := .none, origin := s.now - 2 * msTicks } } : State).enableRail 0

/-- RAIL_ENABLE: the next rail, at or after its time and once the rail before it is good. -/
def execRailEnable (t : Tick) : State → Host.Outcome State Fault Refusal :=
  occurs t (fun s =>
    let k := s.power.nextRail
    s.sequencing && decide (1 ≤ k ∧ k ≤ 4) && s.power.good.getLsbD (k - 1) && s.reached (2 * k + 2)) fun s => s.enableRail s.power.nextRail

/-- RAIL_POWER_GOOD. -/
def execRailPowerGood (t : Tick) (rail : Nat) : State → Host.Outcome State Fault Refusal :=
  occurs t (fun s => s.sequencing && decide (rail < 5) && s.power.bken.getLsbD rail && !s.power.good.getLsbD rail
      && decide (s.now ≤ s.power.enabledAt + 2 * msTicks)) fun s =>
    { s with power := { s.power with good := s.power.good ||| BitVec.ofNat 5 (2 ^ rail) } }

/-- RAIL_GOOD_TIMEOUT: the rail enabled last has not reported good within 2 ms. -/
def execRailGoodTimeout (t : Tick) : State → Host.Outcome State Fault Refusal :=
  occurs t (fun s =>
    let k := s.power.nextRail - 1
    s.sequencing && decide (1 ≤ s.power.nextRail) && !s.power.good.getLsbD k && decide (s.power.enabledAt + 2 * msTicks ≤ s.now)) fun s =>
    s.shutRails (some (s.power.nextRail - 1)) true .railRestart

/-- RAIL_GOOD_LOST. -/
def execRailGoodLost (t : Tick) (rail : Nat) : State → Host.Outcome State Fault Refusal :=
  occurs t (fun s => s.power.porter && s.power.waiting == .none && decide (rail < 5) && s.power.bken.getLsbD rail && s.power.good.getLsbD rail)
    fun s => s.shutRails (some rail) true .railRestart

/-- The sequence restarts at the enable of VDD_IO33, as a power-up. -/
def State.restartRails (s : State) : State :=
  ({ s.countPowerUp with power := { s.power with waiting := .none, origin := s.now - 2 * msTicks, offTimes := [] } } : State).enableRail 0

/-- RAIL_RESTART: 1 s after a rail fault. -/
def execRailRestart (t : Tick) : State → Host.Outcome State Fault Refusal :=
  occurs t (fun s => s.power.porter && s.power.waiting == .railRestart && decide (s.power.waitFrom + 1000 * msTicks ≤ s.now)) State.restartRails

/-- BUS_RESTART (R434): the bus has stood at or above power.restart for 100 ms after a shutdown. -/
def execBusRestart (t : Tick) : State → Host.Outcome State Fault Refusal :=
  occurs t (fun s => s.power.porter && s.power.waiting == .busRestart && s.power.offTimes.all fun o => decide (o.2 ≤ s.now)) State.restartRails

/-! ## Boot (R438, 02 R31, R32) -/

/-- Every rail is good. -/
def State.railsGood (s : State) : Bool := s.sequencing && s.power.good == 0x1F#5 && s.power.rstLow.isNone

/-- BOOT_RECORD_READ: the saved configuration becomes live, and the run number is formed. A move to RETURNED that was cut short is
finished first (16 R465). -/
def State.readBoot (s : State) : State :=
  if s.test.fuses.getLsbD 4 && !s.test.fuses.getLsbD 3 then s.finishReturn else
  let a := s.archive
  let s : State := { s with
    power := { s.power with bootRead := true }
    settings := { s.settings with live := a.saved, scripts := a.savedScripts, twinsets := a.savedSets }
    spine := { s.spine with partner := a.partner, sideB := a.sideB, state := if a.partner then .down else .off } }
  { s with stamp := { s.stamp with
      run := BitVec.ofNat 32 (a.sideB.toNat * 2 ^ 31 + a.powerUps.toNat)
      period := s.getN .stampPeriod
      economy := s.getN .stampEconomy = 1 } }

def execBootRecordRead (t : Tick) : State → Host.Outcome State Fault Refusal :=
  occurs t (fun s => s.railsGood && s.reached 12 && !s.power.bootRead) State.readBoot

/-- PLL_LOCK: stamp 0 begins, and TCK is driven on every fitted port; in BLANK the stamp does not start (16 R464). -/
def execPllLock (t : Tick) : State → Host.Outcome State Fault Refusal :=
  occurs t (fun s => s.railsGood && s.power.bootRead && !s.stamp.started && !s.blank) fun s =>
    ({ s with stamp := { s.stamp with started := true, number := 0, t0 := s.now, adjust := 0 } } : State).driveTck

/-- A stack as the weeding map leaves it (16 R460). -/
def StackSt.weedFrom (k : StackSt) (w : Nat × BitVec 32 × Bool × Bool) : StackSt :=
  { k with shelves := k.shelves &&& ~~~ w.2.1, annexOk := k.annexOk && !w.2.2.1, weeded := w.2.2.2 }

/-! The bytes over which a snapshot's CRC-32 values run: the spec gives the parts and their order, the layout within a part is the model's (log 157). -/

/-- A counted list of items. -/
def listBytes {α : Type} (f : α → Bytes) (xs : List α) : Bytes := leBytes 4 xs.length ++ xs.flatMap f
/-- A setting and its value. -/
def settingBytes (p : SName × Option Int) : Bytes :=
  p.1.text ++ [BitVec.ofNat 8 p.2.isSome.toNat] ++ leBytes 8 (ofSigned (p.2.getD 0) 64)
/-- A kept loan. -/
def KeptLoan.bytes (l : KeptLoan) : Bytes :=
  leBytes 1 l.slot ++ leBytes 1 l.count ++ leBytes 2 l.pages
    ++ listBytes (fun (x : Nat × Nat × Nat) => leBytes 1 x.1 ++ leBytes 1 x.2.1 ++ leBytes 1 x.2.2) l.shared
/-- The catalogue part and the twin states (Table 15.4). -/
def Snapshot.fixedBytes (x : Snapshot) : Bytes :=
  x.patrons.flatten ++ listBytes (fun (b : Nat × BitVec 32) => leBytes 1 b.1 ++ leBytes 4 b.2.toNat) x.bindings
    ++ listBytes KeptLoan.bytes x.loans ++ listBytes (fun (g : Nat × BitVec 32) => leBytes 2 g.1 ++ leBytes 4 g.2.toNat) x.gens
    ++ listBytes settingBytes x.live ++ listBytes (fun (r : Nat × BitVec 64) => leBytes 2 r.1 ++ leBytes 8 r.2.toNat) x.roster
    ++ listBytes (fun (c : Nat × Nat × Nat) => leBytes 2 c.1 ++ leBytes 2 c.2.1 ++ leBytes 1 c.2.2) x.cells
    ++ x.twins.flatMap fun w => leBytes 96 w.2.2.toNat
/-- The CRC-32 of a stream record: over its 64-byte head with SID, LENGTH and place, and the image. -/
def SnapRec.check (r : SnapRec) : BitVec 32 :=
  crc32 (leBytes 64 (r.sid + r.length * 2 ^ 32 + (match r.place with | .free => 0 | .parked => 1 | .resident => 2 | .exported => 3) * 2 ^ 64) ++ r.image.bytes)
/-- The record of a stream (R433: its committed image). -/
def snapRec (x : StreamSt) : SnapRec :=
  let r : SnapRec := { sid := x.sid, length := x.committed.length, place := x.place, image := x.committed, crc := 0 }
  { r with crc := r.check }

/-- A snapshot is valid: VALID is set, its CRC-32 matches, and it has not been consumed (R435). -/
def Snapshot.usable (x : Snapshot) : Bool := x.valid && !x.consumed && x.crc == crc32 x.fixedBytes

/-- The intervals of the inventory schedule begin (14 R418). -/
def State.scheduleInventory (s : State) : State :=
  let turns := match s.get .inventorySchedule with
    | none => []
    | some h => ((List.range 4).filter fun k => (s.stk k).present).map fun k => (k, s.now + h.toNat * 3600000 * msTicks)
  { s with steward := { s.steward with invAt := turns } }

/-- STEWARD_BOOT: the snapshot is checked; the catalogue, the weeding map and the draft come from the archive; spine training begins. -/
def State.bootSteward (s : State) : State :=
  let a := s.archive
  let snap := a.snapshot.usable && s.power.start == .cold && !s.blank
  let binds := if snap then a.snapshot.bindings else a.bindings
  let records := if snap then a.snapshot.records else []
  let s : State := { s with
    power := { s.power with booted := true, start := if snap then .restore else s.power.start }
    patrons := s.patrons.map fun p =>
      let f := (binds.find? fun b => b.1 == p.slot).map (·.2)
      { p with folio := f.filter fun f => a.folios.any fun x => x.info.fid == f }
    stackList := s.stackList.mapIdx fun i k => match a.weeding.find? fun w => w.1 == i with
      | some w => k.weedFrom w
      | none => k
    draft := a.draft
    streams := if snap then a.snapshot.gens.foldl (fun xs g =>
        let x : StreamSt := { sid := g.1, gen := g.2, held := records.any fun r => r.sid == g.1 }
        putBy StreamSt.sid x xs) [] else [] }
  let s := s.scheduleInventory
  let s := match s.test.lifeEvent with
    | some (x, y) => ({ s with test := { s.test with lifeEvent := none } } : State).raise 0x88 none none x y 0 0
    | none => s
  if s.spine.partner && !s.blank then s.startTraining else s

def execStewardBoot (t : Tick) : State → Host.Outcome State Fault Refusal :=
  occurs t (fun s => s.railsGood && s.power.bootRead && (s.stamp.started || s.blank) && !s.power.booted) State.bootSteward

/-! ## Start-up inventories (R422) -/

/-- STACK_WAKE: stack s at 60 + 5s ms exactly, whatever the command's instant, one at a time (R443). -/
def execStackWake (t : Tick) (stk : Nat) : State → Host.Outcome State Fault Refusal :=
  occurs t (fun s => s.awake && s.power.brownAt.isNone && (s.stk stk).usable && !(s.stk stk).tested && s.reached (60 + 5 * stk)
      && (List.range 4).all fun k => (s.stk k).inv.isNone && (decide (stk ≤ k) || !(s.stk k).usable || (s.stk k).tested)) fun s =>
    s.modStk stk fun k => { k with gated := false, inv := some { start := s.power.origin + (60 + 5 * stk) * msTicks, startup := true } }

/-- STARTUP_INVENTORY_END: the stack is gated again; shelves that failed are weeded. -/
def execStartupInventoryEnd (t : Tick) (stk : Nat) (failed : BitVec 32) : State → Host.Outcome State Fault Refusal :=
  occurs t (fun s => s.awake && (s.stk stk).inv.any fun v => v.startup && decide (v.start + 4 * msTicks ≤ s.now)) fun s =>
    (s.modStk stk fun k => { k.reinit with tested := true }).weedShelves stk failed

/-! ## Roles (R439) -/

/-- Become primary, and tell the partner on an UP link (12 Table 12.4). -/
def State.claim (s : State) : State := s.becomePrimary.sendSeq (.role .claim)

/-- ROLE_DECISION: alone without a partner; on an UP spine by side, or standby beside a primary; else listening
begins, at 140 ms exactly (R443). -/
def State.decideRole (s : State) : State :=
  if !s.spine.partner then s.becomePrimary
  else if s.spine.state = .up then
    match s.spine.partnerRole with
    | some r => if r == .primary || r == .alone then s.becomeStandby true else s.claim
    | none => if s.spine.sideB then s.becomeStandby true else s.claim
  else { s with roleSt := { s.roleSt with listenTo := some (s.power.origin + (if s.spine.sideB then 440 else 240) * msTicks) } }

def execRoleDecision (t : Tick) : State → Host.Outcome State Fault Refusal :=
  occurs t (fun s => s.awake && s.power.brownAt.isNone && !s.roleSt.decided && s.roleSt.listenTo.isNone && s.reached 140) State.decideRole

/-- BEACON_LISTEN_END: no beacon of the partner was heard. -/
def execBeaconListenEnd (t : Tick) : State → Host.Outcome State Fault Refusal :=
  occurs t (fun s => s.awake && s.power.brownAt.isNone && !s.roleSt.decided && s.roleSt.listenTo.any fun x => decide (x ≤ s.now)) State.becomePrimary

/-- UNALIGNED_PROMOTION: at a boundary 25 ms or more after the last beacon of its partner an unaligned standby becomes primary. -/
def execUnalignedPromotion (t : Tick) : State → Host.Outcome State Fault Refusal :=
  occurs t (fun s => s.awake && s.isStandby && s.roleSt.unaligned && s.power.brownAt.isNone
      && s.roleSt.heardAt.all fun h => decide (h + 25 * msTicks ≤ s.stamp.t0)) State.becomePrimary

/-! ## HRDY (R441, 13 R394) -/

/-- GRADE of the status block (13 Table 13.4, 16 R464). In MANUFACTURE ENMASK may have fewer than two bits set, for which the spec gives no value: the
model gives 0, and BLANK as part= (00 R6, log 164). -/
def State.grade (s : State) : Nat :=
  if s.blank then 0 else match (s.stackList.filter (·.present)).length with
  | 4 => 0x440
  | 3 => 0x430
  | 2 => 0x420
  | _ => 0
/-- NSTACK and AVAIL. -/
def State.nstack (s : State) : Nat := if s.blank then 0 else (s.stackList.filter (·.present)).length
def State.avail (s : State) : Nat := if s.blank then 0 else s.stackMask fun k => k.present && !k.weeded

def lifeName : Nat → String
  | 0 => "BLANK" | 1 => "MANUFACTURE" | 2 => "PROVISIONED" | 3 => "DEPLOYED" | _ => "RETURNED"
def StartKind.name : StartKind → String
  | .cold => "COLD" | .restore => "RESTORE" | .reset => "RESET"
def partName : Nat → String
  | 0x440 => "EMS-440" | 0x430 => "EMS-430" | 0x420 => "EMS-420" | _ => "BLANK"

/-- The firmware release as the banner shows it. -/
def fwText : String :=
  let v := Config.fwver.toNat
  toString (v / 2 ^ 24) ++ "." ++ toString (v / 2 ^ 16 % 256) ++ "." ++ toString (v % 2 ^ 16)

/-- The fields of the banner. -/
def State.bannerFields (s : State) : List (String × RVal) :=
  [("part", .word (partName s.grade)), ("stacks", .nat s.nstack), ("avail", .hex s.avail 1), ("fw", .word fwText),
   ("life", .word (lifeName (lifeIndex s.life))), ("side", .word (if s.spine.sideB then "B" else "A")), ("run", .hex s.stamp.run.toNat 8),
   ("start", .word s.power.start.name)]

/-- The air interface starts: every fitted port's init script runs (10 R268). -/
def State.startAir (s : State) : State :=
  if s.blank then s else
  (List.range 4).foldl (fun s x => if s.fitted x then s.runScript x none else s) { s with air := { s.air with running := true } }

/-- HRDY_RISE: HRDY rises at 150 ms exactly (R443), and the banner follows. -/
def execHrdyRise (t : Tick) : State → Host.Outcome State Fault Refusal :=
  occurs t (fun s => s.awake && s.port.boot && s.power.brownAt.isNone && s.reached 150) fun s =>
    let s : State := { s with port := { s.port with boot := false, hrdy := true, hrdyAt := s.power.origin + 150 * msTicks } }
    ((s.startAir).wakeChain).notify "BANNER" s.bannerFields

/-! ## The restore (R442) -/

/-- The identity of a shelfmark in the new roster equals that in the snapshot's. -/
def State.sameNode (s : State) (shelf : Nat) : Bool :=
  s.archive.roster.any fun r => r.1 == shelf && s.archive.snapshot.roster.contains r

/-- The restore ends: RESTORED is set and the snapshot is consumed. -/
def State.endRestore (s : State) : State :=
  if s.restoring ≠ some [] then s else
  ({ s with
    restoring := none
    restored := true
    archive := { s.archive with snapshot := { s.archive.snapshot with consumed := true } } } : State).remapCells

/-- Twin states and the assignment of streams to cells, where the identities agree. -/
def State.beginRestore (s : State) : State :=
  let x := s.archive.snapshot
  let s : State := { s with
    restoring := some (x.records.map fun r => (r.sid, r.image))
    restoreFrom := s.stamp.t0
    cells := s.cells.map fun c =>
      if !s.sameNode c.shelf then c else
      let c := match x.twins.find? fun w => w.1 == c.shelf && w.2.1 == c.cell with
        | some w => { c with twin := some w.2.2 }
        | none => c
      match x.cells.find? fun a => a.2.1 == c.shelf && a.2.2 == c.cell with
      | some a => c.give (some (a.1, .ofImage (((x.records.find? fun r => r.sid == a.1).map (·.image)).getD {}) (s.patron 1).folio))
      | none => c }
  s.endRestore

/-- SNAPSHOT_RESTORE: at the first boundary after accession, before that stamp's sample mark. -/
def execSnapshotRestore (t : Tick) : State → Host.Outcome State Fault Refusal :=
  occurs t (fun s => s.up && s.leads && s.power.start == .restore && s.archive.snapshot.usable && s.acc.phase == .ended && s.acc.first == s.stamp.number
      && !s.sense.marked && s.restoring.isNone && !s.restored) State.beginRestore

/-- One stream record: restored PARKED byte for byte, or FREE with its generation when its CRC-32 fails or its cell changed identity. -/
def State.restoreRecord (s : State) (r : Nat × Image) : State :=
  let moved := (s.archive.snapshot.records.any fun x => x.sid == r.1 && x.crc != x.check)
    || s.archive.snapshot.cells.any fun a => a.1 == r.1 && !s.sameNode a.2.1
  let s : State := { s with restoring := s.restoring.map fun rs => rs.filter fun q => q.1 != r.1 }
  if moved then { (s.modStream r.1 fun x => { x with held := false }) with skipped := s.skipped + 1 }
  else
    let x : StreamSt := { sid := r.1, place := .parked, gen := r.2.gen, slot := 1, pages := r.2.pages, ledger := r.2, committed := r.2, work := r.2 }
    { (s.putStream { x with shiftTo := s.archive.snapshot.live.filterMap fun p => match p.1 with
        | .streamShift y l => if y = r.1 then some (l, (p.2.getD 0).toNat) else none
        | _ => none }) with
      restoredCount := s.restoredCount + 1 }

def execStreamRecordRestore (t : Tick) : State → Host.Outcome State Fault Refusal :=
  occurs t (fun s => s.up && s.restoring.any fun rs => !rs.isEmpty
      && decide (s.restoreFrom + (s.restoredCount + s.skipped) / 16 * msTicks ≤ s.now)) fun s =>
    (((s.restoring.getD []).take 16).foldl State.restoreRecord s).endRestore

/-! ## Brown-out (R429 to R436) -/

/-- The parts of a snapshot as they stand: the committed state, and nothing of a step that has not committed (R431, R433). -/
def State.takeSnapshot (s : State) : Snapshot :=
  let recs := ((s.streams.filter fun x => x.slot == 1 && (x.place == .parked || x.place == .resident)).foldl (fun xs x => putBy StreamSt.sid x xs) []).map snapRec
  let x : Snapshot := {
    fw := Config.fwver
    run := s.stamp.run
    stamp := s.stamp.number
    count := recs.length
    length := (recs.map fun r => r.length + 128).sum
    patrons := (List.range 4).map s.patronRecord
    bindings := s.archive.bindings
    loans := s.archive.loans
    gens := (s.streams.filter fun x => x.gen != 0).map fun x => (x.sid, x.gen)
    live := s.settings.live
    roster := s.archive.roster
    cells := s.cells.filterMap fun c => c.sid.map fun x => (x, c.shelf, c.cell)
    twins := s.cells.filterMap fun c => if s.nodes.any fun n => n.shelf == c.shelf then c.twin.map fun w => (c.shelf, c.cell, w) else none
    records := recs }
  { x with crc := crc32 x.fixedBytes }

/-- A stack finishes its non-preemptible descriptors, as of the instants at which they end (R430 step 2). -/
def State.finishFixed (s : State) (stack : Nat) : State :=
  ((s.stk stack).running.filter fun r => (Op.ofCode (dOp r.bits)).any fun o => !o.preemptible).foldl (fun s r => s.completeDesc stack r.eng) s

/-- Steps 1 to 3 of R430: FAILING, IRQ[12], no admission, stacks stopped without budget events, the streams of slot 1 parked, stacks gated. What the
snapshot will hold is the state of this instant, unless a valid one is still unconsumed (R435); a standby takes no takeover any more (R436). -/
def State.declareBrownOut (s : State) : State :=
  let snap := if s.archive.snapshot.usable then none else some s.takeSnapshot
  let s := ({ s with
    power := { s.power with brownAt := some s.now, stopped := true }
    roleSt := { s.roleSt with failing := true, lostAt := none, takeoverAt := none }
    steward := { s.steward with snap := snap }
    stackList := s.stackList.map fun k => { k with passDone := false } } : State).irqSet 12
  let s := (List.range 4).foldl State.abortInventory s
  let s := (List.range 4).foldl (fun s k => (s.finishFixed k).dropAdmitted k [] fun _ => true) s
  let s := s.parkAll fun x => x.slot == 1
  { s with stackList := s.stackList.map fun k => { k with gated := true } }

/-- Pair B has found every phase below mains.interrupt in each of the last h half-cycles (R429). -/
def State.mainsLow (s : State) : Bool := (s.get .powerMainsbo).any fun h => decide (h.toNat ≤ s.mains.low)

/-- BROWN_OUT (R429): the bus has stood below power.bo for 50 µs, or the mains are interrupted. Before the steward has booted, or while RST_N is low, the
bus shuts the rails down instead. -/
def execBrownOut (t : Tick) (mains : Bool) : State → Host.Outcome State Fault Refusal :=
  occurs t (fun s => s.power.porter && s.power.waiting == .none && s.power.brownAt.isNone && s.power.bken.getLsbD 0
      && (!mains || (s.awake && s.stamp.started && s.steward.bDown.isNone && s.mainsLow))) fun s =>
    if s.awake then s.declareBrownOut else s.shutRails none false .busRestart

/-- BROWN_OUT_HRDY_LOW: 1 ms after the declaration. -/
def execBrownOutHrdyLow (t : Tick) : State → Host.Outcome State Fault Refusal :=
  occurs t (fun s => s.port.hrdy && s.power.brownAt.any fun b => decide (b + msTicks ≤ s.now)) fun s =>
    s.setHrdy false

/-- SNAPSHOT_WRITE (R431, R433): VALID is cleared, and the catalogue part, the twin states and the stream records of the declaration are written. -/
def execSnapshotWrite (t : Tick) : State → Host.Outcome State Fault Refusal :=
  occurs t (fun s => s.power.brownAt.isSome && s.power.stopped && !s.power.written && s.steward.snap.isSome) fun s =>
    { s with
      power := { s.power with written := true }
      archive := { s.archive with snapshot := s.steward.snap.getD {} } }

/-- SNAPSHOT_SEAL (R434): the header is written with VALID set, and the rails go down. Where R435 forbids a snapshot, the shutdown alone
follows steps 1 to 5. -/
def execSnapshotSeal (t : Tick) : State → Host.Outcome State Fault Refusal :=
  occurs t (fun s => s.power.brownAt.isSome
      && (s.power.written || (s.steward.snap.isNone && !s.port.hrdy && (s.power.quiet || !s.leads)))) fun s =>
    let s : State := if s.power.written then
        { s with archive := { s.archive with snapshot := { s.archive.snapshot with valid := true, consumed := false } } }
      else s
    s.shutRails none true .busRestart

/-! ## RST_N and the loss of power (R437, R444) -/

/-- RST_N_LOW: held low for 10 µs, it stops the hub at once. -/
def execRstNLow (t : Tick) : State → Host.Outcome State Fault Refusal :=
  occurs t (fun s => s.power.porter && s.power.waiting == .none && s.power.brownAt.isNone && s.power.rstLow.isNone) fun s =>
    let p := s.power
    { s.fresh with power := {
        porter := true
        origin := p.origin
        bken := p.bken
        good := p.good
        enabledAt := p.enabledAt
        shutdowns := p.shutdowns
        railFault := p.railFault
        rstLow := some s.now } }

/-- RST_N_RELEASE: the timeline resumes at its 12 ms point, as a power-up, and a snapshot is consumed. While the rails are down, the sequence waits for
their restart. -/
def execRstNRelease (t : Tick) : State → Host.Outcome State Fault Refusal :=
  occurs t (fun s => s.power.rstLow.isSome) fun s =>
    let s : State := if s.power.waiting = .none then s.resumeAt12 .reset else { s with power := { s.power with rstLow := none } }
    { s with archive := { s.archive with snapshot := { s.archive.snapshot with consumed := true } } }

/-- POWER_LOSS: VDD_PORTER falls below its threshold, and the hub holds nothing but its archive and fuses. -/
def execPowerLoss (t : Tick) : State → Host.Outcome State Fault Refusal :=
  occurs t (fun s => s.power.porter) State.fresh

end Sys2Proof.Machine
end

