-- ==== Sys2Proof/Machine/Preempt.lean ====
section
/-! DEFINITION. Preemption and slices: the stop request, the saves of claimed blocks, the resume, and the turns of patrons of one class
(06 R181, R182, 07 R202 to R205, R208). -/

namespace Sys2Proof.Machine

/-- A stop request to a descriptor: a preemptible one halts at its next stop point, any other runs to its end (06 R181). -/
def RunSt.stopFor (r : RunSt) (slot shelves : Nat) (now : Tick) : RunSt :=
  { r with
    stoppedBy := some slot
    stopAt := if (Op.ofCode (dOp r.bits)).any (·.preemptible) then some (stopPointFrom shelves r.bits r.cost (r.elapsed now)) else none }

/-- Issue the stop request of a preempting slot, as of the instant of its turn; every unstarted descriptor of a lower class goes behind the charge's last
one (R203 step 3). -/
def State.preempt (s : State) (stack slot : Nat) : State :=
  let k := s.stk stack
  let at0 := s.turnAt stack (.preempt slot)
  let id := (s.headCharge k slot).getD 0
  let hit := (k.running.filter fun r => s.below slot r.charge).map fun r => s.slotOf r.charge
  let s := hit.eraseDups.foldl (fun s p => s.modCtr p fun t => { t with preempt := natSat (t.preempt + 1) 16 }) s
  (s.modStk stack fun k => { k with
    queue := withdraw k.queue (fun q => s.below slot q.charge) id
    running := k.running.map fun r => if s.below slot r.charge then r.stopFor slot k.shelfCount at0 else r
    stops := { slot := slot, charge := id, at0 := at0 } :: k.stops }).noteReady at0

/-! ## Saves (07 R204, R205) -/

/-- Carrel blocks that the started descriptors of a charge have written, or that its inputs stand in. -/
def State.writtenBlocks (s : State) (k : StackSt) (c : ChargeSt) : List Nat :=
  let started := (c.descs.mapIdx fun i d => (i, d)).filter fun p => !k.queue.any fun q => q.charge == c.id && q.index == p.1
  let spans := (if c.started then started.flatMap fun p => carrelWrites s c.rows p.2 else [])
    ++ if c.fed then c.inputs.map fun p => (64 * p.1, p.2.length) else []
  (List.range 48).filter fun b => spans.any fun sp => sp.2 ≠ 0 && Span.meets sp (65536 * b, 65536)

/-- Claimed blocks that hold live activations, each with the slot that owns them. -/
def State.liveClaims (s : State) (stack slot : Nat) : List (Nat × Nat) :=
  let k := s.stk stack
  let claim := ((k.share? slot).map (·.claim)).getD []
  let cs := s.charges.filter fun c => c.stack == stack && c.phase == .admitted && decide (classOf c.slot > classOf slot)
  claim.filterMap fun b => (cs.find? fun c => (s.writtenBlocks k c).contains b).map fun c => (b, c.slot)

/-- Where one block is saved: the reserve (false), spill pages (true), or nowhere. -/
def State.savePath (s : State) (stack slot : Nat) : Option Bool :=
  let k := s.stk stack
  let used := (k.saved.filter fun b => !b.spill).length
  let claim0 := ((k.share? 0).map (·.claim.length)).getD 0
  let roomy : Bool := if classOf slot = 0 then decide (used < 16) else decide (used + 1 + claim0 ≤ 16)
  if roomy then some false else if s.steward.spill + 8 ≤ 512 then some true else none

/-- Cycles of one block's save or restore (R204). -/
def saveCost (spill : Bool) : Nat := if spill then 2048 else 64

/-- Abandon the unended charges of a slot whose blocks found no room: the started ones PREEMPTLOST, and each goes first in its patron's queue with those
that have not started behind it in their order, but for one whose step has committed (R205). What is left of a charge abandoned before has ended. -/
def State.preemptLost (s : State) (at0 : Tick) (stack owner : Nat) : State :=
  let mine : ChargeSt → Bool := fun c => c.stack == stack && c.phase == .admitted && c.slot == owner && !c.abandoned
  let s := s.dropAdmitted stack [] fun c => mine c && !c.started
  ((s.charges.filter mine).reverse).foldl (fun s c =>
    let k := s.stk stack
    let r := k.halted.find? fun r => r.charge == c.id
    let op := (r.map fun r => dOp r.bits).getD 0
    let index := (r.map (·.index)).getD 0
    let ran := (r.map fun r => r.cost - r.left).getD 0
    let s := s.modCtr owner fun t => { t with lost := natSat (t.lost + 1) 16 }
    s.abandon at0 c.id index op stPreemptLost ran 0 (if c.runsAnew [] then some s.stamp.number else none)) s

/-- The lowest place for a saved block: of the 16 blocks of the stack's carrel reserve, or, spill page by spill page, of the 64 times 8 of the hub
(log 141). -/
def State.savePlace (s : State) (stack : Nat) (spill : Bool) : Nat :=
  let used := if spill then ((List.range 4).flatMap fun k => (s.stk k).saved.filter (·.spill)).map (·.place / 8)
    else ((s.stk stack).saved.filter fun b => !b.spill).map (·.place)
  ((List.range 64).find? fun n => !used.contains n).getD 0 * if spill then 8 else 1

/-- A carrel block of a stack holds a word that cannot be read. -/
def StackSt.blockBad (k : StackSt) (b : Nat) : Bool := k.badCarrel.any fun w => decide (8192 * b ≤ w ∧ w < 8192 * (b + 1))
/-- Save one claimed block, a word that cannot be read with it (03 R69), or give up the charges that own it. -/
def State.saveBlock (s : State) (at0 : Tick) (stack slot : Nat) (b : Nat × Nat) : State :=
  match s.savePath stack slot with
  | none => s.preemptLost at0 stack b.2
  | some spill =>
    let s := s.modStk stack fun k => { k with
      saved := k.saved ++ [{
        slot := b.2
        block := b.1
        cause := slot
        spill := spill
        place := s.savePlace stack spill
        bad := k.blockBad b.1
        data := memRead k.carrel (65536 * b.1) 65536 }]
      heldTo := max at0 k.heldTo + saveCost spill * s.cycTicks }
    if spill then
      ({ s with steward := { s.steward with spill := s.steward.spill + 8 } }).modCtr b.2 fun t => { t with spilled := natSat (t.spilled + 1) 16 }
    else s

/-- Every stopped descriptor has reached its stop point, those that run to their end have ended, and what the stacks do before has been done. -/
def State.stopDue (s : State) (stack : Nat) : Bool := (s.stk stack).stopInstant.any fun t => decide (t ≤ s.now) && s.quietBefore t

/-- Units of a descriptor that become whole when it halts. -/
def RunSt.wholeUnits (r : RunSt) (shelves : Nat) : Nat :=
  unitsDone shelves r.bits r.cost (r.stopAt.getD r.cost) - unitsDone shelves r.bits r.cost (r.cost - r.left)
/-- A running descriptor halts at its stop point: what it still needs, and the units not yet touched (06 R181, R182). -/
def RunSt.halt (r : RunSt) (shelves : Nat) : RunSt :=
  { r with left := r.cost - r.stopAt.getD r.cost, units := r.units.drop (r.wholeUnits shelves), stopAt := none }

/-- Halt running descriptors that a test picks, at an instant: what they have finished is written, and their cycles are spent. -/
def State.haltAll (s : State) (at0 : Tick) (stack : Nat) (pick : RunSt → Bool) : State :=
  let s := s.tallyStk stack at0
  let n := (s.stk stack).shelfCount
  let out := (s.stk stack).running.filter pick
  let s := out.foldl (fun s r =>
    let used := r.left - (r.halt n).left
    let s := (s.modCharge r.charge fun c => { c with unrun := c.unrun - used }).putUnits (writesTo stack r.bits) (r.units.take (r.wholeUnits n))
    if r.eng = .main then s.modStk stack fun k => k.spend (s.slotOf r.charge) used else s) s
  s.modStk stack fun k => { k with running := k.running.filter fun r => !pick r, halted := k.halted ++ out.map fun r => r.halt n }

/-- The stopped descriptors halt and the claimed blocks are saved, as of the instant at which the last of them stands. A block whose owner's charges have
been given up meanwhile is saved for no one. -/
def State.stopPoint (s : State) (stack : Nat) : State :=
  match (s.stk stack).stops with
  | [] => s
  | p :: rest =>
    let at0 := (s.stk stack).stopInstant.getD s.now
    let s := s.haltAll at0 stack fun r => r.stoppedBy == some p.slot
    let s := s.modStk stack fun k => { k with stops := { p with saved := true } :: rest }
    ((s.liveClaims stack p.slot).foldl (fun s b => if (s.liveClaims stack p.slot).contains b then s.saveBlock at0 stack p.slot b else s) s).noteReady at0

/-! ## Resume -/

/-- A saved block that cannot be read is a fault of the charge that owns it: the event names the carrel block, of the reserve from 48 on, or the spill
page, and the charge is abandoned with ECC (03 R69, log 141). -/
def State.loseSaved (at0 : Tick) (stack : Nat) (s : State) (b : SavedBlock) : State :=
  let k := s.stk stack
  let s := s.raise 0x21 (some b.slot) (some stack) (if b.spill then 2 else 1) (if b.spill then b.place else 48 + b.place) 0 0
  (s.charges.filter fun c => c.stack == stack && c.phase == .admitted && c.slot == b.slot && (s.writtenBlocks k c).contains b.block).foldl (fun s c =>
    let r := k.halted.find? fun r => r.charge == c.id
    (s.decodeLost c).abandon at0 c.id ((r.map (·.index)).getD 0) ((r.map fun r => dOp r.bits).getD 0) stEcc ((r.map fun r => r.cost - r.left).getD 0) 0
      (s.again c stEcc [])) s

/-- Restore the saved blocks and resume the stopped descriptors after it, as of the instant of the turn (R204, R182). -/
def State.resumeStops (s : State) (stack : Nat) : State :=
  match (s.stk stack).stops with
  | [] => s
  | p :: rest =>
    let at0 := s.turnAt stack .resume
    let s := s.tallyStk stack at0
    let held := (s.stk stack).saved.filter fun b => b.cause == p.slot
    let s := (held.filter (·.bad)).foldl (State.loseSaved at0 stack) s
    let mine := held.filter fun b => !b.bad
    let cost := (mine.map fun b => saveCost b.spill).sum
    let s : State := { s with steward := { s.steward with spill := s.steward.spill - 8 * (held.filter (·.spill)).length } }
    let from0 := max at0 (s.stk stack).heldTo + cost * s.cycTicks
    (s.modStk stack fun k => { (mine.foldl (fun k b => k.writeCarrel (65536 * b.block) b.data) k) with
      saved := k.saved.filter fun b => b.cause != p.slot
      heldTo := from0
      running := k.running ++ (k.halted.filter fun r => r.stoppedBy == some p.slot).map fun r => { r with
        start := from0
        resumed := from0
        stoppedBy := none
        cyc := s.cycTicks }
      halted := k.halted.filter fun r => r.stoppedBy != some p.slot
      stops := rest }).noteReady at0

/-! ## Slices (07 R208) -/

/-- The slice of a stack that ends now, the slot whose turn follows, and the instant: at a stop point of the descriptor that runs, or with the main engine
idle. -/
def State.sliceDue (s : State) (stack : Nat) : Option (SliceSt × Nat × Tick) :=
  let e? := match s.sliceInstant stack with
    | some (x, t) => (turnsAfter x.slot (s.sliceSlots stack x.cls)).head?.map fun q => (x, q, t)
    | none => (s.slicesOn stack).findSome? fun x => (s.idleNext stack x).map fun q => (x, q, s.turnAt stack (.slice x.cls))
  e?.filter fun e => decide (e.2.2 ≤ s.now)

/-- A halted main-engine descriptor of a slot goes on. -/
def StackSt.goOn (k : StackSt) (slotOf : Nat → Nat) (slot : Nat) (now : Tick) (cyc : Nat) : StackSt :=
  let back : RunSt → Bool := fun r => r.eng == .main && r.stoppedBy.isNone && slotOf r.charge == slot
  { k with
    running := k.running ++ (k.halted.filter back).map fun r => { r with start := now, resumed := now, cyc := cyc }
    halted := k.halted.filter fun r => !back r }

/-- End a slice, as of its instant: its running descriptor halts at its stop point, the next patron's descriptors stand ahead of the others of the class,
and its halted one resumes; what stands ahead of them of lower classes is withdrawn too (R203); what the slice overran shortens its patron's next
one. -/
def State.endSlice (s : State) (stack : Nat) : State :=
  match s.sliceDue stack with
  | none => s
  | some (x, q, at0) =>
    let s := s.modStk stack fun k => { k with running := k.running.map fun r =>
      if r.eng = .main then { r with stopAt := some (s.sliceStop stack x r) } else r }
    let s := s.haltAll at0 stack fun r => r.eng == .main
    let used := (((s.stk stack).slices.find? fun y => y.slot == x.slot).map (·.used)).getD 0
    let s := s.modCtr x.slot fun t => { t with preempt := natSat (t.preempt + 1) 16 }
    let s := s.modStk stack fun _ =>
      let k := s.switched stack q
      (({ k with
        slices := k.slices.filter fun y => y.slot != x.slot
        sliceCarry := setKey x.slot (used - s.getN .schedSlice) k.sliceCarry } : StackSt).turn q).goOn s.slotOf q (max at0 k.heldTo) s.cycTicks
    s.noteReady at0

/-! ## What the stacks do by an instant -/

/-- Something that a stack does of itself: a descriptor ends, the stopped ones stand, the scheduler has a turn, a slice ends under a running descriptor, a
descriptor starts. -/
inductive StackAct where
  | ends (stack : Nat) (e : Engine)
  | stops (stack : Nat)
  | turn (stack : Nat) (x : Turn)
  | slice (stack : Nat)
  | starts (stack : Nat) (e : Engine)
  deriving DecidableEq, Repr

/-- What the stacks will do, each with its instant. -/
def State.stackActs (s : State) : List (Tick × StackAct) :=
  let up := (List.range 4).filter fun k => (s.stk k).usable
  up.flatMap (fun k => ((s.stk k).running.filter fun r => !r.halts).map fun r => (s.dueAt k r, .ends k r.eng))
    ++ up.flatMap (fun k => (s.stk k).stopInstant.toList.map fun t => (t, .stops k))
    ++ up.flatMap (fun k => (s.stk k).turns.map fun x => (x.2, .turn k x.1))
    ++ up.flatMap (fun k => (s.sliceInstant k).toList.map fun x => (x.2, .slice k))
    ++ up.flatMap fun k => (engines.filter (s.couldStart k)).map fun e => (s.startAt k e, .starts k e)
/-- One of them happens. -/
def State.doAct (s : State) : StackAct → State
  | .ends k e => s.completeDesc k e
  | .stops k => s.stopPoint k
  | .turn k (.preempt p) => s.preempt k p
  | .turn k .resume => s.resumeStops k
  | .turn k (.slice _) => s.endSlice k
  | .slice k => s.endSlice k
  | .starts k e => match ((s.stk k).nextOf e).bind fun p => Op.ofCode (dOp p.2.bits) with
    | some o => s.startDesc k o
    | none => s
/-- It is done by an instant: a start before it, anything else at it too. -/
def StackAct.doneBy (a : StackAct) (x t : Tick) : Bool :=
  match a with
  | .starts _ _ => decide (x < t)
  | _ => decide (x ≤ t)
/-- The stacks do what they do by an instant, in the order of the instants (06 R159, 08 R220). -/
def runBy (t : Tick) : Nat → State → State
  | 0, s => s
  | n + 1, s =>
    match s.stackActs.filter fun x => x.2.doneBy x.1 t with
    | [] => s
    | x :: xs => runBy t n (s.doAct (xs.foldl (fun a b => if b.1 < a.1 then b else a) x).2)

end Sys2Proof.Machine
end

