-- ==== Sys2Proof/Machine/Submit.lean ====
section
/-! DEFINITION. The submission of a charge: the fields and addresses that the steward sets (06 R155), the inputs that it writes (09 R236, R262),
when it submits which charge (07 R209, R493, 08 R233), the checks (06 R185), and admission or the queue (02 R40, R42). -/

namespace Sys2Proof.Machine

/-! ## Steps -/

/-- The step of a stream that is to be replayed next, if the first record that waits for it, but for state shifts, is one: the stamp of its seal, its
sample, its features, reset and rerun (08 R233). -/
def State.sealedStepOf (s : State) (sid : Nat) : Option (BitVec 48 × BitVec 48 × BitVec 48 × Bool × Bool) :=
  (((s.sealedOf sid).dropWhile fun r => isShift r.2).head?).bind fun r => match r.2 with
    | .step _ _ reset rerun n f => some (r.1, n, f, reset, rerun)
    | _ => none
def State.sealedNext (s : State) (sid : Nat) : Option (BitVec 48 × BitVec 48 × Bool × Bool) := (s.sealedStepOf sid).map (·.2)
/-- The state shifts that stand ahead of a stream's next sealed step act at it (05 R126, 08 R233). -/
def State.takeShifts (s : State) (sid : Nat) : State :=
  ((s.sealedOf sid).takeWhile fun r => isShift r.2).foldl (fun s r => match r.2 with
    | .shift _ l j => (s.modStream sid fun y => { y with shiftTo := setKey l j y.shiftTo }).dropRecord (· == r.2)
    | _ => s) s

/-- The input log's entry of a step that has not committed. -/
def State.loggedStep (s : State) (sid : Nat) (sample : BitVec 48) : Option LoggedStep :=
  s.inputLog.find? fun e => e.sid == sid && e.sample == sample && !e.committed

/-- The input row of a step that a hub replays: the logged row, its spans counted from the step committed before it, under the mains features that
the step names (08 R233, 09 R237). -/
def State.replayRow (s : State) (sid : Nat) (sample features : BitVec 48) : List Int :=
  let row := ((s.loggedStep sid sample).map (·.row)).getD []
  let row := match s.cell? sid with
    | some c => s.spanChannels c sample row
    | none => row
  (row.take 16).set 10 (sat (sample.toNat - features.toNat : Nat) 16) ++ lookupD (row.drop 16) features s.mains.past

/-- A step is replayed: a seal names it and the input log holds its row. -/
def State.replayDue (s : State) (sid : Nat) : Bool :=
  (s.sealedNext sid).any fun e => (s.loggedStep sid e.1).isSome && !s.charges.any fun c => c.names sid && c.stamps.any fun x => x.2.1 == e.1

/-- While the estimator starves, steps go in shelfmark order: no due cell of a lower shelfmark is left out (02 R49). -/
def State.inShelfOrder (s : State) (sids : List Nat) : Bool :=
  let last := (s.cells.filter fun c => c.sid.any sids.contains).foldl (fun m c => max m c.shelf) 0
  !s.rota.starving || s.cells.all fun c => c.sid.all fun x => sids.contains x || decide (last ≤ c.shelf) || !s.stepDue x

/-! ## What the steward sets and writes -/

/-- A descriptor with the fields that the steward sets: PATRON, CHARGE, INDEX, LAST, RUNCAL, and ROW, LAYER and CH of a SHADOW. -/
def State.prepareDesc (s : State) (slot : Nat) (tag : BitVec 32) (rows : List (BitVec 64)) (n i : Nat) (d : BitVec 512) : BitVec 512 :=
  let d := dPut (dPut (dPut (dPut d 15 8 i) 19 16 slot) 20 20 (decide (i + 1 = n)).toNat) 63 32 tag.toNat
  let running : Nat → Bool → Nat := fun t ringed => (ringed && s.get (.tensorMode slot t) == some 1).toNat
  match Op.ofCode (dOp d) with
  | some .matmul => dPut d 69 69 (running (MatBody.of d).clipt (MatBody.of d).ringv)
  | some .scan => dPut d 84 84 (running (ScanBody.of d).clipt (ScanBody.of d).ringv)
  | some .shadow =>
    let m := (s.patron slot).monitor
    let row := (rows.map Row.ofBits).findIdx fun r => r.use && r.sid == m.sid
    dPut (dPut (dPut d 71 64 row) 74 72 m.layer) 87 76 m.chan
  | _ => d

/-- The descriptors of a program that the steward places: a SHADOW only in the batch that holds the watched stream (06 R176). -/
def State.placedDescs (s : State) (slot : Nat) (rows : List (BitVec 64)) (descs : List (BitVec 512)) : List (BitVec 512) :=
  let m := (s.patron slot).monitor
  let watched : Bool := m.valid && rows.any fun w => (Row.ofBits w).use && (Row.ofBits w).sid == m.sid
  descs.filter fun d => Op.ofCode (dOp d) != some .shadow || watched
/-- The COMMITs ahead of a place among descriptors. -/
def commitsBefore (descs : List (BitVec 512)) (i : Nat) : Nat := ((descs.take i).filter fun d => Op.ofCode (dOp d) == some .commit).length

/-- A program's descriptor on the regions and blocks of the patron's share; an XFER's destination on its blocks of the other stack (06 R155). -/
def State.ownDesc (s : State) (f : FolioInfo) (slot : Nat) (sh : Share) (d : BitVec 512) : BitVec 512 :=
  let d := moveDesc (ownWeight f sh.layers) (ownCarrel sh.blocks) d
  if Op.ofCode (dOp d) = some .xfer then
    let far := (((s.stk (XferBody.of d).dstk).share? slot).map (·.blocks)).getD []
    dPut d 159 144 (ownCarrel far (XferBody.of d).dst)
  else d

/-- The reset bit of a row that the steward knows itself: a replayed step's, a regeneration's, that of a rebuild's first step, and none in a rollout (05
R150, 08 R227, R233). -/
def State.ownReset (s : State) (kind : ChargeKind) (slot sid : Nat) : Option Bool :=
  match kind with
  | .step _ true => (s.sealedNext sid).map fun e => e.2.2.1
  | .chunk req _ index _ => (s.req? req).bind fun r => match r.kind with
    | .regenerate => some (r.resetBit index)
    | .rollout => some false
    | .job => none
  | .rebuild _ => ((s.windowOf slot sid)[0]?).map (·.reset)
  | _ => none
/-- A row table entry as the steward writes it. -/
def State.ownRow (s : State) (kind : ChargeKind) (slot : Nat) (blocks : List Nat) (w : BitVec 64) : BitVec 64 :=
  let r := Row.ofBits w
  let w := match (if r.use then s.ownReset kind slot r.sid else none) with
    | some b => BitVec.ofNat 64 (w.toNat - r.reset.toNat * 2 ^ 14 + b.toNat * 2 ^ 14)
    | none => w
  moveRow (ownCarrel blocks) w

/-- The samples of the streams of a charge, and the stamps of the mains features that they take. -/
def State.ownStamps (s : State) (kind : ChargeKind) (rows : List (BitVec 64)) : List (Nat × BitVec 48 × BitVec 48) :=
  (rows.filter fun w => (Row.ofBits w).use).map fun w =>
    let sid := (Row.ofBits w).sid
    match kind, s.sealedNext sid with
    | .step _ true, some e => (sid, e.1, e.2.1)
    | _, _ => (sid, s.stamp.number, s.mains.usedStamp)

/-- The stamp under whose settings a replay runs: that of its steps' samples, in which their charge was first submitted (08 R216, R233, log 150). -/
def State.ownUnder (s : State) (kind : ChargeKind) : Option (BitVec 48) :=
  match kind with
  | .step (sid :: _) true => (s.sealedStepOf sid).map (·.2.1)
  | _ => none

/-- The input row of a stream of a live step, or of a step that is replayed. -/
def State.stepRow (s : State) (c : ChargeSt) (sid : Nat) : List Int :=
  match c.kind, c.stamps.find? fun e => e.1 == sid with
  | .step _ true, some e => s.replayRow sid e.2.1 e.2.2
  | _, _ => ((s.cell? sid).map s.inputRow).getD []

/-- Bits as bytes, bit 0 first. -/
def bitBytes (bs : List Bool) : Bytes :=
  (List.range (ceilDiv bs.length 8)).map fun i => BitVec.ofNat 8 (((List.range 8).map fun j => (bs.getD (8 * i + j) false).toNat * 2 ^ j).sum)
/-- Time steps of a row in a state layer that the SCANs ahead of a place among descriptors take. -/
def stepsAhead (descs : List (BitVec 512)) (i row layer : Nat) : Nat :=
  ((descs.take i).map fun d =>
    let b := ScanBody.of d
    if Op.ofCode (dOp d) = some .scan ∧ b.layer = layer ∧ b.row0 ≤ row ∧ row < b.row0 + b.ns ∧ !b.empty then b.l else 0).sum
/-- The reset bit of a row at a time step of a charge: a rebuild's as the input log holds it, any other's in its row and at its first time step (05 R138,
R150). -/
def State.resetAt (s : State) (c : ChargeSt) (row t : Nat) : Bool :=
  match c.kind with
  | .rebuild sid => ((s.windowOf c.slot sid)[t]?).any (·.reset)
  | _ => decide (t = 0) && (rowAt c.rows row).reset
/-- The bytes at RMADDR of every SCAN of a charge that takes its reset bits from there (06 R169). -/
def State.resetInputs (s : State) (c : ChargeSt) : List (Nat × Bytes) :=
  (c.descs.mapIdx fun i d => (i, d)).filterMap fun p =>
    let b := ScanBody.of p.2
    if Op.ofCode (dOp p.2) = some .scan ∧ b.rmask ∧ !b.empty then
      some (b.rmaddr, bitBytes ((List.range (b.l * b.ns)).map fun r =>
        let row := b.row0 + r % b.ns
        s.resetAt c row (stepsAhead c.descs p.1 row b.layer + r / b.ns)))
    else none
/-- Range-step tags that the steward writes with a charge's inputs: one for each input row, of a chunk one for each time step (04 R100). -/
def State.tagCount (s : State) (c : ChargeSt) : Nat :=
  match c.kind with
  | .step _ _ => c.rows.length
  | .chunk req _ index _ => ((s.req? req).map fun r => (r.rowTags index).length).getD 0
  | .refit => s.refitRows.length / 64
  | .mains => s.mains.last.length
  | .rebuild sid => (s.windowOf c.slot sid).length
  | _ => 0
/-- The bytes that the steward writes into the input blocks itself: the constants of the program (log 9), the rows of a live step, of a request's
chunk or of a refit's windows, the mains samples (09 R236, R251, R255, R262), their range step tags (04 R100), and the reset bits at each RMADDR
(06 R169). -/
def State.ownInputs (s : State) (c : ChargeSt) : List (Nat × Bytes) :=
  match s.folio? c.slot with
  | none => []
  | some f =>
    let zeros : Nat → Bytes := fun n => List.replicate n 0#8
    f.consts.flatMap (fun p => c.lay p.1 p.2) ++ s.resetInputs c ++ match c.kind with
    | .step _ _ => ((c.rows.mapIdx fun i w => (i, Row.ofBits w)).flatMap fun p =>
        if p.2.use then c.lay (f.inputAt + p.1) (rowBytes (s.stepRow c p.2.sid)) else []) ++ c.lay f.tagsAt (zeros (s.tagCount c))
    | .chunk req sid index _ => match s.req? req with
      | none => []
      | some r => c.lay f.inputAt (s.chunkRows r sid index) ++ c.lay f.tagsAt (r.rowTags index)
    | .refit => c.lay f.inputAt s.refitRows ++ c.lay f.tagsAt (zeros (s.tagCount c))
    | .mains => c.lay f.inputAt (s.mains.last.flatMap rowBytes) ++ c.lay f.tagsAt (zeros (s.tagCount c))
    | _ => []

/-- The samples that the baseband gives with a decode; for every other charge the steward writes the inputs. -/
def givenInputs (cmd : ChargeSpec) (c : ChargeSt) : List (Nat × Bytes) :=
  match cmd.kind with
  | .decode _ _ => cmd.inputs.flatMap fun p => c.lay p.1 p.2
  | _ => []

/-- The share of a charge's slot on its stack; where it holds none, one with nothing in it. -/
def State.shareOn (s : State) (stack slot : Nat) : Share :=
  ((s.stk stack).share? slot).getD { slot := slot, st := .lent, regions := [], blocks := [] }

/-- A charge as the steward makes it from a command: rows and addresses placed, fields set, inputs written, and its cost. -/
def State.buildCharge (s : State) (cmd : ChargeSpec) : ChargeSt :=
  let sh := s.shareOn cmd.stack cmd.slot
  let tag := BitVec.ofNat 32 s.nextCharge
  let descs := s.placedDescs cmd.slot cmd.rows cmd.descs
  let placed := match s.folio? cmd.slot with
    | some f => descs.map (s.ownDesc f cmd.slot sh)
    | none => descs
  let c0 : ChargeSt := {
    id := s.nextCharge
    tag := tag
    slot := cmd.slot
    stack := cmd.stack
    kind := cmd.kind
    descs := placed
    rows := cmd.rows.map (s.ownRow cmd.kind cmd.slot sh.blocks)
    prereqs := cmd.prereqs
    eligible := if goesFirst cmd.kind then s.stamp.number + 1 else s.stamp.number
    sub := s.stamp.number
    subAt := s.now
    blocks := sh.blocks
    layers := sh.layers
    under := s.ownUnder cmd.kind
    stamps := s.ownStamps cmd.kind cmd.rows }
  let c1 : ChargeSt := { c0 with
    descs := placed.mapIdx fun i d => (s.underAt c0 (commitsBefore placed i)).prepareDesc cmd.slot tag c0.rows placed.length i d
    tags := s.tagCount c0 }
  let c1 : ChargeSt := { c1 with inputs := givenInputs cmd c1 ++ s.ownInputs c1 }
  { c1 with cost := s.ownCost c1 }

/-! ## Which charge is submitted when -/

/-- Steps of each live cell that the refit history holds with their successors (09 R255). -/
def State.historyFull (s : State) : Bool :=
  let w := s.getN .refitLength
  s.cells.all fun c => match c.sid with
    | none => true
    | some sid => decide (w + 1 ≤ (s.history.filter fun h => h.2.1 == sid).length)

/-- Prerequisites are charges of the same patron on other stacks (06 R160). -/
def State.prereqsOk (s : State) (cmd : ChargeSpec) : Bool :=
  decide (cmd.prereqs.length ≤ 4)
    && cmd.prereqs.all fun p => s.ended.contains p || (s.charge? p).any fun c => c.slot == cmd.slot && c.stack != cmd.stack

/-- The chunk before one on the same stream is a prerequisite where it waits or runs on another stack (07 R209). -/
def State.followsChunk (s : State) (cmd : ChargeSpec) (req sid index : Nat) : Bool :=
  s.charges.all fun c => match c.kind with
    | .chunk n x i _ => !(n == req && x == sid && i + 1 == index) || c.stack == cmd.stack || cmd.prereqs.contains c.id
    | _ => true

/-- A frame of the request waits for room on ring 3 (13 R371): TAG of its payload head names the request (13 R374). -/
def State.frameWaits (s : State) (req : Nat) : Bool := (s.ring 3).held.any fun f => leNat (f.payload.take 4) == req

/-- A chunk steps each of its streams by its time steps: the SCANs of a row take them in all, and each COMMIT counts them (07 R209). -/
def chunkSteps (cmd : ChargeSpec) (n : Nat) : Bool :=
  (List.range cmd.rows.length).all (fun i => !(rowAt cmd.rows i).use || rowSteps cmd.descs i = 0 || rowSteps cmd.descs i == n)
    && cmd.descs.all fun d => Op.ofCode (dOp d) != some .commit || (MoveBody.of d).lsteps == n
/-- The streams that a kind of charge names: those of its step, its chunk or its rebuild, and none in any other (08 R216). -/
def State.kindSids (s : State) (kind : ChargeKind) : List Nat :=
  match kind with
  | .step sids _ => sids
  | .chunk req sid _ _ => if (s.req? req).any fun r => r.kind = .job && r.sids.isEmpty then [] else [sid]
  | .rebuild sid => [sid]
  | _ => []
/-- The programs that a kind of charge runs. -/
def progKind : ChargeKind → Option ProgKind
  | .step _ _ => some .step
  | .decode _ _ => some .decode
  | .mains => some .mains
  | .refit => some .refit
  | .chunk _ _ _ _ => some .chunk
  | .rebuild _ => some .rebuild
  | .fill | .reread | .park => none
/-- A charge runs a program that its folio holds for its kind, on the streams of its kind and no others, the rebuild form in rebuilds alone
(05 R150, 08 R216, R219). -/
def State.programOk (s : State) (cmd : ChargeSpec) : Bool :=
  ((s.folio? cmd.slot).any fun f => (progKind cmd.kind).any fun p => f.programs.contains (p, cmd.descs))
    && ((cmd.rows.map Row.ofBits).filter (·.use)).map (·.sid) == s.kindSids cmd.kind
    && cmd.descs.all fun d => Op.ofCode (dOp d) != some .scan || (ScanBody.of d).w32 == (progKind cmd.kind == some .rebuild)

/-- A rebuild may be submitted while the monitor asks for it or a seal names it, once no admitted charge names its stream; it commits once for each
step of its window (05 R150, 06 R169). -/
def State.rebuildDue (s : State) (cmd : ChargeSpec) (sid : Nat) : Bool :=
  let m := (s.patron cmd.slot).monitor
  ((m.rebuildDue && s.getN .driftMonitor = 1) || s.spine.pendingSeals.any fun h => h.recs.any (isRebuildOf sid))
    && m.sid == sid && !(s.charges.any fun c => c.kind == .rebuild sid) && !s.streamBusy sid
    && commitsBefore cmd.descs cmd.descs.length == (s.windowOf cmd.slot sid).length
/-- Steps of sealed stamps may be replayed together where they took their samples in one stamp; they are a batch of this stamp's numbering (07 R493, 08
R233). -/
def State.replayable (s : State) (sids : List Nat) : Bool :=
  sids.all s.replayDue && sids.all fun sid => s.ownUnder (.step [sid] true) == s.ownUnder (.step sids true)

/-- A chunk charge is the next chunk of its request, of which at most two wait for admission; each COMMIT of it counts its time steps. -/
def State.chunkDue (s : State) (cmd : ChargeSpec) (req sid index : Nat) (last : Bool) : Bool :=
  let waiting := s.charges.filter fun c => c.phase == .queued && match c.kind with
    | .chunk n _ _ _ => n == req
    | _ => false
  (s.req? req).any (fun r => r.slot == cmd.slot && (r.state == .queued || r.state == .running) && decide (r.begins ≤ s.stamp.number)
      && r.chunkAt r.next == some (sid, index, last) && chunkSteps cmd (r.stepsOf index))
    && decide (waiting.length < 2) && !s.frameWaits req && s.followsChunk cmd req sid index

/-- The steward submits a charge of a kind only where that kind's rule lets it: one mains pass in a stamp (09 R251), and a program of the folio for that
kind alone (08 R216, log 15). -/
def State.maySubmit (s : State) (cmd : ChargeSpec) : Bool :=
  decide (cmd.slot < 16 ∧ cmd.stack < 4) && s.programOk cmd && s.prereqsOk cmd && s.clearOfClaims (s.buildCharge cmd) && match cmd.kind with
  | .step sids replay => cmd.slot == 1 && !sids.isEmpty && cmd.rows.all (fun r => (Row.ofBits r).use)
      && s.batchStack s.rota.formed == some cmd.stack && if replay then s.replayable sids else sids.all s.stepDue && s.inShelfOrder sids
  | .decode lch sl => cmd.slot == 0 && (s.stacksOf 0)[lch % (s.stacksOf 0).length]? == some cmd.stack
      && s.air.bursts.any fun b => b.lch == lch && b.slot != .accession && Slot.pos s.air.nu b.slot == sl && !b.submitted && !b.done
        && decide (b.at0 + burstTicks ≤ s.now)
  | .mains => cmd.slot == 2 && !(s.charges.any fun c => c.kind == .mains) && !s.mains.passed
  | .refit => cmd.slot == 3 && s.historyFull && !(s.charges.any fun c => c.kind == .refit) && s.draft.any (!·.pendingUpdate) && !s.publishDue
  | .chunk req sid index last => decide (4 ≤ cmd.slot) && s.chunkDue cmd req sid index last
  | .rebuild sid => s.rebuildDue cmd sid
  | .fill | .reread | .park => false

/-! ## Submission -/

/-- The input log takes the steps of a charge that commits, with the inputs that it is given (05 R152); a replayed step has its entry. -/
def State.logSteps (s : State) (c : ChargeSt) : State :=
  let commits : Bool := c.descs.any fun d => Op.ofCode (dOp d) == some .commit
  match c.kind with
  | .rebuild _ => s
  | .step _ true =>
    let mine : LoggedStep → Bool := fun e => !e.committed && c.stamps.any fun x => x.1 == e.sid && x.2.1 == e.sample
    { s with inputLog := s.inputLog.map fun e => if mine e then { e with charge := c.id, inputs := c.inputs, row := s.stepRow c e.sid } else e }
  | _ => if !commits then s else
    { s with inputLog := s.inputLog ++ c.stamps.map fun e =>
      { sid := e.1, charge := c.id, inputs := c.inputs, row := s.stepRow c e.1, sample := e.2.1, features := e.2.2
        reset := c.rows.any (fun w => (Row.ofBits w).sid == e.1 && (Row.ofBits w).reset), rerun := false, committed := false } }

/-- The marks that a submission leaves on what it serves. -/
def State.markSubmitted (s : State) (c : ChargeSt) : State :=
  let s := s.logSteps c
  match c.kind with
  | .decode lch sl => s.modBurst lch sl fun b => { b with submitted := true }
  | .mains => { s with mains := { s.mains with passed := true } }
  | .chunk req _ _ _ => s.modReq req fun r => { r with state := .running, next := r.next + 1 }
  | .step sids replay =>
    let s : State := { s with rota := { s.rota with formed := s.rota.formed + 1 } }
    if replay then sids.foldl State.takeShifts s else s
  | _ => s

/-- Why a submission is refused: its status and INDEX (R185). -/
def State.submitStatus (s : State) (cmd : ChargeSpec) : Option (Nat × Nat) :=
  let c := s.buildCharge cmd
  let x : SubmitCtx := {
    stack := cmd.stack
    slot := cmd.slot
    rows := c.rows
    share := s.shareOn cmd.stack cmd.slot
    nring := ((s.folio? cmd.slot).map (·.nring)).getD 0
    inputs := c.inputs }
  (submitFault s x c.descs).orElse fun _ => if c.cost > s.admissible then some (stOversize, 0) else none

/-- Submit a charge (R185): refuse it with its status and INDEX, or queue it where it belongs and consider it there at once (02 R40, 07 R212). -/
def State.submit (s : State) (cmd : ChargeSpec) : State :=
  match s.submitStatus cmd with
  | some (st, i) => s.refused cmd.slot cmd.stack cmd.kind st i
  | none =>
    let c := s.buildCharge cmd
    let s := ((s.queueCharge c (goesFirst cmd.kind)).markSubmitted c).rehome
    let stack := ((s.charge? c.id).map (·.stack)).getD cmd.stack
    if (s.stk stack).passDone then (admitRun stack cmd.slot false s.now s.charges.length s).noteReady s.now else s

end Sys2Proof.Machine
end

