-- ==== Sys2Proof/Machine/Stamp.lean ====
section
/-! DEFINITION. The fixed points of the stamp (02): what a boundary ends and begins, the admission pass, the sample mark and the front end's
codes (15 R424), heartbeats, and the events that are raised once a second. -/

namespace Sys2Proof.Machine

/-! ## What a boundary ends -/

/-- All that is left of a charge on its stack is non-preemptible, runs, and ends within 40 µs of a boundary (R43). -/
def State.crosses (s : State) (stack id : Nat) (at0 : Tick) : Bool :=
  let k := s.stk stack
  let mine := k.running.filter fun r => r.charge == id
  !mine.isEmpty && mine.all (fun r => ((Op.ofCode (dOp r.bits)).any fun o => !o.preemptible) && decide (s.dueAt stack r ≤ at0 + us 40))
    && !(k.queue.any fun q => q.charge == id) && !(k.halted.any fun r => r.charge == id)

/-- A charge that a boundary stops runs again in the next stamp where it has streams or is the hub's own work (R45, R52, 04 R111). -/
def State.againNext (s : State) (c : ChargeSt) : Option (BitVec 48) :=
  if c.returns && c.runsAnew [] then some (s.stamp.number + 1) else none

/-- One charge that a boundary stops, with its budget event unless the boundary is a takeover's early one. Of several descriptors that run or are
halted, its record names the first in the order of the engines' starts; where none is, OP 0 and INDEX 0 (log 144: the spec does not say, 06 R188). -/
def State.stopCharge (early : Bool) (at0 : Tick) (stack : Nat) (s : State) (c : ChargeSt) : State :=
  let k := s.stk stack
  let run := (k.running ++ k.halted).find? fun r => r.charge == c.id
  let op := (run.map fun r => dOp r.bits).getD 0
  let s := if early then s else s.raise 0x23 (some c.slot) (some stack) c.tag.toNat 0 0 0
  (s.decodeLost c).abandon at0 c.id ((run.map (·.index)).getD 0) op stBudget ((run.map fun r => k.had r at0).getD 0) 0 (s.againNext c)

/-- Charges that a boundary finds unfinished on a stack: an overrun goes on; a started one is a budget fault of the stack, or, at an early
boundary of a takeover, abandoned without an event; one not started returns to its queue (R43, R45, 12 R356, 16 R448). -/
def State.endStack (early : Bool) (at0 : Tick) (s : State) (stack : Nat) : State :=
  if !(s.stk stack).usable then s else
  let above := s.charges.filter fun c => c.stack == stack && c.phase == .admitted && (c.started || c.abandoned) && !s.crosses stack c.id at0
  let s := s.dropAdmitted stack [] fun c => !c.started && !c.abandoned
  let s := above.reverse.foldl (State.stopCharge early at0 stack) s
  if above.isEmpty || early then s else s.stackFault stack 0

/-- The estimate frame of a stamp that pair A missed, with every learned field stale (16 R452). -/
def State.missFrame (s : State) : State :=
  if s.steward.aDown.isSome && !s.stamp.framed && !s.shownCells.isEmpty then
    let s : State := { s with steward := { s.steward with missed := s.steward.missed ++ [s.estimateFrame false true] } }
    s.countStale true
  else s

/-- A standby keeps the input row of every cell of the stamp, for the steps that its primary's seals may name (08 R233); where it took no report,
a sealed one completes the row (12 R352). It keeps what it decoded too, until the stamp's seal has come. -/
def State.keepRows (s : State) : State :=
  if !s.isStandby then s else
  let own := s.air.bursts.filterMap fun b => match b.payload, s.slotShelf b.lch b.slot with
    | some p, some shelf => some (s.stamp.number, shelf, Slot.pos s.air.nu b.slot, b.outcome, p)
    | _, _ => none
  let s : State := { s with spine := { s.spine with
    heard := (s.spine.heard.filter fun h => decide (s.stamp.number.toNat < h.1.toNat + 64)) ++ own } }
  let new := s.cells.filter fun c => c.sid.any fun sid => !s.inputLog.any fun e => e.sid == sid && e.sample == s.stamp.number
  { s with inputLog := s.inputLog ++ new.map fun c =>
    { sid := c.sid.getD 0, row := s.inputRow c, sample := s.stamp.number, features := s.mains.usedStamp, reset := false, rerun := false, committed := false } }

/-- A standby keeps the stamp's estimate frame, with and without RERUN, until it knows that its primary has written it (12 R358). It keeps it as it writes
its own copy, or, where it has not, as the stamp ends. -/
def State.keepFrame (s : State) : State :=
  if !s.isStandby || s.stamp.framed || s.shownCells.isEmpty then s else
  { s with spine := { s.spine with frames := lastN 64 (s.spine.frames ++ [(s.estimateFrame false false, s.estimateFrame true false)]) } }

/-- The frames kept of the stamps after the last one that the failed primary is known to have completed, with RERUN for those after its last seal
(12 R358). -/
def State.writeKept (s : State) : State :=
  let due := s.spine.frames.filter fun f => decide (s.roleSt.lastFramed < f.1.stamp)
  due.foldl (fun s f =>
    let f := if s.spine.sealIn.all fun n => decide (n < f.1.stamp) then f.2 else f.1
    s.sendFrame 0 f.ftype f.stamp f.nrec f.payload) { s with spine := { s.spine with frames := [] } }

/-- A stamp ends: what the stacks have completed by then, the twins and counts of its samples, and what is left on the stacks. -/
def State.closeStamp (s : State) (early : Bool) (at0 : Tick) : State :=
  let s := runBy at0 4096 s
  let s := (if s.power.quiet then s else s.runLateTwins).compareBehind
  let s := ((((s.keepRows).keepFrame.countSilentNodes).countRxdiv).countSilence).endRota
  (List.range 4).foldl (State.endStack early at0) s.missFrame

/-! ## Requests begin (09 R261) -/

/-- The copy of a selected cell, which the step log names, and what its summary starts from; the parameter set of the cell's node stays the
request's (08 R232, 09 R261, R265). -/
def State.beginCell (s : State) (r : Request) (c : RollCell) : State × RollCell :=
  let src := s.stream c.sid
  let gen := nextGen (s.stream c.copy).gen
  let i := { src.committed with portable := false, live := false, sid := c.copy, patron := r.slot, gen := gen
                                seed := draw r.seed (BitVec.ofNat 64 c.sid) }
  let cell := s.cell? c.sid
  let set := (cell.map fun x => s.setOf x.shelf).getD 0
  let made := s.putStream { sid := c.copy, place := .parked, gen := gen, slot := r.slot, pages := i.pages, ledger := i, committed := i, work := i }
  (made.logAct (.act (.create c.copy false false i.seed)),
   s.rollTwin r { c with
    set := set
    step0 := src.committed.step
    old := (cell.map (·.isStale)).getD true
    row := (cell.map (·.inputs)).getD []
    twin := if s.power.quiet then none else cell.bind (·.twin) })

def beginCells (r : Request) : List RollCell → State → State × List RollCell
  | [], s => (s, [])
  | c :: cs, s =>
    let p := s.beginCell r c
    let q := beginCells r cs p.1
    (q.1, p.2 :: q.2)

/-- The streams that a job steps: those that its slot holds, in ascending order (log 40). -/
def State.jobStreams (s : State) (slot : Nat) : List Nat :=
  ((s.streams.filter fun x => x.slot == slot && (x.place == .parked || x.place == .resident)).map (·.sid)).foldl (fun xs x => putBy id x xs) []

/-- The requests whose boundary has come: a rollout's copies are made, a regeneration's working stream is PARKED, its card imported (08 R232), and a
job takes the streams of its slot. -/
def State.beginRequests (s : State) (n : BitVec 48) : State :=
  (s.requests.filter fun r => r.isOpen && r.begins == n).foldl (fun s r =>
    let p := beginCells r r.cells s
    let s := p.1.modReq r.num fun x => { x with cells := p.2 }
    match r.copy with
    | some x => (s.modStream x fun y => { y with place := .parked, held := false }).logAct (.act (.imported x false false ((sha256 r.card.bytes).take 16)))
    | none => if r.kind = .job then s.modReq r.num fun x => { x with sids := s.jobStreams r.slot } else s) s

/-! ## Settings become live (R26, R36, 14 R400, R412) -/

/-- The settings that enter arithmetic (08 Table 8.1). -/
def arithSetting : SName → Bool
  | .tensorMode _ _ | .tensorWindow _ _ | .tensorKlo _ _ | .tensorKhi _ _ | .layerClamp _ _ | .streamShift _ _ | .driftMonitor | .driftThreshold
  | .refitB1 | .refitB2 | .refitLambda | .refitEps => true
  | _ => false

/-- One setting becomes live. A stream's shift enters its record with the stream's next step (05 R126), and the step log names a setting of 08
Table 8.1. -/
def State.setLive (s : State) (p : SName × Option Int) : State :=
  let s := s.hold p
  if arithSetting p.1 then s.logAct (.setting p.1 p.2) else s

/-- The scripts committed for the stamp; an init script runs on its port. -/
def State.scriptsLive (s : State) : State :=
  let new := s.dueScripts
  let s : State := { s with settings := { s.settings with
    scripts := putScripts new s.settings.scripts
    scriptCommits := s.settings.scriptCommits.filter fun c => decide (s.stamp.number < c.1) } }
  (new.filter fun x => x.2.1.isNone && s.air.running).foldl (fun s x => s.runScript x.1 none) s

/-- With drift.monitor OFF no rebuild waits any longer: one that is not admitted yet is dropped, unless a seal has named it (05 R153, log 143). -/
def State.dropRebuilds (s : State) : State :=
  let sealed : Nat → Bool := fun sid => s.spine.pendingSeals.any fun h => h.recs.any (isRebuildOf sid)
  { s with
    patrons := s.patrons.map fun p => { p with monitor := { p.monitor with rebuildDue := false } }
    charges := s.charges.filter fun c => c.phase == .admitted || match c.kind with
      | .rebuild sid => sealed sid
      | _ => true }

/-- Settings, parameter sets and scripts become live; what was live before stays known for the steps that are replayed and the charges that run on under
it (08 R233, log 150). -/
def State.settingsLive (s : State) (new : List (SName × Option Int)) : State :=
  let n := s.stamp.number
  let past := if new.isEmpty then s.settings.past else (n, s.settings.live) :: s.settings.past
  let asked : BitVec 48 → Bool := fun b => (s.charges.any fun c => c.sub != 0 && decide (c.ruled < b))
    || s.inputLog.any fun e => e.committed && decide (e.ran < b)
  let sets := (s.settings.setCommits.filter fun c => decide (c.1 ≤ n)).flatMap (·.2)
  let s : State := { s with settings := { s.settings with
    commits := s.settings.commits.filter fun c => decide (n < c.1)
    past := past.filter fun p => decide (n.toNat < p.1.toNat + 128) || asked p.1
    twinsets := sets.foldl (fun xs x => setKey x.1 x.2 xs) s.settings.twinsets
    setCommits := s.settings.setCommits.filter fun c => decide (n < c.1) } }
  (new.foldl State.setLive s).scriptsLive

/-- The seal names each setting that has become live (12 Table 12.6). -/
def State.settingActs (s : State) : State :=
  let n := s.stamp.number
  let s := (s.spine.cfgSent.filter fun c => decide (c.1 ≤ n)).foldl (fun s c => s.act (.setting c.2 n)) s
  { s with spine := { s.spine with cfgSent := s.spine.cfgSent.filter fun c => decide (n < c.1) } }

/-- Everything committed for the stamp becomes live. -/
def State.goLive (s : State) : State :=
  let new := s.dueSettings
  let s := s.settingsLive new
  let s := if (new.any fun p => p.1 == .driftMonitor) && s.getN .driftMonitor = 0 then s.dropRebuilds else s
  let s := ({ s with stamp := { s.stamp with period := s.getN .stampPeriod, economy := s.getN .stampEconomy = 1 } } : State).settingActs
  let s := if new.any fun p => p.1 == .inventorySchedule then s.scheduleInventory else s
  let s := if new.any fun p => modeSetting p.1 then s.driveTck.applyMode else s
  if new.isEmpty || !s.leads then s else s.syncConfigs true

/-! ## Loans at a boundary -/

/-- Accept a loan of stacks; its pages come with the first. -/
def State.acceptLoan (s : State) (slot : Nat) (ks : List Nat) (regions blocks claim pages : Nat) (begins : BitVec 48) (moveFrom : Option Nat) : State :=
  { s with changes := s.changes ++ ks.mapIdx fun i k => {
      begins := begins
      slot := slot
      stack := k
      lend := true
      regions := regions
      blocks := blocks
      claim := claim
      moveFrom := moveFrom
      pages := if i = 0 then pages else 0 } }

/-- Whether a slot's folio fits the stacks that it holds and new ones. -/
def State.folioFits (s : State) (slot : Nat) (f : FolioInfo) (new : List (Nat × Nat)) : Bool := (placeFolio slot f (s.roomsOf slot new)).isSome

/-- A loan change of slots 0 to 3 is forwarded to the standby (07 R201). -/
def State.forwardLoan (s : State) (slot : Nat) (a : LoanAct) (b : BitVec 48) : State := if slot < 4 then s.forward (.loan a) b else s
/-- A mask of stacks. -/
def maskOf (ks : List Nat) : Nat := (ks.map fun k => 2 ^ k).sum

/-- Where a kept loan goes (15 R440, 07 R196): its whole stacks, and for each of its shares a stack of its own. -/
def State.keptPlaces (s : State) (f : FolioInfo) (l : KeptLoan) : Option (List (Nat × Nat × Nat × Nat)) :=
  let whole := if l.count = 0 then some [] else s.wholeStacks f s.stamp.number l.count
  whole.bind fun ks => l.shared.foldl (fun got sh => got.bind fun xs =>
    ((List.range 4).find? fun k => !(xs.any fun x => x.1 == k) && s.shareFits l.slot k sh.1 sh.2.1 sh.2.2
        && ((s.stk k).annexOk || !folioWide f) && (s.slackFault k l.slot f).isNone).map fun k => xs ++ [(k, sh.1, sh.2.1, sh.2.2)])
    (some (ks.map fun k => (k, 48, 48, 0)))
/-- One kept loan (15 R440): dropped where it cannot be placed, else begun at this boundary, here and on the standby. -/
def State.placeKeptLoan (s : State) (l : KeptLoan) : State :=
  match s.folio? l.slot with
  | none => s
  | some f =>
    let n := s.stamp.number
    if s.pagesUnlent < l.pages then s
    else if l.count = 0 ∧ l.shared.isEmpty then
      (s.modPatron l.slot fun p => { p with pages := p.pages + l.pages }).forwardLoan l.slot (.lend l.slot 0 l.pages 0 0 0 false) n
    else match s.keptPlaces f l with
      | none => s
      | some xs =>
        if !s.folioFits l.slot f (xs.map fun x => (x.1, x.2.1)) then s else
        (xs.mapIdx fun i x => (if i = 0 then l.pages else 0, x)).foldl (fun s p =>
          let x := p.2
          (s.acceptLoan l.slot [x.1] x.2.1 x.2.2.1 x.2.2.2 p.1 n none).forwardLoan l.slot (.lend l.slot (maskOf [x.1]) p.1 x.2.1 x.2.2.1 x.2.2.2 false) n) s

/-- The kept loans are placed at the first boundary after the last start-up inventory (15 R440). -/
def State.placeKept (s : State) : State :=
  if s.keptPlaced || !s.power.booted || s.power.brownAt.isSome || s.stackList.any (fun k => k.usable && !k.tested) then s else
  let loans := if s.power.start = .restore then s.archive.snapshot.loans else s.archive.loans
  loans.foldl State.placeKeptLoan { s with keptPlaced := true }

/-- Inventories whose boundary has come (16 R457). -/
def State.dueInventories (s : State) : State :=
  (List.range 4).foldl (fun s k =>
    if (s.stk k).invDue.any (fun b => decide (b ≤ s.stamp.number)) && !s.invRunning && s.power.brownAt.isNone then
      (if (s.stk k).shares.isEmpty then s.startInventory k else s.modStk k fun x => { x with invDue := none })
    else s) s

/-! ## A boundary -/

/-- Roles that end at this boundary: a yielding or failing primary, and side B after R359 (12 R359, 14 R415, 16 R452). -/
def State.endRoles (s : State) : State :=
  let n := s.stamp.number
  if s.roleSt.yieldAt.any (fun b => decide (b ≤ n)) || s.roleSt.silentFrom.any (fun b => decide (b ≤ n)) then s.becomeStandby false else s

/-- What a boundary does with loans, fills and inventories; none of it while a brown-out is declared (15 R430). What wakes does so in its order (15
R423). -/
def State.loansAtBoundary (s : State) : State :=
  if s.power.brownAt.isSome then s else
  let s := s.lendReady
  ((((s.beginChanges true).numberBatches).draftFills).dueInventories).stagger s

/-- Per-stamp state of the stacks, cells and front end starts anew. -/
def State.newStamp (s : State) : State :=
  { s with
    stackList := s.stackList.map fun k => { k with
      sum := 0, reserved0 := 0, reserved1 := 0, taken01 := 0, passDone := false, overrun := !k.running.isEmpty, ledgerUse := [], paying := []
      slices := [], sliceCarry := [] }
    cells := s.cells.map fun c => { c with stepped := false, ran := false, isStale := true, compared := false, behind := false }
    mains := { s.mains with
      committed := false, passed := false, last := s.mains.samples, samples := [], used := s.mains.features, usedStamp := s.mains.stamp
      twin := if s.power.quiet then s.mains.twin else s.mainsTwinClass s.mains.samples
      twinRow := if s.power.quiet then s.mains.twinRow else s.mainsTwinRow s.mains.samples }
    sense := { s.sense with marked := false }
    stamp := { s.stamp with framed := false }
    spine := { s.spine with nextBeat := s.stamp.t0 } }

/-- The air interface at a boundary; brown-out silences it from the first one on (15 R430 step 5). After an accession the primary sends its roster,
against which the standby checks its own (11 R317). -/
def State.airAtBoundary (s : State) : State :=
  let s : State := if s.power.brownAt.isSome then { s with power := { s.power with quiet := true }, acc := { s.acc with btnOut := false } } else s
  if s.power.quiet || !s.air.running then s else
  let ended := s.acc.endDue
  let s := ((s.airBoundary).sendBeacons).countRelease
  if ended then s.forward (.roster s.archive.roster) s.stamp.number else s

/-- RAILFAULT in the first stamp after the restart (16 R456). -/
def State.nameRailFault (s : State) : State :=
  match s.power.railFault with
  | some r => if s.power.booted then
      ({ s with power := { s.power with railFault := none } } : State).raise 0x87 none none r s.power.shutdowns 0 0 else s
  | none => s

/-- The archive's event log follows (16 R465 step 5). -/
def State.keepLog (s : State) : State := { s with archive := { s.archive with log := s.events.kept } }

/-- What begins with a stamp, the number already raised. The records of the ended stamps' service, links, clips and drift precede the changes of the
new one. θ and L that go live here test the clip share of the stamp that has just ended: of the two the spec does not say which does (04 R108, log
154). -/
def State.openStamp (s : State) : State :=
  let links := s.nodes.map s.linkRecord
  let s := (((((s.goLive).serviceFrames links).newStamp).nameRailFault).endRoles).airAtBoundary
  let s := (s.clipFrames).monitors
  let s := (s.placeKept).loansAtBoundary
  let s := s.countStamps.keepLog
  match s.test.lifeDue.find? fun m => decide (m.2 ≤ s.stamp.number) with
  | some m => s.lifeMove m.1
  | none => s

/-- The next stamp's number and instant. A standby takes its primary's run and number (R33); what it held of a run of its own is no earlier span of
that run (09 R237). -/
def State.nextStamp (s : State) (target : Option (BitVec 32 × BitVec 48)) (at0 : Tick) : State :=
  let q := s.stamp
  match target with
  | some (run, n) => { s with
      stamp := { q with number := n, run := run, t0 := at0, adjust := 0 }
      roleSt := { s.roleSt with target := none, adopted := true }
      sense := { s.sense with cums := [], sumA := 0, sumB := 0, count := 0 }
      cells := s.cells.map fun c => { c with prevVolt := none } }
  | none => { s with stamp := { q with number := q.number + 1, t0 := at0, adjust := 0 } }

/-- A boundary at an instant: one stamp ends and the next begins. -/
def State.boundary (s : State) (at0 : Tick) (early : Bool) : State :=
  ((((s.closeStamp early at0).beginRequests (s.stamp.number + 1)).nextStamp s.roleSt.target at0)).openStamp

/-- Stamps run: powered, started, and not held by RST_N. -/
def State.ticking (s : State) : Bool := s.power.porter && s.stamp.started && s.power.rstLow.isNone

/-- STAMP_BOUNDARY (R31, R36). -/
def execStampBoundary (t : Tick) : State → Host.Outcome State Fault Refusal :=
  occurs t (fun s => s.ticking && decide (s.nextBoundary ≤ s.now) && s.roleSt.takeoverAt.all fun x => decide (s.nextBoundary < x)) fun s =>
    s.boundary s.nextBoundary false

/-- The stage of accession that a takeover leaves: one under way goes on (11 R318). -/
def AccPhase.taken : AccPhase → AccPhase
  | .running => .running
  | .releasing k => .releasing k
  | .lowering => .lowering
  | .idle | .wakeDue | .waking | .ended => .ended

/-- The standby's takeover (12 R356 to R358): it becomes primary with the nodes it knows, its next beacon is the takeover beacon, and a hub that
becomes its standby over the same link is given the settings, loans and kept seals. -/
def State.takeOver (s : State) : State :=
  let last := s.roleSt.lastFramed
  let n := s.unaligned
  let s := if s.stamp.framed then s else s.keepFrame
  let s := s.becomePrimary
  let s := s.writeKept
  let s : State := { s with
    roleSt := { s.roleSt with takeoverAt := none, lostAt := none, early := false, takeoverBeacon := true, adopted := false }
    spine := { s.spine with partSeal := [], reseal := true }
    air := { s.air with beacons := true }
    acc := { s.acc with phase := s.acc.phase.taken, btnOut := s.acc.phase != .lowering } }
  (s.sendSeq (.role .takeover)).raise 0x63 none none (last.toNat % 2 ^ 32) ((s.spine.sealIn.getD 0).toNat % 2 ^ 32) n 0

def execTakeoverBoundary (t : Tick) : State → Host.Outcome State Fault Refusal :=
  occurs t (fun s => s.ticking && s.roleSt.takeoverAt.any fun x => decide (x ≤ s.now)) fun s =>
    s.takeOver.boundary (s.roleSt.takeoverAt.getD s.now) s.roleSt.early

/-! ## The admission pass (R39, R42, R44, 07 R207, R215, R493) -/

/-- Queued charges of a stack that can never be admitted complete OVERSIZE: each leaves one record, which names no descriptor (OP 0, INDEX 0) and ends
the charge (log 137). A chunk that its request's end has taken already leaves none. -/
def State.dropOversize (s : State) (stack : Nat) : State :=
  (s.charges.filter fun c => c.stack == stack && c.phase == .queued && decide (s.admissible < s.ownCost c)).foldl
    (fun s c =>
      if (s.charge? c.id).isNone then s else
      let s := s.record c 0 0 true stOversize 0 0 0
      ({ s with charges := s.charges.filter fun x => x.id ≠ c.id } : State).refused c.slot stack c.kind stOversize 0) s

/-- The cost that the pass would take from one queue alone: it stops at the first charge that does not fit (R39). -/
def soloCost (limit : Nat) : Nat → List Nat → Nat
  | sum, [] => sum
  | sum, c :: cs => if sum + c ≤ limit then soloCost limit (sum + c) cs else sum

/-- Costs of the chunks that a request has still to submit: each as its last one in the queue (log 119). -/
def State.chunksToCome (s : State) (queue : List ChargeSt) : List Nat :=
  match queue.getLast? with
  | some c => match c.kind with
    | .chunk req _ _ _ => match s.req? req with
      | some r => List.replicate (r.chunksOf - r.next) (s.costNow c)
      | none => []
    | _ => []
  | none => []

/-- The solo admission of a patron on a stack (R215): the reservation of class 0 or class 1, and what the pass would take from its queue alone,
as far as the first charge that is not eligible. -/
def State.soloOf (s : State) (stack slot : Nat) : Nat :=
  let limit := s.limit stack slot
  let reserved := if slot = 0 then min (s.receiverNeed stack) limit else if slot = 1 then min (s.stepNeed s.dueShelves stack) limit else 0
  let mine := s.charges.filter fun c => c.stack == stack && c.slot == slot && c.phase == .queued && shareAdmits (s.stk stack) c && c.draws.isNone
  let able := mine.takeWhile s.eligible
  let more := if able.length = mine.length then s.chunksToCome mine else []
  soloCost limit reserved (able.map s.costNow ++ more)

/-- SOLO of every patron that holds the stack (R215). -/
def State.countSolo (s : State) (stack : Nat) : State :=
  (s.stk stack).shares.foldl (fun s sh => s.modCtr sh.slot fun t => { t with solo := t.solo + s.soloOf stack sh.slot }) s

/-- The instant of a stack's pass, whatever the command's: the boundary, or the end of what has run over it (log 147: the spec bounds the pass by 10 µs
and does not say when in it the admissions are decided). -/
def State.passAt (s : State) (stack : Nat) : Tick := max s.stamp.t0 (s.stk stack).overlapAt
/-- The pass of a stack. -/
def State.pass (s : State) (stack : Nat) : State :=
  let at0 := s.passAt stack
  let s := s.modStk stack fun k => { k with overrun := false, passDone := true }
  if !(s.stk stack).usable then s else
  let owed := (s.stk stack).debts
  let s := owed.foldl (fun s d => s.modCtr d.1 fun t => { t with debt := natSat (t.debt + d.2) 32 }) s
  let s := (s.modStk stack fun k => { k with paying := k.debts, debts := [] }).decideRota
  let s := (s.rehome).dropOversize stack
  let r0 := min (s.receiverNeed stack) (s.limit stack 0)
  let r1 := min (s.stepNeed s.dueShelves stack) (s.limit stack 1 - r0)
  let s := s.modStk stack fun k => { k with reserved0 := r0, reserved1 := r1, sum := r0 + r1, taken01 := r0 + r1 }
  let s := s.countSolo stack
  (passOrder.foldl (fun s p => admitRun stack p true at0 s.charges.length s) s).noteReady at0

def execAdmissionPass (t : Tick) (stk : Nat) : State → Host.Outcome State Fault Refusal :=
  occurs t (fun s => s.up && s.steward.aDown.isNone && decide (stk < 4 ∧ s.steward.holdTo ≤ s.stamp.number) && !(s.stk stk).passDone && (s.stk stk).running.isEmpty) fun s => s.pass stk

/-! ## The front end (15 R424 to R426, 12 R350) -/

/-- The codes up to a mark: the sums of the run, and the span since the mark before (13 Table 13.11). -/
def Sense.mark (q : Sense) (n : BitVec 48) (a b : Int) : Sense :=
  let p := (q.cums.head?.map (·.2)).getD (0, 0, 0)
  { q with
    markA := a
    markB := b
    stampA := q.sumA - p.1
    stampB := q.sumB - p.2.1
    stampN := q.count - p.2.2
    cums := (n, q.sumA, q.sumB, q.count) :: q.cums }

/-- SAMPLE_MARK: 100 µs after the boundary. Its codes are those of the conversion of that very instant, or, on a standby, of the SENSE frame of
millisecond 0. -/
def execSampleMark (t : Tick) : State → Host.Outcome State Fault Refusal :=
  occurs t (fun s => s.ticking && !s.sense.marked && decide (s.stamp.t0 + us 100 ≤ s.now)) fun s =>
    { s with sense := { s.sense with marked := true } }

/-- A front-end code, held within its end values (R425). -/
def frontCode (x : BitVec 24) : Int := max (-8388607) x.toInt
/-- From one current instant to the next, 15.625 µs, and from one mains instant to the next, 62.5 µs (R424). -/
def codeTicks : Nat := us 1000 / 64
def mainsTicks : Nat := us 1000 / 16
/-- Now is a conversion instant of the current channels, and one of the mains channels: 100 µs + k times the step from the boundary. -/
def State.codeInstant (s : State) : Bool := decide (s.stamp.t0 ≤ s.now) && (s.now - s.stamp.t0) % codeTicks == us 100 % codeTicks
def State.mainsInstant (s : State) : Bool := (s.now - s.stamp.t0) % mainsTicks == us 100 % mainsTicks

/-- The millisecond whose codes are held has ended; without its 64 codes it has no means. -/
def Sense.closeMs (q : Sense) : Sense :=
  { q with
    fullMs := if q.msA.length = 64 then q.fullMs ++ [⟨q.msStamp, q.msIndex, q.msA, q.msB, q.msMains⟩] else q.fullMs
    msA := [], msB := [], msMains := [] }
/-- The front end at a millisecond: codes of another one are complete. -/
def Sense.atMs (q : Sense) (n : BitVec 48) (ms : Nat) : Sense :=
  if q.msA.isEmpty || (q.msStamp == n && q.msIndex == ms) then q else q.closeMs
/-- One current conversion enters the sums and its millisecond. -/
def Sense.take (q : Sense) (a b : Int) (n : BitVec 48) (ms : Nat) : Sense :=
  let q := q.atMs n ms
  { q with
    msStamp := n, msIndex := ms, sumA := q.sumA + a, sumB := q.sumB + b, count := q.count + 1, msA := q.msA ++ [a], msB := q.msB ++ [b] }
/-- The stamp and the millisecond of it in which the instant lies (15 R424); at the boundary itself the next stamp has begun. -/
def State.msNow (s : State) : BitVec 48 × Nat :=
  let ms := (s.now - s.stamp.t0) / msTicks
  if ms < s.stamp.period then (s.stamp.number, ms) else (s.stamp.number + 1, ms - s.stamp.period)
/-- The A16 values of one instant's mains codes (R426). -/
def State.mainsA16 (s : State) (codes : List Int) : List Int := codes.map fun c => sat (rnd c (s.getN .mainsShift)) 16

/-- One mains instant in the half-cycles of mains.hz, 16,000 / 2f instants each, the first of them from the first conversion on (R429, log 159). -/
def MainsSt.half (m : MainsSt) (nom limit hz : Nat) (row : List Int) : MainsSt :=
  let rows := m.halfRows ++ [row]
  let acc := m.halfAcc + 2 * hz
  if acc < 16000 then { m with halfRows := rows, halfAcc := acc }
  else { m with
    halfRows := []
    halfAcc := acc - 16000
    low := if [0, 1, 2].all fun i => rmsBelow (rows.map fun r => r.getD i 0) nom limit then m.low + 1 else 0 }
/-- The mains codes of an instant: the half-cycles of the brown-out detection, and the samples of the stamp unless the primary sends them (01 R20). -/
def State.takeMains (s : State) (codes : List Int) : State :=
  let row := s.mainsA16 codes
  let m := s.mains.half (s.getN .mainsNominal) (s.getN .mainsInterrupt) (s.getN .mainsHz) row
  if s.isStandby then { s with mains := m }
  else { s with
    sense := { s.sense with msMains := s.sense.msMains ++ [codes] }
    mains := { m with samples := m.samples ++ [row] } }
/-- The current codes of an instant, and at the sample mark its bookkeeping; a standby takes the primary's in their place (01 R20). -/
def State.takeCodes (s : State) (a b : Int) : State :=
  let s : State := { s with sense := { s.sense with lastConv := some s.now } }
  if s.isStandby then s else
  let q := s.sense.take a b s.msNow.1 s.msNow.2
  { s with sense := if s.now = s.stamp.t0 + us 100 then q.mark s.stamp.number a b else q }

/-- CONVERSION: the codes of a current instant, and of the mains instant where one falls on it. -/
def execConversion (t : Tick) (ia ib : BitVec 24) (mains : Option (List (BitVec 24))) : State → Host.Outcome State Fault Refusal :=
  occurs t (fun s => s.ticking && s.codeInstant && mains.isSome == s.mainsInstant && s.sense.lastConv.all fun x => decide (x < s.now)) fun s =>
    let s := s.takeCodes (frontCode ia) (frontCode ib)
    match mains with
    | none => s
    | some v => s.takeMains (v.map frontCode)

/-- CURRENT_MEAN: a millisecond of 64 codes has ended. Its means are tested, and a primary sends its SENSE frame (12 R350). -/
def execCurrentMean (t : Tick) : State → Host.Outcome State Fault Refusal :=
  occurs t (fun s => s.ticking && !(s.sense.atMs s.msNow.1 s.msNow.2).fullMs.isEmpty) fun s =>
    let q := s.sense.atMs s.msNow.1 s.msNow.2
    match q.fullMs with
    | [] => s
    | m :: ms =>
      let s := if s.leads && s.spine.partner then s.sendSeq (.sense m.stamp m.index m.a m.b m.mains) else s
      let s : State := { s with sense := { q with fullMs := ms, lastMs := some (m.a, m.b) } }
      s.testCurrents (divr m.a.sum m.a.length) (divr m.b.sum m.b.length)

/-! ## Heartbeats and events once a second -/

/-- HEARTBEAT_SEND (12 R348): on an UP link, once the role is decided. -/
def execHeartbeatSend (t : Tick) : State → Host.Outcome State Fault Refusal :=
  occurs t (fun s => s.ticking && s.spine.state == .up && s.roleSt.decided && decide (s.spine.nextBeat ≤ s.now)) fun s =>
    let s := s.sendFree (.heartbeat s.heartbeat)
    { s with spine := { s.spine with beatAt := some s.now, nextBeat := s.stamp.t0 + ((s.now - s.stamp.t0) / us 250 + 1) * us 250 } }

/-- A second has passed since an instant. -/
def secondSince (last : Option Tick) (now : Tick) : Bool := last.all fun x => decide (x + 1000 * msTicks ≤ now)

/-- STARVED_EVENT (R49): names the stale cells. -/
def execStarvedEvent (t : Tick) : State → Host.Outcome State Fault Refusal :=
  occurs t (fun s => s.up && s.leads && s.rota.starving && secondSince s.events.lastStarved s.now) fun s =>
    let s : State := { s with events := { s.events with lastStarved := some s.now, starvedOn := true } }
    let s := s.modCtr 1 fun t => { t with starved := true }
    s.raise 0x30 (some 1) none (s.cells.filter (·.isStale)).length 0 0 0

/-- A class 0 or class 1 slot with a folio and no stack (07 R200). -/
def State.unserved (s : State) (p : Nat) : Bool := (s.patron p).folio.isSome && !s.holdsStack p

/-- UNSERVED_EVENT. -/
def execUnservedEvent (t : Tick) : State → Host.Outcome State Fault Refusal :=
  occurs t (fun s => s.up && s.leads && (s.unserved 0 || s.unserved 1) && secondSince s.events.lastUnserved s.now) fun s =>
    let s : State := { s with events := { s.events with lastUnserved := some s.now } }
    [0, 1].foldl (fun s p => if s.unserved p then s.raise 0x33 (some p) none p 0 0 0 else s) s

/-- DIVSUM (09 R250): the open divergences and the lowest SID. -/
def execDivsum (t : Tick) : State → Host.Outcome State Fault Refusal :=
  occurs t (fun s => s.up && s.events.divRolled && decide (64 < s.openDivs) && secondSince s.events.lastDivsum s.now) fun s =>
    let sids := (s.cells.filter fun c => c.divs.any (·.isOpen)).filterMap (·.sid)
    let s : State := { s with events := { s.events with lastDivsum := some s.now, divRolled := false } }
    s.raise 0x12 (some 1) none s.openDivs (sids.foldl min (sids.headD 0)) 0 0

end Sys2Proof.Machine
end

