-- ==== Sys2Proof/Machine/Faults.lean ====
section
/-! DEFINITION. The commands of faults and inventories (16): hangs and isolation reports, the end and the schedule of inventories, the
ledger scrub, the steward pairs, and the end of a drain (07 R198). -/

namespace Sys2Proof.Machine

/-! ## Stack faults (R448) -/

/-- A running descriptor has had its cost and 40,000 cycles more. -/
def RunSt.hangs (r : RunSt) (now : Tick) : Bool := !r.halts && decide (r.start + (r.left + 40000) * r.cyc < now)

/-- HANG: the descriptor of an engine has not completed. -/
def execHang (t : Tick) (stk : Nat) (eng : Engine) : State → Host.Outcome State Fault Refusal :=
  occurs t (fun s => (s.stk stk).usable && ((s.stk stk).runOn eng).any fun r => r.hangs s.now) fun s => s.stackFault stk 2

/-- ISOLATION_REPORT: a transfer named a block or page that the stack does not hold. -/
def execIsolationReport (t : Tick) (stk : Nat) : State → Host.Outcome State Fault Refusal :=
  occurs t (fun s => s.up && (s.stk stk).usable) fun s => s.stackFault stk 3

/-! ## Inventories (R457 to R460, 14 R418) -/

/-- A1 of INVENTORY (Table 16.4). -/
def InvResult.code : InvResult → Nat
  | .pass => 0 | .repaired => 1 | .shelves => 2 | .annex => 3 | .stack => 4 | .aborted => 5

/-- The failing rows for which a stack's spare-row maps have no spare yet (R460). -/
def State.newRows (s : State) (stack : Nat) (f : InvFinding) : List (Bool × Nat × Nat) :=
  f.rows.eraseDups.filter fun r => !s.archive.spares.contains (stack, r)
/-- A 64 KiB bank would need more than its two spare rows (R459, R460). -/
def State.rowsShort (s : State) (stack : Nat) (f : InvFinding) : Bool :=
  let all := (s.archive.spares.filter fun x => x.1 == stack).map (·.2) ++ s.newRows stack f
  all.any fun r => decide (2 < (all.filter fun x => x.1 == r.1 && x.2.1 == r.2.1).length)
/-- In MANUFACTURE and RETURNED an inventory tests the weeded units too, and one that passes clears their weeding (R457, R460). -/
def State.clearsWeeding (s : State) : Bool := lifeIndex s.life == 1 || lifeIndex s.life == 4
/-- The shelves that an inventory of a stack tests; and whether it tests the annex. -/
def State.testedShelves (s : State) (stack : Nat) : BitVec 32 := if s.clearsWeeding then 0xFFFFFFFF else (s.stk stack).shelves
def State.testsAnnex (s : State) (stack : Nat) : Bool := s.clearsWeeding || (s.stk stack).annexOk

/-- What a finding makes of a stack; the gravest result stands (log 33). -/
def State.invResultOf (s : State) (stack : Nat) (f : InvFinding) : InvResult :=
  let tested := s.testedShelves stack
  if f.binderyFails || s.rowsShort stack f || tested &&& ~~~ f.failedShelves == 0 then .stack
  else if f.annexFails && s.testsAnnex stack then .annex
  else if tested &&& f.failedShelves != 0 then .shelves
  else if !(s.newRows stack f).isEmpty then .repaired
  else .pass

/-- In MANUFACTURE and RETURNED an inventory that passes clears the weeding of the units it tested (R460). -/
def State.unweed (s : State) (stack : Nat) : State :=
  if s.clearsWeeding then (s.modStk stack fun k => { k with shelves := 0xFFFFFFFF, annexOk := true, weeded := false }).keepWeeding stack else s

/-- An inventory ends: the stack is re-initialised, INVENTORY and any WEED are raised, and spares stand for the rows that have failed. What was to be
lent there begins at the next boundary (07 R197). -/
def State.endInventory (s : State) (stack : Nat) (f : InvFinding) : State :=
  let k := s.stk stack
  let res := s.invResultOf stack f
  let new := s.newRows stack f
  let s := s.modStk stack fun k => { k.reinit with lastInv := some (s.stamp.number, res) }
  let s : State := { s with archive := { s.archive with spares := s.archive.spares ++ new.map fun r => (stack, r) } }
  let s := s.raise 0x81 none (some stack) stack res.code (k.shelves &&& f.failedShelves).toNat new.length
  match res with
  | .stack => (s.modStk stack fun k => { k with shelves := k.shelves &&& ~~~ f.failedShelves }).weedStack stack
  | .pass | .repaired => s.unweed stack
  | _ =>
    let s := s.weedShelves stack f.failedShelves
    if f.annexFails then s.weedAnnex stack else s

/-- INVENTORY_END. -/
def execInventoryEnd (t : Tick) (stk : Nat) (f : InvFinding) : State → Host.Outcome State Fault Refusal :=
  occurs t (fun s => s.awake && (s.stk stk).inv.any fun v => !v.startup && decide (v.start + 30 * msTicks ≤ s.now)) fun s =>
    s.endInventory stk f

/-- Another inventory runs, or waits for its boundary. -/
def State.invBusy (s : State) : Bool := s.invRunning || s.stackList.any fun k => k.invDue.isSome
/-- FREE under 07 Table 7.3, and promised to no accepted change. -/
def State.freeStack (s : State) (stack : Nat) : Bool :=
  let k := s.stk stack
  k.usable && k.shares.isEmpty && k.inv.isNone && !s.promised stack

/-- The first stack whose interval has expired. -/
def State.invTurn (s : State) : Option Nat := (List.range 4).find? fun k => s.steward.invAt.any fun p => p.1 == k && decide (p.2 ≤ s.now)
/-- A stack's interval begins again. -/
def State.resetTurn (s : State) (stack : Nat) : State :=
  match s.get .inventorySchedule with
  | none => s
  | some h => { s with steward := { s.steward with invAt := s.steward.invAt.map fun p =>
      if p.1 = stack then (stack, s.now + h.toNat * 3600000 * msTicks) else p } }

/-- SCHEDULED_INVENTORY: the next stack whose interval has expired; one that is not FREE waits for its next turn. -/
def execScheduledInventory (t : Tick) : State → Host.Outcome State Fault Refusal :=
  occurs t (fun s => s.up && !s.invBusy && s.invTurn.isSome) fun s =>
    let k := s.invTurn.getD 0
    let s' := s.resetTurn k
    if s.freeStack k then s'.modStk k fun x => { x with invDue := some s.atStamp } else s'

/-! ## The ledger scrub (R460) -/

/-- LEDGER_SCRUB, once a day: the pages whose read needed a correction. -/
def execLedgerScrub (t : Tick) (corrected : List Nat) : State → Host.Outcome State Fault Refusal :=
  occurs t (fun s => s.up && decide (s.steward.scrubAt ≤ s.now)) fun s =>
    corrected.foldl State.scrubPage { s with steward := { s.steward with scrubAt := s.now + 86400000 * msTicks } }

/-! ## The steward pairs (R452, R453) -/

/-- A primary whose standby holds every live stream. -/
def State.hasAligned (s : State) : Bool :=
  s.leads && s.spine.state == .up && s.spine.partnerRole == some .standby && s.spine.partnerUnaligned == 0

/-- With an aligned standby the hub sets FAILING and is standby from the next boundary on. -/
def State.failOver (s : State) : State :=
  if s.hasAligned then
    { s with
      roleSt := { s.roleSt with failing := true, yieldAt := some (s.stamp.number + 1) }
      steward := { s.steward with failedOver := true } }
  else { s with steward := { s.steward with failedOver := false } }

/-- LOCKSTEP_A: pair A restarts; HRDY is low until it has. -/
def execLockstepA (t : Tick) : State → Host.Outcome State Fault Refusal :=
  occurs t (fun s => s.awake && !s.blank && s.steward.aDown.isNone && s.steward.bDown.isNone) fun s =>
    let s := s.failOver
    ({ s with steward := { s.steward with aDown := some s.now } } : State).setHrdy false

/-- LOCKSTEP_B: pair B restarts; beacons and calls go on, and orders wait. -/
def execLockstepB (t : Tick) : State → Host.Outcome State Fault Refusal :=
  occurs t (fun s => s.awake && !s.blank && s.steward.aDown.isNone && s.steward.bDown.isNone) fun s =>
    let s := s.failOver
    { s with steward := { s.steward with bDown := some s.now } }

/-- The message that a line waits for has been handed to the node protocol. -/
def State.actedOn (s : State) (u : Sess) (lineNo : Nat) : Bool :=
  let mine : Msg → Bool := fun m => m.reply == some (u, lineNo)
  (s.nodes.any fun n => n.queue.any mine || n.unacked.any mine) || s.air.bqueue.any mine || s.air.bmsg.any mine

/-- Every line of a session that is still unanswered receives FAULT. -/
def State.answerFaults (s : State) (u : Sess) : State :=
  ((s.ses u).waiting.filter fun p => p.ready.isNone).foldl (fun s p =>
    s.answer u p.lineNo [.err 27 [("acted", .word (if s.actedOn u p.lineNo then "YES" else "NO"))]]) s

/-- Pair A is back: requests that waited are dropped, the frames of the stamps that it missed and the held events are written, and
admission resumes at the next boundary. -/
def State.restartA (s : State) (since : Tick) : State :=
  let missed := s.steward.missed
  let s := (s.answerFaults .line).answerFaults .port
  let s : State := { s with
    waits := []
    promotion := none
    steward := { s.steward with aDown := none, missed := [], holdTo := s.stamp.number + 1 } }
  let s := s.setHrdy (!s.port.boot && s.power.brownAt.isNone)
  let s := s.modRing 4 fun q => { q with held := [] }
  let s := missed.foldl (fun s f => s.sendFrame 0 f.ftype f.stamp f.nrec f.payload) s
  s.writeEvents.raise 0x83 none none 0 s.steward.failedOver.toNat ((s.now - since) / usTicks) 0

/-- Pair B is back: every protective event held in the meantime is raised, in sample order, and the PCLEAR of each limit that has cleared (R453, log
155). -/
def State.restartB (s : State) (since : Tick) : State :=
  let held := s.steward.heldProtect
  let s : State := { s with steward := { s.steward with bDown := none, heldProtect := [] } }
  let s := (held.mapIdx fun i e => (i, e)).foldl (fun s p =>
    if p.2.code = 2 then s.raise 0x02 none none p.2.a0.toNat p.2.a1.toNat 0 0 else
    let s := s.raiseProtect p.2.a0.toNat p.2.a1.toNat p.2.a2.toNat p.2.a3.toNat
    { s with limits := s.limits.map fun x => if x.seq = 2 ^ 32 + p.1 then { x with seq := s.lastProtect } else x }) s
  s.raise 0x83 none none 1 s.steward.failedOver.toNat ((s.now - since) / usTicks) 0

/-- STEWARD_RESTART. -/
def execStewardRestart (t : Tick) (pairB : Bool) : State → Host.Outcome State Fault Refusal :=
  occurs t (fun s => s.awake && (if pairB then s.steward.bDown.isSome else s.steward.aDown.isSome)) fun s =>
    if pairB then s.restartB (s.steward.bDown.getD s.now) else s.restartA (s.steward.aDown.getD s.now)

/-! ## Drains (07 R198) -/

/-- DRAIN_END: the hub's own parks, zero-fill and wake for a draining share have ended. -/
def execDrainEnd (t : Tick) (stk slot : Nat) : State → Host.Outcome State Fault Refusal :=
  occurs t (fun s => s.drained slot stk) fun s => s.endDrain slot stk

end Sys2Proof.Machine
end

