-- ==== Sys2Proof/Machine/Flags.lean ====
section
/-! DEFINITION. The flags of the data port: the status block and its copy for readers, the transaction status word, HIRQ_N, and what a host
write does to each field (13 R364 to R369, Tables 13.2, 13.4 and 13.6). -/

namespace Sys2Proof.Machine

/-! ## What readers see -/

/-- SPINE of the status block (13 Table 13.4). -/
def SpineState.code : SpineState → Nat
  | .off => 0 | .down => 1 | .training => 2 | .up => 3

/-- The status block as the hub's state has it now. -/
def State.blockNow (s : State) : Shown :=
  { regs := s.port.regs
    avail := s.avail
    life := lifeIndex s.life
    stamp := s.stamp.number
    run := s.stamp.run
    role := s.roleSt.role.code
    spine := s.spine.state.code
    economy := s.stamp.economy
    period := s.stamp.period
    restored := s.restored
    rings := s.port.rings.map fun r => (r.prod, r.cons) }

/-- A ring control record (13 Table 13.6). -/
def ringRecord (r : Nat) (prod cons : Pos) : Bytes :=
  leBytes 16 (r + (decide (r = 5)).toNat * 16 + ringSize r * 2 ^ 8 + ringBase r * 2 ^ 32 + prod.word * 2 ^ 64 + cons.word * 2 ^ 96)

/-- The 256 bytes of the status block, from the copy that the last update made (13 Table 13.4, R365). -/
def State.statusBlock (s : State) : Bytes :=
  let x := s.port.shown
  leBytes 44 (0x58524147 + field s.grade 32 16 + field s.nstack 48 3 + field x.avail 52 4 + field x.life 56 3 + s.spine.sideB.toNat * 2 ^ 59
    + field x.role 60 2 + x.economy.toNat * 2 ^ 62 + x.restored.toNat * 2 ^ 63 + Config.fwver.toNat * 2 ^ 64 + x.stamp.toNat * 2 ^ 96
    + x.run.toNat * 2 ^ 144 + field x.period 176 6 + field x.spine 182 2 + x.regs.irq.toNat * 2 ^ 192 + x.regs.irqen.toNat * 2 ^ 224
    + x.regs.h2mlen.toNat * 2 ^ 256 + x.regs.m2hlen.toNat * 2 ^ 272 + x.regs.err.toNat * 2 ^ 288 + x.regs.drops.toNat * 2 ^ 320)
  ++ List.replicate 84 0#8
  ++ ((x.rings.mapIdx fun r p => ringRecord r p.1 p.2).flatten)
  ++ List.replicate 32 0#8

/-- HIRQ_N: low while an enabled IRQ bit is set, whatever the status block shows (R367). -/
def State.hirqN (s : State) : Bool := (s.port.regs.irq &&& s.port.regs.irqen) == 0

/-- The mapped range that an address lies in: its first address and the one past it (13 Table 13.3). -/
def mapRange (a : Nat) : Option (Nat × Nat) :=
  [(0, 0x100), (0x1000, 0x2000), (0x2000, 0x4000), (0x100000, 0x280000)].find? fun r => decide (r.1 ≤ a ∧ a < r.2)

/-- HRDY as a falling edge of HCS_N finds it: one within 10 ns of a falling edge of HRDY finds it low (R365, 17 R483). Of the past the port keeps its
last edge and its status-block updates of the last 5 ms. -/
def DataPort.readyAt (p : DataPort) (x : Tick) : Bool :=
  (if p.hrdy then decide (p.hrdyAt ≤ x) else decide (x + 10 * nsTicks < p.hrdyAt)) && !p.lows.any fun l => decide (l.first ≤ x + 10 * nsTicks ∧ x < l.past)
/-- The hub is ready for a transaction that begins now. -/
def State.ready (s : State) : Bool := s.port.readyAt s.now

/-- BADOP of Table 13.2. -/
def badOp (op : BitVec 8) : Bool := op != 0x0B && op != 0x02

/-- The transaction status word (13 Table 13.2). -/
def State.statusWord (s : State) (op : BitVec 8) (addr : Nat) : BitVec 32 :=
  BitVec.ofNat 32 ((!s.ready).toNat + (badOp op).toNat * 2 + (mapRange addr).isNone.toNat * 4 + s.port.boot.toNat * 8
    + field (s.port.regs.irq &&& s.port.regs.irqen).toNat 8 8 + field s.stamp.number.toNat 16 16)

/-- One byte that a read returns whose HCS_N fell at an instant: 0xFF throughout where BUSY, BADOP or BADADDR is set, and once HCS_N has been low for
more than 4 ms (R364 to R366). -/
def State.readByte (s : State) (fell : Tick) (op : BitVec 8) (first a : Nat) : Byte :=
  if !s.port.readyAt fell ∨ badOp op ∨ (mapRange first).isNone ∨ s.port.csLow ∨ fell + 4 * msTicks < s.now then 0xFF
  else if a < 0x100 then s.statusBlock.getD a 0
  else if 0x2000 ≤ a ∧ a < 0x4000 then memGet s.port.mailOut a
  else if 0x100000 ≤ a ∧ a < 0x280000 then memGet s.port.ringMem a
  else 0

/-- The status block takes the hub's state, and HRDY is low meanwhile: for 2 µs at most, how long the spec does not fix (R365, log 122). -/
def State.updateBlock (s : State) : State :=
  let (n, s) := s.freeNat
  { s with port := { s.port with
      shown := s.blockNow, deferred := false
      lows := (s.port.lows.filter fun l => decide (s.now < l.first + 5 * msTicks)) ++ [{ first := s.now, past := s.now + n % (2 * usTicks + 1), before := s.port.shown }] } }
/-- A transaction whose HCS_N fell at an instant: the updates that came due since were put off, so readers saw the block of before the first of
them. An update within 10 ns of the fall had begun (R365, 17 R483). -/
def State.putOff (s : State) (fell : Tick) : State :=
  let began : LowPulse → Bool := fun l => decide (l.first ≤ fell + 10 * nsTicks)
  match s.port.lows.find? fun l => !began l with
  | none => s
  | some l => { s with port := { s.port with shown := l.before, lows := s.port.lows.filter began, deferred := true } }
/-- HCS_N rises: a transaction that had held it low for too long is over, and the update that it put off follows (R365). -/
def State.csRise (s : State) : State :=
  let s : State := { s with port := { s.port with csLow := false } }
  if s.port.deferred then s.updateBlock else s

/-! ## Host writes, field by field -/

/-- W1C bits of IRQ (13 Table 13.5). -/
def State.clearIrq (s : State) (v : BitVec 32) : State := s.modRegs fun r => { r with irq := r.irq &&& ~~~v }
/-- IRQEN: every bit but bit 2, which stays 1 (R368). -/
def State.writeIrqen (s : State) (v : BitVec 32) : State := s.modRegs fun r => { r with irqen := v ||| 4#32 }
/-- W1C bits of ERR. -/
def State.clearErr (s : State) (v : BitVec 16) : State := s.modRegs fun r => { r with err := r.err &&& ~~~v }
/-- H2MLEN (R389): the hub takes the lines, writes 0 and sets IRQ[8]. The spec does not say whether a length of 0, which names no line, sets
IRQ[8]; here it does not (log 91). -/
def State.writeH2m (s : State) (v : BitVec 16) : State :=
  if v = 0 then s.modRegs fun r => { r with h2mlen := 0 } else (s.modRegs fun r => { r with h2mlen := 0 }).irqSet 8
/-- M2HLEN: 0 frees the hub-to-host mailbox for further lines; any other value is ignored and sets ERR[2]. -/
def State.writeM2h (s : State) (v : BitVec 16) : State :=
  if v = 0 then (s.modRegs fun r => { r with m2hlen := 0 }).flushMail else s.errSet 2

/-- The frame starts from a position on. -/
def startsFrom (p : Pos) (starts : List Pos) : List Pos := starts.dropWhile fun x => x != p

/-- CONS of a ring (R369): a frame start at or before the producer's position, or that position itself; any other write is ignored and sets
ERR[2]. On ring 5 CONS is RO. -/
def State.writeCons (s : State) (r : Nat) (v : BitVec 32) : State :=
  let p := Pos.ofWord v
  let q := s.ring r
  if r = 5 then s.errSet 0
  else if 5 < r then s
  else if p = q.prod ∨ p ∈ q.starts then s.modRing r fun q => { q with cons := p, starts := startsFrom p q.starts }
  else s.errSet 2

/-- A producer's position that ring 5 can hold: a multiple of 32 within the ring, at most one lap ahead of the consumer. -/
def legalProd (size : Nat) (p cons : Pos) : Bool :=
  decide (p.off % 32 = 0 ∧ p.off < size) && (if p.lap = cons.lap then decide (cons.off ≤ p.off) else decide (p.off ≤ cons.off))

/-- PROD of a ring: RW on ring 5, RO elsewhere. -/
def State.writeProd (s : State) (r : Nat) (v : BitVec 32) : State :=
  let p := Pos.ofWord v
  if 5 < r then s
  else if r ≠ 5 then s.errSet 0
  else if legalProd (ringSize 5) p (s.ring 5).cons then s.modRing 5 fun q => { q with prod := p }
  else s.errSet 2

/-! ## A write transaction -/

/-- The fields of the status block that a host write can touch. -/
inductive PortField where
  | ro | irq | irqen | h2mlen | m2hlen | err | prod (r : Nat) | cons (r : Nat)
  deriving DecidableEq, Repr

/-- First byte, length and field, in address order; bytes of no field are RS (Tables 13.4 and 13.6). -/
def portFields : List (Nat × Nat × PortField) :=
  [(0, 23, .ro), (24, 4, .irq), (28, 4, .irqen), (32, 2, .h2mlen), (34, 2, .m2hlen), (36, 2, .err), (40, 4, .ro)]
  ++ (List.range 6).flatMap fun r => [(128 + 16 * r, 8, .ro), (136 + 16 * r, 4, .prod r), (140 + 16 * r, 4, .cons r)]

/-- The bytes of a field under a write: those written, and elsewhere the old ones. -/
def overBytes (lo : Nat) (old : Bytes) (addr : Nat) (data : Bytes) : Bytes :=
  (List.range old.length).map fun i =>
    if addr ≤ lo + i ∧ lo + i < addr + data.length then data.getD (lo + i - addr) 0 else old.getD i 0

/-- What a transaction does to one field of the status block; one without data does nothing (00 R11). The spec does not say what a write of part
of a field does: a byte that is not written keeps its value, in M2HLEN too, and W1C bits there are not cleared (log 89). -/
def State.writeField (s : State) (addr : Nat) (data : Bytes) (f : Nat × Nat × PortField) : State :=
  if data.isEmpty ∨ f.1 + f.2.1 ≤ addr ∨ addr + data.length ≤ f.1 then s else
  let above : Nat → Nat := fun old => leNat (overBytes f.1 (leBytes f.2.1 old) addr data)
  match f.2.2 with
  | .ro => s.errSet 0
  | .irq => s.clearIrq (BitVec.ofNat 32 (above 0))
  | .irqen => s.writeIrqen (BitVec.ofNat 32 (above s.port.regs.irqen.toNat))
  | .h2mlen => s.writeH2m (BitVec.ofNat 16 (above s.port.regs.h2mlen.toNat))
  | .m2hlen => s.writeM2h (BitVec.ofNat 16 (above s.port.regs.m2hlen.toNat))
  | .err => s.clearErr (BitVec.ofNat 16 (above 0))
  | .prod r => s.writeProd r (BitVec.ofNat 32 (above (s.ring r).prod.word))
  | .cons r => s.writeCons r (BitVec.ofNat 32 (above (s.ring r).cons.word))

/-- Where a byte beyond the status block goes. -/
inductive ByteHome where
  | block | mailIn | input | refused
  deriving DecidableEq, Repr
def byteHome (a : Nat) : ByteHome :=
  if a < 0x100 then .block
  else if 0x1000 ≤ a ∧ a < 0x2000 then .mailIn
  else if 0x260000 ≤ a ∧ a < 0x280000 then .input
  else .refused

/-- The bytes of a transaction that go to one place, with their addresses. -/
def bytesAt (h : ByteHome) (addr : Nat) (data : Bytes) : List (Nat × Byte) :=
  (data.mapIdx fun i b => (addr + i, b)).filter fun p => byteHome p.1 == h

/-- Store bytes one by one. -/
def putCells (m : Mem) (cs : List (Nat × Byte)) : Mem := cs.foldl (fun m c => memPut m c.1 c.2) m

/-- A write transaction (R365, R366, R389): the bytes of mailbox and ring 5 are stored, those at other addresses set ERR[1], and the fields of
the status block take their effects in address order. -/
def State.writePort (s : State) (addr : Nat) (data : Bytes) : State :=
  if (mapRange addr).isNone then s.errSet 1 else
  let mail := bytesAt .mailIn addr data
  let s : State := if mail.isEmpty then s
    else if s.port.regs.h2mlen ≠ 0 then s.errSet 3
    else { s with port := { s.port with mailIn := putCells s.port.mailIn mail } }
  let s : State := { s with port := { s.port with ringMem := putCells s.port.ringMem (bytesAt .input addr data) } }
  let bad := bytesAt .refused addr data
  let s := if bad.isEmpty then s else s.errSet 1
  let s := if s.port.regs.m2hlen ≠ 0 ∧ bad.any (fun p => decide (0x2000 ≤ p.1 ∧ p.1 < 0x4000)) then s.errSet 3 else s
  portFields.foldl (fun s f => s.writeField addr data f) s

/-- A transaction at the rise of HCS_N: a first address outside the map sets ERR[1], whatever the opcode; the data of a write is ignored where
HRDY was low or the opcode is another (R364, R366). -/
def State.transact (s : State) (x : HostTxn) (data : Bytes) : State :=
  if (mapRange x.addr).isNone then s.errSet 1
  else if x.op = 0x02 ∧ s.port.readyAt x.fell then s.writePort x.addr data
  else s

end Sys2Proof.Machine
end

