-- ==== Sys2Proof/Machine/DataPort.lean ====
section
/-! DEFINITION. The commands of the data port (13): the frames that the hub writes, the update of the status block, and the host's writes. -/

namespace Sys2Proof.Machine

/-! ## Frames -/

/-- ESTIMATE_FRAME_WRITE (R375), on a standby for its own host: once its primary is lost, the frames of every stamp since the last framed one, whose
records of unsealed stamps carry RERUN (12 R358). -/
def execEstimateFrameWrite (t : Tick) : State → Host.Outcome State Fault Refusal :=
  occurs t (fun s => s.up && s.frameDue) fun s =>
    if s.roleSt.lostAt.isSome then s.writeKept.writeEstimates true else s.keepFrame.writeEstimates false

/-- EVENT_FRAME_WRITE (R380). -/
def execEventFrameWrite (t : Tick) : State → Host.Outcome State Fault Refusal :=
  occurs t (fun s => s.awake && s.steward.aDown.isNone && !s.events.fresh.isEmpty) State.writeEvents

/-- Announce the frames held on a ring that now have room, in order (R371). -/
def sendHeld (r : Nat) : Nat → State → State
  | 0, s => s
  | n + 1, s => match (s.ring r).held with
    | [] => s
    | f :: fs =>
      if !s.hasRoom r f.payload.length then s
      else sendHeld r n ((s.modRing r fun q => { q with held := fs }).announce r f)

/-- HELD_FRAME_WRITE: events on ring 1, results on ring 3, cards and their acts on ring 4. -/
def execHeldFrameWrite (t : Tick) (ring : Nat) : State → Host.Outcome State Fault Refusal :=
  occurs t (fun s => s.awake && s.steward.aDown.isNone) fun s =>
    match ring with
    | 1 => s.writeEvents
    | 3 => sendHeld 3 (s.ring 3).held.length s
    | 4 => sendHeldCards (s.ring 4).held.length s
    | _ => s

/-! ## The status block -/

/-- STATUS_BLOCK_UPDATE (R365): put off while a transaction is known to hold HCS_N low; that one is open now may be learned only at its end
(`State.putOff`). -/
def execStatusBlockUpdate (t : Tick) : State → Host.Outcome State Fault Refusal :=
  occurs t (fun s => s.awake) fun s =>
    if s.port.csLow then { s with port := { s.port with deferred := true } } else s.updateBlock

/-- TRANSACTION_TIMEOUT (R365): the open transaction has held HCS_N low for more than 4 ms, so no update has begun in them. -/
def execTransactionTimeout (t : Tick) : State → Host.Outcome State Fault Refusal :=
  occurs t (fun s => s.awake) fun s =>
    let s := s.putOff (s.now - 4 * msTicks)
    ({ s with port := { s.port with csLow := true } } : State).errSet 4

/-! ## Host writes: while HRDY is low their data is ignored (R364) -/

/-- A host write of one field, in a transaction of its own that begins with HRDY high; its effect is at the rise of HCS_N (R365). -/
def hostWrite (t : Tick) (act : State → State) : State → Host.Outcome State Fault Refusal := occurs t State.ready fun s => (act s).csRise

def execIrqWrite (t : Tick) (v : BitVec 32) : State → Host.Outcome State Fault Refusal := hostWrite t fun s => s.clearIrq v
def execIrqenWrite (t : Tick) (v : BitVec 32) : State → Host.Outcome State Fault Refusal := hostWrite t fun s => s.writeIrqen v
def execErrWrite (t : Tick) (v : BitVec 16) : State → Host.Outcome State Fault Refusal := hostWrite t fun s => s.clearErr v
def execH2mlenWrite (t : Tick) (v : BitVec 16) : State → Host.Outcome State Fault Refusal := hostWrite t fun s => s.writeH2m v
def execM2hlenWrite (t : Tick) (v : BitVec 16) : State → Host.Outcome State Fault Refusal := hostWrite t fun s => s.writeM2h v
def execConsWrite (t : Tick) (ring : Nat) (v : BitVec 32) : State → Host.Outcome State Fault Refusal := hostWrite t fun s => s.writeCons ring v
def execProdWrite (t : Tick) (ring : Nat) (v : BitVec 32) : State → Host.Outcome State Fault Refusal := hostWrite t fun s => s.writeProd ring v
/-- REGISTER_WRITE: any other transaction, whose HCS_N rises at this instant. One with the opcode of a read writes nothing; what it reads is
`State.readByte`. -/
def execRegisterWrite (t : Tick) (addr : HostTxn) (data : Bytes) : State → Host.Outcome State Fault Refusal :=
  occurs t (fun s => s.awake) fun s => ((s.putOff addr.fell).transact addr data).csRise

/-- PARTIAL_LINE_TIMEOUT (R384). -/
def execPartialLineTimeout (t : Tick) : State → Host.Outcome State Fault Refusal :=
  occurs t (fun s => s.awake) fun s => s.modSes .line fun q => { q with buf := [] }

end Sys2Proof.Machine
end

