-- ==== Sys2Proof/Machine/Spine.lean ====
section
/-! DEFINITION. The spine link (12 R341 to R349): training, the acceptance of frames, heartbeats and roles, and resending. -/

namespace Sys2Proof.Machine

/-! ## Training (R343) -/

/-- Start of a phase, counted from the end of phase 0 (Table 12.2). -/
def phaseStart : Nat → Nat
  | 0 => 0 | 1 => 0 | 2 => 1 | 3 => 2 | 4 => 3 | 5 => 5 | _ => 6
/-- When the current phase began. -/
def State.phaseBegan (s : State) : Tick := s.spine.phaseAt + phaseStart s.spine.phase * msTicks

/-- What this hub's TRAIN frame says (Table 12.2, 15 R439). -/
def State.trainInfo (s : State) (roundTrip turnaround : Nat) : TrainInfo :=
  { side := s.spine.sideB, role := if s.roleSt.decided then some s.roleSt.role.code else none
    run := s.stamp.run, stamp := s.stamp.number, session := s.spine.session, roundTrip := roundTrip, turnaround := turnaround }

/-- In phase 0, after the silence that follows a failure, side A sends the preamble at every multiple of 10 µs from its start on (Table 12.2): the
line at this instant. -/
def State.preambleNow (s : State) : Bool :=
  s.awake && s.spine.state == .training && s.spine.phase == 0 && !s.spine.sideB && decide (s.spine.silentTo ≤ s.now ∧ (s.now - s.spine.phaseAt) % us 10 = 0)

/-- SPINE_PREAMBLE: phase 0 ends with side A's first detection, and with side B's 64th, which it answers with 100 µs of preambles. -/
def execSpinePreamble (t : Tick) : State → Host.Outcome State Fault Refusal :=
  occurs t (fun s => s.awake && s.spine.state == .training && decide (s.spine.phase = 0 ∧ s.spine.silentTo ≤ s.now)) fun s =>
    let n := s.spine.detects + 1
    let s : State := { s with spine := { s.spine with detAt := some s.now } }
    if s.spine.sideB ∧ n < 64 then { s with spine := { s.spine with detects := n } }
    else
      let s : State := { s with spine := { s.spine with detects := n, phase := 1, phaseAt := s.now, rounds := [], goodRx := 0, goodTx := 0 } }
      if s.spine.sideB then s.emit (.preambles s.now (us 100)) else s

/-- A TRAIN frame goes out. -/
def State.sendTrain (s : State) (roundTrip turnaround : Nat) : State :=
  let s := s.sendFree (.train (s.trainInfo roundTrip turnaround))
  { s with spine := { s.spine with goodTx := s.spine.goodTx + 1, txCount := 0 } }

/-- TRAINING_PHASE: the next phase begins at its time; the delay exchanges end with the 16th. -/
def execTrainingPhase (t : Tick) (phase : Nat) : State → Host.Outcome State Fault Refusal :=
  occurs t (fun s => s.awake && s.spine.state == .training && decide (2 ≤ phase ∧ phase ≤ 6 ∧ phase = s.spine.phase + 1)
      && decide (s.spine.phaseAt + phaseStart phase * msTicks ≤ s.now) && (decide (phase < 6) || decide (16 ≤ s.spine.rounds.length))) fun s =>
    let s : State := { s with spine := { s.spine with phase := phase, goodTx := 0, goodRx := 0 } }
    if phase = 6 ∨ (phase = 5 ∧ !s.spine.sideB) then s.sendTrain 0 0 else s

/-- TRAINING_TIMEOUT: phase 0 again after 10 ms of silence; the third failure in a row raises SPINETRAIN, and the count starts again
(log 36). -/
def execTrainingTimeout (t : Tick) : State → Host.Outcome State Fault Refusal :=
  occurs t (fun s => s.awake && s.spine.state == .training && decide (s.phaseBegan + 20 * msTicks ≤ s.now)) fun s =>
    let n := s.spine.fails + 1
    let s := s.startTraining
    let at0 := s.now + 10 * msTicks
    let s : State := { s with spine := { s.spine with phaseAt := at0, silentTo := at0, fails := if n = 3 then 0 else n } }
    if n = 3 then s.raise 0x60 none none 3 0 0 0 else s

/-! ## Frames (R344 to R347) -/

/-- The CRC-32 of a frame holds over its header and its payload, and LEN says how long that is (R344). -/
def crcHolds (rx : SpineRx) : Bool :=
  rx.crc == crc32 (leBytes 16 rx.hdr.toNat ++ rx.payload) && bitsOf rx.hdr.toNat 18 8 == rx.payload.length
/-- The tag of a secured frame holds under the spine key, the nonce that its sender's count gives and its header (R346, R347). -/
def State.tagFits (s : State) (rx : SpineRx) : Bool :=
  rx.tag == (gcmTag s.spineKeyBytes (spineNonce s.spine.session rx.count (rx.hdr.getLsbD 4)) (leBytes 16 rx.hdr.toNat) rx.payload).take 8

/-- Fields of a frame header (Table 12.3). -/
def rxType (rx : SpineRx) : Nat := bitsOf rx.hdr.toNat 3 0
def rxSec (rx : SpineRx) : Bool := rx.hdr.getLsbD 5
def rxSeqOf (rx : SpineRx) : BitVec 16 := rx.hdr.extractLsb' 32 16
def rxAck (rx : SpineRx) : BitVec 16 := rx.hdr.extractLsb' 48 16
def rxStamp (rx : SpineRx) : BitVec 48 := rx.hdr.extractLsb' 64 48

/-- An ACK covers a frame: its SEQ is the one named, or one of the 32,767 before it. -/
def covers (ack : BitVec 16) (f : SentFrame) : Bool := decide ((ack - f.seq).toNat < 2 ^ 15)
/-- The frames that an ACK covers are kept no longer. -/
def State.takeAck (s : State) (ack : BitVec 16) : State :=
  if s.spine.sent.any (covers ack) then
    { s with spine := { s.spine with
        sent := s.spine.sent.filter fun f => !covers ack f
        ackIn := ack
        ackAt := s.now } }
  else s

/-- Whether a frame of a type passes its checks: the CRC and, in secured mode, SEC, the tag and the sender's count. A frame that fails
them is discarded; the latter kind counts toward SPINESEC. -/
def State.takeFrame (s : State) (rx : SpineRx) (ftype : Nat) : State × Bool :=
  let q := { s.spine with detAt := some s.now }
  if !crcHolds rx ∨ rxType rx ≠ ftype then ({ s with spine := { q with discarded := q.discarded + 1 } }, false)
  else if s.getN .spineSecure = 1 ∧ ftype ≠ 1 ∧ (!rxSec rx ∨ !s.tagFits rx ∨ q.rxCount.any fun c => decide (rx.count ≤ c)) then
    ({ s with spine := { q with
        discarded := q.discarded + 1
        discards := (q.discards.filter fun x => decide (s.now < x + 1000 * msTicks)) ++ [s.now] } }, false)
  else
    let s : State := { s with spine := { q with lastRx := s.now, rxCount := if ftype = 1 ∨ !rxSec rx then q.rxCount else some rx.count } }
    (if ftype = 1 then s else s.takeAck (rxAck rx), true)

/-- A sequenced message is accepted only in its order (R345); of one that takes several frames the last is given, and those before it are its
predecessors (log 81). -/
def State.takeSeq (s : State) (rx : SpineRx) (m : SpineMsg) : State × Bool :=
  let r := s.takeFrame rx m.ftype
  if !r.2 then r
  else if rxSeqOf rx = r.1.spine.rxSeq + BitVec.ofNat 16 m.frames then ({ r.1 with spine := { r.1.spine with rxSeq := rxSeqOf rx } }, true)
  else ({ r.1 with spine := { r.1.spine with discarded := r.1.spine.discarded + 1 } }, false)

/-- A frame of the link reaches this hub: an effect where it passes its checks. -/
def State.onFrame (s : State) (rx : SpineRx) (ftype : Nat) (f : State → State) : State :=
  let r := s.takeFrame rx ftype
  if r.2 then f r.1 else r.1
def State.onSeq (s : State) (rx : SpineRx) (m : SpineMsg) (f : State → State) : State :=
  let r := s.takeSeq rx m
  if r.2 then f r.1 else r.1

/-- The link is UP and this hub hears it. -/
def State.linked (s : State) : Bool := s.awake && s.spine.state == .up

/-! ## The link comes up -/

/-- Both hubs claim primary: side A keeps the role, side B is silent from its next boundary on (01 R21). -/
def State.conflict (s : State) : State :=
  if s.spine.sideB then { s with roleSt := { s.roleSt with silentFrom := some (s.stamp.number + 1) } } else s

/-- UP: 16 good TRAIN frames have come each way. -/
def State.linkUp (s : State) : State :=
  let s := s.setSpine .up
  { s with spine := { s.spine with fails := 0, reseal := true, lastRx := s.now, lastBeat := s.now, txCount := 0, rxCount := none, discards := [] } }

/-- A good TRAIN frame: a delay exchange in phase 5, one of the 16 from phase 6 on. Side B replies with its own turnaround, which the spec does not
bound; side A states the round trip that it measured and the turnaround that it was told, and both ends take D from the 16 such pairs (log 37). -/
def State.takeTrain (s : State) (i : TrainInfo) : State :=
  let q := s.spine
  let s : State := { s with spine := { q with
    partnerRole := i.role.map Role.ofCode
    session := if q.sideB then i.session else q.session } }
  if q.phase = 5 then
    let rounds := if i.roundTrip = 0 then q.rounds else (q.rounds ++ [i.roundTrip - i.turnaround]).take 16
    let s : State := { s with spine := { s.spine with rounds := rounds, delay := rounds.sum * crystalTicks / 32 } }
    if q.sideB then let v := s.freeNat; v.2.sendTrain 0 v.1
    else if q.rounds.length < 16 then s.sendTrain i.roundTrip i.turnaround else s
  else
    let s : State := { s with spine := { s.spine with goodRx := q.goodRx + 1 } }
    let s := s.sendTrain 0 0
    if 16 ≤ s.spine.goodRx ∧ 16 ≤ s.spine.goodTx then s.linkUp else s

/-- TRAIN. -/
def execTrain (t : Tick) (rx : SpineRx) (i : TrainInfo) : State → Host.Outcome State Fault Refusal :=
  occurs t (fun s => s.awake && s.spine.state == .training && decide (5 ≤ s.spine.phase)) fun s => s.onFrame rx 1 fun s => s.takeTrain i

/-- SPINE_DOWN: the link falls, and training begins again. -/
def execSpineDown (t : Tick) : State → Host.Outcome State Fault Refusal :=
  occurs t (fun s => s.linked) fun s => (s.setSpine .down).startTraining

/-- SPINESEC: 16 frames discarded within 1 s. -/
def execSpinesec (t : Tick) : State → Host.Outcome State Fault Refusal :=
  occurs t (fun s => s.linked && decide (16 ≤ (s.spine.discards.filter fun x => decide (s.now < x + 1000 * msTicks)).length)) fun s =>
    let n := s.spine.discards.length
    ((s.setSpine .down).startTraining).raise 0x61 none none n 0 0 0

/-- SPINE_RESEND: 50 µs without an advance of the ACK. Each header names the sender's stamp as it starts now (Table 12.3). -/
def execSpineResend (t : Tick) : State → Host.Outcome State Fault Refusal :=
  occurs t (fun s => s.linked && !s.spine.sent.isEmpty && decide (s.spine.ackAt + us 50 ≤ s.now)) fun s =>
    let s := s.spine.sent.foldl (fun s f => s.putSpine f.seq s.stamp.number f.msg f.part) s
    { s with spine := { s.spine with
        ackAt := s.now
        resent := s.spine.resent + s.spine.sent.length } }

/-! ## What a primary sends when its standby appears (R351, 15 R439) -/

/-- What a slot holds of its stacks: of each its regions, blocks and claim. -/
def State.sharesOf (s : State) (slot : Nat) : List (Nat × Nat × Nat × Nat) :=
  (List.range 4).filterMap fun k => ((s.stk k).shares.find? fun sh => sh.slot == slot && sh.st != .draining).map fun sh =>
    (k, sh.regions.length, sh.blocks.length - sh.claim.length, sh.claim.length)
/-- The loans in force of a slot, stacks of one form together: each item names the slot's pages in all. -/
def State.forwardShares (s : State) (slot : Nat) : State :=
  let held := s.sharesOf slot
  let forms := (held.map (·.2)).eraseDups
  let pages := (s.patron slot).pages
  let s := forms.foldl (fun s f => s.forward
    (.loan (.lend slot (((held.filter fun h => h.2 == f).map fun h => 2 ^ h.1).sum) pages f.1 f.2.1 f.2.2 true)) s.atStamp) s
  if pages ≠ 0 ∧ forms.isEmpty then s.forward (.loan (.lend slot 0 pages 0 0 0 true)) s.atStamp else s
/-- An accepted change that has not begun, with the stamp at which it begins; a rescue is not forwarded (16 R451), nor is a promotion, which a standby
builds itself (09 R259). -/
def State.forwardChange (s : State) (c : LoanChange) : State :=
  if 4 ≤ c.slot ∨ c.begun ∨ c.rescue ∨ c.fid.isSome then s else
  let item : LoanAct := match c.lend, c.moveFrom with
    | false, _ => .release c.slot (2 ^ c.stack)
    | true, some src => .move c.slot src c.stack
    | true, none => .lend c.slot (2 ^ c.stack) c.pages c.regions c.blocks c.claim false
  s.forward (.loan item) (if c.begins < s.atStamp then s.atStamp else c.begins)

/-- The loans of slots 0 to 3, and their accepted changes, in order. -/
def State.forwardLoans (s : State) : State :=
  let s := (List.range 4).foldl State.forwardShares s
  s.changes.foldl State.forwardChange s

/-- Every setting, script and parameter set that is live, the period and the clock in any case, and those committed for a later stamp: a standby
that joins, or whose link was down, has them all from the boundary that it adopts (02 R28, R33), and the roster, which it checks its own
against (11 R317). -/
def State.forwardSettings (s : State) : State :=
  let q := s.settings
  let n := s.stamp.number
  let own := q.live.filter fun x => x.1 != .pairSide && x.1 != .stampPeriod && x.1 != .stampEconomy
  let live := [(SName.stampPeriod, s.get .stampPeriod), (SName.stampEconomy, s.get .stampEconomy)] ++ own.reverse
  let s := live.foldl (fun s x => s.forward (.setting x.1 x.2) n) s
  let s := q.scripts.foldl (fun s x => s.forward (.script x.1 x.2.1 x.2.2) n) s
  let s := q.twinsets.foldl (fun s x => s.forward (.twinset x.1 x.2) n) s
  let s := q.commits.foldl (fun s c => c.2.reverse.foldl (fun s x => s.forward (.setting x.1 x.2) c.1) s) s
  let s := q.scriptCommits.foldl (fun s c => c.2.foldl (fun s x => s.forward (.script x.1 x.2.1 x.2.2) c.1) s) s
  let s := if s.archive.roster.isEmpty then s else s.forward (.roster s.archive.roster) n
  q.setCommits.foldl (fun s c => c.2.foldl (fun s x => s.forward (.twinset x.1 x.2) c.1) s) s

/-- Records in frames of at most 1,024 bytes: none spans two (R351). -/
def sealFrames : List SealRec → List SealRec → List (List SealRec)
  | acc, [] => if acc.isEmpty then [] else [acc]
  | acc, r :: rs => if ((acc ++ [r]).map SealRec.size).sum ≤ 1024 then sealFrames (acc ++ [r]) rs else acc :: sealFrames [r] rs
/-- The seals after a stamp, of those kept, each with its END (R351). -/
def State.resendSeals (s : State) (after : BitVec 48) : State :=
  (s.spine.seals.filter fun h => decide (after < h.stamp)).foldl (fun s h => (sealFrames [] h.recs).foldl (fun s f => s.sendSeq (.seal f)) s) s

/-! ## Heartbeats (R348, R349, R356) -/

/-- The period of a stamp to come: that which is committed for it, or told for it by the primary, where it is not live yet. -/
def State.toldPeriod (s : State) (n : BitVec 48) : Nat :=
  let told := (s.settings.commits.filter fun c => decide (c.1 ≤ n)).flatMap fun c => c.2.reverse.filterMap fun p =>
    if p.1 = .stampPeriod then p.2.map Int.toNat else none
  told.getLast?.getD s.stamp.period

/-- The standby's takeover boundary for a declaration now: its instant, and whether it is early. The boundary after the next one is a period of the next
stamp's away. -/
def State.takeoverFor (s : State) : Tick × Bool :=
  let nb := s.nextBoundary
  let b := if s.now + us 500 ≤ nb then nb else nb + s.toldPeriod (s.stamp.number + 1) * msTicks
  let last := s.spine.lastBeat + 25 * msTicks
  if last < b then (last, true) else (b, false)

/-- Where a heartbeat puts the primary's last boundary. -/
def State.primaryBoundary (s : State) (phase : Nat) : Int := (s.now : Int) - s.spine.delay - (phase * crystalTicks : Nat)

/-- A standby follows: once it has its primary's settings, a heartbeat gives it the run, the number and the instant of the boundary that it adopts:
the primary's next, a period of the primary's after the one that the heartbeat names (02 R33). Each later one gives the error of its next
boundary; that of stamp n + 1 is measured where the period alone would put it. -/
def State.follow (s : State) (run : BitVec 32) (n : BitVec 48) (phase : Nat) : State :=
  let b := s.primaryBoundary phase
  let q := s.stamp
  if !s.roleSt.adopted then
    if !s.roleSt.informed then s else
    { s with
      stamp := { q with adjust := b + (s.toldPeriod n * msTicks : Nat) - (q.t0 + s.stampTicks : Nat) }
      roleSt := { s.roleSt with target := some (run, n + 1) } }
  else
    let mine : Int := if n = q.number then (q.t0 : Int) else if n = q.number + 1 then (q.t0 + s.stampTicks : Nat) else (q.t0 : Int) - (s.stampTicks : Int)
    let err := divr (b - mine) crystalTicks * crystalTicks
    let most : Int := (s.stampTicks / 2000 : Nat)
    { s with stamp := { q with adjust := max (-most) (min most err) } }

/-- The fields of a heartbeat (Table 12.5). -/
def State.noteBeat (s : State) (p : BitVec 128) : State :=
  let v := p.toNat
  { s with spine := { s.spine with
      lastBeat := s.now
      partnerRole := some (Role.ofCode (v % 4))
      partnerFailing := p.getLsbD 2
      partnerSealed := BitVec.ofNat 48 (v / 2 ^ 64)
      partnerUnaligned := bitsOf v 127 112 } }

/-- A partner that is primary or alone: the hub without a role becomes its standby, and a primary has a conflict (01 R21, 15 R439). -/
def State.meetPrimary (s : State) : State :=
  if !s.roleSt.decided then s.becomeStandby true
  else if s.leads then s.conflict
  else { s with roleSt := { s.roleSt with unaligned := false } }

end Sys2Proof.Machine
end

