-- ==== Sys2Proof/Machine/Promote.lean ====
section
/-! DEFINITION. Publication and promotion of the draft (09 R257 to R259). -/

namespace Sys2Proof.Machine

/-- The new publication, reported over the spine by a standby (log 38). -/
def State.reportPub (s : State) : State :=
  match s.draft with
  | some d => if s.isStandby then s.sendSeq (.config (.promotion d.pub 3 none) 0) else s
  | none => s

/-- PUBLISH: every E refit steps. -/
def execPublish (t : Tick) : State → Host.Outcome State Fault Refusal :=
  occurs t (fun s => s.up && s.steward.aDown.isNone && s.publishDue) fun s =>
    match s.draft with
    | some d =>
      let s' := s.publish d
      if (s'.draft.map (·.pub)) = some d.pub then s' else s'.reportPub
    | none => s

/-! ## Promotion -/

/-- Regions that a folio takes on one stack. -/
def regionNeed (f : FolioInfo) : Nat := (f.layers.map (·.regions)).sum

/-- Where a promoted folio goes: a free stack that holds it, or unlent regions of a stack that its slot holds, where the annex and
the receiver's slack allow it (R258, 03 R72, 07 R195). -/
def State.promoteTo (s : State) (slot : Nat) (f : FolioInfo) (b : BitVec 48) : Option (Nat × Bool) :=
  match (List.range 4).find? fun k => s.freeAt f b k && (placeFolio slot f [{ stack := k, free := List.range 48 }]).isSome with
  | some k => some (k, true)
  | none =>
    let n := regionNeed f
    match (List.range 4).find? fun k => (s.stk k).lentTo slot && !s.promised k && ((s.stk k).annexOk || !folioWide f) && (s.slackFault k slot f).isNone
        && decide ((firstFree (s.stk k).usedRegions n).length = n)
        && (placeFolio slot f [{ stack := k, free := firstFree (s.stk k).usedRegions n }]).isSome with
    | some k => some (k, false)
    | none => none

/-- A configured pair's mirror stays within its limit with the live images of a slot in the length that a folio gives them (12 R355). -/
def State.mirrorFitsAs (s : State) (slot : Nat) (f : FolioInfo) : Bool :=
  let len := Image.length { dims := f.stateLayers }
  let live := s.streams.filter (·.committed.live)
  !s.spine.partner || decide ((live.map fun x => if x.slot = slot ∧ 0 < x.weight then len + 128 else x.weight).sum ≤ mirrorLimit s.stamp.period)

/-- The images of another folio keep the snapshot within its limit (15 R432). -/
def State.snapshotFitsAs (s : State) (f : FolioInfo) : Bool :=
  let len := Image.length { dims := f.stateLayers }
  decide ((s.streams.filter fun x => x.slot == 1 && (x.place == .parked || x.place == .resident)).length * (len + 128) ≤ 66060288)

/-- The error that refuses a promotion here and now (R259, 15 R432). -/
def State.promoteFault (s : State) (pub slot : Nat) : Option Nat :=
  match s.draft with
  | none => some 20
  | some d =>
    if pub ≠ d.pub ∨ pub = 0 then some 20
    else match s.refitFolios d with
      | none => some 20
      | some (f, p) =>
        if s.requests.any (fun r => r.slot == slot && r.isOpen && r.kind == .rollout) then some 14
        else if (draftFault d f p d.published).isSome then some 26
        else if slot == 1 && !s.snapshotFitsAs (d.promoted p) then some 11
        else if !s.mirrorFitsAs slot (d.promoted p) then some 24
        else if (s.promoteTo slot (d.promoted p) s.atStamp).isNone then some 18
        else none

/-- The folio that the publication would give. -/
def State.nextFolio (s : State) : Option FolioInfo := s.draft.bind fun d => (s.refitFolios d).map fun p => d.promoted p.2

/-- Promote: the folio is stored, its loan change on a stack is accepted, and for slot 1 it becomes the draft's parent (R258). -/
def State.promoteAt (s : State) (slot : Nat) (b : BitVec 48) (place : Option (Nat × Bool)) : State :=
  match s.nextFolio, place with
  | some f, some (k, whole) =>
    let under : Draft → Draft := fun d => if slot = 1 then { d with parent := f.fid } else d
    { s with
      archive := { s.archive with
        folios := (s.archive.folios.filter fun x => x.info.fid != f.fid) ++ [{ info := f, promoted := true }]
        draft := s.archive.draft.map under }
      draft := s.draft.map under
      changes := s.changes ++ [{
        begins := b
        slot := slot
        stack := k
        lend := true
        regions := if whole then 48 else regionNeed f
        blocks := if whole then 48 else 0
        fid := some f.fid }] }
  | _, _ => s

/-- The identity of the folio that a promotion makes. -/
def State.promotedFid (s : State) : Nat :=
  (s.nextFolio.map fun f => f.fid.toNat).getD 0

/-- Accept a promotion on the hub that leads: both hubs make it live at the same stamp. -/
def State.acceptPromotion (s : State) (pub slot : Nat) (ses : Sess) (lineNo : Nat) : State :=
  let s := { s with promotion := none }
  match s.promoteFault pub slot with
  | some e => s.answer ses lineNo [.err e []]
  | none =>
    let b := s.atStamp
    let fid := s.promotedFid
    let place := s.nextFolio.bind fun f => s.promoteTo slot f b
    let s := (s.promoteAt slot b place).forward (.promotion pub slot place) b
    s.answer ses lineNo [.ok [("at", .nat b.toNat), ("folio", .hex fid 8)]]

/-- PROMOTION_LAGGING: 60 s without the standby's report. -/
def execPromotionLagging (t : Tick) : State → Host.Outcome State Fault Refusal :=
  occurs t (fun s => s.up && s.promotion.any fun p => decide (p.since + 60000 * msTicks ≤ s.now)) fun s =>
    match s.promotion with
    | some p => ({ s with promotion := none } : State).answer p.ses p.lineNo [.err 21 []]
    | none => s

end Sys2Proof.Machine
end

