-- ==== Sys2Proof/Machine/Standby.lean ====
section
/-! DEFINITION. The two hubs of a pair in step (12 R348 to R359): what each frame does, the seal and its cards, alignment, and the loss of
the primary. -/

namespace Sys2Proof.Machine

/-! ## Alignment (R352, R354) -/

/-- Every live stream becomes unaligned, and the pending acts go. -/
def State.loseAlignment (s : State) : State :=
  { s with
    streams := s.streams.map fun x => { x with aligned := false, unsealed := none, rebuilt := none }
    spine := { s.spine with pendingSeals := [], digests := [], lateCards := [] } }

/-- A broadcast of the primary: its sequence, the stamps of it that are left, and what it says of every node (R352, 11 R318, R326, R339, R340). -/
def State.takeBroadcast (s : State) (stamp : BitVec 48) (mtype seq : Nat) (body : Bytes) : State :=
  let v := leNat body
  let rest := body.drop 2
  let left := 3 - (s.stamp.number.toNat - stamp.toNat)
  let m : Msg := { shelf := 0, mtype := mtype, rest := rest, stop := mtype == 6 || (mtype == 1 && bitsOf v 47 32 == 0), seq := some seq, sub := s.air.subs }
  let s : State := { s with air := { s.air with
    subs := s.air.subs + 1
    bseq := seq
    bmsg := some m
    bleft := left
    bqueue := removeFirst (fun x => x.mtype == mtype && x.rest == rest) s.air.bqueue } }
  match mtype with
  | 1 => { s with nodes := s.nodes.map fun n => n.ordered (bitsOf v 31 16) (bitsOf v 47 32) s.now }
  | 3 => { s with nodes := s.nodes.map fun n => { n with wpre := bitsOf v 20 16, wpost := bitsOf v 23 21, tfit := bitsOf v 27 24 } }
  | 5 => { s with nodes := s.nodes.map fun n => { n with balance := [] } }
  | 6 => { s with acc := { s.acc with phase := .releasing left } }
  | _ => s

/-- The standby's copy of an order: the sequence, LAST and unacknowledged messages of its node (R352). -/
def State.takeOrder (s : State) (stamp : BitVec 48) (shelf mtype seq : Nat) (sync : Bool) (body : Bytes) : State :=
  if shelf = 0 then s.takeBroadcast stamp mtype seq body
  else
    let v := leNat body
    let rest := body.drop 2
    let m : Msg := { shelf := shelf, mtype := mtype, rest := rest, stop := mtype == 1 && bitsOf v 47 32 == 0, seq := some seq, sync := sync
                     sends := 1, sub := s.air.subs, lastStamp := some s.stamp.number }
    let s : State := { s with air := { s.air with subs := s.air.subs + 1 } }
    s.modNode shelf fun n =>
      let n := if mtype = 1 then n.ordered (bitsOf v 31 16) (bitsOf v 47 32) s.now else n
      { n with
      seqNext := (seq + 1) % 256
      syncNext := false
      queue := removeFirst (fun x => x.mtype == mtype && x.rest == rest) n.queue
      unacked := n.unacked ++ [m]
      balance := if mtype = 5 then [] else n.balance
      owt := if mtype = 2 then (n.owt.filter fun o => o.wire != bitsOf v 20 16) ++ [{ wire := bitsOf v 20 16, seq := seq, left := if bitsOf v 22 21 = 3 then 2 else 1 }]
        else n.owt
      wpre := if mtype = 3 then bitsOf v 20 16 else n.wpre
      wpost := if mtype = 3 then bitsOf v 23 21 else n.wpost
      tfit := if mtype = 3 then bitsOf v 27 24 else n.tfit }

/-- A slot from its number in the frame. -/
def slotOfPos (nu pos : Nat) : Slot := if pos < nu then .uplink pos else .retry (pos - nu)

/-- A report of an earlier stamp: it acknowledges, and its readings enter the input rows of that stamp's steps (08 R233). -/
def State.lateReport (s : State) (stamp : BitVec 48) (shelf : Nat) (p : Bytes) : State :=
  match messagesOf 30 p with
  | [] => s
  | m :: _ =>
    let raw := reportOf m.2.2.2
    let fixed := s.fixedReport shelf raw
    let s := s.modNode shelf fun n => { n with unacked := n.unacked.filter fun x => !acknowledged raw.last x }
    let past := s.modNode shelf fun n => { n with report := fixed.1 }
    let give : LoggedStep → LoggedStep := fun e =>
      match s.cells.find? fun c => c.shelf == shelf && c.sid == some e.sid && e.sample == stamp && !e.committed with
      | some c =>
        let row := past.inputRow (c.reads fixed.1 fixed.2)
        { e with row := [0, 2, 3, 7, 8].foldl (fun xs i => xs.set i (row.getD i 0)) e.row }
      | none => e
    { s with inputLog := s.inputLog.map give }

/-- A sealed report: the payload counts, whatever this hub decoded itself; a difference is a mismatch (R352). -/
def State.sealReport (s : State) (stamp : BitVec 48) (shelf pos outcome : Nat) (p : Bytes) : State :=
  let now := s.air.bursts.filterMap fun b => match b.payload, s.slotShelf b.lch b.slot with
    | some q, some h => some (s.stamp.number, h, Slot.pos s.air.nu b.slot, b.outcome, q)
    | _, _ => none
  let own := ((now ++ s.spine.heard).find? fun h => h.1 == stamp && h.2.1 == shelf && h.2.2.1 == pos).map fun h => h.2.2.2.2
  let s := if own.any (· != p) then s.raise 0x62 none none (0x10000 + shelf) (stamp.toNat % 2 ^ 32) 0 0 else s
  if stamp ≠ s.stamp.number then s.lateReport stamp shelf p
  else if (s.node? shelf).any (·.reported) && own == some p then s
  else (s.acceptReport shelf (slotOfPos s.air.nu pos) outcome p).lateReport stamp shelf p

/-- Apply a record of a stamp's seal; none where its step or rebuild has not run here yet: the hub replays it (08 R233). A new state shift acts with the
stream's next step here too (05 R126). -/
def State.applyRecord (s : State) (stamp : BitVec 48) (r : SealRec) : Option State :=
  match r with
  | .step sid l reset rerun sample features =>
    let x := s.stream sid
    if x.place = .free ∨ x.place = .exported then some s
    else match x.unsealed with
      | some u => if s.ranAs sid u (.step sid l reset rerun sample features) then some (s.commitLive sid { u with rerun := rerun }) else none
      | none => none
  | .rebuild sid _ _ =>
    let x := s.stream sid
    if x.place = .free ∨ x.place = .exported then some s
    else match x.rebuilt with
      | some st => some (s.commitState sid st)
      | none => none
  | .shift sid layer j =>
    some (s.modStream sid fun y => { y with shiftTo := setKey layer j y.shiftTo })
  | .create sid portable live seed =>
    some (match live, s.folio? 1 with
      | true, some f => (s.createStream f sid 1 portable live seed).modStream sid fun x => { x with aligned := true }
      | _, _ => s)
  | .imported sid _ live digest =>
    some (match live, s.folio? 1, s.spine.cards.find? fun c => c.1 == sid with
      | true, some f, some (_, body) =>
        if (sha256 (body.take (body.length - 32))).take 16 = digest then
          ({ (s.importStream sid 1 live (Image.ofBytes f.stateLayers body)) with
              spine := { s.spine with cards := s.spine.cards.filter fun c => c.1 != sid } } : State).modStream sid fun x => { x with aligned := true }
        else s.modStream sid fun x => { x with aligned := false }
      | true, _, _ => s.modStream sid fun x => { x with aligned := false }
      | _, _, _ => s)
  | .exported sid => some (((s.dropRebuild sid).modStream sid fun x => { x.release with place := .exported, slot := x.slot }).remapCells)
  | .freed sid => some (((s.dropRebuild sid).modStream sid StreamSt.release).remapCells)
  | .setting _ _ => some s
  | .report shelf slot outcome p => some (s.sealReport stamp shelf slot outcome p)
  | .order shelf mtype seq sync body => some (s.takeOrder stamp shelf mtype seq sync body)
  | .fin _ _ _ _ => some s

/-- Apply the records of one seal in order; a record waits behind an earlier one of its stream that waits. -/
def applyRecs (stamp : BitVec 48) : List SealRec → List Nat → List SealRec → State → List Nat × List SealRec × State
  | [], blocked, left, s => (blocked, left, s)
  | r :: rs, blocked, left, s =>
    let held := (recordSid r).any blocked.contains
    match (if held then none else s.applyRecord stamp r) with
    | some s => applyRecs stamp rs blocked left s
    | none => applyRecs stamp rs (blocked ++ (recordSid r).toList) (left ++ [r]) s

/-- The digest that this hub's own image of a live stream has once a stamp's seal is applied to it (R354). -/
def State.formDigest (s : State) (stamp : BitVec 48) (sid : Nat) : State :=
  if !s.liveSids.contains sid then s else
  { s with spine := { s.spine with digests := s.spine.digests ++ [(sid, stamp, sha256 (s.stream sid).committed.bytes)] } }

/-- Apply the seals held, in stamp and record order; of the streams that an END names, those for which no record waits are digested. -/
def applyHeld : List HeldSeal → List Nat → List HeldSeal → State → List HeldSeal × State
  | [], _, left, s => (left, s)
  | h :: hs, blocked, left, s =>
    let r := applyRecs h.stamp h.recs blocked [] s
    let s := (h.cards.filter fun x => !r.1.contains x).foldl (fun s x => s.formDigest h.stamp x) r.2.2
    let h := { h with recs := r.2.1, cards := h.cards.filter r.1.contains }
    applyHeld hs r.1 (if h.waits then left ++ [h] else left) s

/-- Apply what the seals held name. -/
def State.applyHeldSeals (s : State) : State :=
  let r := applyHeld s.spine.pendingSeals [] [] { s with spine := { s.spine with pendingSeals := [] } }
  let waiting := r.1.filter fun h => !h.recs.isEmpty
  let done := match waiting with
    | h :: hs => some (hs.foldl (fun m x => if x.stamp < m then x.stamp else m) h.stamp - 1)
    | [] => s.spine.sealIn
  { r.2 with spine := { r.2.spine with pendingSeals := r.1, sealedRx := done } }

/-- Steps that the seal of their stamp does not name are abandoned (R352). -/
def State.dropUnnamed (s : State) (stamp : BitVec 48) : State :=
  { s with streams := s.streams.map fun x =>
      if x.unsealed.any fun u => decide (u.sample ≤ stamp) && !s.sealedStep x.sid u.sample then { x with unsealed := none, work := x.committed } else x }

/-! ## Cards (R353, R354, 08 R235) -/

/-- The 16-byte head of a CARD frame: SID, stamp and STEP, and whether it is the body of an import (log 39). -/
def cardHead (sid : Nat) (stamp step : BitVec 48) (imported : Bool) : BitVec 128 :=
  BitVec.ofNat 128 (field sid 0 13 + stamp.toNat * 2 ^ 16 + step.toNat * 2 ^ 64 + imported.toNat * 2 ^ 127)
def cardSid (h : BitVec 128) : Nat := bitsOf h.toNat 12 0
def cardStamp (h : BitVec 128) : BitVec 48 := h.extractLsb' 16 48

/-- The card of a mirror stamp starts the shadow of a watched stream again (08 R233). -/
def State.reshadow (s : State) (slot sid : Nat) (stamp : BitVec 48) (i : Image) : State :=
  let m := (s.patron slot).monitor
  if !(m.valid && m.sid == sid && decide (stamp.toNat % 64 = 0)) then s else
  let nn := (i.dims.getD m.layer (0, 0)).2
  s.modPatron slot fun p => { p with monitor := { m with
    card := some i
    shadow := (((i.state.getD m.layer []).drop (m.chan * nn)).take nn).map (· * 65536) } }

/-- The sample of a stream's last step up to a stamp that the kept seals name, and its voltage, as the input log has it. -/
def State.sealedSample (s : State) (sid : Nat) (stamp : BitVec 48) : Option (BitVec 48 × Nat) :=
  let steps := (s.spine.seals.filter fun h => decide (h.stamp ≤ stamp)).flatMap fun h => h.recs.filterMap fun r => match r with
    | .step i _ _ _ n _ => if i = sid then some n else none
    | _ => none
  steps.getLast?.bind fun n => (s.inputLog.find? fun e => e.sid == sid && e.sample == n).map fun e => (n, (e.row.getD 0 0 + 32768).toNat)

/-- An image is replaced by a card's, with its cell's twin and the sample of its last step; the stream's acts sealed after the card are replayed,
from the input log. A state shift that its host has set and no step has taken yet stays set (05 R126). -/
def State.replaceImage (s : State) (sid : Nat) (stamp : BitVec 48) (i : Image) (twin : Bytes) : State :=
  let last := s.sealedSample sid stamp
  let s := s.putStream { sid := sid, place := .parked, gen := i.gen, slot := i.patron, pages := i.pages, ledger := i, committed := i, work := i, aligned := true
                         shiftTo := (s.stream sid).shiftTo }
  let again := (s.spine.seals.filter fun h => decide (stamp < h.stamp)).map fun h =>
    { h with recs := h.recs.filter fun r => recordSid r == some sid, cards := [] }
  let old := s.spine.pendingSeals.map fun h =>
    { h with recs := h.recs.filter fun r => recordSid r != some sid, cards := h.cards.filter (· != sid) }
  let s : State := { s with spine := { s.spine with pendingSeals := (again ++ old).filter HeldSeal.waits } }
  let mine : LoggedStep → Bool := fun e => e.sid == sid && s.sealedStep sid e.sample
  let s : State := { s with inputLog := s.inputLog.map fun e => if mine e then { e with committed := false } else e }
  let s := (s.remapCells).reshadow i.patron sid stamp i
  (s.modCell sid fun c => { c with
    twin := some (BitVec.ofNat 768 (leNat twin))
    prevVolt := (last.map (·.2)).orElse fun _ => c.prevVolt
    prevStamp := (last.map (·.1)).getD c.prevStamp }).applyHeldSeals

/-- A card of the round: the stream is aligned where the digests agree; else it takes the card's image, with a mismatch where it had
been aligned. -/
def State.compareCard (s : State) (head : BitVec 128) (body twin : Bytes) : State :=
  let sid := cardSid head
  let x := s.stream sid
  let n := cardStamp head
  let mine := (s.spine.digests.find? fun d => d.1 == sid && d.2.1 == n).map fun d => d.2.2
  let theirs := body.drop (body.length - 32)
  let s : State := { s with spine := { s.spine with digests := s.spine.digests.filter fun d => !(d.1 == sid && d.2.1 == n) } }
  if mine = some theirs then s.modStream sid fun x => { x with aligned := true }
  else if x.aligned && mine.isNone then s
  else match s.folio? 1 with
    | none => s
    | some f =>
      if (cardFaultIn false f body).isSome then s else
      let s := if x.aligned then s.raise 0x62 none none sid (n.toNat % 2 ^ 32) 0 0 else s
      s.replaceImage sid n (Image.ofBytes f.stateLayers body) twin

/-- The digest of an aligned stream is still to be formed: a record of the card's seal, or of one before it, waits for it. -/
def State.awaitsDigest (s : State) (head : BitVec 128) : Bool :=
  (s.stream (cardSid head)).aligned && s.spine.pendingSeals.any fun h => h.stamp == cardStamp head && h.cards.contains (cardSid head)

/-- A card comes: an import's body is kept for its record, the card of a stream whose digest is still to be formed until it is. -/
def State.takeCard (s : State) (head : BitVec 128) (body twin : Bytes) : State :=
  if head.getLsbD 127 then { s with spine := { s.spine with cards := setKey (cardSid head) body s.spine.cards } }
  else if s.awaitsDigest head then { s with spine := { s.spine with lateCards := s.spine.lateCards ++ [(head, body, twin)] } }
  else s.compareCard head body twin

/-- CARD. -/
def execCard (t : Tick) (rx : SpineRx) (head : BitVec 128) (body twin : Bytes) : State → Host.Outcome State Fault Refusal :=
  occurs t (fun s => s.linked && s.stamp.started) fun s => s.onSeq rx (.card head body twin) fun s => if s.isStandby then s.takeCard head body twin else s

/-! ## Seals on the standby (R351, R352) -/

/-- Apply what the seals held name, and compare the cards whose digests are formed with it. -/
def State.applySeals (s : State) : State :=
  let s := s.applyHeldSeals
  let ready := s.spine.lateCards.filter fun c => !s.awaitsDigest c.1
  ready.foldl (fun s c => s.compareCard c.1 c.2.1 c.2.2) { s with spine := { s.spine with lateCards := s.spine.lateCards.filter fun c => s.awaitsDigest c.1 } }

/-- The streams that an END names: the live ones between its first and last SID, those that the seal itself makes among them. -/
def State.namedCards (s : State) (recs : List SealRec) (first last : Nat) : List Nat :=
  let made := recs.filterMap fun r => match r with
    | .create x _ true _ | .imported x _ true _ => some x
    | _ => none
  (s.liveSids ++ made).eraseDups.filter fun x => decide (first ≤ x ∧ x ≤ last)

/-- A seal is complete: its acts are applied. A gap before it, or 64 stamps of unapplied seals, ends alignment. -/
def State.completeSeal (s : State) (stamp : BitVec 48) (recs : List SealRec) (fin : SealRec) (first last : Nat) : State :=
  let s : State := { s with spine := { s.spine with partSeal := [] } }
  if s.spine.sealIn.any fun p => decide (stamp ≤ p) then s else
  let s := if s.spine.sealIn.any fun p => stamp != p + 1 then s.loseAlignment else s
  let s : State := { s with spine := { s.spine with
    sealIn := some stamp
    pendingSeals := s.spine.pendingSeals ++ [{ stamp := stamp, recs := recs, cards := s.namedCards recs first last }]
    seals := lastN 8 (s.spine.seals ++ [{ stamp := stamp, recs := recs ++ [fin] }])
    digests := s.spine.digests.filter fun d => decide (stamp < d.2.1 + 64) } }
  let s := s.applySeals.dropUnnamed stamp
  let s : State := { s with spine := { s.spine with heard := s.spine.heard.filter fun h => decide (stamp < h.1) } }
  if 64 ≤ (s.spine.pendingSeals.filter fun h => !h.recs.isEmpty).length then s.loseAlignment else s

/-- The records of a SEAL frame. -/
def State.takeSeal (s : State) (recs : List SealRec) : State :=
  recs.foldl (fun s r => match r with
    | .fin stamp _ first last => s.completeSeal stamp s.spine.partSeal r first last
    | _ => { s with spine := { s.spine with partSeal := s.spine.partSeal ++ [r] } }) s

/-- SEAL. -/
def execSeal (t : Tick) (rx : SpineRx) (recs : List SealRec) : State → Host.Outcome State Fault Refusal :=
  occurs t (fun s => s.linked && s.stamp.started) fun s => s.onSeq rx (.seal recs) fun s => if s.isStandby then s.takeSeal recs else s

/-! ## The primary's cards (R353, R345) -/

/-- Live streams whose cards this stamp takes: enough for its place in the round. -/
def State.roundCards (s : State) : List Nat :=
  let live := s.liveSids
  let place := s.stamp.number.toNat % 64
  let taken := if place = 0 then 0 else s.spine.cardsTaken
  let next := if place = 0 then 0 else s.spine.roundNext
  if s.spine.roundFrom.isNone ∧ place ≠ 0 then []
  else (live.filter fun x => decide (next ≤ x)).take (ceilDiv (live.length * (place + 1)) 64 - taken)

/-- A stream's card. -/
def State.cardOf (s : State) (sid : Nat) : SpineMsg :=
  let x := s.stream sid
  let twin := ((s.cell? sid).bind (·.twin)).getD 0
  .card (cardHead sid s.stamp.number x.committed.step false) x.committed.card (leBytes 96 twin.toNat)
/-- The messages, of some in order, that the buffers still take beside what they hold: none after one that does not fit (R345, log 125). -/
def fitting : Nat → List SpineMsg → List SpineMsg
  | _, [] => []
  | used, m :: ms => if used + m.held ≤ spineBuffer then m :: fitting (used + m.held) ms else []

/-! ## The seal (R351) -/

/-- Send the seal of the stamp, once what a takeover left behind a replayed step has been applied: imported cards, the records and END, then the
cards of the round. No card that the buffers cannot take is sent (R345): a stream whose imported card is not is mirrored by a later round. -/
def State.sendSeal (s : State) : State :=
  let s := if s.spine.pendingSeals.isEmpty then s else s.applySeals
  let n := s.stamp.number
  let acts := s.spine.acts.reverse
  let fin : List Nat → List SealRec := fun sids => [.fin n (acts.map SealRec.records).sum (sids.headD 1) (sids.getLast?.getD 0)]
  let imports := fitting s.outstanding (s.spine.cardsDue.map fun c => .card (cardHead c.1 n 0 true) c.2 [])
  let s := imports.foldl State.sendSeq s
  let used := s.outstanding + ((sealFrames [] (acts ++ fin [])).map fun f => SpineMsg.held (.seal f)).sum
  let cards := fitting used (s.roundCards.map s.cardOf)
  let sids := s.roundCards.take cards.length
  let recs := acts ++ fin sids
  let s := (sealFrames [] recs).foldl (fun s f => s.sendSeq (.seal f)) s
  let s := cards.foldl State.sendSeq s
  let mirror : Bool := n.toNat % 64 == 0
  { s with spine := { s.spine with
      acts := []
      cardsDue := []
      seals := lastN 8 (s.spine.seals ++ [{ stamp := n, recs := recs }])
      sealedTx := if s.spine.state = .up then some n else s.spine.sealedTx
      roundFrom := if mirror then some n else s.spine.roundFrom
      cardsTaken := (if mirror then 0 else s.spine.cardsTaken) + sids.length
      roundNext := (sids.getLast?.map (· + 1)).getD (if mirror then 0 else s.spine.roundNext) } }

/-- SEAL_SEND: once every act of the stamp has committed, or 500 µs before the boundary. -/
def execSealSend (t : Tick) : State → Host.Outcome State Fault Refusal :=
  occurs t (fun s => s.up && s.leads && s.spine.partner && !(s.spine.seals.any fun h => h.stamp == s.stamp.number)
      && (decide (s.nextBoundary ≤ s.now + us 500) || (!s.stepsOpen && (s.air.acc || s.air.lossDone || s.air.nu == 0)))) State.sendSeal

/-! ## The loss of the primary (R356, R357) -/

/-- Reports that a standby decoded itself, of the current stamp, and has not accepted yet. -/
def State.acceptOwn (s : State) : State :=
  s.air.bursts.foldl (fun s b => match b.payload, s.slotShelf b.lch b.slot with
    | some p, some shelf => if (s.node? shelf).any (!·.reported) then s.acceptReport shelf b.slot b.outcome p else s
    | _, _ => s) s

/-- The acts of an earlier unsealed stamp, as this hub decides them: a step of each live cell whose report it decoded, with a valid reading, and whose
node the rota steps (R357). -/
def State.ownActs (s : State) (stamp : BitVec 48) : List SealRec :=
  let past : State := { s with stamp := { s.stamp with number := stamp } }
  let heard := s.spine.heard.filter fun h => h.1 == stamp
  s.cells.filterMap fun c => match c.sid, s.node? c.shelf with
    | some sid, some n =>
      let valid := heard.any fun h => h.2.1 == c.shelf && ((messagesOf 30 h.2.2.2.2).head?).any fun m =>
        !(reportOf m.2.2.2).invalid.getLsbD (c.cell - 1)
      match s.inputLog.find? fun e => e.sid == sid && e.sample == stamp && !e.committed with
      | some e => if valid && past.rotaTurn n then some (.step sid 1 e.reset true stamp e.features) else none
      | none => none
    | _, _ => none

/-- The unsealed stamps before this one whose acts it still has to decide. -/
def State.unsealedStamps (s : State) : List (BitVec 48) :=
  ((s.spine.heard.map (·.1)).eraseDups).filter fun n => decide (n < s.stamp.number) && s.spine.sealIn.all fun p => decide (p < n)

/-- This hub's own acts of the unsealed stamps join the sealed ones that wait, in stamp order; a step of this stamp that ran ahead of one of them
runs again behind it (R357). -/
def State.decideUnsealed (s : State) : State :=
  let ns := s.unsealedStamps
  let s := (s.spine.heard.filter fun h => ns.contains h.1).foldl (fun s h => s.lateReport h.1 h.2.1 h.2.2.2.2) s
  let own := (ns.map fun n => { stamp := n, recs := s.ownActs n : HeldSeal }).filter HeldSeal.waits
  let behind : StreamSt → Option Unsealed := fun x => x.unsealed.filter fun u =>
    u.sample == s.stamp.number && own.any fun h => h.recs.any fun r => recordSid r == some x.sid
  let now := s.streams.filterMap fun x => (behind x).map fun u => SealRec.step x.sid 1 u.reset false u.sample u.features
  { s with
    streams := s.streams.map fun x => if (behind x).isSome then { x with unsealed := none, work := x.committed } else x
    spine := { s.spine with
      heard := []
      pendingSeals := s.spine.pendingSeals ++ own ++ (if now.isEmpty then [] else [{ stamp := s.stamp.number, recs := now }]) } }

/-- The primary is declared lost: the takeover boundary is set, and the unsealed stamps' acts are this hub's own. -/
def State.declareLost (s : State) : State :=
  let b := s.takeoverFor
  let s : State := { s with
    roleSt := { s.roleSt with lostAt := some s.now, takeoverAt := some b.1, early := b.2 }
    spine := { s.spine with partSeal := [] } }
  let s := s.acceptOwn.decideUnsealed.applySeals
  s.streams.foldl (fun s x => match x.unsealed, x.rebuilt with
    | some u, _ => if s.spine.pendingSeals.any (fun h => h.recs.any fun r => recordSid r == some x.sid) then s else s.commitLive x.sid u
    | none, some st => s.commitState x.sid st
    | none, none => s) s

/-- A standby that follows a primary and has not lost it yet; none takes over after a brown-out of its own (15 R436). -/
def State.following (s : State) : Bool :=
  s.isStandby && s.roleSt.adopted && !s.roleSt.unaligned && s.roleSt.lostAt.isNone && s.power.brownAt.isNone

/-- PRIMARY_LOST: no good frame for 1 ms. -/
def execPrimaryLost (t : Tick) : State → Host.Outcome State Fault Refusal :=
  occurs t (fun s => s.ticking && s.following && decide (s.spine.lastRx + msTicks ≤ s.now)) State.declareLost

/-! ## Heartbeats and roles -/

/-- A heartbeat's effect. Once the primary is lost, the takeover boundary stands and nothing moves the boundaries before it (01 R22). -/
def State.takeBeat (s : State) (n : BitVec 48) (p : BitVec 128) : State :=
  let s := s.noteBeat p
  let role := p.toNat % 4
  let s := if role ≤ 1 then s.meetPrimary else s
  if s.isStandby then
    if role = 2 then s else
    let s := if s.roleSt.lostAt.isSome then s else s.follow (p.extractLsb' 32 32) n (bitsOf p.toNat 24 4)
    let s : State := { s with
      roleSt := { s.roleSt with lastFramed := n - 1 }
      spine := { s.spine with frames := s.spine.frames.filter fun f => decide (n - 1 < f.1.stamp) } }
    if s.following ∧ (p.getLsbD 2 ∨ role = 3) then s.declareLost else s
  else if s.leads ∧ role = 2 ∧ s.spine.reseal then
    let s : State := { s with spine := { s.spine with reseal := false } }
    s.forwardSettings.forwardLoans.resendSeals (p.extractLsb' 64 48)
  else s

/-- HEARTBEAT. -/
def execHeartbeat (t : Tick) (rx : SpineRx) (payload : BitVec 128) : State → Host.Outcome State Fault Refusal :=
  occurs t (fun s => s.linked && s.stamp.started) fun s => s.onFrame rx 2 fun s => s.takeBeat (rxStamp rx) payload

/-- ROLE: a claim or takeover notice of a primary, or its yield. -/
def execRole (t : Tick) (rx : SpineRx) (n : RoleNote) : State → Host.Outcome State Fault Refusal :=
  occurs t (fun s => s.linked && s.stamp.started) fun s => s.onSeq rx (.role n) fun s =>
    match n with
    | .yield =>
      let s : State := { s with spine := { s.spine with partnerRole := some .yielding } }
      if s.following then s.declareLost else s
    | _ => ({ s with spine := { s.spine with partnerRole := some .primary } } : State).meetPrimary

/-! ## Settings, loans and promotions of the primary (02 R28, 07 R201, 09 R259, 16 R451) -/

/-- The stacks of a mask. -/
def maskStacks (m : Nat) : List Nat := (List.range 4).filter m.testBit
/-- Class 3 loans of this hub's own host are drained first, by the same change. -/
def State.clearHostLoans (s : State) (ks : List Nat) (live : BitVec 48) : State :=
  { s with changes := (s.changes.filter fun c => !(c.lend && !c.begun && ks.contains c.stack && classOf c.slot == 3)) ++ ks.flatMap fun k => ((s.stk k).shares.filter fun sh => classOf sh.slot == 3 && sh.st != .draining).map fun sh =>
      { begins := live, slot := sh.slot, stack := k, lend := false } }
/-- The stacks that a slot has here once its accepted changes have begun: held and not to be given up, or promised. -/
def State.slotStacks (s : State) (slot : Nat) : List Nat :=
  let going : Nat → Bool := fun k => s.changes.any fun c => c.slot == slot && ((!c.lend && c.stack == k) || c.moveFrom == some k)
  (List.range 4).filter fun k => ((s.stk k).shares.any fun sh => sh.slot == slot && sh.st != .draining) && !going k
    || s.changes.any fun c => c.lend && !c.begun && c.slot == slot && c.stack == k
/-- The two hubs hold a slot on different stack numbers, as after a rescue on one of them (16 R451). -/
def State.apart (s : State) (slot : Nat) : Bool := s.slotStacks slot != maskStacks (s.patron slot).mirror
/-- What a forwarded loan asks of a stack here: it is neither absent, weeded nor faulty and has the annex that the folio needs (03 R72); no slot of 0 to 3
stays on one that it takes whole; of a share there is room. A class 3 loan of the own host gives way (07 R201). -/
def State.canTake (s : State) (slot regions blocks claim k : Nat) : Bool :=
  let x := s.stk k
  let f := s.folio? slot
  let leaves : Share → Bool := fun sh => sh.st == .draining || classOf sh.slot == 3
    || s.changes.any fun c => c.slot == sh.slot && ((!c.lend && c.stack == k) || c.moveFrom == some k)
  x.usable && (x.annexOk || !f.any folioWide)
    && if regions = 48 ∧ blocks = 48 then x.shares.all leaves && !(s.changes.any fun c => c.lend && !c.begun && c.stack == k && classOf c.slot != 3)
       else s.shareFits slot k regions blocks claim || x.shares.all leaves
/-- Up to n stacks for a forwarded loan under R196, those first that no class 3 loan has to leave (16 R451, log 85). -/
def State.placeHere (s : State) (slot regions blocks claim : Nat) (live : BitVec 48) (n : Nat) (held : List Nat) : List Nat :=
  let fits := (List.range 4).filter fun k => !held.contains k && s.canTake slot regions blocks claim k
  let free := fits.filter fun k => if regions = 48 ∧ blocks = 48 then (s.folio? slot).all fun f => s.freeAt f live k else s.shareFits slot k regions blocks claim
  let wings := [[0, 1], [2, 3]].filter fun (w : List Nat) => w.all fits.contains
  (if (s.folio? slot).any folioPaired then wings.flatten else free ++ fits.filter fun k => !free.contains k).take n
/-- The stacks that a forwarded loan takes: the same numbers (07 R201) where this hub can take them, and others in place of the rest; of a slot that is
apart, stacks of this hub's choice (16 R451). -/
def State.stacksHere (s : State) (slot regions blocks claim : Nat) (live : BitVec 48) (n : Nat) (ks : List Nat) (same : Bool) : List Nat :=
  let own := s.slotStacks slot
  let first := if same then (ks.filter fun k => !own.contains k && s.canTake slot regions blocks claim k).take n else []
  first ++ s.placeHere slot regions blocks claim live (n - first.length) (own ++ first)
/-- Ledger pages that a slot has or is to have. -/
def State.pagesHere (s : State) (slot : Nat) : Nat :=
  (s.patron slot).pages + ((s.changes.filter fun c => c.slot == slot).map (·.pages)).sum + ((s.pageChanges.filter fun c => c.2.1 == slot).map (·.2.2)).sum
/-- Its primary's stacks of a slot, as its forwarded changes give them. -/
def State.noteMirror (s : State) (slot : Nat) (ks : List Nat) : State := s.modPatron slot fun p => { p with mirror := maskOf ks }

/-- A forwarded loan change begins at its stamp here as well. What a primary says that it holds is taken as far as this hub does not hold it yet. -/
def State.takeLoan (s : State) (a : LoanAct) (live : BitVec 48) : State :=
  match a with
  | .lend slot mask pages regions blocks claim total =>
    let told := maskStacks ((s.patron slot).mirror ||| mask)
    let n := if total then min (maskStacks mask).length (told.length - (s.slotStacks slot).length) else (maskStacks mask).length
    let ks := s.stacksHere slot regions blocks claim live n (maskStacks mask) (total || !s.apart slot)
    let more := if total then pages - s.pagesHere slot else pages
    let s := (s.noteMirror slot told).clearHostLoans ks live
    if ks.isEmpty then { s with pageChanges := s.pageChanges ++ [(live, slot, more)] }
    else s.acceptLoan slot ks regions blocks claim more live none
  | .release slot mask =>
    let own := s.slotStacks slot
    let left := (maskStacks (s.patron slot).mirror).filter fun k => !mask.testBit k
    let ks := if left.isEmpty then own
      else if s.apart slot then ((own.filter fun k => !left.contains k) ++ own.filter left.contains).take (maskStacks mask).length
      else own.filter mask.testBit
    { (s.noteMirror slot left) with changes := s.changes ++ ks.map fun k => { begins := live, slot := slot, stack := k, lend := false } }
  | .move slot src dst =>
    let own := s.slotStacks slot
    let left := (maskStacks (s.patron slot).mirror).filter (· ≠ src)
    let same := !s.apart slot
    let ks := s.stacksHere slot 48 48 0 live 1 [dst] same
    let out := if same && own.contains src then some src else (own.find? fun k => !left.contains k).orElse fun _ => own.head?
    let s := (s.noteMirror slot (maskStacks (maskOf left ||| 2 ^ dst))).clearHostLoans ks live
    if ks.isEmpty then s else s.acceptLoan slot ks 48 48 0 0 live (out.filter fun k => (s.stk k).lentTo slot)

/-- A forwarded promotion begins at its stamp here as well, on the stack that its primary names, or, where this hub cannot use that one, on one of its
own choice (07 R201, 09 R259, log 85). -/
def State.takePromotion (s : State) (pub slot : Nat) (place : Option (Nat × Bool)) (live : BitVec 48) : State :=
  match s.promoteFault pub slot, s.nextFolio with
  | none, some f | some 18, some f =>
    match place.filter fun p => !s.apart slot && (s.stk p.1).usable && ((s.stk p.1).annexOk || !folioWide f) with
    | some p => (s.clearHostLoans (if p.2 then [p.1] else []) live).promoteAt slot live (some p)
    | none => s.promoteAt slot live (s.promoteTo slot f live)
  | _, _ => s

/-- The primary's roster: a standby that has ended the accession holds its own against it, and takes the primary's where they differ (11 R317,
log 126). -/
def State.takeRoster (s : State) (ids : List (Nat × BitVec 64)) : State :=
  { s with
    spine := { s.spine with roster := some ids }
    archive := { s.archive with roster := if s.acc.phase = .running ∧ !s.acc.endDue then s.archive.roster else ids } }

/-- A CONFIG item: on the standby it becomes live at the stamp that it names; on a primary a promotion is its standby's report. -/
def State.takeConfig (s : State) (item : ConfigItem) (live : BitVec 48) : State :=
  match item with
  | .promotion pub slot place =>
    if s.isStandby then s.takePromotion pub slot place live
    else
      let s : State := { s with spine := { s.spine with partnerPub := pub } }
      match s.promotion with
      | some p => if p.pub = pub then s.acceptPromotion p.pub p.slot p.ses p.lineNo else s
      | none => s
  | .setting n v => if s.isStandby then { s with
      settings := { s.settings with commits := s.settings.commits ++ [(live, [(n, v)])] }
      roleSt := { s.roleSt with informed := s.roleSt.informed || n == .stampPeriod } } else s
  | .script x c b => if s.isStandby then { s with settings := { s.settings with scriptCommits := s.settings.scriptCommits ++ [(live, [(x, c, b)])] } } else s
  | .twinset k b => if s.isStandby then { s with settings := { s.settings with setCommits := s.settings.setCommits ++ [(live, [(k, b)])] } } else s
  | .loan a => if s.isStandby then s.takeLoan a live else s
  | .roster ids => if s.isStandby then s.takeRoster ids else s

/-- CONFIG. -/
def execConfig (t : Tick) (rx : SpineRx) (item : ConfigItem) (live : BitVec 48) : State → Host.Outcome State Fault Refusal :=
  occurs t (fun s => s.linked && s.stamp.started) fun s => s.onSeq rx (.config item live) fun s => s.takeConfig item live

/-! ## The primary's samples (R350, 01 R20) -/

/-- One millisecond of the primary's codes. The mark lies in millisecond 0, at code 6 (log 32). -/
def State.takeSense (s : State) (stamp : BitVec 48) (ms : Nat) (ca cb : List Int) (mains : List (List Int)) : State :=
  let all := ca.zip cb
  let add : Sense → List (Int × Int) → Sense := fun q xs => xs.foldl (fun q x => { q with sumA := q.sumA + x.1, sumB := q.sumB + x.2, count := q.count + 1 }) q
  let q := s.sense
  let q := if ms = 0 then add ((add q (all.take 7)).mark stamp ((all.getD 6 (0, 0)).1) ((all.getD 6 (0, 0)).2)) (all.drop 7) else add q all
  let rows := mains.map s.mainsA16
  let s : State := { s with
    sense := { q with lastMs := some (ca, cb) }
    mains := if stamp = s.stamp.number then { s.mains with samples := s.mains.samples ++ rows } else
      let last := s.mains.last ++ rows
      { s.mains with
        last := last
        twin := if s.power.quiet then s.mains.twin else s.mainsTwinClass last
        twinRow := if s.power.quiet then s.mains.twinRow else s.mainsTwinRow last } }
  s.testCurrents (divr ca.sum (max 1 ca.length)) (divr cb.sum (max 1 cb.length))

/-- SENSE. -/
def execSense (t : Tick) (rx : SpineRx) (stamp : BitVec 48) (ms : Nat) (ca cb : List (BitVec 24)) (mains : List (List (BitVec 24))) :
    State → Host.Outcome State Fault Refusal :=
  occurs t (fun s => s.linked && s.stamp.started) fun s => s.onSeq rx (.sense stamp ms (ca.map frontCode) (cb.map frontCode) (mains.map fun r => r.map frontCode)) fun s =>
    if s.isStandby then s.takeSense stamp ms (ca.map frontCode) (cb.map frontCode) (mains.map fun r => r.map frontCode) else s

/-! ## The partner on the air (R359, 15 R439, 10 R300, 11 R317) -/

/-- PARTNER_BEACON: a primary hears the other side's beacon with its own run. -/
def execPartnerBeacon (t : Tick) (run : BitVec 32) (side : Bool) : State → Host.Outcome State Fault Refusal :=
  occurs t (fun s => s.airUp && s.leads && run == s.stamp.run && side != s.spine.sideB) fun s => s.conflict.raise 0x64 none none 0 0 0 0

/-- A beacon of the partner: it makes a listening hub an unaligned standby, and counts for one. -/
def State.hearBeacon (s : State) : State :=
  let s := if s.roleSt.decided then s
    else (({ (s.becomeStandby true) with roleSt := { (s.becomeStandby true).roleSt with unaligned := true } } : State).raise 0x64 none none 0 0 0 0)
  { s with roleSt := { s.roleSt with heardAt := some s.now } }

/-- A call of the primary: the standby accepts exactly the reports whose bit is set, and knows the nodes that are to retry. -/
def State.hearCall (s : State) (lch : Nat) (acks : BitVec 64) : State :=
  let s := if s.acc.phase = .running then s.endAccession else s
  let s := ((List.range 64).filter fun i => acks.getLsbD i).foldl (fun s i =>
    match (s.air.bursts.find? fun b => b.lch == lch && b.slot == .uplink i).bind fun b => b.payload.map fun p => (b.outcome, p), s.slotShelf lch (.uplink i) with
    | some (o, p), some shelf => if (s.node? shelf).any (!·.reported) then s.acceptReport shelf (.uplink i) o p else s
    | _, _ => s) s
  let missed := ((List.range s.air.nu).filterMap fun i => if acks.getLsbD i then none else s.slotShelf lch (.uplink i)).take s.air.nrt
  { (missed.foldl State.countRetry s) with air := { s.air with named := setKey lch missed s.air.named } }

/-- An offer of the primary: the standby confirms the node that it names and awaits the next reply. With the first, the broadcast sequence starts again
(11 R326). -/
def State.hearOffer (s : State) (offer confirm : Nat) (cid : BitVec 64) : State :=
  let s : State := if s.acc.phase = .running then s else
    { s.dropNodes with
      acc := { phase := .running, first := s.stamp.number }
      air := { s.air with acc := true, bseq := 0, bmsg := none, bleft := 0 }
      spine := { s.spine with roster := none } }
  let a := s.acc
  let info : BitVec 256 := match a.reply with
    | some v => if v.setWidth 64 = cid then v else cid.setWidth 256
    | none => cid.setWidth 256
  let s := if confirm = 0 ∨ a.confirmed.any (fun c => c.1 == confirm) then s
    else { (s.addNode confirm info) with acc := { a with confirmed := a.confirmed ++ [(confirm, info)] } }
  { s with acc := { s.acc with
      slotG := a.slotG + 1, slotJ := a.slotJ + 1, sampled := false, reply := none, confirm := confirm, cid := cid, offer := offer, attempt := 0 } }

/-- PARTNER_BURST_RECEIVE: a hub that does not transmit decodes a burst of the other hub. -/
def execPartnerBurstReceive (t : Tick) (b : PartnerBurst) : State → Host.Outcome State Fault Refusal :=
  occurs t (fun s => s.awake && s.stamp.started && s.spine.partner && !s.sends && s.power.brownAt.isNone) fun s =>
    match b with
    | .beacon _ side => if side = s.spine.sideB ∨ (s.leads ∧ s.roleSt.decided) then s
      else if s.roleSt.decided ∨ s.roleSt.listenTo.isSome then s.hearBeacon else s
    | .call lch acks => if s.isStandby ∧ !s.roleSt.unaligned then s.hearCall lch acks else s
    | .accoffer o c cid => if s.isStandby ∧ !s.roleSt.unaligned then s.hearOffer o c cid else s

end Sys2Proof.Machine
end

