-- ==== Sys2Proof/Machine/Usith.lean ====
section
/-! DEFINITION. What every Usith line goes through (13 R384 to R391, 14 R395 to R398): its reply in line order, the checks of its arguments,
the life-cycle groups, and the reserve of the primary. -/

namespace Sys2Proof.Machine

/-! ## Arguments -/

/-- How an argument's value is written. -/
inductive AForm where
  | one (f : SForm) | orAll (f : SForm) | orNone (f : SForm)
  | many (lo hi : Int) | manyOrAll (lo hi : Int)
  | plan | setting | signal

/-- An argument of a command: required where it has no default (R395). -/
structure ArgSpec where
  arg : Arg
  form : AForm
  need : Bool := true
  expert : Bool := false

/-- A list of values or ranges within bounds. -/
def listOk (lo hi : Int) : Val → Bool
  | .list xs => !xs.isEmpty && xs.all fun x => decide (lo ≤ x.1 ∧ x.1 ≤ x.2 ∧ x.2 ≤ hi)
  | .int v => decide (lo ≤ v ∧ v ≤ hi)
  | _ => false

/-- A value suits its argument. -/
def AForm.ok : AForm → Val → Bool
  | .one f, v => (f.read v).isSome
  | .orAll f, v => v == .kw .all || (f.read v).isSome
  | .orNone f, v => v == .kw .none || (f.read v).isSome
  | .many lo hi, v => listOk lo hi v
  | .manyOrAll lo hi, v => v == .kw .all || listOk lo hi v
  | .plan, .segs xs => decide (1 ≤ xs.length ∧ xs.length ≤ 64) && xs.all fun q => decide (1 ≤ q.steps ∧ q.steps ≤ 2 ^ 24)
  | .plan, _ => false
  | .setting, .name _ _ => true
  | .setting, _ => false
  | .signal, .sel n => decide (n < 47)
  | .signal, _ => false

def lineVal (u : Line) (a : Arg) : Option Val := (u.args.find? fun p => p.1 == a).map (·.2)
def lineHas (u : Line) (a : Arg) : Bool := (lineVal u a).isSome
def lineInt (u : Line) (a : Arg) (d : Int) : Int :=
  match lineVal u a with
  | some (.int v) => v
  | _ => d
def lineNat (u : Line) (a : Arg) (d : Nat) : Nat := (lineInt u a d).toNat
/-- A quantity in steps of a resolution. -/
def lineQty (u : Line) (a : Arg) (dim res : Nat) (d : Int) : Int := (((lineVal u a).bind (qtyValue dim res)).getD d)
def lineKw (u : Line) (a : Arg) (k : Kw) : Bool := lineVal u a == some (.kw k)
/-- ON, OFF and absent. -/
def lineOn (u : Line) (a : Arg) (d : Bool) : Bool := if lineKw u a .on then true else if lineKw u a .off then false else d
/-- The integers that a list names, ascending. -/
def lineList (u : Line) (a : Arg) : List Nat :=
  match lineVal u a with
  | some (.list xs) => (xs.flatMap fun x => (List.range (x.2 - x.1 + 1).toNat).map fun i => x.1.toNat + i).foldl (fun ys x => putBy id x ys) []
  | some (.int v) => [v.toNat]
  | _ => []

def onOff : SForm := .words [.off, .on]
def u32 : SForm := .count 0 (2 ^ 32 - 1)
def u64 : SForm := .count 0 (2 ^ 64 - 1)
def nodeArg : ArgSpec := { arg := .node, form := .one (.count 1 256) }
def sidArg : ArgSpec := { arg := .sid, form := .one (.count 0 8191) }
def slotArg : ArgSpec := { arg := .slot, form := .one (.count 0 15) }
def jobSlotArg : ArgSpec := { arg := .slot, form := .one (.count 4 15) }
def tagArg : ArgSpec := { arg := .tag, form := .one u32 }
def portArg : ArgSpec := { arg := .port, form := .one (.words [.a, .b, .c, .d]) }
/-- The port that an argument names, A 0 to D 3. -/
def linePort (u : Line) : Nat := if lineKw u .port .a then 0 else if lineKw u .port .b then 1 else if lineKw u .port .c then 2 else 3

/-- The first flaw of a line's arguments: ARG, MISSING, EXPERT, RANGE. -/
def argFault (specs : List ArgSpec) (u : Line) (expert : Bool) : Option Nat :=
  let names := u.args.map (·.1)
  if !(names.all fun a => specs.any fun q => q.arg == a) || decide ¬ names.Nodup then some 7
  else if specs.any fun q => q.need && !lineHas u q.arg then some 8
  else if !expert && specs.any fun q => q.expert && lineHas u q.arg then some 10
  else if !(specs.all fun q => match lineVal u q.arg with
    | some v => q.form.ok v
    | none => true) then some 9
  else none

/-! ## Lines and replies -/

/-- The hub listens on a session: HRDY has risen (R362), and for the port session it is high. -/
def State.listens (s : State) (u : Sess) : Bool := s.awake && !s.port.boot && (u == .line || s.port.hrdy)

/-- A line is received: its reply has its place in the session's order (R386). -/
def State.openLine (s : State) (u : Sess) (tag : Option Nat) : State :=
  s.modSes u fun q => { q with lines := q.lines + 1, waiting := q.waiting ++ [{ lineNo := q.lines, tag := tag, ready := none }] }

/-- The command groups of 14 Table 14.1. -/
inductive CmdGroup where
  | read | work | sign | inventory | life
  deriving DecidableEq, Repr

/-- Whether a life-cycle state, 0 BLANK to 4 RETURNED, admits a group. -/
def CmdGroup.admits : CmdGroup → Nat → Bool
  | .read, _ => true
  | .work, l => l != 0
  | .sign, l => l != 0 && l != 4
  | .inventory, l => l != 0
  | .life, l => l != 4

/-- The first error of a line: the grammar of its session, its arguments, its life-cycle group, its role. -/
def State.lineFault (s : State) (u : Line) (specs : List ArgSpec) (g : CmdGroup) (reserved : Bool) : Option Nat :=
  if ((s.ses u.ses).generated && u.tag.isNone) || u.tag.any fun n => decide (65535 < n) then some 1
  else match argFault specs u (s.ses u.ses).expert with
    | some e => some e
    | none => if !g.admits (lifeIndex s.life) then some 11 else if reserved && s.isStandby then some 12 else none

/-- A Usith command: `reserved` says that it writes what R398 leaves to the primary. While pair A restarts the line waits (16 R452). -/
def usith (t : Tick) (u : Line) (specs : List ArgSpec) (g : CmdGroup) (reserved : State → Bool) (act : State → Nat → State) :
    State → Host.Outcome State Fault Refusal :=
  occurs t (fun s => s.listens u.ses) fun s =>
    let n := (s.ses u.ses).lines
    let s := s.openLine u.ses (u.tag.filter fun k => decide (k ≤ 65535))
    if s.steward.aDown.isSome then s else
    match s.lineFault u specs g (reserved s) with
    | some e => s.answer u.ses n [.err e []]
    | none => act s n

/-- A command that only reads: its reply is made from the state. -/
def usithRead (t : Tick) (u : Line) (specs : List ArgSpec) (reply : State → List HubLine) : State → Host.Outcome State Fault Refusal :=
  usith t u specs .read (fun _ => false) fun s n => s.answer u.ses n (reply s)

/-- A write command that always changes what R398 leaves to the primary. -/
def always : State → Bool := fun _ => true
def never : State → Bool := fun _ => false
/-- It does where its slot is one of 0 to 3. -/
def slotReserved (u : Line) : State → Bool := fun _ => decide (lineNat u .slot 0 < 4)
/-- It does where its stream is in one of those slots. -/
def sidReserved (u : Line) : State → Bool := fun s => let x := s.stream (lineNat u .sid 0); x.place != .free && decide (x.slot < 4)

/-! ## Broken lines (R384, R385, R388) -/

/-- Tokens separated by spaces. -/
def tokens : List Byte → List Bytes
  | [] => []
  | b :: bs =>
    match tokens bs with
    | [] => if b = 0x20#8 then [] else [[b]]
    | t :: ts => if b = 0x20#8 then [] :: t :: ts else (b :: t) :: ts
/-- The tokens of a line, the empty ones between spaces left out. -/
def lineTokens (b : Bytes) : List Bytes := (tokens b).filter fun x => !x.isEmpty

def isDigit (b : Byte) : Bool := decide (0x30 ≤ b.toNat ∧ b.toNat ≤ 0x39)
def isHexUpper (b : Byte) : Bool := isDigit b || decide (0x41 ≤ b.toNat ∧ b.toNat ≤ 0x46)
def upperByte (b : Byte) : Byte := if 0x61 ≤ b.toNat ∧ b.toNat ≤ 0x7A then b - 0x20 else b
/-- The number of a well-formed tag. -/
def tagOf : Bytes → Option Nat
  | 0x40#8 :: ds =>
    let n := ds.foldl (fun n d => 10 * n + (d.toNat - 0x30)) 0
    if 1 ≤ ds.length ∧ ds.length ≤ 5 ∧ ds.all isDigit ∧ n ≤ 65535 then some n else none
  | _ => none

/-- The verbs, with their objects (14, Tables 14.3 to 14.11). -/
def verbs : List String :=
  ["SESSION", "IDENT", "STAMP", "SET", "SHOW", "DISCARD", "APPLY", "SAVE", "ACCESSION", "NODE SHOW", "BALANCE", "OWTEST", "BREAK CLEAR",
   "NODE QUERY", "NODE SLEEP", "PROTECT ACK", "TWINSET LOAD"]
  ++ ["STREAM CREATE", "STREAM FREE", "STREAM EXPORT", "STREAM COPY", "STREAM IMPORT", "STREAM SHOW", "STREAM LIST", "FOLIO WRITE",
   "FOLIO INSTALL", "FOLIO LIST", "FOLIO DELETE", "BIND", "UNBIND", "LOAN", "RELEASE", "MOVE", "PROMOTE", "DRAFT DISCARD", "DRAFT SHOW"]
  ++ ["ROLLOUT", "REGENERATE", "JOB", "CANCEL", "REQUEST SHOW", "REPORT SERVICE", "REPORT LINK", "EVENT LIST", "PORT SHOW", "PORT RESTORE",
   "SCRIPT LOAD", "PAIR", "SPINE SHOW", "SPINE KEY", "ROLE YIELD", "POWER SHOW", "INVENTORY", "INVENTORY SHOW", "LECTERN", "LIFE"]
def verbTexts : List Bytes := verbs.map asciiOf

/-- An argument token: a name, "=", and a value. -/
def isArg (b : Bytes) : Bool := b.contains 0x3D#8 && b.head? != some 0x3D#8

/-- The error of a line's verb and arguments: none where they are well formed. SHOW takes its setting name bare as well. -/
def grammarFault : List Bytes → Option Nat
  | [] => some 1
  | v :: rest =>
    let up := v.map upperByte
    if v.contains 0x3D#8 then some 1 else
    let obj : Option Bytes := match rest with
      | o :: _ => if o.contains 0x3D#8 then none else some (o.map upperByte)
      | [] => none
    match obj with
    | some o =>
      if verbTexts.contains (up ++ 0x20#8 :: o) || up == asciiOf "SHOW" then (if (rest.drop 1).all isArg then none else some 1)
      else if verbTexts.contains up then some 1 else some 6
    | none => if verbTexts.contains up then (if rest.all isArg then none else some 1) else some 6

/-- The checksum token at a line's end: what it is computed over, and its digits. -/
def splitSum (b : Bytes) : Option (Bytes × Bytes) :=
  match (tokens b).getLast? with
  | some (0x2A#8 :: ds) => some (b.take (b.length - ds.length - 2), ds)
  | _ => none
/-- The four digits of a checksum. -/
def sumDigits (b : Bytes) : Bytes := ((Nat.toDigits 16 (fletcher16 b + 65536)).drop 1).map fun c => BitVec.ofNat 8 c.toUpper.toNat

/-- The error of a whole line, and its tag; none where it is well formed or empty. -/
def lineError (generated overrun : Bool) (b : Bytes) : Option (Nat × Option Nat) :=
  let b := if b.getLast? = some 0x0D#8 then b.dropLast else b
  let toks := lineTokens b
  let tag := if b.head? = some 0x40#8 then toks.head?.bind tagOf else none
  let body := (splitSum b).map (·.1) |>.getD b
  let words := if tag.isSome then (lineTokens body).drop 1 else lineTokens body
  if overrun then some (5, tag)
  else if b.isEmpty then none
  else if b.any fun x => decide (x.toNat < 0x20 ∨ 0x7E < x.toNat) then some (2, tag)
  else if 1024 < b.length then some (3, tag)
  else if (generated && tag.isNone) || (b.head? = some 0x40#8 && tag.isNone) then some (1, none)
  else match splitSum b with
    | some (above, ds) => if ds.all isHexUpper && ds == sumDigits above then (grammarFault words).map fun e => (e, tag) else some (4, tag)
    | none => if generated then some (4, tag) else (grammarFault words).map fun e => (e, tag)

/-- LINE_ERROR: the line gets its one ERR reply and nothing else. -/
def execLineError (t : Tick) (ses : Sess) (bytes : Bytes) (overrun : Bool) : State → Host.Outcome State Fault Refusal :=
  occurs t (fun s => s.listens ses) fun s =>
    match lineError (s.ses ses).generated overrun bytes with
    | none => s
    | some (e, tag) =>
      let n := (s.ses ses).lines
      let s := s.openLine ses tag
      if s.steward.aDown.isSome then s else s.answer ses n [.err e []]

end Sys2Proof.Machine
end

