-- ==== Sys2Proof/Machine/Setup.lean ====
section
/-! DEFINITION. Sessions and settings (13 R387, R392 to R394, 14 Table 14.3, R399 to R402, R492, R495). -/

namespace Sys2Proof.Machine

/-! ## Sessions and identity -/

def sessionArgs : List ArgSpec :=
  [{ arg := .mode, form := .one (.words [.interactive, .generated]), need := false },
  { arg := .expert, form := .one onOff, need := false }, { arg := .notice, form := .one onOff, need := false },
  { arg := .baud, form := .one (.count 115200 3000000), need := false }]

/-- SESSION (13 R387): the properties in force after the reply; a return to 115,200 baud returns the line session's to their defaults. -/
def execSession (t : Tick) (u : Line) : State → Host.Outcome State Fault Refusal :=
  usith t u sessionArgs .read never fun s n =>
    if u.ses == .port && lineHas u .baud then s.answer u.ses n [.err 11 []] else
    let q := s.ses u.ses
    let q := match q.waiting.reverse.findSome? (·.props) with
      | some (g, e, n, b) => { q with generated := g, expert := e, notice := n, baud := b }
      | none => q
    let baud := lineNat u .baud q.baud
    let back := u.ses == .line && baud == 115200 && q.baud != 115200
    let gen := !back && (if lineHas u .mode then lineKw u .mode .generated else q.generated)
    let exp := !back && lineOn u .expert q.expert
    let note := back || lineOn u .notice q.notice
    let word : Bool → RVal := fun b => .word (if b then "ON" else "OFF")
    let s := s.modSes u.ses fun q => { q with waiting := q.waiting.map fun p => if p.lineNo = n then { p with props := some (gen, exp, note, baud) } else p }
    s.answer u.ses n [.ok ([("mode", .word (if gen then "GENERATED" else "INTERACTIVE")), ("expert", word exp), ("notice", word note)]
      ++ (if u.ses == .line then [("baud", .nat baud)] else []))]

/-- The names of the limits that IDENT reports (13 R394). -/
def limitGroups : List (String × List Lim) :=
  [("OV", [.ov]), ("UV", [.uv]), ("OT", [.ot]), ("UT", [.ut]), ("OC", [.occ, .ocd]), ("CD", [.cd])]
/-- A limit without a value, or of current while pack.iscale is not given (14 R402). -/
def State.limitOff (s : State) (set : Nat) (l : Lim) : Bool :=
  (s.get (.limitValue set l)).isNone || ((l == .occ || l == .ocd || l == .cd) && (s.get .packIscale).isNone)
/-- The parameter sets in use: those that the accessioned nodes take. -/
def State.setsInUse (s : State) : List Nat := (List.range 16).filter fun k => s.nodes.any fun x => s.setOf x.shelf == k
/-- The nolimit fields. -/
def State.nolimits (s : State) : List (String × RVal) :=
  let fs := limitGroups.filterMap fun g =>
    let off := s.setsInUse.filter fun k => g.2.any (s.limitOff k)
    if off.isEmpty then none else some ("nolimit." ++ g.1, RVal.joined (off.map some))
  if fs.isEmpty then [("nolimit", .word "NONE")] else fs

def Role.name : Role → String
  | .alone => "ALONE" | .primary => "PRIMARY" | .standby => "STANDBY" | .yielding => "YIELDING"
def econField (b : Bool) : String × RVal := ("econ", .word (if b then "ON" else "OFF"))
def State.periodField (s : State) : String × RVal := ("period", .setting .stampPeriod (some s.stamp.period))
/-- The stamp that a reply names: 0 in BLANK (16 R464). -/
def State.stampField (s : State) : String × RVal := ("stamp", .nat s.stamp.number.toNat)

def execIdent (t : Tick) (u : Line) : State → Host.Outcome State Fault Refusal :=
  usithRead t u [] fun s => [.ok (s.bannerFields ++ [("role", .word s.roleSt.role.name), s.stampField, s.periodField, econField s.stamp.economy] ++ s.nolimits)]

def execStamp (t : Tick) (u : Line) : State → Host.Outcome State Fault Refusal :=
  usithRead t u [] fun s => [.ok [s.stampField, ("run", .hex s.stamp.run.toNat 8), s.periodField, econField s.stamp.economy,
    ("phase", .nat (if s.stamp.started then (s.now - s.stamp.t0) / usTicks else 0))]]

/-! ## Names and objects (R399, R401, R495) -/

/-- The object that a setting's indices name exists. -/
def State.hasObject (s : State) : SName → Bool
  | .patronBalance p => decide (p < 16)
  | .tensorMode p t | .tensorWindow p t | .tensorKlo p t | .tensorKhi p t | .tensorTheta p t | .tensorLimit p t => (s.tensor? p t).isSome
  | .layerClamp p l => ((s.folio? p).map fun f => decide (l < f.stateLayers.length)).getD false
  | .streamShift x l => s.hasStream x && decide (l < (s.stream x).committed.dims.length)
  | .limitValue k _ | .limitDebounce k _ | .limitHyst k _ => decide (k < 16)
  | .nodeTwinset h | .nodeCurrent h | .nodeTfit h | .nodeRb h => (s.node? h).isSome
  | .nodeWr h w => (s.node? h).isSome && decide (w < 17)
  | .cellSensors h i => (s.node? h).isSome && decide (1 ≤ i ∧ i ≤ 16)
  | .portTxlat x | .portRxlat x => decide (x < 4)
  | _ => true

/-- The setting is one of a stream whose record waits to be restored (15 R442). -/
def State.nameWaits (s : State) : SName → Bool
  | .streamShift x _ => s.awaitsRestore x
  | _ => false

/-- A name with another last index, and the indices to try; none where it has no index. -/
def familyOf : SName → Option ((Nat → SName) × List Nat)
  | .patronBalance _ => some (.patronBalance, List.range 16)
  | .tensorMode p _ => some (.tensorMode p, List.range 256)
  | .tensorWindow p _ => some (.tensorWindow p, List.range 256)
  | .tensorKlo p _ => some (.tensorKlo p, List.range 256)
  | .tensorKhi p _ => some (.tensorKhi p, List.range 256)
  | .tensorTheta p _ => some (.tensorTheta p, List.range 256)
  | .tensorLimit p _ => some (.tensorLimit p, List.range 256)
  | .layerClamp p _ => some (.layerClamp p, List.range 8)
  | .streamShift x _ => some (.streamShift x, List.range 8)
  | .limitValue _ l => some (fun k => .limitValue k l, List.range 16)
  | .limitDebounce _ l => some (fun k => .limitDebounce k l, List.range 16)
  | .limitHyst _ l => some (fun k => .limitHyst k l, List.range 16)
  | .nodeTwinset _ => some (.nodeTwinset, List.range 257)
  | .nodeCurrent _ => some (.nodeCurrent, List.range 257)
  | .nodeTfit _ => some (.nodeTfit, List.range 257)
  | .nodeRb _ => some (.nodeRb, List.range 257)
  | .nodeWr h _ => some (.nodeWr h, List.range 17)
  | .cellSensors h _ => some (.cellSensors h, List.range 17)
  | .portTxlat _ => some (.portTxlat, List.range 4)
  | .portRxlat _ => some (.portRxlat, List.range 4)
  | _ => none

/-- What a setting is while nothing has changed it. -/
def State.defaultOf (s : State) : SName → Option Int
  | .streamShift x l => ((s.folio? (s.stream x).slot).bind fun f => f.shifts[l]?).map fun j => (j : Int)
  | n => s.baseSetting n
/-- The staged value as SHOW gives it. -/
def State.stagedVal (s : State) (n : SName) : RVal :=
  match settingIn n s.settings.staged with
  | some v => .setting n v
  | none => .absent

/-! ## SET, SHOW, DISCARD -/

/-- A current limit. -/
def currentLimit : SName → Bool
  | .limitValue _ .occ | .limitValue _ .ocd | .limitValue _ .cd => true
  | _ => false
/-- Bounds that depend on the hub's state: RUNNING only for a ringed tensor (04 R106); a current within full scale (14 R492). -/
def State.valueFits (s : State) (n : SName) (v : Option Int) : Bool :=
  match n, v with
  | .tensorMode p x, some 1 => (s.tensor? p x).any (·.ringed)
  | n, some v => if currentLimit n then (s.get .packIscale).all fun k => decide (v * 1000000 ≤ 8388607 * k) else true
  | _, none => true

/-- The first error of one pair, or the value it stages. -/
def State.setPair (s : State) (expert : Bool) (n : SName) (v : Val) : Except Nat (Option Int) :=
  if n.unsettable then .error 6
  else if s.nameWaits n then .error 11
  else if !s.hasObject n then .error 15
  else if n.expert && !expert then .error 10
  else if n.primaryOnly && s.isStandby then .error 12
  else match n.form.read v with
    | none => .error 9
    | some x =>
      if currentLimit n && (s.get .packIscale).isNone then .error 11
      else if s.valueFits n x then .ok x else .error 9

/-- Check every pair in order: the values, or the first failing name with its error. -/
def State.setPairs (s : State) (expert : Bool) : List (SName × Val) → Except (SName × Nat) (List (SName × Option Int))
  | [] => .ok []
  | (n, v) :: ps =>
    match s.setPair expert n v with
    | .error e => .error (n, e)
    | .ok x => match s.setPairs expert ps with
      | .error e => .error e
      | .ok xs => .ok ((n, x) :: xs)

/-- Everything staged: settings, scripts and parameter sets. -/
def State.stagedCount (s : State) : Nat := s.settings.staged.length + s.settings.stagedScripts.length + s.settings.stagedSets.length

/-- SET (R399): all of its pairs or none of them. -/
def execSet (t : Tick) (u : Line) (pairs : List (SName × Val)) : State → Host.Outcome State Fault Refusal :=
  usith t u [] .work never fun s n =>
    if pairs.isEmpty then s.answer u.ses n [.err 8 []]
    else if decide ¬ (pairs.map (·.1)).Nodup then s.answer u.ses n [.err 7 []]
    else match s.setPairs (s.ses u.ses).expert pairs with
      | .error (m, e) => s.answer u.ses n [.err e [("name", .names [m])]]
      | .ok xs =>
        let s : State := { s with settings := { s.settings with staged := xs.foldl (fun ys x => putSetting x.1 x.2 ys) s.settings.staged } }
        s.answer u.ses n [.ok [("staged", .nat s.stagedCount)]]

/-- An index as names write it: a port by its letter. -/
def indexVal : SName → Nat → RVal
  | .portTxlat _, i | .portRxlat _, i => .word (portLetter i)
  | _, i => .nat i

/-- The reply of SHOW (R392, R413, R495). -/
def State.showReply (s : State) (m : SName) (listing : Bool) : List HubLine :=
  let side : Bool → RVal := fun b => .word (if b then "B" else "A")
  if m = .pairSide then [.ok [("live", side s.spine.sideB), ("saved", side s.archive.sideB)]]
  else if m.unsettable then [.err 6 []]
  else match listing, familyOf m with
    | true, some (f, is) =>
      let shown := is.filter fun i => s.hasObject (f i) && (s.get (f i) != s.defaultOf (f i) || (settingIn (f i) s.settings.staged).isSome)
      (shown.map fun i => HubLine.item [("index", indexVal (f i) i), ("live", .setting (f i) (s.get (f i))), ("staged", s.stagedVal (f i))])
        ++ [.ok [("count", .nat shown.length)]]
    | true, none => [.err 6 []]
    | false, _ => if s.nameWaits m then [.err 11 []] else if s.hasObject m then [.ok [("live", .setting m (s.get m)), ("staged", s.stagedVal m)]] else [.err 15 []]

def showSettingArgs : List ArgSpec :=
  [{ arg := .name, form := .setting }]

def execShowSetting (t : Tick) (u : Line) : State → Host.Outcome State Fault Refusal :=
  usithRead t u showSettingArgs fun s => match lineVal u .name with
    | some (.name m listing) => s.showReply m listing
    | _ => [.err 8 []]

def execDiscard (t : Tick) (u : Line) : State → Host.Outcome State Fault Refusal :=
  usith t u [] .work never fun s n =>
    let k := s.stagedCount
    ({ s with settings := { s.settings with staged := [], stagedScripts := [], stagedSets := [] } } : State).answer u.ses n [.ok [("discarded", .nat k)]]

/-! ## APPLY and SAVE (R392, R400) -/

/-- The value that a setting would have with everything accepted and everything staged live. -/
def State.after (s : State) (n : SName) : Option Int :=
  match settingIn n s.settings.staged with
  | some v => v
  | none => match s.settings.commits.reverse.findSome? fun c => settingIn n c.2 with
    | some v => v
    | none => s.get n
def State.afterN (s : State) (n : SName) : Nat := ((s.after n).getD 0).toNat

/-- The tensors of the bound folios, whose ceilings and floors an APPLY is held to (04 R106). -/
def State.boundTensors (s : State) : List (Nat × Nat) :=
  (List.range 16).flatMap fun p => ((s.folio? p).map fun f => f.tensors.map fun t => (p, t.index)).getD []

/-- The joint rules in the order of their labels: the first that fails, with its settings in the order of Table 14.2. -/
def State.conflictRule (s : State) : Option (String × List SName) :=
  let staged : SName → Bool := fun n => (settingIn n s.settings.staged).isSome
  let mode := s.modePlan (s.afterN .airMode) (s.afterN .airPorts) (s.afterN .stampPeriod) s.nodes.length
  let frame : List SName := [.stampPeriod, .airMode, .airPorts]
  if frame.any staged && decide (nodeLimit mode.2 (s.afterN .stampPeriod) < s.nodes.length) then some ("R27", frame)
  else match s.boundTensors.find? fun x => decide (s.afterN (.tensorKhi x.1 x.2) < s.afterN (.tensorKlo x.1 x.2)) with
    | some (p, i) => some ("R106", [.tensorKlo p i, .tensorKhi p i])
    | none =>
      if s.afterN .airMode = 1 ∧ s.afterN .airPorts ≠ 15 then some ("R270", [.airMode, .airPorts])
      else if ((List.range 9).filter fun k => (s.afterN .airCmap).testBit k).length < mode.2 then some ("R272", [.airMode, .airPorts, .airCmap])
      else if s.afterN .powerRestart < s.afterN .powerBo + 5 then some ("R427", [.powerBo, .powerRestart])
      else none

/-- Something staged is reserved to the primary (02 R28). -/
def State.stagedReserved (s : State) : Bool :=
  s.settings.staged.any (fun x => x.1.primaryOnly) || !s.settings.stagedScripts.isEmpty || !s.settings.stagedSets.isEmpty

/-- Commit everything staged for a stamp, and forward it. -/
def State.commitStaged (s : State) (b : BitVec 48) : State :=
  let q := s.settings
  let s : State := { s with settings := { q with
    staged := []
    stagedScripts := []
    stagedSets := []
    commits := if q.staged.isEmpty then q.commits else q.commits ++ [(b, q.staged)]
    scriptCommits := if q.stagedScripts.isEmpty then q.scriptCommits else q.scriptCommits ++ [(b, q.stagedScripts)]
    setCommits := if q.stagedSets.isEmpty then q.setCommits else q.setCommits ++ [(b, q.stagedSets)] } }
  let s := q.staged.reverse.foldl (fun s x => s.forward (.setting x.1 x.2) b) s
  let s := q.stagedScripts.foldl (fun s x => s.forward (.script x.1 x.2.1 x.2.2) b) s
  q.stagedSets.foldl (fun s x => s.forward (.twinset x.1 x.2) b) s

/-- APPLY (R392): every joint rule, then the commit; with nothing staged it only names the boundary. -/
def execApply (t : Tick) (u : Line) : State → Host.Outcome State Fault Refusal :=
  usith t u [] .work State.stagedReserved fun s n =>
    let b := s.atStamp
    if s.stagedCount = 0 then s.answer u.ses n [.ok [("at", .nat b.toNat)]] else
    match s.conflictRule with
    | some (r, ns) => s.answer u.ses n [.err 13 [("rule", .word r), ("settings", .names ns),
        ("staged", .names (ns.filter fun m => (settingIn m s.settings.staged).isSome))]]
    | none =>
      if (settingIn .stampPeriod s.settings.staged).isSome && s.spine.partner && decide (mirrorLimit (s.afterN .stampPeriod) < s.mirrorBytes) then
        s.answer u.ses n [.err 24 []]
      else ((s.commitStaged b).decideMode).answer u.ses n [.ok [("at", .nat b.toNat)]]

/-- SAVE (R400); the shutdowns that RAILFAULT counts start again (16 R456). -/
def execSave (t : Tick) (u : Line) : State → Host.Outcome State Fault Refusal :=
  usith t u [] .work never fun s n =>
    let q := s.settings
    ({ s with
      power := { s.power with shutdowns := 0 }
      archive := { s.archive with saved := s.liveSettings, savedScripts := q.scripts, savedSets := q.twinsets } } : State).answer u.ses n
        [.ok [("saved", .nat s.stamp.number.toNat)]]

end Sys2Proof.Machine
end

