-- ==== Sys2Proof/Machine/NodeCmds.lean ====
section
/-! DEFINITION. The node commands (14 Table 14.4, R403 to R405). -/

namespace Sys2Proof.Machine

/-- ACCESSION (11 R318): RELEASE goes out once a broadcast under way has ended. -/
def execAccession (t : Tick) (u : Line) : State → Host.Outcome State Fault Refusal :=
  usith t u [] .work always fun s n =>
    if s.acc.busy then s.answer u.ses n [.err 11 []] else
    let late := s.stamp.number + 1 + BitVec.ofNat 48 s.air.bleft
    let b := if s.atStamp < late then late else s.atStamp
    ({ s with acc := { s.acc with due := some b } } : State).answer u.ses n [.ok [("at", .nat b.toNat)]]

/-- One line of NODE SHOW. -/
def State.nodeLine (s : State) (x : NodeSt) : HubLine :=
  let bit : Nat → RVal := fun i => .nat (x.report.status.getLsbD i).toNat
  .item [("shelf", .nat x.shelf), ("id", .hex x.nid.toNat 16), ("kind", .nat x.kind.toNat), ("fw", .nat x.fwver.toNat),
    ("state", .word (if (s.lim .ns (256 * x.shelf)).tripped then "SILENT" else "ACTIVE")), ("last", .nat x.report.last),
    ("blast", .nat x.report.blast), ("owt", bit 3), ("bal", bit 0), ("lostbal", bit 4)]
def nodeShowArgs : List ArgSpec :=
  [{ arg := .node, form := .orAll (.count 1 256) }]

def execNodeShow (t : Tick) (u : Line) : State → Host.Outcome State Fault Refusal :=
  usithRead t u nodeShowArgs fun s =>
    if lineKw u .node .all then s.nodes.map s.nodeLine ++ [.ok []]
    else match s.node? (lineNat u .node 0) with
      | some x => [s.nodeLine x, .ok []]
      | none => [.err 15 []]

/-- Hand an order to one node: the reply comes with its sequence, at its first placement (10 R291). -/
def State.orderNode (s : State) (u : Line) (n : Nat) (m : Msg) (f : NodeSt → NodeSt) : State :=
  match s.node? (lineNat u .node 0) with
  | none => s.answer u.ses n [.err 15 []]
  | some x => (s.modNode x.shelf f).queueMsg { m with shelf := x.shelf, reply := some (u.ses, n) }
/-- Broadcast an order: the reply comes with the broadcast sequence. -/
def State.orderAll (s : State) (u : Line) (n : Nat) (m : Msg) (f : NodeSt → NodeSt) : State :=
  ({ s with nodes := s.nodes.map f } : State).queueBroadcast { m with shelf := 0, reply := some (u.ses, n) }

/-- The mask of the cells that an argument names. -/
def cellMask (u : Line) : Nat :=
  if lineKw u .cells .all then 0xFFFF else ((lineList u .cells).map fun i => 2 ^ (i - 1)).sum

def balanceArgs : List ArgSpec :=
  [{ arg := .node, form := .orAll (.count 1 256) }, { arg := .cells, form := .manyOrAll 1 16 },
  { arg := .dur, form := .one (.quantity 0 1000000000 0 65535) }]

/-- BALANCE (R403, 11 R328). -/
def execBalance (t : Tick) (u : Line) : State → Host.Outcome State Fault Refusal :=
  usith t u balanceArgs .work always fun s n =>
    if s.acc.busy then s.answer u.ses n [.err 11 []] else
    let dur := (lineQty u .dur 0 1000000000 0).toNat
    let m := balanceMsg 0 (cellMask u) dur
    let f : NodeSt → NodeSt := fun x => x.ordered (cellMask u) dur s.now
    if lineKw u .node .all then s.orderAll u n m f else s.orderNode u n m f

def owtestArgs : List ArgSpec :=
  [nodeArg, { arg := .wire, form := .one (.count 0 16) }, { arg := .dir, form := .one (.words [.sink, .source, .both]), need := false }]

/-- OWTEST (11 R332, R334). -/
def execOwtest (t : Tick) (u : Line) : State → Host.Outcome State Fault Refusal :=
  usith t u owtestArgs
      .work always fun s n =>
    let dir := if lineKw u .dir .sink then 1 else if lineKw u .dir .source then 2 else 3
    let wire := lineNat u .wire 0
    if (s.node? (lineNat u .node 0)).any (fun x => !x.owt.isEmpty) then s.answer u.ses n [.err 14 []]
    else s.orderNode u n (owtestMsg 0 wire dir) fun x => { x with owt := x.owt ++ [{ wire := wire, left := if dir = 3 then 2 else 1 }] }

def breakClearArgs : List ArgSpec :=
  [nodeArg, { arg := .wire, form := .one (.count 0 16) }]

/-- BREAK CLEAR (11 R335). -/
def execBreakClear (t : Tick) (u : Line) : State → Host.Outcome State Fault Refusal :=
  usith t u breakClearArgs .work always fun s n =>
    let wire := lineNat u .wire 0
    match s.node? (lineNat u .node 0) with
    | none => s.answer u.ses n [.err 15 []]
    | some x => if x.broken wire then (s.modNode x.shelf fun x => x.putBreak { wire := wire }).answer u.ses n [.ok []] else s.answer u.ses n [.err 15 []]

def execNodeQuery (t : Tick) (u : Line) : State → Host.Outcome State Fault Refusal :=
  usith t u [nodeArg] .work always fun s n => s.orderNode u n { shelf := 0, mtype := 0x04, rest := [] } id

def nodeSleepArgs : List ArgSpec :=
  [{ arg := .node, form := .orAll (.count 1 256) }]

/-- NODE SLEEP (11 R327): a sleeping node's timers are cleared. -/
def execNodeSleep (t : Tick) (u : Line) : State → Host.Outcome State Fault Refusal :=
  usith t u nodeSleepArgs .work always fun s n =>
    let m : Msg := { shelf := 0, mtype := 0x05, rest := [] }
    if lineKw u .node .all then s.orderAll u n m fun x => { x with balance := [] } else s.orderNode u n m fun x => { x with balance := [] }

/-- Tests for which a limit must stand clear before it may clear (09 Table 9.5). -/
def State.clearTests (s : State) (x : LimSt) : Nat :=
  match x.lim with
  | .ov | .uv | .ot | .ut => s.getN (.limitDebounce (s.setOf (x.key / 256)) x.lim)
  | .ns => 1
  | _ => 100

def protectAckArgs : List ArgSpec :=
  [{ arg := .seq, form := .one u32 }]

/-- PROTECT ACK (R404). -/
def execProtectAck (t : Tick) (u : Line) : State → Host.Outcome State Fault Refusal :=
  usith t u protectAckArgs .work never fun s n =>
    match s.limits.find? fun x => x.tripped && x.seq == lineNat u .seq 0 with
    | none => s.answer u.ses n [.err 15 []]
    | some x =>
      if s.clearTests x ≤ x.clear then
        (s.clearLim x (match x.lim with
          | .occ | .ocd | .cd => 0
          | _ => x.key)).answer u.ses n [.ok [("state", .word "CLEARED")]]
      else (s.putLim { x with acked := true }).answer u.ses n [.ok [("state", .word "PENDING")]]

/-- The temperature points of a parameter set rise strictly (R405). -/
def setRises (b : Bytes) : Bool :=
  let ts := (List.range 8).map fun i => toSigned (leNat ((b.drop (260 + 2 * i)).take 2)) 16
  (List.range 7).all fun i => decide (ts.getD i 0 < ts.getD (i + 1) 0)

def twinsetLoadArgs : List ArgSpec :=
  [{ arg := .set, form := .one (.count 0 15), expert := true }, { tagArg with expert := true }]

/-- TWINSET LOAD: an expert command. -/
def execTwinsetLoad (t : Tick) (u : Line) : State → Host.Outcome State Fault Refusal :=
  usith t u twinsetLoadArgs .work always fun s n =>
    match s.takeInput 0x21 (lineNat u .tag 0) with
    | (none, s) => s.answer u.ses n [.err 23 []]
    | (some f, s) =>
      if f.body.length ≠ 384 ∨ !setRises f.body then s.answer u.ses n [.err 9 []]
      else ({ s with settings := { s.settings with stagedSets := setKey (lineNat u .set 0) f.body s.settings.stagedSets } } : State).answer u.ses n
        [.ok [("staged", .flag)]]

end Sys2Proof.Machine
end

