-- ==== Sys2Proof/Machine/StreamCmds.lean ====
section
/-! DEFINITION. The stream commands (14 Table 14.6, R406): each act waits its turn under 05 R146. -/

namespace Sys2Proof.Machine

def streamCreateArgs : List ArgSpec :=
  [sidArg, slotArg, { arg := .mode, form := .one (.words [.reset, .portable]) }, { arg := .live, form := .one onOff, need := false },
  { arg := .seed, form := .one u64 }]

/-- STREAM CREATE. -/
def execStreamCreate (t : Tick) (u : Line) : State → Host.Outcome State Fault Refusal :=
  usith t u streamCreateArgs .work (slotReserved u) fun s n =>
    s.streamRequest (lineNat u .sid 0) (.created (lineNat u .slot 0) (lineKw u .mode .portable) (lineOn u .live false) (BitVec.ofNat 64 (lineNat u .seed 0)))
      u.ses n

/-- STREAM FREE. -/
def execStreamFree (t : Tick) (u : Line) : State → Host.Outcome State Fault Refusal :=
  usith t u [sidArg] .work (sidReserved u) fun s n => s.streamRequest (lineNat u .sid 0) .free u.ses n

/-- Export and copy-out, behind the requests before them (05 R146). -/
def State.cardRequest (s : State) (u : Line) (n : Nat) (copy : Bool) : State :=
  s.streamRequest (lineNat u .sid 0) (.card copy (lineNat u .tag 0)) u.ses n

/-- STREAM EXPORT. -/
def execStreamExport (t : Tick) (u : Line) : State → Host.Outcome State Fault Refusal :=
  usith t u [sidArg, tagArg] .work (sidReserved u) fun s n => s.cardRequest u n false
/-- STREAM COPY. -/
def execStreamCopy (t : Tick) (u : Line) : State → Host.Outcome State Fault Refusal :=
  usith t u [sidArg, tagArg] .work (sidReserved u) fun s n => s.cardRequest u n true

def streamImportArgs : List ArgSpec :=
  [sidArg, slotArg, { arg := .live, form := .one onOff, need := false }, tagArg]

/-- STREAM IMPORT: the CARDIN frame is taken when the command is acted on. -/
def execStreamImport (t : Tick) (u : Line) : State → Host.Outcome State Fault Refusal :=
  usith t u streamImportArgs .work
      (fun s => slotReserved u s || sidReserved u s) fun s n =>
    match s.takeInput 0x20 (lineNat u .tag 0) with
    | (none, s) => s.answer u.ses n [.err 23 []]
    | (some f, s) => s.streamRequest (lineNat u .sid 0) (.imported (lineNat u .slot 0) (lineOn u .live false) f.body) u.ses n

def Place.name : Place → String
  | .free => "FREE" | .parked => "PARKED" | .resident => "RESIDENT" | .exported => "EXPORTED"

/-- The fields of STREAM SHOW; an identifier without a stream shows its place and generation. -/
def State.streamFields (s : State) (sid : Nat) : List (String × RVal) :=
  let x := s.stream sid
  let i := x.committed
  let head : List (String × RVal) := [("place", .word x.place.name), ("gen", .nat x.gen.toNat)]
  if !s.hasStream sid then head ++ (["slot", "mode", "live", "step", "pos", "pages", "stack"].map fun w => (w, RVal.absent))
  else head ++ [("slot", .nat x.slot), ("mode", .word (if i.portable then "PORTABLE" else "RESET")), ("live", .word (if i.live then "ON" else "OFF")),
    ("step", .nat i.step.toNat), ("pos", .nat i.pos.toNat), ("pages", .nat x.pages),
    ("stack", if x.place = .resident then .nat x.stack else .absent)]

/-- STREAM SHOW: an identifier never used has no stream to show, and one that waits for its restore none yet (15 R442). -/
def execStreamShow (t : Tick) (u : Line) : State → Host.Outcome State Fault Refusal :=
  usithRead t u [sidArg] fun s =>
    let x := s.stream (lineNat u .sid 0)
    if s.awaitsRestore (lineNat u .sid 0) then [.err 11 []] else if x.place = .free ∧ x.gen = 0 then [.err 15 []] else [.ok (s.streamFields x.sid)]

/-- The streams of a slot, and the identifiers chosen for those that its request will make, in ascending order (09 R261). -/
def State.listed (s : State) (slot : Nat) : List StreamSt :=
  let ahead := (s.requests.filter fun r => r.slot == slot && r.ahead s.stamp.number).flatMap Request.chosen
  ahead.foldl (fun xs sid => putBy StreamSt.sid { s.stream sid with slot := slot } xs) (s.streams.filter fun x => x.slot == slot && x.place != .free)
/-- STREAM LIST: the streams of a slot, in ascending identifier. -/
def execStreamList (t : Tick) (u : Line) : State → Host.Outcome State Fault Refusal :=
  usithRead t u [slotArg] fun s =>
    let slot := lineNat u .slot 0
    if (s.patron slot).folio.isNone then [.err 15 []] else
    let xs := s.listed slot
    (xs.map fun x => HubLine.item [("sid", .nat x.sid), ("place", .word x.place.name), ("step", .nat x.committed.step.toNat)])
      ++ [.ok [("count", .nat xs.length)]]

end Sys2Proof.Machine
end

