-- ==== Sys2Proof/Machine/Catalogue.lean ====
section
/-! DEFINITION. The folio and loan commands (14 Table 14.7, R407, R408, 07 R190 to R201, 16 R467, R468). -/

namespace Sys2Proof.Machine

/-! ## Folios -/

def folioWriteArgs : List ArgSpec :=
  [{ arg := .offset, form := .one (.count 0 50331647) }, tagArg]

/-- FOLIO WRITE (R407). -/
def execFolioWrite (t : Tick) (u : Line) : State → Host.Outcome State Fault Refusal :=
  usith t u folioWriteArgs .work never fun s n =>
    let off := lineNat u .offset 0
    if off % 64 ≠ 0 then s.answer u.ses n [.err 9 []] else
    match s.takeInput 0x21 (lineNat u .tag 0) with
    | (none, s) => s.answer u.ses n [.err 23 []]
    | (some f, s) =>
      if 50331648 < off + f.body.length then s.answer u.ses n [.err 9 []]
      else ({ s with archive := { s.archive with staging := memWrite s.archive.staging off f.body } } : State).answer u.ses n
        [.ok [("next", .nat (off + f.body.length))]]

def kindName : FolioKind → String
  | .receiver => "RECEIVER" | .estimator => "ESTIMATOR" | .mains => "MAINS" | .refit => "REFIT" | .host => "HOST"
/-- The kind of a patron slot (07 Table 7.1). -/
def slotKind (p : Nat) : FolioKind := if p = 0 then .receiver else if p = 1 then .estimator else if p = 2 then .mains else if p = 3 then .refit else .host

/-- The envelope of a staged folio (16 Table 16.9). -/
structure Envelope where
  magic : Nat
  version : Nat
  keyslot : Nat
  enc : Bool
  rest : Nat
  len : Nat
  nonce : Bytes
  gcmtag : Bytes
  sig : Bytes
  deriving DecidableEq, Repr
def Envelope.ofBytes (b : Bytes) : Envelope :=
  let v := leNat (b.take 64)
  { magic := bitsOf v 31 0, version := bitsOf v 39 32, keyslot := bitsOf v 41 40, enc := v.testBit 42, rest := bitsOf v 63 43 + bitsOf v 511 320
    len := bitsOf v 95 64, nonce := (b.drop 12).take 12, gcmtag := (b.drop 24).take 16, sig := (b.drop 64).take 64 }

/-- A key of the fuse map: slots 0 to 3, and 4 for ENCKEY (16 Table 16.8). -/
def State.fuseKey (s : State) (k : Nat) : Bytes := leBytes 32 (bitsOf s.test.fuses.toNat (319 + 256 * k) (64 + 256 * k))

/-- The structure of a folio's tables: no E above 52; T_sp and T_ne of a state layer unsigned, its T_gate signed (05 R130). -/
def LayerInfo.tablesOk (y : LayerInfo) : Bool :=
  (y.stateTables ++ y.tables).all (fun t => decide (t.1 ≤ 52)) && (y.scan.isNone || y.stateTables.map (·.2) == [false, false, true])
end Sys2Proof.Machine
namespace Sys2Proof
/-- The same of all its layers. -/
def FolioInfo.tablesOk (f : FolioInfo) : Bool := f.layers.all Machine.LayerInfo.tablesOk
end Sys2Proof
namespace Sys2Proof.Machine

/-- Steps 1 to 3 of an install: AUTH, MALFORMED, or none (R407, 16 R467, R468). A header with a nonzero RS field is malformed (00 R10). -/
def State.installFault (s : State) (b : Bytes) (f : FolioInfo) : Option Nat :=
  let e := Envelope.ofBytes b
  let body := b.drop 128
  let fuse : Nat → Bool := s.test.fuses.getLsbD
  if b.length < 128 ∨ e.magic ≠ 0x4C4F4647 ∨ e.version ≠ 1 ∨ e.len + 128 ≠ b.length then some 26
  else if !fuse (12 + e.keyslot) || fuse (16 + e.keyslot) || fuse 5 then some 25
  else if !ed25519Verifies (s.fuseKey e.keyslot) (b.take 64 ++ body) e.sig then some 25
  else if e.enc && !fuse 20 then some 25
  else if e.enc && (gcmOpen (s.fuseKey 4) e.nonce (b.take 24) body e.gcmtag).isNone then some 25
  else if e.rest ≠ 0 ∨ !f.rsZero ∨ weightDigest f.weightLines ≠ f.wdigest ∨ !f.tablesOk then some 26
  else none

def folioInstallArgs : List ArgSpec :=
  [{ arg := .length, form := .one (.count 1 50331648) }]

/-- FOLIO INSTALL: `f` is what the body holds (log 9). -/
def execFolioInstall (t : Tick) (u : Line) (f : FolioInfo) : State → Host.Outcome State Fault Refusal :=
  usith t u folioInstallArgs .sign never fun s n =>
    let ok : List HubLine := [.ok [("folio", .hex f.fid.toNat 8), ("kind", .word (kindName f.kind)), ("wdigest", .bytes (f.wdigest.take 8))]]
    match s.installFault (memRead s.archive.staging 0 (lineNat u .length 0)) f with
    | some e => s.answer u.ses n [.err e []]
    | none => match s.folioSt? f.fid with
      | some old =>
        if old.info.wdigest ≠ f.wdigest then s.answer u.ses n [.err 11 []]
        else
          let put : FolioSt → FolioSt := fun x => if x.info.fid = f.fid then { info := f, promoted := x.promoted } else x
          ({ s with archive := { s.archive with folios := s.archive.folios.map put } } : State).answer u.ses n ok
      | none =>
        if 32 ≤ s.archive.folios.length then s.answer u.ses n [.err 11 []]
        else ({ s with archive := { s.archive with folios := s.archive.folios ++ [{ info := f }] } } : State).answer u.ses n ok

/-- Slots that a folio is bound to. -/
def State.boundTo (s : State) (fid : BitVec 32) : List Nat := (s.patrons.filter fun p => p.folio == some fid).map (·.slot)

def execFolioList (t : Tick) (u : Line) : State → Host.Outcome State Fault Refusal :=
  usithRead t u [] fun s => (s.archive.folios.map fun x => HubLine.item [("folio", .hex x.info.fid.toNat 8), ("kind", .word (kindName x.info.kind)),
    ("layout", .hex x.info.layout.toNat 8), ("bound", .joined ((s.boundTo x.info.fid).map some)),
    ("parent", if x.info.parent = 0 then .absent else .hex x.info.parent.toNat 8)]) ++ [.ok []]

def folioDeleteArgs : List ArgSpec :=
  [{ arg := .folio, form := .one u32 }]

def execFolioDelete (t : Tick) (u : Line) : State → Host.Outcome State Fault Refusal :=
  usith t u folioDeleteArgs .work never fun s n =>
    let fid := BitVec.ofNat 32 (lineNat u .folio 0)
    if (s.folioSt? fid).isNone then s.answer u.ses n [.err 15 []]
    else if !(s.boundTo fid).isEmpty || s.draft.any (fun d => d.parent == fid) || s.changes.any (fun c => c.fid == some fid) then s.answer u.ses n [.err 11 []]
    else ({ s with archive := { s.archive with folios := s.archive.folios.filter fun x => x.info.fid != fid } } : State).answer u.ses n [.ok []]

/-- A slot is lent: it has a share of some stack, or an accepted loan. -/
def State.slotLent (s : State) (p : Nat) : Bool := s.served p || s.changes.any fun c => c.lend && c.slot == p
/-- The open request of a slot. -/
def State.openReq? (s : State) (p : Nat) : Option Request := s.requests.find? fun r => r.slot == p && r.isOpen
/-- BUSY for a slot with an open request. -/
def busyLine (r : Request) : HubLine := .err 14 [("slot", .nat r.slot), ("req", .nat r.num)]

def bindFolioArgs : List ArgSpec :=
  [slotArg, { arg := .folio, form := .one u32 }]

/-- BIND (07 R190). -/
def execBindFolio (t : Tick) (u : Line) : State → Host.Outcome State Fault Refusal :=
  usith t u bindFolioArgs .work (slotReserved u) fun s n =>
    let p := lineNat u .slot 0
    match s.folioSt? (BitVec.ofNat 32 (lineNat u .folio 0)) with
    | none => s.answer u.ses n [.err 15 []]
    | some x =>
      match s.openReq? p with
      | some r => s.answer u.ses n [busyLine r]
      | none =>
        if x.info.kind ≠ slotKind p ∨ s.slotLent p then s.answer u.ses n [.err 11 []] else
        let s := (s.modPatron p fun q => { q with folio := some x.info.fid, monitor := {}, refusedAt := none }).clearTensors p
        let s := if p = 3 then s.bindRefit x.info else s
        s.keepLoans.answer u.ses n [.ok []]

/-- UNBIND (R408): every page of the slot returns. -/
def execUnbind (t : Tick) (u : Line) : State → Host.Outcome State Fault Refusal :=
  usith t u [slotArg] .work (slotReserved u) fun s n =>
    let p := lineNat u .slot 0
    if (s.patron p).folio.isNone then s.answer u.ses n [.ok []] else
    match s.openReq? p with
    | some r => s.answer u.ses n [busyLine r]
    | none =>
      if s.slotLent p || s.streams.any (fun x => x.slot == p && (x.place == .parked || x.place == .resident)) then s.answer u.ses n [.err 11 []]
      else
        let s := s.modPatron p fun q => { q with folio := none, pages := 0, monitor := {}, tensors := [] }
        let s : State := { s with charges := s.charges.filter fun c => c.slot != p || c.phase == .admitted }
        s.keepLoans.answer u.ses n [.ok []]

/-! ## Loans (R408, 07 R196, R197) -/

/-- A standby's class 3 loan stays off the stacks that its mirrored loans hold or will hold (07 R201). -/
def State.mirrors (s : State) (slot k : Nat) : Bool :=
  s.isStandby && decide (4 ≤ slot) && ((s.stk k).shares.any (fun sh => sh.slot < 4 && sh.st != .draining)
    || s.changes.any fun c => c.lend && c.stack == k && decide (c.slot < 4))

/-- The stacks that an expert LOAN takes, or the slack that forbids them. On a whole stack no lower class holds a block that a claim could take (07
R194). -/
def State.expertStacks (s : State) (u : Line) (f : FolioInfo) (b : BitVec 48) : Except (Option Nat) (List Nat) :=
  let slot := lineNat u .slot 0
  let regions := lineNat u .regions 48
  let blocks := lineNat u .blocks 48
  let n := lineNat u .stackCount 1
  let claim := lineNat u .claim 0
  let whole := regions = 48 ∧ blocks = 48
  let named := if lineHas u .stack then [lineNat u .stack 0] else List.range 4
  let fit := (named.filter fun k => !s.mirrors slot k).filter fun k => if whole then claim == 0 && s.freeAt f b k
    else s.shareFits slot k regions blocks claim && ((s.stk k).annexOk || !folioWide f)
  let fit' := fit.filter fun k => whole || (s.slackFault k slot f).isNone
  let got := if folioPaired f then (([[0, 1], [2, 3]].filter fun (w : List Nat) => w.all fit'.contains).take (ceilDiv n 2)).flatten else fit'.take n
  if n ≤ got.length then .ok got
  else .error (if n ≤ fit.length then (fit.find? fun k => (s.slackFault k slot f).isSome).bind fun k => s.slackFault k slot f else none)

def loanArgs : List ArgSpec :=
  [slotArg, { arg := .stackCount, form := .one (.count 1 4), need := false }, { arg := .pages, form := .one (.count 0 11776), need := false },
  { arg := .stack, form := .one (.count 0 3), need := false, expert := true }, { arg := .regions, form := .one (.count 1 48), need := false, expert := true },
  { arg := .blocks, form := .one (.count 1 48), need := false, expert := true }, { arg := .claim, form := .one (.count 0 14), need := false, expert := true }]

/-- LOAN. -/
def execLoan (t : Tick) (u : Line) : State → Host.Outcome State Fault Refusal :=
  usith t u loanArgs
      .work (slotReserved u) fun s n =>
    let slot := lineNat u .slot 0
    let pages := lineNat u .pages 0
    let b := s.atStamp
    if lineHas u .claim ∧ 2 ≤ classOf slot then s.answer u.ses n [.err 9 []] else
    match s.folio? slot with
    | none => s.answer u.ses n [.err 11 []]
    | some f =>
      if s.pagesUnlent < pages then s.answer u.ses n [.err 17 []] else
      let expert := [Arg.stack, .regions, .blocks, .claim].any (lineHas u)
      let ks : Except (Option Nat) (List Nat) := if expert then s.expertStacks u f b
        else match s.wholeStacks f b (lineNat u .stackCount 1) with
          | some ks => .ok ks
          | none => .error none
      match ks with
      | .error slack => s.answer u.ses n [.err 16 (match slack with
          | some x => [("slack", .nat x)]
          | none => [])]
      | .ok ks =>
        let regions := lineNat u .regions 48
        let blocks := lineNat u .blocks 48
        let claim := lineNat u .claim 0
        if !s.folioFits slot f (ks.map fun k => (k, regions)) then s.answer u.ses n [.err 16 []]
        else ((s.acceptLoan slot ks regions blocks claim pages b none).forwardLoan slot (.lend slot (maskOf ks) pages regions blocks claim false) b).answer
          u.ses n [.ok [("at", .nat b.toNat), ("stacks", .hex (maskOf ks) 1)]]

/-- A slot holds a share of a stack that no accepted release ends. -/
def State.heldBy (s : State) (slot k : Nat) : Bool :=
  ((s.stk k).shares.any fun sh => sh.slot == slot && sh.st != .draining) && !s.changes.any fun c => !c.lend && c.slot == slot && c.stack == k

def releaseArgs : List ArgSpec :=
  [slotArg, { arg := .stack, form := .one (.count 0 3), need := false }]

/-- RELEASE: one stack, or every stack of the slot (07 R198). -/
def execRelease (t : Tick) (u : Line) : State → Host.Outcome State Fault Refusal :=
  usith t u releaseArgs .work (slotReserved u) fun s n =>
    let slot := lineNat u .slot 0
    let b := s.atStamp
    let ks := (if lineHas u .stack then [lineNat u .stack 0] else List.range 4).filter (s.heldBy slot)
    if ks.isEmpty then s.answer u.ses n [.err 11 []] else
    let new : List LoanChange := ks.map fun k => { begins := b, slot := slot, stack := k, lend := false }
    (({ s with changes := s.changes ++ new } : State).forwardLoan slot (.release slot (maskOf ks)) b).answer u.ses n [.ok [("at", .nat b.toNat)]]

def moveArgs : List ArgSpec :=
  [{ slotArg with form := .one (.count 0 1) }, { arg := .fromStack, form := .one (.count 0 3) }]

/-- The layers that a slot has on a stack can leave it alone: none of them is paired with the sibling's (03 R81), or the folio stands whole on each
stack (07 R493). -/
def State.movable (s : State) (slot src : Nat) (f : FolioInfo) : Bool :=
  slot == 1 || ((((s.stk src).share? slot).map (·.layers)).getD []).all fun y => !(f.layers[y.1]?).any (·.paired)

/-- MOVE (07 R200): the first free stack takes what the slot has on the one that is left. -/
def execMove (t : Tick) (u : Line) : State → Host.Outcome State Fault Refusal :=
  usith t u moveArgs .work always fun s n =>
    let slot := lineNat u .slot 0
    let src := lineNat u .fromStack 0
    let b := s.atStamp
    if !((s.stk src).lentTo slot && s.heldBy slot src) || s.changes.any (fun c => c.moveFrom == some src) then s.answer u.ses n [.err 11 []] else
    match s.folio? slot with
    | none => s.answer u.ses n [.err 11 []]
    | some f =>
      let fits : Nat → Bool := fun k => s.freeAt f b k && s.movable slot src f
      match (List.range 4).find? fits with
      | none => s.answer u.ses n [.err 16 []]
      | some k => ((s.acceptLoan slot [k] 48 48 0 0 b (some src)).forwardLoan slot (.move slot src k) b).answer u.ses n
        [.ok [("at", .nat b.toNat), ("to", .nat k)]]

/-! ## The draft (09 R253, R257 to R259) -/

def promoteArgs : List ArgSpec :=
  [{ arg := .pub, form := .one u32 }, slotArg]

/-- PROMOTE: in a pair it waits for the standby's report of the same publication. -/
def execPromote (t : Tick) (u : Line) : State → Host.Outcome State Fault Refusal :=
  usith t u promoteArgs .sign always fun s n =>
    let pub := lineNat u .pub 0
    let slot := lineNat u .slot 0
    if slot ≠ 1 ∧ slot < 4 then s.answer u.ses n [.err 9 []]
    else if s.promotion.isSome then s.answer u.ses n [.err 14 []]
    else match s.promoteFault pub slot with
      | some e => s.answer u.ses n [.err e []]
      | none =>
        if s.spine.partner && s.spine.partnerPub != pub then
          { s with promotion := some { pub := pub, slot := slot, since := s.now, ses := u.ses, lineNo := n } }
        else s.acceptPromotion pub slot u.ses n

def execDraftDiscard (t : Tick) (u : Line) : State → Host.Outcome State Fault Refusal :=
  usith t u [] .work always fun s n =>
    if s.draft.isNone then s.answer u.ses n [.err 11 []]
    else ({ s with draft := none, archive := { s.archive with draft := none } } : State).answer u.ses n [.ok []]

def execDraftShow (t : Tick) (u : Line) : State → Host.Outcome State Fault Refusal :=
  usithRead t u [] fun s => match s.draft with
    | none => [.err 11 []]
    | some d => [.ok [("parent", .hex d.parent.toNat 8), ("step", .nat d.step), ("pub", .nat d.pub)]]

end Sys2Proof.Machine
end

