-- ==== Sys2Proof/Machine/Requests.lean ====
section
/-! DEFINITION. The request commands and the reports that Usith reads (14 Table 14.8, R409 to R411, 09 R260, R261). -/

namespace Sys2Proof.Machine

/-! ## What every request needs (02 R50, 09 R261, 14 R409) -/

/-- The error of a request to a slot: STATE without a folio or a stack, BUSY with an open request or at the bound. -/
def State.requestFault (s : State) (slot : Nat) (suits : FolioInfo → Bool) : Option HubLine :=
  if !((s.folio? slot).any suits) || !s.holdsStack slot then some (.err 11 [])
  else match s.openReq? slot with
    | some r => some (busyLine r)
    | none => if 32 ≤ (s.requests.filter Request.isOpen).length then some (.err 14 []) else none
/-- A request refused; BUSY is counted (07 Table 7.6). -/
def State.refuseRequest (s : State) (u : Line) (n : Nat) (l : HubLine) : State :=
  let busy : Bool := match l with
    | .err 14 _ => true
    | _ => false
  (if busy then s.modCtr (lineNat u .slot 0) fun c => { c with busy := natSat (c.busy + 1) 16 } else s).answer u.ses n [l]

/-- The next request number, 0 skipped. -/
def nextNum (n : Nat) : Nat := if n ≥ 0xFFFFFFFF then 1 else n + 1
/-- Accept a request. -/
def State.acceptRequest (s : State) (u : Line) (n : Nat) (r : Request) (more : List (String × RVal)) : State :=
  ({ s with requests := s.requests ++ [r], nextReq := nextNum s.nextReq } : State).answer u.ses n
    [.ok ([("req", .nat r.num), ("at", .nat r.begins.toNat)] ++ more)]

/-- The FREE identifiers that no request has taken, from the top. -/
def State.freeIds (s : State) : List Nat := (List.range 8192).reverse.filter fun k => (s.stream k).place == .free && !s.sidTaken k

/-! ## Rollouts -/

/-- The segments of a plan= frame; none where its form is wrong (R410), a reserved bit that is not 0 among it: what the hub does with
one here the spec does not say (00 R10, log 165). -/
def planSegs : Nat → Bytes → Option (List Seg)
  | 0, b => if b.isEmpty then some [] else none
  | k + 1, b =>
    if b.isEmpty then some [] else
    let v := leNat (b.take 8)
    let steps := bitsOf v 24 0
    if b.length < 8 ∨ steps = 0 ∨ 2 ^ 24 < steps ∨ bitsOf v 31 26 ≠ 0 then none
    else (planSegs k (b.drop 8)).map fun qs => { steps := steps, power := v.testBit 25, value := toSigned (bitsOf v 63 32) 32 } :: qs

/-- The plan that a ROLLOUT names: its segments, or NOFRAME or RANGE. -/
def State.planOf (s : State) (u : Line) : Except Nat (List Seg) × State :=
  match lineVal u .seg with
  | some (.segs qs) => (.ok qs, s)
  | _ => match s.takeInput 0x21 (lineNat u .plan 0) with
    | (none, s) => (.error 23, s)
    | (some f, s) => match planSegs 65 f.body with
      | some qs => if qs.isEmpty ∨ 64 < qs.length then (.error 9, s) else (.ok qs, s)
      | none => (.error 9, s)

/-- The live streams that a rollout selects, ascending; none where a listed one is not live. -/
def State.rollCells (s : State) (u : Line) : Option (List Nat) :=
  let live := s.liveStreams 1
  match lineVal u .cells with
  | none | some (.kw .all) => if live.isEmpty then none else some live
  | _ => let xs := lineList u .cells; if xs.all live.contains then some (live.filter xs.contains) else none

/-- The rollout that a line and its plan ask for, or its error (09 Table 9.7, R261, 13 R381). -/
def State.rollRequest (s : State) (u : Line) (f : FolioInfo) (segs : List Seg) : Except Nat Request :=
  let slot := lineNat u .slot 0
  let stepMs := (lineQty u .step 0 1000000 10).toNat
  let report := lineNat u .report 100
  let horizon := (segs.map (·.steps)).sum
  let span := report * stepMs
  let power := segs.any (·.power)
  if 1440000 < horizon ∨ ¬ (1000 % span = 0 ∨ span % 1000 = 0) then .error 9
  else if power && !lineHas u .vnom then .error 8
  else if power && (s.get .packIscale).isNone then .error 11
  else match s.rollCells u with
    | none => .error 11
    | some sids =>
      if sids.any fun x => (s.stream x).committed.layout != f.layout then .error 19 else
      let ids := s.freeIds.take sids.length
      let copies := (sids.map fun x => (s.stream x).committed.pages).sum
      let free := s.pagesFree slot
      if ids.length < sids.length then .error 28
      else if free < copies ∨ (free - copies) * 8192 < 4 * (horizon / report) then .error 17
      else .ok {
        num := s.nextReq
        slot := slot
        kind := .rollout
        begins := s.atStamp
        seed := BitVec.ofNat 64 (lineNat u .seed 0)
        segs := segs
        stepMs := stepMs
        interval := report
        socLo := lineNat u .soclo 0
        socHi := lineNat u .sochi 32768
        toff := lineInt u .toff 0
        vnom := (lineQty u .vnom 1 100 1).toNat
        total := horizon
        pages := free
        cells := List.zipWith (fun (x c : Nat) => ({ sid := x, copy := c } : RollCell)) sids ids }

def rolloutArgs : List ArgSpec :=
  [jobSlotArg, { arg := .cells, form := .manyOrAll 0 8191, need := false }, { arg := .step, form := .one (.quantity 0 1000000 1 50), need := false },
  { arg := .seg, form := .plan, need := false }, { arg := .plan, form := .one u32, need := false },
  { arg := .vnom, form := .one (.quantity 1 100 1 (2 ^ 32)), need := false }, { arg := .report, form := .one (.count 1 4096), need := false },
  { arg := .soclo, form := .one (.count 0 32768), need := false }, { arg := .sochi, form := .one (.count 0 32768), need := false },
  { arg := .toff, form := .one (.count (-32768) 32767), need := false }, { arg := .seed, form := .one u64 }]

/-- ROLLOUT. -/
def execRollout (t : Tick) (u : Line) : State → Host.Outcome State Fault Refusal :=
  usith t u rolloutArgs .work never fun s n =>
    let slot := lineNat u .slot 0
    if lineHas u .seg && lineHas u .plan then s.answer u.ses n [.err 7 []]
    else if !lineHas u .seg && !lineHas u .plan then s.answer u.ses n [.err 8 []]
    else match s.requestFault slot (·.rollout), s.folio? slot with
      | some l, _ => s.refuseRequest u n l
      | none, none => s.answer u.ses n [.err 11 []]
      | none, some f => match s.planOf u with
        | (.error e, s) => s.answer u.ses n [.err e []]
        | (.ok segs, s) => match s.rollRequest u f segs with
          | .error e => s.answer u.ses n [.err e []]
          | .ok r => s.acceptRequest u n r [("horizon", .nat r.total)]

/-! ## Regeneration and jobs -/

/-- The body of a REGENERATE input has its form (R411), no reserved bit of its head set (log 165). -/
def regenOk (b : Bytes) : Bool :=
  let v := leNat (b.take 8)
  let nstep := bitsOf v 15 0
  let ntap := bitsOf v 23 16
  let nset := bitsOf v 31 24
  decide (1 ≤ nstep ∧ nstep ≤ 4096 ∧ ntap ≤ 64 ∧ nset ≤ 32 ∧ bitsOf v 63 32 = 0
    ∧ b.length = 8 + 64 * nstep + 8 * ceilDiv nstep 64 + 8 * ceilDiv ntap 8 + 64 * nset)

/-- The working stream of a regeneration: the card's image in reset-mask mode, PARKED when the request begins. -/
def State.regenStream (s : State) (f : FolioInfo) (sid slot : Nat) (card : Bytes) : StreamSt :=
  let gen := nextGen (s.stream sid).gen
  let i := { Image.ofBytes f.stateLayers card with sid := sid, patron := slot, gen := gen, live := false, portable := false }
  { sid := sid, gen := gen, slot := slot, pages := i.pages, ledger := i, committed := i, work := i, held := true }

/-- A regeneration from its card and input frames. -/
def State.regenerate (s : State) (u : Line) (n : Nat) (f : FolioInfo) (card input : Bytes) : State :=
  let slot := lineNat u .slot 0
  if !regenOk input then s.answer u.ses n [.err 9 []] else
  match s.freeIds.head? with
  | none => s.answer u.ses n [.err 28 []]
  | some sid =>
    let x := s.regenStream f sid slot card
    if s.pagesFree slot < x.pages then s.answer u.ses n [.err 11 []] else
    (s.putStream x).acceptRequest u n {
      num := s.nextReq
      slot := slot
      kind := .regenerate
      begins := s.atStamp
      seed := BitVec.ofNat 64 (lineNat u .seed 0)
      total := bitsOf (leNat (input.take 8)) 15 0
      input := input
      card := Image.ofBytes f.stateLayers card
      copy := some sid
      pages := x.pages } []

def regenerateArgs : List ArgSpec :=
  [jobSlotArg, { arg := .card, form := .one u32 }, { arg := .input, form := .one u32 }, { arg := .seed, form := .one u64, need := false }]

/-- REGENERATE: the card's frame stands first on ring 5, the input's after it. -/
def execRegenerate (t : Tick) (u : Line) : State → Host.Outcome State Fault Refusal :=
  usith t u regenerateArgs
      .work never fun s n =>
    let slot := lineNat u .slot 0
    match s.requestFault slot (fun f => !f.rollout && !f.stateLayers.isEmpty), s.folio? slot with
    | some l, _ => s.refuseRequest u n l
    | none, none => s.answer u.ses n [.err 11 []]
    | none, some f => match s.takeInput 0x20 (lineNat u .card 0) with
      | (none, s) => s.answer u.ses n [.err 23 []]
      | (some c, s) => match cardFault f c.body with
        | some .layout => s.answer u.ses n [.err 19 []]
        | some (.check w) => s.answer u.ses n [.err 22 [("check", .word w)]]
        | none => match s.takeInput 0x21 (lineNat u .input 0) with
          | (none, s) => s.answer u.ses n [.err 23 []]
          | (some i, s) => s.regenerate u n f c.body i.body

def jobArgs : List ArgSpec :=
  [jobSlotArg, { arg := .input, form := .orNone u32, need := false }, { arg := .seed, form := .one u64, need := false }]

/-- JOB: its input is a REQIN body, or the rows of a TENSOR frame, which state their range step (13 R383). -/
def execJob (t : Tick) (u : Line) : State → Host.Outcome State Fault Refusal :=
  usith t u jobArgs .work never fun s n =>
    let slot := lineNat u .slot 0
    let r : Request := { num := s.nextReq, slot := slot, kind := .job, begins := s.atStamp, seed := BitVec.ofNat 64 (lineNat u .seed 0) }
    match s.requestFault slot (fun f => !f.rollout) with
    | some l => s.refuseRequest u n l
    | none =>
      if !lineHas u .input || lineKw u .input .none then s.acceptRequest u n r [] else
      match s.takeInputOf [0x21, 0x22] (lineNat u .input 0) with
      | (none, s) => s.answer u.ses n [.err 23 []]
      | (some f, s) =>
        if f.ftype = 0x22 ∧ !f.whole then s.answer u.ses n [.err 23 []] else
        let tensor := f.ftype == 0x22
        s.acceptRequest u n { r with
          input := f.body, rows := if tensor then f.count else 0, kstep := if tensor then f.kstep else 0, wide := tensor && f.kind == 1 } []

def cancelArgs : List ArgSpec :=
  [{ arg := .req, form := .one u32 }]

/-- CANCEL (09 R265). -/
def execCancel (t : Tick) (u : Line) : State → Host.Outcome State Fault Refusal :=
  usith t u cancelArgs .work never fun s n =>
    match s.req? (lineNat u .req 0) with
    | none => s.answer u.ses n [.err 15 []]
    | some r => if r.isOpen then (s.endRequest r .cancelled 1).answer u.ses n [.ok []] else s.answer u.ses n [.err 11 []]

/-! ## What Usith reads -/

def ReqKind.name : ReqKind → String
  | .rollout => "ROLLOUT" | .regenerate => "REGENERATE" | .job => "JOB"
def ReqState.name : ReqState → String
  | .queued => "QUEUED" | .running => "RUNNING" | .done => "DONE" | .cancelled => "CANCELLED" | .refused => "REFUSED"
def requestShowArgs : List ArgSpec :=
  [{ arg := .req, form := .one u32 }]

def execRequestShow (t : Tick) (u : Line) : State → Host.Outcome State Fault Refusal :=
  usithRead t u requestShowArgs fun s => match s.req? (lineNat u .req 0) with
    | none => [.err 15 []]
    | some r => [.ok [("slot", .nat r.slot), ("kind", .word r.kind.name), ("state", .word r.state.name), ("chunks", .nat r.chunks),
        ("of", .nat r.chunksOf), ("cells", .nat (r.cells.filter (·.fin)).length)]]

/-- Fields of a record: name, high and low bit. -/
def recordFields (fs : List (String × Nat × Nat)) (b : Bytes) : List (String × RVal) :=
  fs.map fun f => (f.1, .nat (bitsOf (leNat b) f.2.1 f.2.2))
/-- The fields of 07 Table 7.6. -/
def serviceFields : List (String × Nat × Nat) :=
  [("patron", 3, 0), ("class", 5, 4), ("rota", 6, 6), ("starved", 7, 7), ("stacks", 11, 8), ("first", 63, 16), ("nstamps", 79, 64),
   ("admitted", 127, 80), ("solo", 175, 128), ("late", 191, 176), ("latemax", 207, 192), ("slowdown", 223, 208), ("busy", 239, 224)]
  ++ [("preempt", 255, 240), ("spilled", 271, 256), ("lost", 287, 272), ("rotanodes", 303, 288), ("twinonly", 319, 304), ("stale", 351, 320),
   ("debt", 383, 352), ("overlap", 415, 384)]
/-- The fields of 10 Table 10.10; CFO and TOFF are signed. -/
def linkFields (b : Bytes) : List (String × RVal) :=
  recordFields [("shelf", 8, 0), ("lch", 10, 9), ("pairs", 11, 11), ("due", 31, 16), ("accepted", 47, 32), ("retried", 63, 48), ("learned", 79, 64),
    ("twin", 95, 80), ("snr", 103, 96)] b
  ++ [("cfo", .int (toSigned (bitsOf (leNat b) 111 104) 8)), ("toff", .int (toSigned (bitsOf (leNat b) 119 112) 8)), ("late", .nat (bitsOf (leNat b) 127 120))]

def execReportService (t : Tick) (u : Line) : State → Host.Outcome State Fault Refusal :=
  usithRead t u [slotArg] fun s => match (s.patron (lineNat u .slot 0)).latest with
    | some b => [.ok (recordFields serviceFields b)]
    | none => [.err 15 []]

def execReportLink (t : Tick) (u : Line) : State → Host.Outcome State Fault Refusal :=
  usithRead t u [nodeArg] fun s => match (s.node? (lineNat u .node 0)).bind (·.latest) with
    | some b => [.ok (linkFields b)]
    | none => [.err 15 []]

def eventListArgs : List ArgSpec :=
  [{ arg := .since, form := .one u32 }, { arg := .count, form := .one (.count 1 64), need := false }]

/-- EVENT LIST: the held events from a sequence on. -/
def execEventList (t : Tick) (u : Line) : State → Host.Outcome State Fault Refusal :=
  usithRead t u eventListArgs fun s =>
    let opt : Option Nat → RVal := fun v => match v with
      | some n => .nat n
      | none => .absent
    (((s.events.kept.filter fun e => decide (lineNat u .since 0 ≤ e.seq.toNat)).take (lineNat u .count 16)).map fun e =>
      HubLine.item (e.fields ++ [("patron", opt e.patron), ("stack", opt e.stack)])) ++ [.ok []]

end Sys2Proof.Machine
end

