-- ==== Sys2Proof/Machine/HubCmds.lean ====
section
/-! DEFINITION. The radio, pair, power, inventory, lectern and life-cycle commands (14 Tables 14.9 to 14.11, R412 to R418). -/

namespace Sys2Proof.Machine

/-! ## Radio (10 R268, R294) -/

def causeName : Option PortCause → String
  | none => "NONE" | some .rck => "RCK" | some .rfr => "RFR" | some .silent => "SILENT"
/-- The logical channel that a port serves. -/
def State.portChannel (s : State) (x : Nat) : RVal :=
  match (List.range s.channels).find? fun c => (s.portsOf c).contains x with
  | some c => .nat c
  | none => .absent

def execPortShow (t : Tick) (u : Line) : State → Host.Outcome State Fault Refusal :=
  usithRead t u [portArg] fun s =>
    let p := s.port? (linePort u)
    [.ok [("fitted", .nat (s.fitted (linePort u)).toNat), ("state", .word (if p.fault.isSome then "FAULT" else "OK")), ("cause", .word (causeName p.fault)),
      ("lch", s.portChannel (linePort u)), ("readback", if p.readback.isEmpty then .absent else .bytes p.readback)]]

/-- PORT RESTORE (R412): back in service at the boundary of R26, where the mode is decided again. -/
def execPortRestore (t : Tick) (u : Line) : State → Host.Outcome State Fault Refusal :=
  usith t u [portArg] .work always fun s n =>
    if (s.port? (linePort u)).fault.isNone then s.answer u.ses n [.err 11 []] else
    ((s.modPort (linePort u) fun p => { p with restoreAt := p.restoreAt ++ [s.atStamp] }).decideMode).answer u.ses n [.ok [("at", .nat s.atStamp.toNat)]]

/-- The lengths of a script end exactly at its last byte (R412). -/
def scriptEnds : Nat → Bytes → Bool
  | 0, b => b.isEmpty
  | _, [] => true
  | k + 1, n :: bs => if bs.length < n.toNat then false else scriptEnds k (bs.drop n.toNat)

def scriptLoadArgs : List ArgSpec :=
  [portArg, { arg := .kind, form := .one (.words [.init, .tune]) }, { arg := .centre, form := .one (.count 0 8), need := false }, tagArg]

/-- SCRIPT LOAD. -/
def execScriptLoad (t : Tick) (u : Line) : State → Host.Outcome State Fault Refusal :=
  usith t u scriptLoadArgs
      .work always fun s n =>
    let tune := lineKw u .kind .tune
    if tune && !lineHas u .centre then s.answer u.ses n [.err 8 []]
    else if !tune && lineHas u .centre then s.answer u.ses n [.err 7 []]
    else match s.takeInput 0x21 (lineNat u .tag 0) with
      | (none, s) => s.answer u.ses n [.err 23 []]
      | (some f, s) =>
        let x := linePort u
        let c := if tune then some (lineNat u .centre 0) else none
        if (if tune then 32 else 1024) < f.body.length || !scriptEnds f.body.length f.body then s.answer u.ses n [.err 9 []]
        else
          let rest := s.settings.stagedScripts.filter fun y => !(y.1 == x && y.2.1 == c)
          ({ s with settings := { s.settings with stagedScripts := rest ++ [(x, c, f.body)] } } : State).answer u.ses n [.ok [("staged", .flag)]]

/-! ## The pair (R413 to R415) -/

def pairArgs : List ArgSpec :=
  [{ arg := .side, form := .one (.words [.a, .b]) }, { arg := .partner, form := .one onOff }]

/-- PAIR: live at the next power-up or RST_N. -/
def execPair (t : Tick) (u : Line) : State → Host.Outcome State Fault Refusal :=
  usith t u pairArgs .work never fun s n =>
    ({ s with archive := { s.archive with sideB := lineKw u .side .b, partner := lineKw u .partner .on } } : State).answer u.ses n
      [.ok [("effective", .word "RESTART")]]

def SpineState.name : SpineState → String
  | .off => "OFF" | .down => "DOWN" | .training => "TRAINING" | .up => "UP"
def execSpineShow (t : Tick) (u : Line) : State → Host.Outcome State Fault Refusal :=
  usithRead t u [] fun s => [.ok [("state", .word s.spine.state.name), ("delay", .nat (s.spine.delay / crystalTicks)),
    ("secure", .word (if s.getN .spineSecure = 1 then "ON" else "OFF")), ("session", .hex s.spine.session.toNat 8), ("resent", .nat s.spine.resent),
    ("discarded", .nat s.spine.discarded)]]

/-- SPINE KEY (R414). -/
def execSpineKey (t : Tick) (u : Line) : State → Host.Outcome State Fault Refusal :=
  usith t u [tagArg] .sign never fun s n =>
    if s.getN .spineSecure = 1 then s.answer u.ses n [.err 11 []] else
    match s.takeInput 0x21 (lineNat u .tag 0) with
    | (none, s) => s.answer u.ses n [.err 23 []]
    | (some f, s) =>
      if f.body.length ≠ 32 then s.answer u.ses n [.err 9 []]
      else ({ s with archive := { s.archive with spineKey := some f.body } } : State).answer u.ses n [.ok []]

/-- ROLE YIELD (R415): ROLE 3 from the next heartbeat on, and the boundary at which the standby is expected to take over. -/
def execRoleYield (t : Tick) (u : Line) : State → Host.Outcome State Fault Refusal :=
  usith t u [] .work always fun s n =>
    if s.roleSt.role ≠ .primary ∨ !s.hasAligned then s.answer u.ses n [.err 11 []] else
    let b := if s.spine.nextBeat + 500 * usTicks ≤ s.nextBoundary then s.stamp.number + 1 else s.stamp.number + 2
    let s := (s.setRole .yielding).sendSeq (.role .yield)
    ({ s with roleSt := { s.roleSt with yieldAt := some b } } : State).answer u.ses n [.ok [("at", .nat b.toNat)]]

/-! ## Power (R416, 15 R442) -/

/-- What POWER SHOW reads of the board. -/
def readings : List String :=
  ["vdd_porter", "vdd_io33", "vdd_io18", "vdd_ana", "vdd_mram", "vdd_core", "auxs", "holdup", "temperature"]
def execPowerShow (t : Tick) (u : Line) : State → Host.Outcome State Fault Refusal :=
  usithRead t u [] fun s => [.ok ((readings.mapIdx fun i w => (w, RVal.nat (Config.reading i s.now)))
    ++ [("gated", .hex (s.stackMask (·.gated)) 1), econField s.stamp.economy, ("start", .word s.power.start.name), ("restored", .nat s.restoredCount),
      ("skipped", .nat s.skipped)])]

/-! ## Inventory (16 R457, R458) -/

/-- An inventory may be asked of a stack: FREE, or WEEDED in MANUFACTURE or RETURNED. -/
def State.mayInventory (s : State) (k : Nat) : Bool :=
  let x := s.stk k
  let life := lifeIndex s.life
  s.freeStack k || (x.present && x.weeded && x.shares.isEmpty && (life == 1 || life == 4))

def inventoryArgs : List ArgSpec :=
  [{ arg := .stack, form := .one (.count 0 3) }]

/-- INVENTORY: in DEPLOYED an expert form. -/
def execInventory (t : Tick) (u : Line) : State → Host.Outcome State Fault Refusal :=
  usith t u inventoryArgs .inventory never fun s n =>
    let k := lineNat u .stack 0
    if lifeIndex s.life = 3 ∧ !(s.ses u.ses).expert then s.answer u.ses n [.err 10 []]
    else if !s.mayInventory k || s.invBusy then s.answer u.ses n [.err 11 []]
    else
      let b := s.atStamp
      ((s.resetTurn k).modStk k fun x => { x with invDue := some b }).answer u.ses n [.ok [("at", .nat b.toNat)]]

def InvResult.name : InvResult → String
  | .pass => "PASS" | .repaired => "REPAIRED" | .shelves => "SHELVES" | .annex => "ANNEX" | .stack => "STACK" | .aborted => "ABORTED"
/-- INVENTORY SHOW: for each stack the stamp and result of its last inventory, and the stack whose interval ends first. -/
def execInventoryShow (t : Tick) (u : Line) : State → Host.Outcome State Fault Refusal :=
  usithRead t u [] fun s =>
    let one : Nat → List (String × RVal) := fun k => match (s.stk k).lastInv with
      | some (b, r) => [("last", .nat b.toNat), ("result", .word r.name)]
      | none => [("last", .absent), ("result", .absent)]
    let next := s.steward.invAt.foldl (fun (b : Option (Nat × Tick)) p => match b with
      | some q => if p.2 < q.2 then some p else b
      | none => some p) none
    [.ok ((List.range 4).flatMap one ++ [("next", match next with
      | some p => .nat p.1
      | none => .absent)])]

/-! ## Lectern and life-cycle (16 R461, R463) -/

/-- A signal by its place in 16 Table 16.5. -/
def lectSig (n : Nat) : LectSig := if n = 0 then .stamp else if n = 1 then .ready else if n < 6 then .busy (n - 2) else .full (n - 6)
def lineSel (u : Line) (a : Arg) : Nat :=
  match lineVal u a with
  | some (.sel n) => n
  | _ => 0

def lecternArgs : List ArgSpec :=
  [{ arg := .sel0, form := .signal }, { arg := .sel1, form := .signal }]

def execLectern (t : Tick) (u : Line) : State → Host.Outcome State Fault Refusal :=
  usith t u lecternArgs .read never fun s n =>
    let a := lineSel u .sel0
    let b := lineSel u .sel1
    let life := lifeIndex s.life
    if (6 ≤ a ∨ 6 ≤ b) ∧ life ≠ 1 ∧ life ≠ 4 then s.answer u.ses n [.err 11 []]
    else ({ s with test := { s.test with lect0 := lectSig a, lect1 := lectSig b } } : State).answer u.ses n [.ok []]

/-- ENMASK and the key slots that a move to PROVISIONED requires (16 Table 16.7). -/
def State.provisionable (s : State) : Bool :=
  let fuse : Nat → Bool := s.test.fuses.getLsbD
  decide (2 ≤ ((List.range 4).filter fun k => fuse (8 + k)).length) && ((fuse 8 && fuse 9) || (fuse 10 && fuse 11))
    && (List.range 4).any fun k => fuse (12 + k) && !fuse (16 + k)

def lifeArgs : List ArgSpec :=
  [{ arg := .dest, form := .one (.words [.manufacture, .provisioned, .deployed, .returned]) }, { arg := .confirm, form := .one u32 }]

/-- LIFE (R417): at the next boundary, or at once in BLANK. -/
def execLife (t : Tick) (u : Line) : State → Host.Outcome State Fault Refusal :=
  usith t u lifeArgs
      .life never fun s n =>
    let dest := if lineKw u .dest .manufacture then 1 else if lineKw u .dest .provisioned then 2 else if lineKw u .dest .deployed then 3 else 4
    if dest ≠ lifeIndex s.life + 1 then s.answer u.ses n [.err 11 []]
    else if lineNat u .confirm 0 ≠ s.stamp.run.toNat then s.answer u.ses n [.err 9 []]
    else if (dest = 2 ∧ !s.provisionable) ∨ (dest = 4 ∧ s.roleSt.leads ∧ !s.nodes.isEmpty) then s.answer u.ses n [.err 11 []]
    else if s.blank then (s.answer u.ses n [.ok [("at", .nat 0)]]).lifeMove dest
    else ({ s with test := { s.test with lifeDue := s.test.lifeDue ++ [(dest, s.atStamp)] } } : State).answer u.ses n [.ok [("at", .nat s.atStamp.toNat)]]

end Sys2Proof.Machine
end

