-- ==== Sys2Proof/Machine/Scan.lean ====
section
/-! DEFINITION. The test access port (16 R462, Table 16.6). A row of the table is one scan with that instruction: the
instruction is loaded, `tdi` is shifted through the register it selects, least significant bit first, and the update ends
it. `shiftOut` is what TDO gave (log 45). -/

namespace Sys2Proof.Machine

/-- The access port is powered: every rail has reported good (log 45). -/
def State.tapOn (s : State) : Bool := s.power.porter && s.power.good == 31#5

/-- MANUFACTURE or RETURNED: every instruction of Table 16.6 is decoded. -/
def State.tapOpen (s : State) : Bool := s.life == 1 || lifeIndex s.life == 4

/-- The codes of Table 16.6; every other is BYPASS (IEEE 1149.1). -/
def TapIr.ofCode (c : BitVec 8) : TapIr :=
  match c.toNat with
  | 0x00 => .extest | 0x01 => .idcode | 0x02 => .sample | 0x03 => .clamp | 0x04 => .highz | 0x20 => .fuseread | 0x21 => .fuseprog
  | _ => .bypass
/-- An instruction as the life-cycle state decodes it. -/
def State.decodeIr (s : State) (x : TapIr) : TapIr := if s.tapOpen || x == .idcode then x else .bypass
/-- The instruction that a code in the instruction register gives now. -/
def State.loads (s : State) (c : BitVec 8) : TapIr := s.decodeIr (TapIr.ofCode c)

/-! The boundary register covers every digital signal pin and each LVDS pair; its order is the part's BSDL's, and the access port's own pins are
none of its cells (IEEE 1149.1). The model takes one cell a pin in the order of 17 Table 17.2 (log 45). -/

/-- The signal pins (17 Table 17.2): an LVDS pair is one. -/
inductive Pin where
  | iqTx (x pair : Nat) | iqRx (x pair : Nat) | iqSck (x : Nat) | iqSdo (x : Nat) | iqScsN (x : Nat) | iqSdi (x : Nat) | iqTxen (x : Nat)
  | iqRxen (x : Nat)
  | hsck | hcsN | hio (i : Nat) | hrdy | hirqN | utx | urx | rstN | lect (i : Nat) | btnOut | btnSense | tck | tms | tdi | trstN | tdo
  | bken (k : Nat) | bkpg (k : Nat) | xi | xo | xti | xto | spn | isa | isb | vm (i : Nat) | auxs
  deriving DecidableEq, Repr

/-- The cells of the boundary register. -/
def boundaryPins : List Pin :=
  ((List.range 4).flatMap fun x => (List.range 4).map (Pin.iqTx x) ++ (List.range 4).map (Pin.iqRx x)
      ++ [.iqSck x, .iqSdo x, .iqScsN x, .iqSdi x, .iqTxen x, .iqRxen x])
    ++ [.hsck, .hcsN] ++ (List.range 4).map Pin.hio ++ [.hrdy, .hirqN, .utx, .urx, .rstN, .lect 0, .lect 1, .btnOut, .btnSense]
    ++ (List.range 5).map Pin.bken ++ (List.range 5).map Pin.bkpg

/-- BYPASS: one bit that captures 0. -/
def State.scanBypass (s : State) (tdi : Bits) : State :=
  { s with test := { s.test with
      ir := .bypass
      logicReset := false
      shiftOut := (false :: tdi).take tdi.length
      bypassBit := tdi.getLastD false } }

/-- An instruction with no register of its own selects bypass and shifts nothing here. -/
def State.scanHold (s : State) (ir : TapIr) : State := { s with test := { s.test with ir := ir, logicReset := false, shiftOut := [], bypassBit := false } }

/-- `n` bits of a capture whose values the spec does not give: the pins, seen from outside. -/
def State.capture (s : State) (n : Nat) : Bits × State :=
  ((List.range n).map fun i => Config.scanBit s.free i, { s with free := s.free + 1 })

/-- EXTEST and SAMPLE/PRELOAD: the pins are captured, and the register shifts by as many bits as come in. -/
def State.scanBoundary (s : State) (ir : TapIr) (tdi : Bits) : State :=
  let cap := s.capture boundaryPins.length
  let all := cap.1 ++ tdi
  { cap.2 with test := { cap.2.test with ir := ir, logicReset := false, shiftOut := all.take tdi.length, boundary := all.drop tdi.length } }

/-- The 32 bits of IDCODE: stepping, 0xE440, manufacturer code and 1. -/
def idcodeWord : BitVec 32 := Config.stepping ++ 0xE440#16 ++ Config.manufacturer ++ 1#1

/-- The bits of a register, least significant first. -/
def lsbBits (w : Nat) (v : BitVec w) : Bits := (List.range w).map v.getLsbD

/-- EXTEST drives the boundary register onto the pins. -/
def execExtest (t : Tick) (tdi : Bits) : State → Host.Outcome State Fault Refusal :=
  occurs t State.tapOn fun s => if s.loads 0x00 = .extest then s.scanBoundary .extest tdi else s.scanBypass tdi

/-- IDCODE is decoded in every state. -/
def execIdcode (t : Tick) : State → Host.Outcome State Fault Refusal :=
  occurs t State.tapOn fun s => { s with test := { s.test with ir := s.loads 0x01, logicReset := false, shiftOut := lsbBits 32 idcodeWord } }

/-- SAMPLE/PRELOAD. -/
def execSamplePreload (t : Tick) (tdi : Bits) : State → Host.Outcome State Fault Refusal :=
  occurs t State.tapOn fun s => if s.loads 0x02 = .sample then s.scanBoundary .sample tdi else s.scanBypass tdi

/-- CLAMP holds the outputs from the boundary register, with bypass selected. -/
def execClamp (t : Tick) : State → Host.Outcome State Fault Refusal :=
  occurs t State.tapOn fun s => s.scanHold (s.loads 0x03)

/-- HIGHZ. -/
def execHighz (t : Tick) : State → Host.Outcome State Fault Refusal :=
  occurs t State.tapOn fun s => s.scanHold (s.loads 0x04)

/-- FUSEREAD: the 1,344 bits of Table 16.8; where it is not decoded, a bypass scan that shifts nothing. -/
def execFuseread (t : Tick) : State → Host.Outcome State Fault Refusal :=
  occurs t State.tapOn fun s =>
    if s.loads 0x20 = .fuseread then { s with test := { s.test with ir := .fuseread, logicReset := false, shiftOut := lsbBits 1344 s.test.fuses } }
    else s.scanHold .bypass

/-- FUSEPROG blows each bit shifted in as 1: any in MANUFACTURE, those of REVOKE alone in RETURNED. -/
def execFuseprog (t : Tick) (v : BitVec 1344) : State → Host.Outcome State Fault Refusal :=
  occurs t State.tapOn fun s =>
    if s.loads 0x21 = .fuseprog then
      let cap := s.capture 1344
      let mask : Nat := if s.life == 1 then 2 ^ 1344 - 1 else 0xF0000
      let s : State := { cap.2 with test := { cap.2.test with ir := .fuseprog, logicReset := false, shiftOut := cap.1 } }
      s.blow (v.toNat &&& mask)
    else s.scanBypass (lsbBits 1344 v)

/-- BYPASS, and every code that Table 16.6 does not list. -/
def execBypass (t : Tick) (tdi : Bits) : State → Host.Outcome State Fault Refusal :=
  occurs t State.tapOn fun s => s.scanBypass tdi

/-- While TRST_N is low the port stays in Test-Logic-Reset, whose instruction is IDCODE (IEEE 1149.1); the next scan is
with TRST_N high. -/
def execTrstNLow (t : Tick) : State → Host.Outcome State Fault Refusal :=
  occurs t (fun _ => true) fun s => { s with test := { s.test with ir := .idcode, logicReset := true, shiftOut := [] } }

/-- What the pins show: the boundary register under EXTEST and CLAMP, high impedance under HIGHZ, else the hub's own signals. -/
inductive PinDrive where
  | hub | boundary | highz
  deriving DecidableEq, Repr

/-- What drives the pins now: an instruction loaded before a life-cycle move is decoded as the new state decodes it (R462, R463). -/
def State.drive (s : State) : PinDrive :=
  if s.test.logicReset then .hub else
  match s.decodeIr s.test.ir with
  | .extest | .clamp => .boundary
  | .highz => .highz
  | _ => .hub

end Sys2Proof.Machine
end

