-- ==== Sys2Proof/Machine/Stack.lean ====
section
/-! DEFINITION. The commands of the stack command set (06, 07): the submission of a charge, the start of each opcode's descriptor, the end
of a descriptor, and preemption and slices. -/

namespace Sys2Proof.Machine

/-- CHARGE_SUBMIT (06 R185): the submission checks, then admission or the queue. -/
def execChargeSubmit (t : Tick) (cmd : ChargeSpec) : State → Host.Outcome State Fault Refusal :=
  occurs t (fun s => s.up && s.steward.aDown.isNone && s.maySubmit cmd) fun s => s.submit cmd

/-! ## What the check bits show (03 R67, R69, 16 R454, R455) -/

/-- Words of a stack's stores that hold errors: those of the working carrel below 393,216, those of the carrel reserve from there on, block by block,
and spill pages, which show in the block that they hold. -/
def StackSt.strike (k : StackSt) (hw : Strikes) : StackSt :=
  { k with
    saved := k.saved.map fun b =>
      let hit : Bool := if b.spill then hw.spill.any fun p => p / 8 == b.place / 8 else hw.carrel.any fun w => decide (393216 ≤ w ∧ (w - 393216) / 8192 = b.place)
      if hit then { b with bad := true } else b
    softWords := k.softWords ++ hw.soft.filter fun w => decide (w < 1572864)
    badWords := k.badWords ++ hw.store.filter fun w => decide (w < 1572864)
    badCarrel := k.badCarrel ++ hw.carrel.filter fun w => decide (w < 393216) }
/-- A stream whose ledger image lies in a page with an uncorrectable error. -/
def StreamSt.strike (x : StreamSt) (hw : Strikes) : StreamSt :=
  match hw.pages.find? fun p => p.2 == x.sid with
  | some p => if x.place = .parked then { x with damaged := some p.1 } else x
  | none => x
/-- The folio that the next stream-in of a stack reads. -/
def State.nextFill (s : State) (stack : Nat) : Option FolioSt :=
  ((s.stk stack).nextOf .fill).bind fun p => (s.charge? p.2.charge).bind s.fillFolio
/-- The errors that the stores hold as a descriptor of an opcode starts; the archive shows the unreadable blocks of the folio that a stream-in
reads. -/
def State.strike (s : State) (stack : Nat) (o : Op) (hw : Strikes) : State :=
  let fid := if o = .streamin then (s.nextFill stack).map fun f => f.info.fid else none
  { (s.modStk stack fun k => k.strike hw) with
    streams := s.streams.map fun x => x.strike hw
    archive := { s.archive with folios := s.archive.folios.map fun f => if fid = some f.info.fid then { f with badBlocks := hw.blocks } else f } }
/-- The next descriptor of an opcode starts on a stack, whose stores hold what they hold. -/
def State.startOn (s : State) (a : StackAt) (o : Op) : State := (s.strike a.k o a.hw).startDesc a.k o

/-! ## Descriptors -/

/-- STREAMIN (06 R172): the next block of a stream-in starts. -/
def execStreamin (t : Tick) (stk : StackAt) : State → Host.Outcome State Fault Refusal :=
  occurs t (fun s => s.starts stk.k .streamin) fun s => s.startOn stk .streamin

/-- MATMUL (06 R164): one matrix layer. -/
def execMatmul (t : Tick) (stk : StackAt) : State → Host.Outcome State Fault Refusal :=
  occurs t (fun s => s.starts stk.k .matmul) fun s => s.startOn stk .matmul

/-- SCAN (06 R169): one state layer. -/
def execScan (t : Tick) (stk : StackAt) : State → Host.Outcome State Fault Refusal :=
  occurs t (fun s => s.starts stk.k .scan) fun s => s.startOn stk .scan

/-- BIND (06 R171): one element-wise operation. -/
def execBind (t : Tick) (stk : StackAt) : State → Host.Outcome State Fault Refusal :=
  occurs t (fun s => s.starts stk.k .bind) fun s => s.startOn stk .bind

/-- RECALL (06 R173): images from the ledger to HOME. -/
def execRecall (t : Tick) (stk : StackAt) : State → Host.Outcome State Fault Refusal :=
  occurs t (fun s => s.starts stk.k .recall) fun s => s.startOn stk .recall

/-- PARK (06 R173): committed images from HOME to the ledger. -/
def execPark (t : Tick) (stk : StackAt) : State → Host.Outcome State Fault Refusal :=
  occurs t (fun s => s.starts stk.k .park) fun s => s.startOn stk .park

/-- COMMIT (06 R174): one step of each named stream, in one act. -/
def execCommit (t : Tick) (stk : StackAt) : State → Host.Outcome State Fault Refusal :=
  occurs t (fun s => s.starts stk.k .commit) fun s => s.startOn stk .commit

/-- XFER (06 R175): bytes to the carrel of another stack. -/
def execXfer (t : Tick) (stk : StackAt) : State → Host.Outcome State Fault Refusal :=
  occurs t (fun s => s.starts stk.k .xfer) fun s => s.startOn stk .xfer

/-- SHADOW (06 R176): the drift shadow of the watched channel. -/
def execShadow (t : Tick) (stk : StackAt) : State → Host.Outcome State Fault Refusal :=
  occurs t (fun s => s.starts stk.k .shadow) fun s => s.startOn stk .shadow

/-- DIGEST (06 R177): carrel bytes into a digest context. -/
def execDigest (t : Tick) (stk : StackAt) : State → Host.Outcome State Fault Refusal :=
  occurs t (fun s => s.starts stk.k .digest) fun s => s.startOn stk .digest

/-- COLOPHON (06 R177): the context finalised and the colophon written. -/
def execColophon (t : Tick) (stk : StackAt) : State → Host.Outcome State Fault Refusal :=
  occurs t (fun s => s.starts stk.k .colophon) fun s => s.startOn stk .colophon

/-- SYNC (06 R178): every earlier descriptor of the queue has completed. -/
def execSync (t : Tick) (stk : StackAt) : State → Host.Outcome State Fault Refusal :=
  occurs t (fun s => s.starts stk.k .sync) fun s => s.startOn stk .sync

/-- DESCRIPTOR_COMPLETE (06 R188): the descriptor of an engine has had its cycles and ends. -/
def execDescriptorComplete (t : Tick) (stk : Nat) (eng : Engine) : State → Host.Outcome State Fault Refusal :=
  occurs t (fun s => (s.stk stk).usable && ((s.stk stk).runOn eng).any fun r => s.dueBy stk r && s.completionTurn stk r)
    fun s => s.completeDesc stk eng

/-- PREEMPTION (07 R203): a charge of a higher class issues the stop request. -/
def execPreemption (t : Tick) (stk slot : Nat) : State → Host.Outcome State Fault Refusal :=
  occurs t (fun s => s.preemptDue stk slot && decide (s.turnAt stk (.preempt slot) ≤ s.now) && s.quietBefore (s.turnAt stk (.preempt slot))) fun s => s.preempt stk slot

/-- STOP_POINT (06 R181): the stopped descriptors have reached their stop points; claimed blocks are saved. -/
def execStopPoint (t : Tick) (stk : Nat) : State → Host.Outcome State Fault Refusal :=
  occurs t (fun s => s.stopDue stk) fun s => s.stopPoint stk

/-- RESUME (06 R182): the preempting charge has ended; saved blocks are restored and stopped descriptors resume. -/
def execResume (t : Tick) (stk : Nat) : State → Host.Outcome State Fault Refusal :=
  occurs t (fun s => s.resumeDue stk && decide (s.turnAt stk .resume ≤ s.now) && s.quietBefore (s.turnAt stk .resume)) fun s => s.resumeStops stk

/-- SLICE_END (07 R208): the next patron of the class has its turn. -/
def execSliceEnd (t : Tick) (stk : Nat) : State → Host.Outcome State Fault Refusal :=
  occurs t (fun s => (s.sliceDue stk).any fun e => s.quietBefore e.2.2) fun s => s.endSlice stk

end Sys2Proof.Machine
end

