-- ==== Sys2Proof/Machine/Dispatch.lean ====
section
/-! DEFINITION. One arm per command: the meaning of each row of the table, by name. -/

namespace Sys2Proof.Machine

def exec (i : Instr) (s : State) : Host.Outcome State Fault Refusal :=
  match i with
  | .powerUp t => Sys2Proof.Machine.execPowerUp t s
  | .busCheckEnd t => Sys2Proof.Machine.execBusCheckEnd t s
  | .railEnable t => Sys2Proof.Machine.execRailEnable t s
  | .railPowerGood t rail => Sys2Proof.Machine.execRailPowerGood t rail s
  | .railGoodTimeout t => Sys2Proof.Machine.execRailGoodTimeout t s
  | .railGoodLost t rail => Sys2Proof.Machine.execRailGoodLost t rail s
  | .railRestart t => Sys2Proof.Machine.execRailRestart t s
  | .bootRecordRead t => Sys2Proof.Machine.execBootRecordRead t s
  | .pllLock t => Sys2Proof.Machine.execPllLock t s
  | .stewardBoot t => Sys2Proof.Machine.execStewardBoot t s
  | .stackWake t stk => Sys2Proof.Machine.execStackWake t stk s
  | .startupInventoryEnd t stk failed => Sys2Proof.Machine.execStartupInventoryEnd t stk failed s
  | .roleDecision t => Sys2Proof.Machine.execRoleDecision t s
  | .beaconListenEnd t => Sys2Proof.Machine.execBeaconListenEnd t s
  | .unalignedPromotion t => Sys2Proof.Machine.execUnalignedPromotion t s
  | .hrdyRise t => Sys2Proof.Machine.execHrdyRise t s
  | .snapshotRestore t => Sys2Proof.Machine.execSnapshotRestore t s
  | .streamRecordRestore t => Sys2Proof.Machine.execStreamRecordRestore t s
  | .brownOut t mains => Sys2Proof.Machine.execBrownOut t mains s
  | .brownOutHrdyLow t => Sys2Proof.Machine.execBrownOutHrdyLow t s
  | .snapshotWrite t => Sys2Proof.Machine.execSnapshotWrite t s
  | .snapshotSeal t => Sys2Proof.Machine.execSnapshotSeal t s
  | .busRestart t => Sys2Proof.Machine.execBusRestart t s
  | .rstNLow t => Sys2Proof.Machine.execRstNLow t s
  | .rstNRelease t => Sys2Proof.Machine.execRstNRelease t s
  | .stampBoundary t => Sys2Proof.Machine.execStampBoundary t s
  | .takeoverBoundary t => Sys2Proof.Machine.execTakeoverBoundary t s
  | .admissionPass t stk => Sys2Proof.Machine.execAdmissionPass t stk s
  | .sampleMark t => Sys2Proof.Machine.execSampleMark t s
  | .conversion t ia ib mains => Sys2Proof.Machine.execConversion t ia ib mains s
  | .currentMean t => Sys2Proof.Machine.execCurrentMean t s
  | .heartbeatSend t => Sys2Proof.Machine.execHeartbeatSend t s
  | .starvedEvent t => Sys2Proof.Machine.execStarvedEvent t s
  | .unservedEvent t => Sys2Proof.Machine.execUnservedEvent t s
  | .divsum t => Sys2Proof.Machine.execDivsum t s
  | .chargeSubmit t cmd => Sys2Proof.Machine.execChargeSubmit t cmd s
  | .streamin t stk => Sys2Proof.Machine.execStreamin t stk s
  | .matmul t stk => Sys2Proof.Machine.execMatmul t stk s
  | .scan t stk => Sys2Proof.Machine.execScan t stk s
  | .bind t stk => Sys2Proof.Machine.execBind t stk s
  | .recall t stk => Sys2Proof.Machine.execRecall t stk s
  | .park t stk => Sys2Proof.Machine.execPark t stk s
  | .commit t stk => Sys2Proof.Machine.execCommit t stk s
  | .xfer t stk => Sys2Proof.Machine.execXfer t stk s
  | .shadow t stk => Sys2Proof.Machine.execShadow t stk s
  | .digest t stk => Sys2Proof.Machine.execDigest t stk s
  | .colophon t stk => Sys2Proof.Machine.execColophon t stk s
  | .sync t stk => Sys2Proof.Machine.execSync t stk s
  | .descriptorComplete t stk eng => Sys2Proof.Machine.execDescriptorComplete t stk eng s
  | .refitUpdate t corrected => Sys2Proof.Machine.execRefitUpdate t corrected s
  | .publish t => Sys2Proof.Machine.execPublish t s
  | .preemption t stk slot => Sys2Proof.Machine.execPreemption t stk slot s
  | .stopPoint t stk => Sys2Proof.Machine.execStopPoint t stk s
  | .resume t stk => Sys2Proof.Machine.execResume t stk s
  | .sliceEnd t stk => Sys2Proof.Machine.execSliceEnd t stk s
  | .hang t stk eng => Sys2Proof.Machine.execHang t stk eng s
  | .isolationReport t stk => Sys2Proof.Machine.execIsolationReport t stk s
  | .inventoryEnd t stk f => Sys2Proof.Machine.execInventoryEnd t stk f s
  | .scheduledInventory t => Sys2Proof.Machine.execScheduledInventory t s
  | .ledgerScrub t corrected => Sys2Proof.Machine.execLedgerScrub t corrected s
  | .lockstepA t => Sys2Proof.Machine.execLockstepA t s
  | .lockstepB t => Sys2Proof.Machine.execLockstepB t s
  | .stewardRestart t pairB => Sys2Proof.Machine.execStewardRestart t pairB s
  | .burstReceive t lch slot hdr offset => Sys2Proof.Machine.execBurstReceive t lch slot hdr offset s
  | .learnedDeadline t lch slot => Sys2Proof.Machine.execLearnedDeadline t lch slot s
  | .burstOutcome t lch slot learned twin m => Sys2Proof.Machine.execBurstOutcome t lch slot learned twin m s
  | .lossInstant t => Sys2Proof.Machine.execLossInstant t s
  | .receiverRelease t => Sys2Proof.Machine.execReceiverRelease t s
  | .callSend t lch => Sys2Proof.Machine.execCallSend t lch s
  | .orderSend t lch dslot => Sys2Proof.Machine.execOrderSend t lch dslot s
  | .tuneScript t => Sys2Proof.Machine.execTuneScript t s
  | .portfault t port cause => Sys2Proof.Machine.execPortfault t port cause s
  | .batonReturn t => Sys2Proof.Machine.execBatonReturn t s
  | .batonbreak t => Sys2Proof.Machine.execBatonbreak t s
  | .accofferSend t => Sys2Proof.Machine.execAccofferSend t s
  | .btnSenseSample t high => Sys2Proof.Machine.execBtnSenseSample t high s
  | .chainbreak t => Sys2Proof.Machine.execChainbreak t s
  | .trainingPhase t phase => Sys2Proof.Machine.execTrainingPhase t phase s
  | .trainingTimeout t => Sys2Proof.Machine.execTrainingTimeout t s
  | .train t rx info => Sys2Proof.Machine.execTrain t rx info s
  | .heartbeat t rx payload => Sys2Proof.Machine.execHeartbeat t rx payload s
  | .role t rx n => Sys2Proof.Machine.execRole t rx n s
  | .config t rx item live => Sys2Proof.Machine.execConfig t rx item live s
  | .sense t rx stamp ms ca cb mains => Sys2Proof.Machine.execSense t rx stamp ms ca cb mains s
  | .seal t rx recs => Sys2Proof.Machine.execSeal t rx recs s
  | .card t rx head body twin => Sys2Proof.Machine.execCard t rx head body twin s
  | .spineResend t => Sys2Proof.Machine.execSpineResend t s
  | .spinesec t => Sys2Proof.Machine.execSpinesec t s
  | .sealSend t => Sys2Proof.Machine.execSealSend t s
  | .primaryLost t => Sys2Proof.Machine.execPrimaryLost t s
  | .partnerBeacon t run side => Sys2Proof.Machine.execPartnerBeacon t run side s
  | .estimateFrameWrite t => Sys2Proof.Machine.execEstimateFrameWrite t s
  | .eventFrameWrite t => Sys2Proof.Machine.execEventFrameWrite t s
  | .heldFrameWrite t ring => Sys2Proof.Machine.execHeldFrameWrite t ring s
  | .statusBlockUpdate t => Sys2Proof.Machine.execStatusBlockUpdate t s
  | .transactionTimeout t => Sys2Proof.Machine.execTransactionTimeout t s
  | .irqWrite t v => Sys2Proof.Machine.execIrqWrite t v s
  | .irqenWrite t v => Sys2Proof.Machine.execIrqenWrite t v s
  | .errWrite t v => Sys2Proof.Machine.execErrWrite t v s
  | .h2mlenWrite t v => Sys2Proof.Machine.execH2mlenWrite t v s
  | .m2hlenWrite t v => Sys2Proof.Machine.execM2hlenWrite t v s
  | .consWrite t ring v => Sys2Proof.Machine.execConsWrite t ring v s
  | .prodWrite t ring v => Sys2Proof.Machine.execProdWrite t ring v s
  | .registerWrite t addr data => Sys2Proof.Machine.execRegisterWrite t addr data s
  | .partialLineTimeout t => Sys2Proof.Machine.execPartialLineTimeout t s
  | .session t u => Sys2Proof.Machine.execSession t u s
  | .ident t u => Sys2Proof.Machine.execIdent t u s
  | .stamp t u => Sys2Proof.Machine.execStamp t u s
  | .set t u pairs => Sys2Proof.Machine.execSet t u pairs s
  | .showSetting t u => Sys2Proof.Machine.execShowSetting t u s
  | .discard t u => Sys2Proof.Machine.execDiscard t u s
  | .apply t u => Sys2Proof.Machine.execApply t u s
  | .save t u => Sys2Proof.Machine.execSave t u s
  | .accession t u => Sys2Proof.Machine.execAccession t u s
  | .nodeShow t u => Sys2Proof.Machine.execNodeShow t u s
  | .balance t u => Sys2Proof.Machine.execBalance t u s
  | .owtest t u => Sys2Proof.Machine.execOwtest t u s
  | .breakClear t u => Sys2Proof.Machine.execBreakClear t u s
  | .nodeQuery t u => Sys2Proof.Machine.execNodeQuery t u s
  | .nodeSleep t u => Sys2Proof.Machine.execNodeSleep t u s
  | .protectAck t u => Sys2Proof.Machine.execProtectAck t u s
  | .twinsetLoad t u => Sys2Proof.Machine.execTwinsetLoad t u s
  | .streamCreate t u => Sys2Proof.Machine.execStreamCreate t u s
  | .streamFree t u => Sys2Proof.Machine.execStreamFree t u s
  | .streamExport t u => Sys2Proof.Machine.execStreamExport t u s
  | .streamCopy t u => Sys2Proof.Machine.execStreamCopy t u s
  | .streamImport t u => Sys2Proof.Machine.execStreamImport t u s
  | .streamShow t u => Sys2Proof.Machine.execStreamShow t u s
  | .streamList t u => Sys2Proof.Machine.execStreamList t u s
  | .folioWrite t u => Sys2Proof.Machine.execFolioWrite t u s
  | .folioInstall t u f => Sys2Proof.Machine.execFolioInstall t u f s
  | .folioList t u => Sys2Proof.Machine.execFolioList t u s
  | .folioDelete t u => Sys2Proof.Machine.execFolioDelete t u s
  | .bindFolio t u => Sys2Proof.Machine.execBindFolio t u s
  | .unbind t u => Sys2Proof.Machine.execUnbind t u s
  | .loan t u => Sys2Proof.Machine.execLoan t u s
  | .release t u => Sys2Proof.Machine.execRelease t u s
  | .move t u => Sys2Proof.Machine.execMove t u s
  | .promote t u => Sys2Proof.Machine.execPromote t u s
  | .draftDiscard t u => Sys2Proof.Machine.execDraftDiscard t u s
  | .draftShow t u => Sys2Proof.Machine.execDraftShow t u s
  | .rollout t u => Sys2Proof.Machine.execRollout t u s
  | .regenerate t u => Sys2Proof.Machine.execRegenerate t u s
  | .job t u => Sys2Proof.Machine.execJob t u s
  | .cancel t u => Sys2Proof.Machine.execCancel t u s
  | .requestShow t u => Sys2Proof.Machine.execRequestShow t u s
  | .reportService t u => Sys2Proof.Machine.execReportService t u s
  | .reportLink t u => Sys2Proof.Machine.execReportLink t u s
  | .eventList t u => Sys2Proof.Machine.execEventList t u s
  | .portShow t u => Sys2Proof.Machine.execPortShow t u s
  | .portRestore t u => Sys2Proof.Machine.execPortRestore t u s
  | .scriptLoad t u => Sys2Proof.Machine.execScriptLoad t u s
  | .pair t u => Sys2Proof.Machine.execPair t u s
  | .spineShow t u => Sys2Proof.Machine.execSpineShow t u s
  | .spineKey t u => Sys2Proof.Machine.execSpineKey t u s
  | .roleYield t u => Sys2Proof.Machine.execRoleYield t u s
  | .powerShow t u => Sys2Proof.Machine.execPowerShow t u s
  | .inventory t u => Sys2Proof.Machine.execInventory t u s
  | .inventoryShow t u => Sys2Proof.Machine.execInventoryShow t u s
  | .lectern t u => Sys2Proof.Machine.execLectern t u s
  | .life t u => Sys2Proof.Machine.execLife t u s
  | .extest t tdi => Sys2Proof.Machine.execExtest t tdi s
  | .idcode t => Sys2Proof.Machine.execIdcode t s
  | .samplePreload t tdi => Sys2Proof.Machine.execSamplePreload t tdi s
  | .clamp t => Sys2Proof.Machine.execClamp t s
  | .highz t => Sys2Proof.Machine.execHighz t s
  | .fuseread t => Sys2Proof.Machine.execFuseread t s
  | .fuseprog t v => Sys2Proof.Machine.execFuseprog t v s
  | .bypass t tdi => Sys2Proof.Machine.execBypass t tdi s
  | .trstNLow t => Sys2Proof.Machine.execTrstNLow t s
  | .powerLoss t => Sys2Proof.Machine.execPowerLoss t s
  | .lineError t ses bytes overrun => Sys2Proof.Machine.execLineError t ses bytes overrun s
  | .partnerBurstReceive t b => Sys2Proof.Machine.execPartnerBurstReceive t b s
  | .drainEnd t stk slot => Sys2Proof.Machine.execDrainEnd t stk slot s
  | .spinePreamble t => Sys2Proof.Machine.execSpinePreamble t s
  | .spineDown t => Sys2Proof.Machine.execSpineDown t s
  | .promotionLagging t => Sys2Proof.Machine.execPromotionLagging t s

end Sys2Proof.Machine
end

