-- ==== Sys2Proof/Machine/Pins.lean ====
section
/-! DEFINITION. What the pins show in every state of the hub (15 R437, R444, Table 15.7, 17 R473, R474, R479), and the level of each lectern signal (16
R461, Table 16.5). What a pin shows is read from the state: no command changes it but through the state. -/

namespace Sys2Proof.Machine

/-! ## Banks (17 R474) -/

inductive Bank where
  | io18 | io33 | porter | ana
  deriving DecidableEq, Repr

/-- The bank of a pin (17 Table 17.2). -/
def Pin.bank : Pin → Bank
  | .iqTx _ _ | .iqRx _ _ | .iqSck _ | .iqSdo _ | .iqScsN _ | .iqSdi _ | .iqTxen _ | .iqRxen _ => .io18
  | .hsck | .hcsN | .hio _ | .hrdy | .hirqN | .utx | .urx | .rstN | .lect _ | .btnOut | .btnSense | .tck | .tms | .tdi | .trstN | .tdo => .io33
  | .bken _ | .bkpg _ | .xti | .xto | .auxs => .porter
  | .xi | .xo | .spn | .isa | .isb | .vm _ => .ana

/-- A bank's pins are powered: the porter's with VDD_PORTER alone, the others' once VDD_IO33 and VDD_IO18 have reported good, and the analogue ones'
with VDD_ANA too. That a rail is above its threshold from its good report on, until a shutdown begins, is the model's choice (log 160). -/
def State.bankOn (s : State) (b : Bank) : Bool :=
  s.power.porter && match b with
    | .porter => true
    | .io18 | .io33 => s.power.good.getLsbD 0 && s.power.good.getLsbD 1
    | .ana => s.power.good.getLsbD 0 && s.power.good.getLsbD 1 && s.power.good.getLsbD 2

/-! ## Lectern signals (16 Table 16.5) -/

/-- Within a span from an instant. -/
def State.lately (s : State) (at0 span : Tick) : Bool := decide (at0 ≤ s.now ∧ s.now < at0 + span)
/-- An engine of a stack runs a descriptor. -/
def State.engineRuns (s : State) (stack : Nat) (e : Engine) : Bool := (s.stk stack).running.any fun r => r.eng == e
/-- A level that the spec does not fix (log 160). -/
def State.freeLevel (s : State) (place : Nat) : Bool := Config.scanBit s.now (2000 + place)
/-- A slot of a stamp begins in the last microsecond: one of the frame on a channel, or one of accession. -/
def State.slotBegins (s : State) (lch : Nat) : Bool :=
  s.airUp && if s.air.acc then lch == 0 && (List.range s.accSlots).any fun j => s.lately (s.accAt j) (us 1)
    else decide (lch < s.air.nch) && decide (s.stamp.t0 + us 500 ≤ s.now ∧ s.now < s.frameEnd) && decide ((s.now - s.stamp.t0) % us 100 < us 1)

/-- The signals of the full set, by their place in Table 16.5. -/
def State.fullSignal (s : State) (k : Nat) : Bool :=
  if k < 4 then s.engineRuns k .main
  else if k < 8 then s.engineRuns (k - 4) .fill
  else if k < 12 then s.engineRuns (k - 8) .ledIn
  else if k < 16 then s.engineRuns (k - 12) .ledOut
  else if k < 20 then (s.stk (k - 16)).passDone && s.lately (s.passAt (k - 16)) (us 10) && s.freeLevel k
  else if k < 22 then s.engineRuns (2 * (k - 20)) .fill || s.engineRuns (2 * (k - 20) + 1) .fill
  else if k = 22 then (List.range 4).any fun j => (s.stk j).running.any fun r =>
    (Op.ofCode (dOp r.bits)).any (fun o => o == .digest || o == .colophon) && decide (r.start ≤ s.now)
  else if k = 23 then s.freeLevel k
  else if k = 24 then s.stamp.started && s.lately (s.stamp.t0 + us 100) (100 * nsTicks)
  else if k = 25 then s.stamp.started && decide (s.stamp.t0 + us 100 % codeTicks ≤ s.now)
    && decide ((s.now - s.stamp.t0 - us 100 % codeTicks) % codeTicks < 100 * nsTicks)
  else if k < 30 then s.slotBegins (k - 26)
  else if k < 34 then s.air.bursts.any fun b => b.lch == k - 30 && s.lately b.at0 (us 1)
  else if k = 34 then s.spine.detAt.any fun d => s.lately d (100 * nsTicks)
  else if k = 35 then s.spine.beatAt.any fun d => s.lately d (100 * nsTicks)
  else if k = 36 then s.stamp.started
  else if k = 37 then s.freeLevel k
  else if k = 38 then s.steward.aDown.isSome
  else if k = 39 then s.steward.bDown.isSome
  else s.power.brownAt.isSome

/-- HRDY now: low while the status block is taken (13 R365). -/
def State.hrdyNow (s : State) : Bool := s.port.hrdy && decide (s.port.hrdyAt ≤ s.now) && !s.port.lows.any fun l => decide (l.first ≤ s.now ∧ s.now < l.past)

/-- The level of a lectern signal. -/
def State.lectLevel (s : State) : LectSig → Bool
  | .stamp => s.stamp.started && s.lately s.stamp.t0 (us 1)
  | .ready => s.hrdyNow
  | .busy k => !(s.stk k).running.isEmpty
  | .full k => s.fullSignal k

/-! ## The pins (15 Table 15.7) -/

/-- What a pin shows: nothing, an input, with or without its termination, a level, the signal of its interface, or an oscillation. -/
inductive PinState where
  | highZ | input | terminated | level (high : Bool) | signal | oscillating
  deriving DecidableEq, Repr

/-- BTN_OUT: the baton, or the 20 µs of the wake pulse (11 R309). -/
def State.btnOutNow (s : State) : Bool := s.acc.btnOut || (s.leads && s.acc.phase == .waking && s.lately s.stamp.t0 (us 20))

/-- The pins while RST_N is low. -/
def Pin.inReset : Pin → PinState
  | .iqTx _ _ | .iqRx _ _ | .iqSck _ | .iqSdo _ | .iqScsN _ | .hio _ | .hirqN | .utx | .lect _ | .tdo => .highZ
  | .iqTxen _ | .iqRxen _ | .hrdy | .btnOut => .level false
  | .xi | .xo | .xti | .xto => .oscillating
  | .spn => .terminated
  | _ => .input

/-- The pins from the rails' good report on, before HRDY rises and after. -/
def State.pinRuns (s : State) : Pin → PinState
  | .iqTx x _ => if (s.port? x).tck then .signal else .highZ
  | .iqRx _ _ => if s.airUp then .terminated else .input
  | .iqSck _ => .level false
  | .iqScsN _ => .level true
  | .iqSdo _ => .signal
  | .iqTxen x => .level (s.txen x)
  | .iqRxen x => .level (s.rxen x)
  | .hio _ => .signal
  | .hrdy => .level s.hrdyNow
  | .hirqN => if s.port.boot || s.hirqN then .highZ else .level false
  | .utx => if s.port.boot then .highZ else .signal
  | .lect i => .level (!s.port.boot && s.lectLevel (if i = 0 then s.test.lect0 else s.test.lect1))
  | .btnOut => .level s.btnOutNow
  | .tdo => .highZ
  | .xi | .xo | .xti | .xto => .oscillating
  | .spn => .signal
  | _ => .input

/-- The pin as a scan drives it: its own cell's bit, or nothing; inputs stay inputs. -/
def State.scanned (s : State) (p : Pin) : Option PinState :=
  if !s.tapOn || !boundaryPins.contains p || s.pinRuns p == .input then none else
  match s.drive with
  | .hub => none
  | .highz => some .highZ
  | .boundary => some (.level (s.test.boundary.getD (boundaryPins.findIdx (· == p)) false))

/-- What a pin shows (R444, 17 R473): the spine's passive 100 Ω in every state; nothing while its bank is unpowered; the enables as the porter's
sequence leaves them; a scan's bit; the reset states; and what the hub drives. -/
def State.pin (s : State) (p : Pin) : PinState :=
  if p = .spn then (if s.bankOn .ana && s.power.rstLow.isNone && s.railsGood then .signal else .terminated)
  else if !s.bankOn p.bank then .highZ
  else match s.scanned p with
    | some x => x
    | none => match p with
      | .bken k => .level (s.power.bkenNow s.now k)
      | _ => if s.power.rstLow.isSome then p.inReset else s.pinRuns p

end Sys2Proof.Machine
end

