-- ==== Sys2Proof/Safety.lean ====
section
/-! DEFINITION. The terms in which the statements about the hub speak: a command that answers a next state with a property, a state whose
interrupt enable reads as the spec says, and the frame of a command that only answers its line. -/

namespace Sys2Proof.Machine

/-- A command answers a next state that has a property. -/
def Answers (c : Instr) (s : State) (P : State → Prop) : Prop := ∃ n, exec c s = .next n ∧ P n

/-- IRQEN[2] reads 1 (13 R368). Every state that a step leaves is sound. -/
def State.sound (s : State) : Bool := s.port.regs.irqen.getLsbD 2

/-- The instant at which a command acts: its own, and never before the state's. -/
def State.at (s : State) (t : Tick) : Tick := max s.now t

/-- What no step may break: IRQEN[2] reads 1, and the fuses of the first state stay blown. -/
structure Keeps (fuses : BitVec 1344) (s : State) : Prop where
  irqen : s.sound = true
  fuses : s.test.fuses &&& fuses = fuses

/-- One event has been raised between two states: numbered with the next SEQ, and kept for the next EVENT frame (13 R379). -/
def Raised (s n : State) (code : Nat) (patron stack : Option Nat) (a0 a1 a2 a3 : Nat) : Prop :=
  n.events.next = s.events.next + 1
    ∧ n.events.fresh = s.events.fresh ++ [{
        code := BitVec.ofNat 16 code, patron := patron, stack := stack, stamp := s.stamp.number, seq := s.events.next
        a0 := BitVec.ofNat 32 a0, a1 := BitVec.ofNat 32 a1, a2 := BitVec.ofNat 32 a2, a3 := BitVec.ofNat 32 a3 }]

/-! ## Descriptors -/

/-- The command that starts a descriptor of an opcode. -/
def startOf (t : Tick) (a : StackAt) : Op → Instr
  | .streamin => .streamin t a
  | .matmul => .matmul t a
  | .scan => .scan t a
  | .bind => .bind t a
  | .recall => .recall t a
  | .park => .park t a
  | .commit => .commit t a
  | .xfer => .xfer t a
  | .shadow => .shadow t a
  | .digest => .digest t a
  | .colophon => .colophon t a
  | .sync => .sync t a

/-- The instant as of which the next descriptor of an opcode starts: the one from which nothing holds it back (06 R159). -/
def State.startsAt (s : State) (t : Tick) (a : StackAt) (o : Op) : Tick := ((s.advance t).strike a.k o a.hw).startAt a.k o.engine
/-- The state as a descriptor starts, `i` others ahead of it in the queue: the stores hold what they hold, the overlap of the engines is counted,
the descriptor has left the queue, its charge has started, and has its inputs if the descriptor is one of the main engine. -/
def State.opening (s : State) (t : Tick) (a : StackAt) (o : Op) (i : Nat) (c : ChargeSt) : State :=
  ((s.advance t).strike a.k o a.hw).leaveQueue (s.startsAt t a o) a.k o i c
/-- Its charge then. -/
def State.opened (s : State) (t : Tick) (a : StackAt) (o : Op) (i : Nat) (c : ChargeSt) : ChargeSt :=
  ((s.opening t a o i c).charge? c.id).getD c

/-- At an instant the next descriptor of an opcode can start on a stack: it is `q`, with `i` others ahead of it in the queue, of a charge of
this stack. -/
structure State.NextUp (s : State) (t : Tick) (a : StackAt) (o : Op) (i : Nat) (q : QDesc) (c : ChargeSt) : Prop where
  four : s.stackList.length = 4
  stack : a.k < 4
  can : (s.advance t).starts a.k o = true
  next : ∃ pre, (s.stk a.k).nextOf o.engine = some (pre, q) ∧ pre.length = i
  charge : s.charge? q.charge = some c
  here : c.stack = a.k

/-- It has work to do, and no carrel word that it reads holds an uncorrectable error. -/
structure State.Works (s : State) (t : Tick) (a : StackAt) (o : Op) (i : Nat) (q : QDesc) (c : ChargeSt) : Prop extends s.NextUp t a o i q c where
  work : emptyDesc o q.bits = false
  intact : badCarrelRead ((s.opening t a o i c).stk a.k) (carrelReads (s.opening t a o i c) (s.opened t a o i c).rows q.bits) = none

/-- A descriptor has left the queue of its stack and runs on its engine from the instant as of which it starts, for some cycles, with a status, the
carrel writes of its stop-point units, and what else it will leave. Every carrel and every stream is as its charge found it, and but for a
stream-in, which may slow its sibling's, so are the charges and what runs elsewhere. -/
def RunsFor (s n : State) (t : Tick) (a : StackAt) (o : Op) (i : Nat) (q : QDesc) (c : ChargeSt) (status : Nat) (units : List (List (Nat × Bytes)))
    (fx : RunEnd) (cost : Nat) : Prop :=
  let z := s.opening t a o i c
  (n.stk a.k).queue = dropAt i (s.stk a.k).queue
    ∧ (∃ r, (n.stk a.k).running = (s.stk a.k).running ++ [r] ∧ r.eng = o.engine ∧ r.charge = q.charge ∧ r.index = q.index ∧ r.bits = q.bits
        ∧ r.start = s.startsAt t a o ∧ r.began = s.startsAt t a o ∧ r.cost = cost ∧ r.left = cost
        ∧ r.cyc = s.cycTicks ∧ r.status = BitVec.ofNat 8 status ∧ r.units = units ∧ r.fx = fx ∧ r.stopAt = none)
    ∧ n.streams = z.streams ∧ (∀ j, (n.stk j).carrel = (z.stk j).carrel) ∧ (o ≠ .streamin → n.charges = z.charges)
    ∧ (∀ j, j ≠ a.k → (n.stk j).queue = (s.stk j).queue ∧ (o ≠ .streamin → (n.stk j).running = (s.stk j).running))
    ∧ n.settings = s.settings ∧ n.nodes = s.nodes ∧ n.cells = s.cells ∧ n.events = s.events

/-- It runs for the cycles of its cost (06 R159). -/
def Runs (s n : State) (t : Tick) (a : StackAt) (o : Op) (i : Nat) (q : QDesc) (c : ChargeSt) (status : Nat) (units : List (List (Nat × Bytes)))
    (fx : RunEnd) : Prop :=
  RunsFor s n t a o i q c status units fx (descCost (s.opening t a o i c) (s.stk a.k).shelfCount (s.opened t a o i c).rows q.bits)

/-- A descriptor has abandoned its charge: a record names it with its status and ends the charge, unless it was abandoned before, and what runs of
other charges on other engines than its own runs on. -/
def Abandons (s n : State) (k : Nat) (q : QDesc) (c : ChargeSt) (status : Nat) : Prop :=
  (∃ x, Out.completion x x.bytes ∈ n.out ∧ x.op = BitVec.ofNat 8 (dOp q.bits) ∧ x.index = q.index ∧ x.patron = c.slot ∧ x.stack = k ∧ x.fin = !c.abandoned
      ∧ x.status = BitVec.ofNat 8 status ∧ x.tag = c.tag)
    ∧ ∀ r ∈ (s.stk k).running, r.eng ≠ engineOf q.bits → r.charge ≠ c.id → r ∈ (n.stk k).running

/-- At an instant the descriptor that an engine of a stack runs has had its cycles, its completion is the next, and its charge has others left. -/
structure State.EndsNow (s : State) (t : Tick) (k : Nat) (e : Engine) (r : RunSt) (c : ChargeSt) (o : Op) : Prop where
  four : s.stackList.length = 4
  stack : k < 4
  usable : (s.stk k).usable = true
  run : (s.stk k).runOn e = some r
  due : (s.advance t).dueBy k r = true
  turn : (s.advance t).completionTurn k r = true
  charge : s.charge? r.charge = some c
  here : c.stack = k
  opcode : Op.ofCode (dOp r.bits) = some o
  more : (s.stk k).queue.any (fun q => q.charge == c.id) = true

/-- No fault has stopped it. -/
structure State.EndsWell (s : State) (t : Tick) (k : Nat) (e : Engine) (r : RunSt) (c : ChargeSt) (o : Op) : Prop extends s.EndsNow t k e r c o where
  ok : abandons r.status.toNat = false

/-- A carrel after the units of a descriptor have become whole. -/
def putAll (m : Mem) (units : List (List (Nat × Bytes))) : Mem := units.flatten.foldl (fun m w => memWrite m w.1 w.2) m

/-! ## Frames of the spine -/

/-- The frame that a command brings, with the message that it is taken for (12 Table 12.4). -/
def frameOf : Instr → Option (SpineRx × SpineMsg)
  | .train _ rx i => some (rx, .train i)
  | .heartbeat _ rx p => some (rx, .heartbeat p)
  | .role _ rx n => some (rx, .role n)
  | .config _ rx item live => some (rx, .config item live)
  | .sense _ rx stamp ms ca cb mains =>
    some (rx, .sense stamp ms (ca.map frontCode) (cb.map frontCode) (mains.map fun r => r.map frontCode))
  | .seal _ rx recs => some (rx, .seal recs)
  | .card _ rx head body twin => some (rx, .card head body twin)
  | _ => none

/-- The hub listens for frames of a TYPE: TRAIN from phase 5 of the training on, every other one on an UP link within a stamp. -/
def State.hears (s : State) (ftype : Nat) : Prop :=
  s.awake = true ∧ if ftype = 1 then s.spine.state = .training ∧ 5 ≤ s.spine.phase else s.spine.state = .up ∧ s.stamp.started = true

/-- A frame passes its checks (12 R344, R347): its CRC, its TYPE, and in secured mode SEC, the tag and a count above the last one; and it
acknowledges nothing new. -/
structure State.Passes (s : State) (rx : SpineRx) (ftype : Nat) : Prop where
  crc : crcHolds rx = true
  type : rxType rx = ftype
  secured : s.getN .spineSecure = 1 → ftype ≠ 1 → rxSec rx = true ∧ s.tagFits rx = true ∧ ∀ c, s.spine.rxCount = some c → c < rx.count
  ack : ∀ f ∈ s.spine.sent, covers (rxAck rx) f = false

/-- Nor is a sequenced message out of order (12 R345). -/
def State.Next (s : State) (rx : SpineRx) (m : SpineMsg) : Prop := s.Passes rx m.ftype ∧ rxSeqOf rx = s.spine.rxSeq + BitVec.ofNat 16 m.frames

/-- What a line of the model's log says of a frame sent: its message, its place among the message's frames, and its header. -/
def sentAs : Out → Option (SpineMsg × Nat × BitVec 128)
  | .spine m part hdr _ _ _ => some (m, part, hdr)
  | _ => none
/-- The header of a frame that a hub sends (12 Table 12.3): SEC in secured mode, but for TRAIN. -/
def State.headerOf (s : State) (m : SpineMsg) (part : Nat) (seq : BitVec 16) (stamp : BitVec 48) : BitVec 128 :=
  spineHeader m.ftype s.spine.sideB (s.getN .spineSecure = 1 && m.ftype != 1) (m.part part).length seq s.spine.rxSeq stamp

/-! ## Lines -/

/-- The hub hears a line and finds no flaw in it, no earlier line of the session waits for its reply, and pair A runs. -/
structure State.Takes (s : State) (u : Line) (specs : List ArgSpec) (g : CmdGroup) (reserved : Bool) : Prop where
  listens : s.listens u.ses = true
  up : s.steward.aDown = none
  fit : s.lineFault u specs g reserved = none
  first : (s.ses u.ses).waiting = []

/-- The replies of one line, newest first, on top of what had left the hub before. -/
def Said (s n : State) (u : Line) (ls : List HubLine) : Prop :=
  n.out = (ls.reverse.map fun l => Out.usith u.ses u.tag l) ++ s.out ∧ n.now ≥ s.now
    ∧ (n.ses u.ses).lines = (s.ses u.ses).lines + 1 ∧ (n.ses u.ses).waiting = []

/-- Between two states nothing differs but the time, what has left the hub, and what carries lines: the two sessions, the lines sent on UTX, the mailbox to the
host with its queue and length, and IRQ, of which no bit is cleared. -/
def OnlyTalks (s n : State) : Prop :=
  n = { s with
    now := n.now
    out := n.out
    lineSes := n.lineSes
    portSes := n.portSes
    port := { s.port with
      utx := n.port.utx
      mailQueue := n.port.mailQueue
      mailOut := n.port.mailOut
      regs := { s.port.regs with irq := n.port.regs.irq, m2hlen := n.port.regs.m2hlen } } }
  ∧ s.port.regs.irq &&& n.port.regs.irq = s.port.regs.irq

/-- A command that a line carries is answered with these replies and leaves `e`, but for what talking changes. -/
def Replies (c : Instr) (u : Line) (s e : State) (ls : List HubLine) : Prop :=
  Answers c s fun n => OnlyTalks e n ∧ Said s n u ls

/-- A command that only reads completes: its line is answered with data lines and exactly one final line, OK or ERR, the last, and nothing
differs but what carries lines. -/
def ReadDone (c : Instr) (u : Line) (s : State) : Prop :=
  ∃ n, exec c s = .next n ∧ OnlyTalks s n
    ∧ ∃ ds z, Said s n u (ds ++ [z]) ∧ (∀ d ∈ ds, ∃ fs, d = .item fs) ∧ ((∃ fs, z = .ok fs) ∨ ∃ e fs, z = .err e fs)

/-! ## Usith commands -/

/-- What every Usith line of a verb goes through before it acts. -/
structure LineCmd where
  line : Line
  specs : List ArgSpec
  group : CmdGroup
  reserved : State → Bool

def lineCmd (u : Line) (specs : List ArgSpec) (g : CmdGroup) (reserved : State → Bool) : Option LineCmd := some ⟨u, specs, g, reserved⟩

/-- The read commands (14 R396): the line's arguments. -/
def readLine : Instr → Option LineCmd
  | .ident _ u | .stamp _ u | .folioList _ u | .draftShow _ u | .spineShow _ u | .powerShow _ u | .inventoryShow _ u => lineCmd u [] .read never
  | .showSetting _ u => lineCmd u showSettingArgs .read never
  | .nodeShow _ u => lineCmd u nodeShowArgs .read never
  | .streamShow _ u => lineCmd u [sidArg] .read never
  | .streamList _ u | .reportService _ u => lineCmd u [slotArg] .read never
  | .requestShow _ u => lineCmd u requestShowArgs .read never
  | .reportLink _ u => lineCmd u [nodeArg] .read never
  | .eventList _ u => lineCmd u eventListArgs .read never
  | .portShow _ u => lineCmd u [portArg] .read never
  | _ => none

/-- The write commands: their arguments, their group of 14 Table 14.1, and when they act on what a standby leaves to the primary (14 R398). -/
def writeLine : Instr → Option LineCmd
  | .session _ u => lineCmd u sessionArgs .read never
  | .set _ u _ | .discard _ u | .save _ u => lineCmd u [] .work never
  | .apply _ u => lineCmd u [] .work State.stagedReserved
  | .accession _ u | .draftDiscard _ u | .roleYield _ u => lineCmd u [] .work always
  | .balance _ u => lineCmd u balanceArgs .work always
  | .owtest _ u => lineCmd u owtestArgs .work always
  | .breakClear _ u => lineCmd u breakClearArgs .work always
  | .nodeQuery _ u => lineCmd u [nodeArg] .work always
  | .nodeSleep _ u => lineCmd u nodeSleepArgs .work always
  | .protectAck _ u => lineCmd u protectAckArgs .work never
  | .twinsetLoad _ u => lineCmd u twinsetLoadArgs .work always
  | .streamCreate _ u => lineCmd u streamCreateArgs .work (slotReserved u)
  | .streamFree _ u => lineCmd u [sidArg] .work (sidReserved u)
  | .streamExport _ u | .streamCopy _ u => lineCmd u [sidArg, tagArg] .work (sidReserved u)
  | .streamImport _ u => lineCmd u streamImportArgs .work fun s => slotReserved u s || sidReserved u s
  | .folioWrite _ u => lineCmd u folioWriteArgs .work never
  | .folioInstall _ u _ => lineCmd u folioInstallArgs .sign never
  | .folioDelete _ u => lineCmd u folioDeleteArgs .work never
  | .bindFolio _ u => lineCmd u bindFolioArgs .work (slotReserved u)
  | .unbind _ u => lineCmd u [slotArg] .work (slotReserved u)
  | .loan _ u => lineCmd u loanArgs .work (slotReserved u)
  | .release _ u => lineCmd u releaseArgs .work (slotReserved u)
  | .move _ u => lineCmd u moveArgs .work always
  | .promote _ u => lineCmd u promoteArgs .sign always
  | .rollout _ u => lineCmd u rolloutArgs .work never
  | .regenerate _ u => lineCmd u regenerateArgs .work never
  | .job _ u => lineCmd u jobArgs .work never
  | .cancel _ u => lineCmd u cancelArgs .work never
  | .portRestore _ u => lineCmd u [portArg] .work always
  | .scriptLoad _ u => lineCmd u scriptLoadArgs .work always
  | .pair _ u => lineCmd u pairArgs .work never
  | .spineKey _ u => lineCmd u [tagArg] .sign never
  | .inventory _ u => lineCmd u inventoryArgs .inventory never
  | .lectern _ u => lineCmd u lecternArgs .read never
  | .life _ u => lineCmd u lifeArgs .life never
  | _ => none

/-- What the line of a Usith command goes through. -/
def lineOf (c : Instr) : Option LineCmd := (readLine c).orElse fun _ => writeLine c

/-- The hub hears the line of a command, finds no flaw in it, and can reply at once. -/
def State.Clear (s : State) (c : Instr) : Prop := ∃ l, lineOf c = some l ∧ s.Takes l.line l.specs l.group (l.reserved s)

/-- A command's line is answered last of all that leaves the hub, with these replies. -/
def Ends (s n : State) (u : Line) (ls : List HubLine) : Prop :=
  (∃ mid, n.out = (ls.reverse.map fun l => Out.usith u.ses u.tag l) ++ mid ++ s.out) ∧ n.now ≥ s.now
    ∧ (n.ses u.ses).lines = (s.ses u.ses).lines + 1 ∧ (n.ses u.ses).waiting = []

/-- A command's line has its place in the order of its session, and its reply is not ready. -/
def Waits (s n : State) (u : Line) : Prop :=
  n.out = s.out ∧ n.ses u.ses = { s.ses u.ses with
    lines := (s.ses u.ses).lines + 1
    waiting := [{ lineNo := (s.ses u.ses).lines, tag := u.tag, ready := none }] }

/-! ## What few commands change -/

/-- Between two states the settings, the boot record, the run number and the stamp, the pair's side, the fuses with the test port, and the
power state are the same. -/
structure Recorded (s n : State) : Prop where
  settings : n.settings = s.settings
  saved : n.archive.saved = s.archive.saved ∧ n.archive.savedScripts = s.archive.savedScripts ∧ n.archive.savedSets = s.archive.savedSets
  powerUps : n.archive.powerUps = s.archive.powerUps
  key : n.archive.spineKey = s.archive.spineKey
  staging : n.archive.staging = s.archive.staging
  side : n.archive.sideB = s.archive.sideB ∧ n.archive.partner = s.archive.partner ∧ n.spine.sideB = s.spine.sideB
    ∧ n.spine.partner = s.spine.partner
  stamp : n.stamp.run = s.stamp.run ∧ n.stamp.number = s.stamp.number ∧ n.stamp.t0 = s.stamp.t0 ∧ n.stamp.started = s.stamp.started
  test : n.test = s.test
  power : n.power = s.power

/-- The commands that may change what `Recorded` holds. -/
def Named : Instr → Bool
  | .powerUp _ | .busCheckEnd _ | .railEnable _ | .railPowerGood _ _ | .railGoodTimeout _ | .railGoodLost _ _ | .railRestart _
  | .bootRecordRead _ | .pllLock _ | .stewardBoot _ | .roleDecision _ | .hrdyRise _ | .brownOut _ _ | .snapshotWrite _ | .snapshotSeal _
  | .busRestart _ | .rstNLow _ | .rstNRelease _ | .powerLoss _ | .stampBoundary _ | .takeoverBoundary _ => true
  | .train _ _ _ | .heartbeat _ _ _ | .role _ _ _ | .config _ _ _ _ | .sense _ _ _ _ _ _ _ | .seal _ _ _ | .card _ _ _ _ _
  | .partnerBurstReceive _ _ => true
  | .set _ _ _ | .discard _ _ | .apply _ _ | .save _ _ | .twinsetLoad _ _ | .streamImport _ _ | .folioWrite _ _ | .rollout _ _
  | .regenerate _ _ | .job _ _ | .scriptLoad _ _ | .pair _ _ | .spineKey _ _ | .lectern _ _ | .life _ _ => true
  | .irqenWrite _ _ | .registerWrite _ _ _ => true
  | .extest _ _ | .idcode _ | .samplePreload _ _ | .clamp _ | .highz _ | .fuseread _ | .fuseprog _ _ | .bypass _ _ | .trstNLow _ => true
  | _ => false

end Sys2Proof.Machine
end

