-- ==== Sys2Proof/Certificates/Slice0/Obligations.lean ====
section
/-! DEFINITION. The statements for the provers. Each docstring says what it states, and OBLIGATIONS.json cites its rules. -/

open Sys2Proof Sys2Proof.Machine

/-- For every command c, every rest of a queue and every state s: step of s with c in front of that rest is exec of c on s with the rest
as its queue. With an empty queue the hub idles, which is the model's choice of log entry 5. -/
def Obligations.StepRunsFront : Prop :=
  (∀ (c : Instr) (rest : List Instr) (s : State), step { s with pending := c :: rest } = exec c { s with pending := rest })
    ∧ ∀ s : State, s.pending = [] → step s = .next s

/-- For every command and every state, exec answers a next state: the queue is as it was, the time is not earlier, every fuse bit that was
1 is still 1 (fuses are one-time programmable), and IRQEN[2] reads 1. -/
def Obligations.EveryCommandAnswers : Prop :=
  ∀ (c : Instr) (s : State), Answers c s fun n =>
    n.pending = s.pending ∧ s.now ≤ n.now ∧ n.sound = true
      ∧ ∀ i, s.test.fuses.getLsbD i = true → n.test.fuses.getLsbD i = true

/-- Let f be any set of fuse bits. From every state in which IRQEN[2] reads 1 and every fuse of f is blown, whatever command stands at the
front of the queue, a step answers a next state in which both still hold, and so does every run of any number of steps. -/
def Obligations.StepKeepsInvariant : Prop :=
  ∀ (f : BitVec 1344) (s : State), Keeps f s →
    (∃ n, step s = .next n ∧ Keeps f n)
      ∧ ∀ (k : Nat), ∃ n, Sys2Proof.core.run k s = .next n ∧ Keeps f n

/-- At State.reset IRQEN[2] reads 1 and the fuses of the part are blown, no command waits, VDD_PORTER is down and HRDY low, and the
memories of the hub are in canonical form. Which part it is, is the model's choice of log entry 2. -/
def Obligations.ResetKeeps : Prop :=
  Keeps Config.fuses State.reset ∧ State.reset.pending = [] ∧ State.reset.power.porter = false ∧ State.reset.port.hrdy = false
    ∧ (∀ k ∈ State.reset.stackList, Memory.wf k.store = true ∧ Memory.wf k.tags = true ∧ Memory.wf k.carrel = true)
    ∧ Memory.wf State.reset.port.ringMem = true ∧ Memory.wf State.reset.port.mailIn = true ∧ Memory.wf State.reset.port.mailOut = true
    ∧ Memory.wf State.reset.archive.staging = true

/-- BUS_CHECK_END, no earlier than 2 ms after power-up, enables VDD_IO33 and shifts the timeline by the wait. RAIL_ENABLE raises the BKEN
of the first rail that is low once the rail before it is good and its time of Table 15.1 has come. RAIL_POWER_GOOD marks a rail good
within 2 ms of its enable. Nothing else changes but the time. -/
def Obligations.RailSequence : Prop :=
  ∀ (t : Tick) (s : State), s.sound = true →
    (s.power.porter = true → s.power.waiting = .busCheck → s.power.waitFrom + 2 * msTicks ≤ s.at t →
      exec (.busCheckEnd t) s = .next { s with
        now := s.at t
        power := { s.power with
          waiting := .none, origin := s.at t - 2 * msTicks, bken := s.power.bken ||| 1#5, enabledAt := s.at t } })
    ∧ (∀ k : Nat, 1 ≤ k → k ≤ 4 → s.power.porter = true → s.power.waiting = .none → s.power.brownAt = none →
        (∀ j < k, s.power.bken.getLsbD j = true) → s.power.bken.getLsbD k = false → s.power.good.getLsbD (k - 1) = true →
        s.power.origin + (2 * k + 2) * msTicks ≤ s.at t →
      exec (.railEnable t) s = .next { s with
        now := s.at t
        power := { s.power with bken := s.power.bken ||| BitVec.ofNat 5 (2 ^ k), enabledAt := s.at t } })
    ∧ (∀ k : Nat, k < 5 → s.power.porter = true → s.power.waiting = .none → s.power.brownAt = none →
        s.power.bken.getLsbD k = true → s.power.good.getLsbD k = false → s.at t ≤ s.power.enabledAt + 2 * msTicks →
      exec (.railPowerGood t k) s = .next { s with
        now := s.at t
        power := { s.power with good := s.power.good ||| BitVec.ofNat 5 (2 ^ k) } })

/-- RAIL_GOOD_TIMEOUT and RAIL_GOOD_LOST leave only the archive, the fuses and the retired pages, count one rail fault and name its rail,
drop every enable, beginning with VDD_CORE, 200 µs apart, and wait for the restart. So does BROWN_OUT before the steward has booted or while
RST_N is low, which counts no fault and waits for the bus. RAIL_RESTART, 1 s after a rail fault, and BUS_RESTART, once the enables are gone, count a power-up
and enable VDD_IO33. -/
def Obligations.RailFault : Prop :=
  ∀ (t : Tick) (s : State), s.sound = true → s.power.porter = true →
    (s.power.waiting = .none →
      (∀ k : Nat, k < 5 → s.power.brownAt = none → (∀ j ≤ k, s.power.bken.getLsbD j = true) → (k = 4 ∨ s.power.bken.getLsbD (k + 1) = false) →
          s.power.good.getLsbD k = false → s.power.enabledAt + 2 * msTicks ≤ s.at t →
        exec (.railGoodTimeout t) s = .next { (s.advance t).fresh with power := {
          porter := true, origin := s.power.origin, waiting := .railRestart, waitFrom := s.at t
          offTimes := ([4, 3, 2, 1, 0].filter fun j => s.power.bken.getLsbD j).mapIdx fun i j => (j, s.at t + i * (200 * usTicks))
          shutdowns := s.power.shutdowns + 1, railFault := some k, rstLow := s.power.rstLow } })
      ∧ (∀ k : Nat, k < 5 → s.power.bken.getLsbD k = true → s.power.good.getLsbD k = true →
        exec (.railGoodLost t k) s = .next { (s.advance t).fresh with power := {
          porter := true, origin := s.power.origin, waiting := .railRestart, waitFrom := s.at t
          offTimes := ([4, 3, 2, 1, 0].filter fun j => s.power.bken.getLsbD j).mapIdx fun i j => (j, s.at t + i * (200 * usTicks))
          shutdowns := s.power.shutdowns + 1, railFault := some k, rstLow := s.power.rstLow } })
      ∧ (s.power.brownAt = none → s.power.bken.getLsbD 0 = true → (s.power.booted = false ∨ s.power.rstLow.isSome = true) →
        exec (.brownOut t false) s = .next { (s.advance t).fresh with power := {
          porter := true, origin := s.power.origin, waiting := .busRestart, waitFrom := s.at t
          offTimes := ([4, 3, 2, 1, 0].filter fun j => s.power.bken.getLsbD j).mapIdx fun i j => (j, s.at t + i * (200 * usTicks))
          shutdowns := s.power.shutdowns, railFault := s.power.railFault, rstLow := s.power.rstLow } }))
    ∧ (s.power.waiting = .railRestart → s.power.waitFrom + 1000 * msTicks ≤ s.at t →
      exec (.railRestart t) s = .next { s with
        now := s.at t
        archive := { s.archive with powerUps := s.archive.powerUps + 1 }
        power := { s.power with
          waiting := .none, origin := s.at t - 2 * msTicks, offTimes := [], bken := s.power.bken ||| 1#5, enabledAt := s.at t } })
    ∧ (s.power.waiting = .busRestart → (∀ o ∈ s.power.offTimes, o.2 ≤ s.at t) →
      exec (.busRestart t) s = .next { s with
        now := s.at t
        archive := { s.archive with powerUps := s.archive.powerUps + 1 }
        power := { s.power with
          waiting := .none, origin := s.at t - 2 * msTicks, offTimes := [], bken := s.power.bken ||| 1#5, enabledAt := s.at t } })

/-- POWER_LOSS leaves the archive, the fuses, a life-cycle event that is still to be raised, the retired ledger pages and the count of rail
shutdowns, and every other part of the hub as at reset. POWER_UP counts a power-up and begins the timeline. RST_N held low stops the hub at once with the rails and
the porter up; its release resumes the timeline at its 12 ms point as a power-up, shows START=RESET, and consumes a snapshot. While the rails
are down it does no more than consume it. That retired pages and the count survive is the model's choice of log entries 73 and 158. -/
def Obligations.PowerLossAndReset : Prop :=
  ∀ (t : Tick) (s : State),
    (s.power.porter = true →
      exec (.powerLoss t) s = .next { State.reset with
        now := s.at t, archive := s.archive, free := s.free, out := s.out, pending := s.pending
        stackList := Sys2Proof.Machine.stacksOf s.test.fuses
        power := { shutdowns := s.power.shutdowns }
        steward := { retired := s.steward.retired, retiredPages := s.steward.retiredPages }
        test := { fuses := s.test.fuses, lifeEvent := s.test.lifeEvent } })
    ∧ (s.power.porter = false →
      exec (.powerUp t) s = .next { (s.advance t).fresh with
        archive := { s.archive with powerUps := s.archive.powerUps + 1 }
        power := { porter := true, origin := s.at t, waiting := .busCheck, waitFrom := s.at t, shutdowns := s.power.shutdowns } })
    ∧ (s.power.porter = true → s.power.waiting = .none → s.power.brownAt = none → s.power.rstLow = none →
      exec (.rstNLow t) s = .next { (s.advance t).fresh with power := {
        porter := true, origin := s.power.origin, bken := s.power.bken, good := s.power.good, enabledAt := s.power.enabledAt
        shutdowns := s.power.shutdowns, railFault := s.power.railFault, rstLow := some (s.at t) } })
    ∧ (s.power.rstLow.isSome = true → s.power.waiting ≠ .none → s.sound = true →
      exec (.rstNRelease t) s = .next { s with
        now := s.at t
        power := { s.power with rstLow := none }
        archive := { s.archive with snapshot := { s.archive.snapshot with consumed := true } } })
    ∧ (s.power.rstLow.isSome = true → s.power.waiting = .none →
      exec (.rstNRelease t) s = .next { (s.advance t).fresh with
        archive := { s.archive with
          powerUps := s.archive.powerUps + 1
          snapshot := { s.archive.snapshot with consumed := true } }
        power := {
          porter := true, origin := s.at t - 12 * msTicks, bken := s.power.bken, good := s.power.good, enabledAt := s.power.enabledAt
          shutdowns := s.power.shutdowns, railFault := s.power.railFault, start := .reset } })

/-- BOOT_RECORD_READ, with every rail good at the 12 ms point, makes the saved settings live, takes the pair side and the partner setting,
and forms the run number: bit 31 the side, bits 30 to 0 the count of power-ups. PLL_LOCK begins stamp 0 and drives TCK on the fitted
ports. STEWARD_BOOT takes from the archive the bindings of folios that are installed, or those of a valid snapshot on a cold start, which
it then marks for restoring; the draft comes from the archive. -/
def Obligations.BootForms : Prop :=
  ∀ (t : Tick) (s : State), s.railsGood = true →
    (s.power.origin + 12 * msTicks ≤ s.at t → s.power.bootRead = false → s.test.fuses.getLsbD 4 = false →
      Answers (.bootRecordRead t) s fun n =>
        n.power.bootRead = true ∧ n.settings.live = s.archive.saved ∧ n.settings.scripts = s.archive.savedScripts
          ∧ n.settings.twinsets = s.archive.savedSets ∧ n.spine.partner = s.archive.partner ∧ n.spine.sideB = s.archive.sideB
          ∧ n.spine.state = (if s.archive.partner then .down else .off)
          ∧ n.stamp.run.getLsbD 31 = s.archive.sideB ∧ n.stamp.run.toNat % 2 ^ 31 = s.archive.powerUps.toNat
          ∧ n.stamp.period = n.getN .stampPeriod ∧ n.stamp.economy = decide (n.getN .stampEconomy = 1) ∧ n.archive = s.archive)
    ∧ (s.power.bootRead = true → s.stamp.started = false → s.blank = false →
      Answers (.pllLock t) s fun n =>
        n.stamp.started = true ∧ n.stamp.number = 0 ∧ n.stamp.t0 = s.at t ∧ n.stamp.run = s.stamp.run
          ∧ (∀ x < s.air.ports.length, (n.port? x).tck = s.fitted x) ∧ n.settings = s.settings ∧ n.power = s.power)
    ∧ (s.power.bootRead = true → s.stamp.started = true → s.power.booted = false → s.blank = false →
      Answers (.stewardBoot t) s fun n =>
        let snap := s.archive.snapshot.usable && s.power.start == .cold
        let binds := if snap then s.archive.snapshot.bindings else s.archive.bindings
        n.power.booted = true ∧ n.power.start = (if snap then .restore else s.power.start) ∧ n.draft = s.archive.draft
          ∧ n.patrons = (s.patrons.map fun p => 
              { p with folio := ((binds.find? (fun b => b.1 == p.slot)).map (·.2)).filter (fun f => s.archive.folios.any (fun x => x.info.fid == f)) })
          ∧ (snap = false → n.streams = []) ∧ n.spine.state = (if s.spine.partner then .training else s.spine.state)
          ∧ n.stamp = s.stamp ∧ n.archive = s.archive)

/-- STACK_WAKE ungates stack s as of 60 + 5s ms, once every lower usable stack has been tested and none is being tested.
STARTUP_INVENTORY_END after 4 ms gates it again, weeds the shelves that failed, and marks it tested. ROLE_DECISION at 140 ms makes a hub
without a partner alone; on an UP spine it makes side A primary and side B standby with an undecided partner, the hub standby beside a
primary or a hub alone and primary beside another; and it begins listening for 100 ms (side A) or 300 ms (side B) where the spine is not UP. BEACON_LISTEN_END makes the hub primary. UNALIGNED_PROMOTION does so at a boundary
25 ms after the last beacon of its partner. HRDY_RISE at 150 ms raises HRDY and starts the air interface. -/
def Obligations.StartUpForms : Prop :=
  ∀ (t : Tick) (s : State), s.awake = true →
    (∀ k : Nat, k < 4 → s.stackList.length = 4 → s.power.brownAt = none → (s.stk k).usable = true → (s.stk k).tested = false →
        s.power.origin + (60 + 5 * k) * msTicks ≤ s.at t → (∀ j < 4, (s.stk j).inv = none) →
        (∀ j < k, (s.stk j).usable = true → (s.stk j).tested = true) →
      Answers (.stackWake t k) s fun n =>
        n.stk k = { s.stk k with gated := false, inv := some { start := s.power.origin + (60 + 5 * k) * msTicks, startup := true } }
          ∧ (∀ j, j ≠ k → n.stk j = s.stk j) ∧ n.air = s.air ∧ n.roleSt = s.roleSt)
    ∧ (∀ (k : Nat) (failed : BitVec 32) (at0 : Tick), s.stackList.length = 4 → k < 4 → (s.stk k).inv = some { start := at0, startup := true } →
        at0 + 4 * msTicks ≤ s.at t → (s.stk k).shelves &&& ~~~ failed ≠ 0 →
      Answers (.startupInventoryEnd t k failed) s fun n =>
        (n.stk k).tested = true ∧ (n.stk k).gated = true ∧ (n.stk k).inv = none ∧ (n.stk k).valid = 0 ∧ (n.stk k).carrel = []
          ∧ (n.stk k).shelves = (s.stk k).shelves &&& ~~~ failed ∧ (n.stk k).weeded = (s.stk k).weeded
          ∧ ∀ j, j ≠ k → n.stk j = s.stk j)
    ∧ (s.power.brownAt = none → s.roleSt.decided = false → s.roleSt.listenTo = none → s.power.origin + 140 * msTicks ≤ s.at t →
      Answers (.roleDecision t) s fun n =>
        (s.spine.partner = false → n.roleSt.decided = true ∧ n.roleSt.role = .alone)
          ∧ (s.spine.partner = true → s.spine.state = .up → s.spine.partnerRole = none →
              n.roleSt.decided = true ∧ n.roleSt.role = (if s.spine.sideB then .standby else .primary))
          ∧ (∀ r, s.spine.partner = true → s.spine.state = .up → s.spine.partnerRole = some r →
              n.roleSt.decided = true ∧ n.roleSt.role = (if r = .primary ∨ r = .alone then .standby else .primary))
          ∧ (s.spine.partner = true → s.spine.state ≠ .up →
              n.roleSt.decided = false ∧ n.roleSt.listenTo = some (s.power.origin + (if s.spine.sideB then 440 else 240) * msTicks)))
    ∧ (∀ e : Tick, s.power.brownAt = none → s.roleSt.decided = false → s.roleSt.listenTo = some e → e ≤ s.at t →
      Answers (.beaconListenEnd t) s fun n =>
        n.roleSt.decided = true ∧ n.roleSt.role = (if s.spine.partner then .primary else .alone) ∧ n.roleSt.unaligned = false)
    ∧ (s.power.brownAt = none → s.isStandby = true → s.roleSt.unaligned = true →
        (∀ h, s.roleSt.heardAt = some h → h + 25 * msTicks ≤ s.stamp.t0) →
      Answers (.unalignedPromotion t) s fun n =>
        n.roleSt.decided = true ∧ n.roleSt.role = (if s.spine.partner then .primary else .alone) ∧ n.roleSt.unaligned = false)
    ∧ (s.port.boot = true → s.power.brownAt = none → s.power.origin + 150 * msTicks ≤ s.at t → s.blank = false →
      Answers (.hrdyRise t) s fun n => n.port.hrdy = true ∧ n.port.hrdyAt = s.power.origin + 150 * msTicks ∧ n.port.boot = false ∧ n.air.running = true ∧ n.stamp = s.stamp)

/-- BROWN_OUT of a booted hub, from the bus or from pair B where every phase has stood below mains.interrupt for power.mainsbo half-cycles, sets
FAILING and IRQ[12], stops admission and gates every stack. Unless a valid snapshot is unconsumed, it takes what the snapshot is to hold: the
run, the stamp, the bindings, loans, generations other than 0, live settings, roster, the cells of the streams, and a record of the committed
image of each stream of slot 1 that is PARKED or RESIDENT, each part under its CRC-32. Where no descriptor runs that must finish, it parks every
resident stream of slot 1 with its committed image and no other stream. -/
def Obligations.BrownOutForms : Prop :=
  ∀ (t : Tick) (s : State) (mains : Bool), s.awake = true → s.power.waiting = .none → s.power.brownAt = none → s.power.bken.getLsbD 0 = true →
      (mains = true → s.stamp.started = true ∧ s.steward.bDown = none ∧ ∃ h, s.get .powerMainsbo = some h ∧ h.toNat ≤ s.mains.low) →
    Answers (.brownOut t mains) s fun n =>
      n.power.brownAt = some (s.at t) ∧ n.power.stopped = true ∧ n.roleSt.failing = true ∧ n.port.regs.irq.getLsbD 12 = true
        ∧ (∀ k ∈ n.stackList, k.gated = true) ∧ n.port.hrdy = s.port.hrdy ∧ n.archive.snapshot = s.archive.snapshot
        ∧ (s.archive.snapshot.usable = true → n.steward.snap = none)
        ∧ (s.archive.snapshot.usable = false → ∃ x, n.steward.snap = some x ∧ x.valid = false ∧ x.run = s.stamp.run ∧ x.stamp = s.stamp.number
            ∧ x.bindings = s.archive.bindings ∧ x.loans = s.archive.loans ∧ x.live = s.settings.live ∧ x.roster = s.archive.roster
            ∧ x.count = x.records.length ∧ x.crc = crc32 x.fixedBytes
            ∧ (∀ g, g ∈ x.gens ↔ ∃ y ∈ s.streams, y.gen ≠ 0 ∧ g = (y.sid, y.gen))
            ∧ (∀ a, a ∈ x.cells ↔ ∃ c ∈ s.cells, ∃ y, c.sid = some y ∧ a = (y, c.shelf, c.cell))
            ∧ ((s.streams.map (·.sid)).Nodup → ∀ r, r ∈ x.records ↔
                ∃ y ∈ s.streams, y.slot = 1 ∧ (y.place = .parked ∨ y.place = .resident) ∧ r.sid = y.sid ∧ r.image = y.committed
                  ∧ r.place = y.place ∧ r.length = y.committed.length ∧ r.crc = r.check))
        ∧ ((∀ k < 4, ∀ r ∈ (s.stk k).running, ∃ o, Op.ofCode (dOp r.bits) = some o ∧ o.preemptible = true) →
            (∀ x : Nat, (s.stream x).slot = 1 → (s.stream x).place = .resident →
              (n.stream x).place = .parked ∧ (n.stream x).ledger = (s.stream x).committed ∧ (n.stream x).committed = (s.stream x).committed
                ∧ (n.stream x).gen = (s.stream x).gen)
            ∧ ∀ x : Nat, ((s.stream x).slot ≠ 1 ∨ (s.stream x).place ≠ .resident) →
              (n.stream x).place = (s.stream x).place ∧ (n.stream x).ledger = (s.stream x).ledger
                ∧ (n.stream x).committed = (s.stream x).committed ∧ (n.stream x).gen = (s.stream x).gen)

/-- BROWN_OUT_HRDY_LOW, 1 ms after the declaration of a brown-out, drives HRDY low and changes nothing else. SNAPSHOT_WRITE writes to the archive
what the declaration took, and nothing else. SNAPSHOT_SEAL writes the header with VALID set, and the rails go down, VDD_CORE first and 200 µs
apart, for the restart of the bus; where a valid snapshot was unconsumed it seals none. SNAPSHOT_RESTORE, after accession on a primary whose snapshot is valid, begins to restore its stream records. STREAM_RECORD_RESTORE
takes the first 16 records that are left, or all of fewer: one whose cells kept the identity of their node comes back PARKED with its image and
generation, one whose CRC-32 fails or whose shelfmark changed identity is no longer held, stays as it is and is counted as skipped, and no
other stream changes. With the last record
RESTORED is set and the snapshot consumed. That a live state shift of the snapshot belongs to its stream is the model's choice of log entry
121. -/
def Obligations.RestoreForms : Prop :=
  ∀ (t : Tick) (s : State),
    (∀ b : Tick, s.sound = true → s.port.hrdy = true → s.power.brownAt = some b → b + msTicks ≤ s.at t →
      exec (.brownOutHrdyLow t) s = .next { s with now := s.at t, port := { s.port with hrdy := false, hrdyAt := s.at t } })
    ∧ (∀ x : Snapshot, s.sound = true → s.power.brownAt.isSome = true → s.power.stopped = true → s.power.written = false → s.steward.snap = some x →
      exec (.snapshotWrite t) s = .next { s with
        now := s.at t, power := { s.power with written := true }, archive := { s.archive with snapshot := x } })
    ∧ (s.power.brownAt.isSome = true → s.power.written = true ∨ (s.steward.snap = none ∧ s.port.hrdy = false ∧ (s.power.quiet = true ∨ s.leads = false)) →
      exec (.snapshotSeal t) s = .next { (s.advance t).fresh with
        archive := if s.power.written = true then { s.archive with snapshot := { s.archive.snapshot with valid := true, consumed := false } } else s.archive
        power := {
          porter := true, origin := s.power.origin, waiting := .busRestart, waitFrom := s.at t
          offTimes := ([4, 3, 2, 1, 0].filter fun j => s.power.bken.getLsbD j).mapIdx fun i j => (j, s.at t + i * (200 * usTicks))
          shutdowns := s.power.shutdowns + 1, railFault := s.power.railFault, rstLow := s.power.rstLow } })
    ∧ (s.up = true → s.leads = true → s.power.start = .restore → s.archive.snapshot.usable = true → s.acc.phase = .ended → s.acc.first = s.stamp.number →
        s.sense.marked = false → s.restoring = none → s.restored = false →
      Answers (.snapshotRestore t) s fun n =>
        (s.archive.snapshot.records ≠ [] → n.restoring = some (s.archive.snapshot.records.map fun r => (r.sid, r.image)) ∧ n.restored = false ∧ n.archive = s.archive)
          ∧ (s.archive.snapshot.records = [] → n.restoring = none ∧ n.restored = true ∧ n.archive.snapshot.consumed = true)
          ∧ n.streams = s.streams)
    ∧ (∀ rs : List (Nat × Image), s.up = true → s.restoring = some rs → rs ≠ [] → (rs.map (·.1)).Nodup →
        s.restoreFrom + (s.restoredCount + s.skipped) / 16 * msTicks ≤ s.at t →
      let moved : Nat → Bool := fun x => (s.archive.snapshot.records.any fun r => r.sid == x && r.crc != r.check)
        || s.archive.snapshot.cells.any fun a => a.1 == x && !s.sameNode a.2.1
      let now := rs.take 16
      Answers (.streamRecordRestore t) s fun n =>
        (rs.length ≤ 16 → n.restoring = none ∧ n.restored = true ∧ n.archive.snapshot.consumed = true)
          ∧ (16 < rs.length → n.restoring = some (rs.drop 16) ∧ n.restored = s.restored ∧ n.archive = s.archive)
          ∧ (∀ r ∈ now, moved r.1 = false → ∃ j,
              n.stream r.1 = { sid := r.1, place := .parked, gen := r.2.gen, slot := 1, pages := r.2.pages, ledger := r.2, committed := r.2
                               work := r.2, shiftTo := j }
                ∧ ∀ l v, (l, v) ∈ j ↔ ∃ w, (SName.streamShift r.1 l, w) ∈ s.archive.snapshot.live ∧ v = (w.getD 0).toNat)
          ∧ (∀ r ∈ now, moved r.1 = true → n.stream r.1 = { s.stream r.1 with held := false })
          ∧ (∀ x, (∀ r ∈ now, r.1 ≠ x) → n.stream x = s.stream x)
          ∧ n.restoredCount = s.restoredCount + (now.filter fun r => !moved r.1).length
          ∧ n.skipped = s.skipped + (now.filter fun r => moved r.1).length)

/-- STAMP_BOUNDARY, once the instant of the next boundary has come and unless a takeover boundary comes first, begins the next stamp P
milliseconds after the last boundary (corrected only on a standby): the number rises by one modulo 2^48 and the run number stays; a
standby that is to adopt its primary's run and number takes those instead. TAKEOVER_BOUNDARY begins the next stamp at the takeover instant
and leaves the role of a standby for that of a primary, or of a hub alone where no partner is configured. No life-cycle move is due at
that stamp. -/
def Obligations.BoundaryRaisesStamp : Prop :=
  ∀ (t : Tick) (s : State), s.ticking = true →
    (s.nextBoundary ≤ s.at t → (∀ x, s.roleSt.takeoverAt = some x → s.nextBoundary < x) →
      (s.roleSt.target = none → (∀ m ∈ s.test.lifeDue, ¬ m.2 ≤ s.stamp.number + 1) →
        Answers (.stampBoundary t) s fun n =>
          n.stamp.started = true ∧ n.stamp.number = s.stamp.number + 1 ∧ n.stamp.run = s.stamp.run
            ∧ (n.stamp.t0 : Int) = max 0 (s.stamp.t0 + s.stamp.period * 25000 * 480 + s.stamp.adjust) ∧ n.now = s.at t)
      ∧ (∀ (run : BitVec 32) (m : BitVec 48), s.roleSt.target = some (run, m) → (∀ x ∈ s.test.lifeDue, ¬ x.2 ≤ m) →
        Answers (.stampBoundary t) s fun n =>
          n.stamp.started = true ∧ n.stamp.number = m ∧ n.stamp.run = run ∧ n.stamp.t0 = s.nextBoundary))
    ∧ (∀ x : Tick, s.roleSt.takeoverAt = some x → x ≤ s.at t → s.roleSt.target = none → s.roleSt.yieldAt = none → s.roleSt.silentFrom = none →
        (∀ m ∈ s.test.lifeDue, ¬ m.2 ≤ s.stamp.number + 1) →
      Answers (.takeoverBoundary t) s fun n =>
        n.stamp.number = s.stamp.number + 1 ∧ n.stamp.run = s.stamp.run ∧ n.stamp.t0 = x ∧ n.roleSt.takeoverAt = none
          ∧ n.roleSt.decided = true ∧ n.roleSt.role = (if s.spine.partner then .primary else .alone))

/-- ADMISSION_PASS of a stack ends its overrun and marks the pass done; on a stack in service the debts become what the stamp pays. CONVERSION, at
an instant of the grid of 15.625 µs and with the four mains codes at one of 62.5 µs, adds one code of each channel, held within its end values,
to the sums and to its millisecond; the first code of another one completes the millisecond before, whose 64 codes wait for their means. That of
the instant 100 µs after the boundary closes the span of the codes since the last mark, and SAMPLE_MARK marks that the instant has passed. A
standby takes its primary's codes instead. CURRENT_MEAN takes the first millisecond of 64 codes that has ended, and a primary with a partner on an
UP link sends its codes in a SENSE frame. HEARTBEAT_SEND sends the heartbeat of the instant and sets the next multiple of 250 µs. -/
def Obligations.StampPointForms : Prop :=
  ∀ (t : Tick) (s : State), s.sound = true →
    (∀ k : Nat, k < 4 → s.stackList.length = 4 → s.up = true → s.steward.aDown = none → s.steward.holdTo ≤ s.stamp.number →
        (s.stk k).passDone = false → (s.stk k).running = [] →
      Answers (.admissionPass t k) s fun n =>
        (n.stk k).passDone = true ∧ (n.stk k).overrun = false ∧ n.stamp = s.stamp ∧ n.settings = s.settings
          ∧ ((s.stk k).usable = true → (n.stk k).paying = (s.stk k).debts ∧ (n.stk k).debts = []))
    ∧ (s.ticking = true → s.sense.marked = false → s.stamp.t0 + 100 * usTicks ≤ s.at t →
      exec (.sampleMark t) s = .next { s with now := s.at t, sense := { s.sense with marked := true } })
    ∧ (s.stamp.t0 ≤ s.at t → s.at t < s.stamp.t0 + s.stamp.period * msTicks →
        (s.advance t).msNow = (s.stamp.number, (s.at t - s.stamp.t0) / msTicks))
    ∧ (∀ (ia ib : BitVec 24) (v : Option (List (BitVec 24))), s.ticking = true → s.stamp.t0 ≤ s.at t →
        (s.at t - s.stamp.t0) % (msTicks / 64) = 100 * usTicks % (msTicks / 64) →
        (v.isSome = true ↔ (s.at t - s.stamp.t0) % (msTicks / 16) = 100 * usTicks % (msTicks / 16)) →
        (∀ x, s.sense.lastConv = some x → x < s.at t) →
      let code : BitVec 24 → Int := fun x => max (-8388607) x.toInt
      let same : Prop := (s.sense.msStamp, s.sense.msIndex) = (s.advance t).msNow
      let q := s.sense
      Answers (.conversion t ia ib v) s fun n =>
        (s.isStandby = true → n.sense = { q with lastConv := some (s.at t) } ∧ n.mains.samples = s.mains.samples)
          ∧ (s.isStandby = false →
              n.sense.lastConv = some (s.at t) ∧ (n.sense.msStamp, n.sense.msIndex) = (s.advance t).msNow
              ∧ n.sense.sumA = q.sumA + code ia ∧ n.sense.sumB = q.sumB + code ib ∧ n.sense.count = q.count + 1
              ∧ (q.msA = [] ∨ same → n.sense.msA = q.msA ++ [code ia] ∧ n.sense.msB = q.msB ++ [code ib] ∧ n.sense.fullMs = q.fullMs
                  ∧ n.sense.msMains = q.msMains ++ v.toList.map fun xs => xs.map code)
              ∧ (q.msA ≠ [] → ¬ same → n.sense.msA = [code ia] ∧ n.sense.msB = [code ib] ∧ n.sense.msMains = v.toList.map (fun xs => xs.map code)
                  ∧ n.sense.fullMs = q.fullMs
                      ++ (if q.msA.length = 64 then [{ stamp := q.msStamp, index := q.msIndex, a := q.msA, b := q.msB, mains := q.msMains }] else []))
              ∧ (s.at t = s.stamp.t0 + 100 * usTicks →
                  n.sense.markA = code ia ∧ n.sense.markB = code ib
                    ∧ n.sense.cums = (s.stamp.number, n.sense.sumA, n.sense.sumB, n.sense.count) :: q.cums
                    ∧ n.sense.stampA = n.sense.sumA - ((q.cums.head?.map fun c => c.2.1).getD 0)
                    ∧ n.sense.stampB = n.sense.sumB - ((q.cums.head?.map fun c => c.2.2.1).getD 0)
                    ∧ n.sense.stampN = n.sense.count - ((q.cums.head?.map fun c => c.2.2.2).getD 0))
              ∧ (s.at t ≠ s.stamp.t0 + 100 * usTicks → n.sense.cums = q.cums ∧ n.sense.markA = q.markA ∧ n.sense.markB = q.markB)
              ∧ n.mains.samples = s.mains.samples ++ v.toList.map fun xs => xs.map fun x => sat (rnd (code x) (s.getN .mainsShift)) 16)
          ∧ (v = none → n.mains = s.mains) ∧ n.stamp = s.stamp ∧ n.nodes = s.nodes)
    ∧ (∀ (m : MsBlock) (rest : List MsBlock), s.ticking = true →
        (let q := s.sense
         let same : Prop := (q.msStamp, q.msIndex) = (s.advance t).msNow
         (q.fullMs = m :: rest ∧ (q.msA = [] ∨ same))
          ∨ (q.fullMs = [] ∧ rest = [] ∧ q.msA.length = 64 ∧ ¬ same
              ∧ m = { stamp := q.msStamp, index := q.msIndex, a := q.msA, b := q.msB, mains := q.msMains })) →
      Answers (.currentMean t) s fun n =>
        n.sense.lastMs = some (m.a, m.b) ∧ n.sense.fullMs = rest ∧ n.sense.sumA = s.sense.sumA ∧ n.sense.count = s.sense.count
          ∧ n.nodes = s.nodes ∧ n.cells = s.cells
          ∧ (s.leads = true → s.spine.partner = true → s.spine.state = .up →
              let m : SpineMsg := .sense m.stamp m.index m.a m.b m.mains
              n.spine.txSeq = s.spine.txSeq + BitVec.ofNat 16 m.frames
                ∧ (s.outstanding + m.held ≤ 524288 → n.spine.sent = s.spine.sent ++ (List.range m.frames).map fun i =>
                    { seq := s.spine.txSeq + BitVec.ofNat 16 (i + 1), stamp := s.stamp.number, msg := m, part := i })))
    ∧ (s.ticking = true → s.spine.state = .up → s.roleSt.decided = true → s.spine.nextBeat ≤ s.at t →
      let m : SpineMsg := .heartbeat (s.advance t).heartbeat
      let hdr := s.headerOf m 0 s.spine.txSeq s.stamp.number
      let nonce := spineNonce s.spine.session s.spine.txCount s.spine.sideB
      ∃ payload tag,
        exec (.heartbeatSend t) s = .next { s with
          now := s.at t
          out := .spine m 0 hdr payload tag (crc32 (leBytes 16 hdr.toNat ++ payload)) :: s.out
          spine := { s.spine with
            txCount := s.spine.txCount + if s.getN .spineSecure = 1 then 1 else 0
            scram := scramAfter (8 * (20 + payload.length + tag.length)) 0x7FFFFF#23
            lineFree := max (s.at t) s.spine.lineFree + symbolSpan (32 + 4 * (20 + payload.length + tag.length))
            beatAt := some (s.at t)
            nextBeat := s.stamp.t0 + ((s.at t - s.stamp.t0) / (250 * usTicks) + 1) * (250 * usTicks) } }
        ∧ (s.getN .spineSecure ≠ 1 → payload = leBytes 16 (s.advance t).heartbeat.toNat ∧ tag = [])
        ∧ (s.getN .spineSecure = 1 → payload = gcmText s.spineKeyBytes nonce (leBytes 16 (s.advance t).heartbeat.toNat)
            ∧ tag = (gcmTag s.spineKeyBytes nonce (leBytes 16 hdr.toNat) payload).take 8))

/-- STARVED_EVENT on a hub that starves raises one event with the number of stale cells; UNSERVED_EVENT raises one for each of the slots 0
and 1 that has a folio and no stack; DIVSUM raises one with the number of open divergences when more than 64 are open. Each comes at least
one second after the last of its kind, and changes no stack, stream, charge or setting. -/
def Obligations.OnceASecondEvents : Prop :=
  ∀ (t : Tick) (s : State), s.up = true →
    (s.leads = true → s.rota.starving = true → (∀ x, s.events.lastStarved = some x → x + 1000 * msTicks ≤ s.at t) →
      Answers (.starvedEvent t) s fun n =>
        Raised s n 0x30 (some 1) none (s.cells.filter (·.isStale)).length 0 0 0 ∧ n.events.lastStarved = some (s.at t)
          ∧ n.stackList = s.stackList ∧ n.charges = s.charges ∧ n.streams = s.streams ∧ n.settings = s.settings)
    ∧ (∀ p : Nat, p < 2 → s.leads = true → s.unserved p = true → s.unserved (1 - p) = false →
        (∀ x, s.events.lastUnserved = some x → x + 1000 * msTicks ≤ s.at t) →
      Answers (.unservedEvent t) s fun n =>
        Raised s n 0x33 (some p) none p 0 0 0 ∧ n.events.lastUnserved = some (s.at t)
          ∧ n.stackList = s.stackList ∧ n.charges = s.charges ∧ n.streams = s.streams ∧ n.settings = s.settings)
    ∧ (s.events.divRolled = true → 64 < s.openDivs → (∀ x, s.events.lastDivsum = some x → x + 1000 * msTicks ≤ s.at t) →
      Answers (.divsum t) s fun n =>
        n.events.next = s.events.next + 1 ∧ n.events.divRolled = false ∧ n.events.lastDivsum = some (s.at t)
          ∧ (n.events.fresh.map fun e => (e.code, e.a0)) =
              (s.events.fresh.map fun e => (e.code, e.a0)) ++ [(0x12#16, BitVec.ofNat 32 s.openDivs)]
          ∧ n.stackList = s.stackList ∧ n.charges = s.charges ∧ n.streams = s.streams ∧ n.settings = s.settings)

/-- When the next descriptor of its opcode can start and has work to do, the command takes it from the queue and runs it on its engine for its
cost, from the instant as of which nothing has held it back. Its charge starts with it, unless it has started; with its first descriptor on the
main engine its inputs are written into its blocks. A charge that has started, and has its inputs or starts a descriptor of another engine, leaves
carrels, charges and, without an error in a ledger page, streams as they were. STREAMIN, of a folio block that the archive can read, clears the region's valid flag and puts the folio's
bytes and tags into the weight store, and no other stack's store changes. XFER holds its bytes in pieces of 4 KiB, or completes FOREIGN with
none where the destination is no longer lent to the slot. RECALL, whose rows are at HOME or whole in the ledger, holds its images page by page.
PARK and COMMIT, with every row in its place, DIGEST, SYNC, and COLOPHON, which is MOVED where its row is, hold nothing until they end. A
descriptor with no work to do leaves the queue at once and runs on no engine. That what a descriptor writes appears unit by unit is the
model's choice of log entry 14, and that the inputs are written with the first descriptor of the main engine, of log entry 139. -/
def Obligations.EnginesMove : Prop :=
  ∀ (t : Tick) (s : State) (a : StackAt) (i : Nat) (q : QDesc) (c : ChargeSt),
    (∀ o : Op, s.NextUp t a o i q c →
      let z := s.opening t a o i c
      (c.started = true → (c.fed = true ∨ o.engine ≠ .main) →
          (∀ j, (z.stk j).carrel = (s.stk j).carrel) ∧ z.charges = s.charges ∧ (a.hw.pages = [] → z.streams = s.streams))
        ∧ (c.started = false → (c.fed = true ∨ o.engine ≠ .main) → s.opened t a o i c = { c with started := true, moved := s.movedRows c })
        ∧ (c.fed = false → o.engine = .main → (s.opened t a o i c).fed = true ∧ (s.opened t a o i c).started = true
            ∧ ((∀ sid, c.kind ≠ .rebuild sid) → (c.started = true ∨ c.redo = []) → ∀ j, j ≠ a.k → (z.stk j).carrel = (s.stk j).carrel))
        ∧ (emptyDesc o q.bits = true → (dropAt i (s.stk a.k).queue).any (fun x => x.charge == c.id) = true → o ≠ .streamin →
          Answers (startOf t a o) s fun n =>
            (n.stk a.k).queue = dropAt i (s.stk a.k).queue ∧ (n.stk a.k).running = (s.stk a.k).running ∧ n.streams = z.streams
              ∧ n.charges = z.charges ∧ ∀ j, (n.stk j).carrel = (z.stk j).carrel))
    ∧ (s.Works t a .sync i q c → Answers (.sync t a) s fun n => Runs s n t a .sync i q c stDone [] {})
    ∧ (s.Works t a .recall i q c →
      let z := s.opening t a .recall i c
      let x := s.opened t a .recall i c
      let b := MoveBody.of q.bits
      (∀ p ∈ liveRows z x b.row0 b.nr, (p.2.place = .resident → p.2.stack = a.k ∧ p.2.home = (rowAt x.rows p.1).home)
          ∧ (p.2.place = .parked → p.2.damaged = none)) →
        Answers (.recall t a) s fun n => Runs s n t a .recall i q c stDone (recallUnits z x b) {})
    ∧ (s.Works t a .park i q c →
      let x := s.opened t a .park i c
      (∀ p ∈ liveRows (s.opening t a .park i c) x (MoveBody.of q.bits).row0 (MoveBody.of q.bits).nr,
          p.2.place = .parked ∨ (p.2.place = .resident ∧ p.2.stack = a.k ∧ p.2.home = (rowAt x.rows p.1).home)) →
        Answers (.park t a) s fun n => Runs s n t a .park i q c stDone [] {})
    ∧ (s.Works t a .commit i q c →
      let x := s.opened t a .commit i c
      (∀ p ∈ liveRows (s.opening t a .commit i c) x (MoveBody.of q.bits).row0 (MoveBody.of q.bits).nr,
          p.2.place = .resident ∧ p.2.stack = a.k ∧ p.2.home = (rowAt x.rows p.1).home) →
        Answers (.commit t a) s fun n => Runs s n t a .commit i q c stDone [] {})
    ∧ (s.Works t a .xfer i q c →
      let z := s.opening t a .xfer i c
      let b := XferBody.of q.bits
      let data := memRead (z.stk a.k).carrel (64 * b.src) b.bytes
      (z.xferOk c.slot b = true → Answers (.xfer t a) s fun n => Runs s n t a .xfer i q c stDone
          ((List.range (ceilDiv b.bytes 4096)).map fun u => [(64 * b.dst + 4096 * u, (data.drop (4096 * u)).take 4096)]) {})
        ∧ (z.xferOk c.slot b = false → Answers (.xfer t a) s fun n => Runs s n t a .xfer i q c stForeign [] {}))
    ∧ (s.Works t a .digest i q c → Answers (.digest t a) s fun n =>
        Runs s n t a .digest i q c stDone [] {} ∧ ∀ j, (n.stk j).ctxs = (s.stk j).ctxs)
    ∧ (s.Works t a .colophon i q c → Answers (.colophon t a) s fun n =>
        Runs s n t a .colophon i q c (if (s.opened t a .colophon i c).moved.contains (DigestBody.of q.bits).row then stMoved else stDone) [] {}
          ∧ ∀ j, (n.stk j).ctxs = (s.stk j).ctxs)
    ∧ (s.Works t a .streamin i q c →
      let b := FillBody.of q.bits
      ∀ fs, (s.opening t a .streamin i c).fillFolio (s.opened t a .streamin i c) = some fs →
        (∀ x ∈ fs.badBlocks, x < b.src / 4096 ∨ (b.src + ceilDiv b.bytes 64 - 1) / 4096 < x) →
        let src := (fs.info.weightLines.drop b.src).take (ceilDiv b.bytes 64)
        Answers (.streamin t a) s fun n => Runs s n t a .streamin i q c stDone [] {}
          ∧ (n.stk a.k).valid = (s.stk a.k).valid &&& ~~~ (BitVec.ofNat 48 (2 ^ b.region))
          ∧ (n.stk a.k).store = memWrite (s.stk a.k).store (64 * b.dst) ((src.flatMap (·.1)).take b.bytes)
          ∧ (n.stk a.k).tags = memWrite (s.stk a.k).tags b.dst (src.map fun l => l.2.setWidth 8)
          ∧ ∀ j, j ≠ a.k → (n.stk j).store = (s.stk j).store ∧ (n.stk j).tags = (s.stk j).tags ∧ (n.stk j).valid = (s.stk j).valid)

/-- MATMUL and SCAN, where the layer runs without a fault, hold what it computes from the carrel and the weight store of their stack, and count the
single-bit errors of the words that they read. BIND holds each element's result, 1,024 elements to a unit. SHADOW holds the drift of its row. A
fault that shows itself within a layer stops it in that cycle: it runs until then, with the fault's status. One that shows itself as the
descriptor starts abandons the charge with its event and a record of its status: a SCAN of a stream that is not resident at its HOME (NOTREADY,
NOTRESIDENT), a MATMUL or SCAN of a region that is not valid (NOTREADY, INVALIDREG), and a descriptor of any opcode that reads an uncorrectable
carrel word (ECC, kind 1, with the word's block). In which cycle a fault shows itself is the model's choice of log entry 138. -/
def Obligations.EnginesCompute : Prop :=
  ∀ (t : Tick) (s : State) (a : StackAt) (i : Nat) (q : QDesc) (c : ChargeSt),
    (s.Works t a .matmul i q c →
      let z := s.opening t a .matmul i c
      let x := s.opened t a .matmul i c
      let o := runMatmul (z.under x) x q.bits
      (o.status = stDone → Answers (.matmul t a) s fun n => Runs s n t a .matmul i q c stDone o.units o.fx
          ∧ (n.stk a.k).corrected = (s.stk a.k).corrected + softReads (z.stk a.k) (storeReads q.bits))
        ∧ (o.status = stInvalidReg → Answers (.matmul t a) s fun n =>
            Raised s n 0x24 (some c.slot) (some a.k) stInvalidReg o.detail c.tag.toNat 0 ∧ Abandons s n a.k q c stInvalidReg)
        ∧ (abandons o.status = true → 0 < o.after → Answers (.matmul t a) s fun n =>
            RunsFor s n t a .matmul i q c o.status o.units o.fx o.after))
    ∧ (s.Works t a .scan i q c →
      let z := s.opening t a .scan i c
      let x := s.opened t a .scan i c
      let o := runScan (z.under x) x q.bits
      (∀ sid : Nat, notResident x (liveRows z x (ScanBody.of q.bits).row0 (ScanBody.of q.bits).ns) = some sid → Answers (.scan t a) s fun n =>
          Raised s n 0x24 (some c.slot) (some a.k) stNotResident sid c.tag.toNat 0 ∧ Abandons s n a.k q c stNotResident)
        ∧ (notResident x (liveRows z x (ScanBody.of q.bits).row0 (ScanBody.of q.bits).ns) = none →
          (o.status = stDone → Answers (.scan t a) s fun n => Runs s n t a .scan i q c stDone o.units o.fx
              ∧ (n.stk a.k).corrected = (s.stk a.k).corrected + softReads (z.stk a.k) (storeReads q.bits))
          ∧ (o.status = stInvalidReg → Answers (.scan t a) s fun n =>
              Raised s n 0x24 (some c.slot) (some a.k) stInvalidReg o.detail c.tag.toNat 0 ∧ Abandons s n a.k q c stInvalidReg)))
    ∧ (s.Works t a .bind i q c →
      let z := s.opening t a .bind i c
      let b := BindBody.of q.bits
      let car := (z.stk a.k).carrel
      let width := if b.w then 2 else 1
      Answers (.bind t a) s fun n => ∃ fx, Runs s n t a .bind i q c stDone
        ((List.range (ceilDiv b.count 1024)).map fun u => [(64 * b.yout + 1024 * u * width,
          (((List.range b.count).drop (1024 * u)).take 1024).flatMap fun e =>
            codeBytes (bindElement b (tableAt car b.ftab) (codeAt car (64 * b.xin) e b.w) (codeAt car (64 * b.eop) e b.w)).1 b.w)]) fx)
    ∧ (s.Works t a .shadow i q c →
      let z := s.opening t a .shadow i c
      let x := s.opened t a .shadow i c
      Answers (.shadow t a) s fun n => ∃ fx, Runs s n t a .shadow i q c stDone [] fx
        ∧ fx.shadow = (runShadow z x q.bits).map fun p => ((rowAt x.rows (ShadowBody.of q.bits).row).sid, p.2, p.1))
    ∧ (∀ (o : Op) (w : Nat), s.NextUp t a o i q c → emptyDesc o q.bits = false →
        let z := s.opening t a o i c
        badCarrelRead (z.stk a.k) (carrelReads z (s.opened t a o i c).rows q.bits) = some w →
      Answers (startOf t a o) s fun n =>
        Raised s n 0x21 (some c.slot) (some a.k) 1 (w * 8 / 65536) 0 0 ∧ Abandons s n a.k q c stEcc)

/-- When the completion of a descriptor is due and its charge has others left, DESCRIPTOR_COMPLETE frees the engine and makes the units that are
still to come whole in the carrel that the descriptor writes, unless that is a stack out of service, and in no other; the accumulator entries hold what it leaves. A record leaves
where the descriptor asks for one, for a SHADOW, with a status other than DONE, and for the charge's last descriptor, with its opcode, index,
patron, stack, status, cycles and drift. A SCAN leaves the working states of its rows, a SHADOW the drift of its row with the charge. After a
RECALL a parked stream of its row is RESIDENT at its HOME with the image of the ledger; after a PARK it is PARKED with its committed image in
the ledger. After the last STREAMIN of a region its valid flag is set while the region is lent, and only then. COMMIT of one row of a request's
chunk makes the working state at HOME the committed one, with STEP one more and POS advanced by L. DIGEST absorbs carrel bytes into the
context, begun anew with INIT. COLOPHON closes the context and writes the 32 bytes of the colophon of its contents, or nothing where its row
is MOVED. Other opcodes change no stream. A descriptor that a fault has stopped abandons its charge: for an accumulator range with RANGE, for a
first slip-skew fault of its stack with SKEW and a re-read of its layer, each with its event and its record. -/
def Obligations.DescriptorEnds : Prop :=
  ∀ (t : Tick) (s : State) (k : Nat) (e : Engine) (r : RunSt) (c : ChargeSt) (o : Op),
    (s.EndsWell t k e r c o → o ≠ .commit → o ≠ .colophon → o ≠ .streamin → (∀ sid, c.kind ≠ .rebuild sid) → (o = .recall → c.redo = []) →
      Answers (.descriptorComplete t k e) s fun n =>
        (n.stk k).running = (s.stk k).running.filter (fun x => x.eng != e) ∧ (n.stk k).queue = (s.stk k).queue
          ∧ (writesTo k r.bits < 4 → (s.stk (writesTo k r.bits)).usable = true →
              (n.stk (writesTo k r.bits)).carrel = putAll (s.stk (writesTo k r.bits)).carrel r.units)
          ∧ ((s.stk (writesTo k r.bits)).usable = false → (n.stk (writesTo k r.bits)).carrel = (s.stk (writesTo k r.bits)).carrel)
          ∧ (∀ j, j ≠ writesTo k r.bits → (n.stk j).carrel = (s.stk j).carrel)
          ∧ (n.stk k).acc = putAcc r.fx.acc (s.stk k).acc
          ∧ ((dRec r.bits = true ∨ o = .shadow ∨ r.status ≠ 0 ∨ (dLast r.bits = true ∧ c.abandoned = false)) →
              (o = .shadow → c.done.contains (ShadowBody.of r.bits).row = false) →
              ∃ x, n.out = .completion x x.bytes :: s.out ∧ x.op = BitVec.ofNat 8 (dOp r.bits) ∧ x.index = r.index ∧ x.patron = c.slot
                ∧ x.stack = k ∧ x.fin = (dLast r.bits && !c.abandoned) ∧ x.status = r.status ∧ x.tag = c.tag ∧ x.stamp = s.stamp.number
                ∧ x.cycles = r.cycles (s.dueAt k r) ∧ x.drift = r.drift ∧ x.detail = r.detail)
          ∧ (dRec r.bits = false → o ≠ .shadow → r.status = 0 → (dLast r.bits = false ∨ c.abandoned = true) → n.out = s.out)
          ∧ (r.fx.works = [] → o ≠ .recall → o ≠ .park → n.streams = s.streams)
          ∧ (∀ sid sh st wide, o = .scan → r.fx.works = [(sid, sh, st, wide)] →
              n.stream sid = { s.stream sid with work := { (s.stream sid).work with shifts := sh, state := st }, wide := wide }
                ∧ ∀ y, y ≠ sid → n.stream y = s.stream y)
          ∧ (∀ z, o = .shadow → r.fx.shadow = some z →
              ∃ x, n.charge? c.id = some x ∧ lookupD 0 z.1 x.drift = z.2.1 ∧ x.shadow = z.2.2)
          ∧ (∀ (row : Nat) (x : StreamSt), o = .recall → r.fx.works = [] →
              liveRows s c (MoveBody.of r.bits).row0 (MoveBody.of r.bits).nr = [(row, x)] → x.place = .parked →
              n.stream x.sid = { x with
                place := .resident, committed := x.ledger, work := x.ledger, wide := [], stack := k, home := (rowAt c.rows row).home })
          ∧ (∀ (row : Nat) (x : StreamSt), o = .park → r.fx.works = [] →
              liveRows s c (MoveBody.of r.bits).row0 (MoveBody.of r.bits).nr = [(row, x)] → x.place = .resident →
              n.stream x.sid = { x with place := .parked, ledger := x.committed, work := x.committed, wide := [] })
          ∧ (o = .digest →
              let b := DigestBody.of r.bits
              let mine : Ctx → Bool := fun x => x.slot == c.slot && x.ctx == b.ctx
              let old := if b.init then [] else (((s.stk k).ctxs.find? mine).map (·.absorbed)).getD []
              (n.stk k).ctxs = ((s.stk k).ctxs.filter fun x => !mine x)
                ++ [{ slot := c.slot, ctx := b.ctx, charge := c.id, absorbed := old ++ memRead (putAll (s.stk k).carrel r.units) (64 * b.addr) b.bytes }]))
    ∧ (s.EndsWell t k e r c o → o = .streamin → (FillBody.of r.bits).final = true → (FillBody.of r.bits).region < 48 → r.fx.works = [] →
        (∀ sh ∈ (s.stk k).shares, sh.atReady = false) →
      let lent := (s.stk k).shares.any fun sh => sh.slot == c.slot && sh.st != .draining && sh.regions.contains (FillBody.of r.bits).region
      Answers (.descriptorComplete t k e) s fun n =>
        (n.stk k).running = (s.stk k).running.filter (fun x => x.eng != e) ∧ n.streams = s.streams
          ∧ (lent = true → (n.stk k).valid = (s.stk k).valid ||| BitVec.ofNat 48 (2 ^ (FillBody.of r.bits).region))
          ∧ (lent = false → (n.stk k).valid = (s.stk k).valid))
    ∧ (∀ (req sid index : Nat) (last : Bool) (w : Request) (x : StreamSt) (row : Nat), s.EndsWell t k e r c o → o = .commit →
        c.kind = .chunk req sid index last → c.abandoned = false → c.redo = [] → s.req? req = some w → w.kind ≠ .rollout → c.drift = [] → r.units = [] → r.fx = {} →
        liveRows s c (MoveBody.of r.bits).row0 (MoveBody.of r.bits).nr = [(row, x)] →
      Answers (.descriptorComplete t k e) s fun n =>
        let l := (MoveBody.of r.bits).lsteps
        (n.stk k).running = (s.stk k).running.filter (fun x => x.eng != e)
          ∧ (n.stream x.sid).committed.step = x.committed.step + 1 ∧ (n.stream x.sid).committed.pos = x.committed.pos + BitVec.ofNat 48 l
          ∧ (n.stream x.sid).committed.state = x.stateIn (s.stk k).carrel ∧ (n.stream x.sid).work = (n.stream x.sid).committed
          ∧ ∀ y, y ≠ x.sid → n.stream y = s.stream y)
    ∧ (s.EndsWell t k e r c o → o = .colophon → r.units = [] → r.fx = {} → (∀ req sid index last, c.kind ≠ .chunk req sid index last) →
      Answers (.descriptorComplete t k e) s fun n =>
        let b := DigestBody.of r.bits
        let w := rowAt c.rows b.row
        let mine : Ctx → Bool := fun x => x.slot == c.slot && x.ctx == b.ctx
        let absorbed := (((s.stk k).ctxs.find? mine).map (·.absorbed)).getD []
        (n.stk k).running = (s.stk k).running.filter (fun x => x.eng != e) ∧ n.streams = s.streams
          ∧ (n.stk k).ctxs = (s.stk k).ctxs.filter (fun x => !mine x)
          ∧ (n.stk k).carrel = (if c.moved.contains b.row then (s.stk k).carrel else memWrite (s.stk k).carrel (64 * b.addr)
              (sha256 (colophonMessage (s.fidNat c.slot) c.slot (((s.folio? c.slot).map (·.wdigest)).getD []) (sha256 absorbed)
                (stepCount s c b.row) (if w.use then w.sid else 0xFFFF))))
          ∧ ∀ j, j ≠ k → (n.stk j).carrel = (s.stk j).carrel)
    ∧ (s.EndsNow t k e r c o → o.engine = e →
      let q : QDesc := { charge := r.charge, index := r.index, bits := r.bits }
      let layer := s.layerOf c r.bits
      (r.status = BitVec.ofNat 8 stRange → Answers (.descriptorComplete t k e) s fun n =>
          Raised s n 0x22 (some c.slot) (some k) (s.fidNat c.slot) layer 0 0 ∧ Abandons s n k q c stRange)
        ∧ (r.status = BitVec.ofNat 8 stSkew → (s.stk k).skews = [] → Answers (.descriptorComplete t k e) s fun n =>
          Raised s n 0x20 (some c.slot) (some k) (s.fidNat c.slot) layer (r.detail.toNat % 16) (r.detail.toNat / 16 % 16)
            ∧ Abandons s n k q c stSkew
            ∧ ((s.folio? c.slot).isSome = true → (s.layerIn c r.bits).isSome = true → ∃ y ∈ n.charges, y.kind = .reread ∧ y.slot = c.slot ∧ y.stack = k)))

/-- CHARGE_SUBMIT on a stack that waits for its admission pass: a charge that passes every check is queued under the next number as the steward
makes it, last, or first for a rebuild, without the SHADOWs of a batch that does not hold the watched stream (nothing queued has to move to
another stack); one that fails a check queues nothing, and of a decode, mains or refit charge the refusal raises
FOLIOREF with the status and the INDEX. PREEMPTION of a slot sends what runs of lower classes a stop request, as of the instant of its turn, and keeps every descriptor of the
queue. STOP_POINT, when every stopped descriptor has reached its stop point and no claimed block is live, halts them with what is left to them,
their finished units made whole in the carrel. RESUME, once the preempting charge has ended and the engines are free, writes the saved blocks
back from the instant of its turn on and runs the halted ones again after that; a saved block that cannot be read is not written back and raises its event. SLICE_END ends the slice of its patron, whose main-engine descriptor halts, and begins the
slice of the next one of the class, whose halted descriptors go on as of the slice's instant. -/
def Obligations.ChargesAndTurns : Prop :=
  ∀ (t : Tick) (s : State) (k : Nat), s.stackList.length = 4 → k < 4 →
    (∀ cmd : ChargeSpec, s.up = true → s.steward.aDown = none → (s.advance t).maySubmit cmd = true → cmd.stack = k → (s.stk k).passDone = false →
      let c := (s.advance t).buildCharge cmd
      (∀ st i, (s.advance t).submitStatus cmd = some (st, i) → Answers (.chargeSubmit t cmd) s fun n =>
          n.nextCharge = s.nextCharge ∧ ((∀ req sid index last, cmd.kind ≠ .chunk req sid index last) → n.charges = s.charges)
            ∧ ((cmd.kind = .mains ∨ cmd.kind = .refit ∨ ∃ lch sl, cmd.kind = .decode lch sl) → Raised s n 0x25 (some cmd.slot) (some k) st i 0 0))
        ∧ ((s.advance t).submitStatus cmd = none → s.charge? s.nextCharge = none →
            (let z := ((s.advance t).queueCharge c (goesFirst cmd.kind)).markSubmitted c
              ∀ x ∈ z.charges, z.homeOf x = none) → Answers (.chargeSubmit t cmd) s fun n =>
          n.charges = (if goesFirst cmd.kind = true then c :: s.charges else s.charges ++ [c]) ∧ n.nextCharge = s.nextCharge + 1
            ∧ n.events = s.events ∧ ((∀ sids, cmd.kind ≠ .step sids true) → n.streams = s.streams) ∧ n.stackList = s.stackList
            ∧ c.id = s.nextCharge ∧ c.slot = cmd.slot ∧ c.stack = k ∧ c.kind = cmd.kind ∧ c.rows.length = cmd.rows.length
            ∧ c.descs.length = ((s.advance t).placedDescs cmd.slot cmd.rows cmd.descs).length ∧ c.phase = .queued ∧ c.cost ≤ s.admissible))
    ∧ (∀ slot : Nat, (s.advance t).preemptDue k slot = true →
        let at0 := (s.advance t).turnAt k (.preempt slot)
        at0 ≤ s.at t → (s.advance t).quietBefore at0 = true →
      Answers (.preemption t k slot) s fun n =>
        (n.stk k).stops = { slot := slot, charge := (s.headCharge (s.stk k) slot).getD 0, saved := false, at0 := at0 } :: (s.stk k).stops
          ∧ (n.stk k).running = ((s.stk k).running.map fun r =>
              if s.below slot r.charge then r.stopFor slot (s.stk k).shelfCount at0 else r)
          ∧ (n.stk k).queue.length = (s.stk k).queue.length ∧ (∀ q, q ∈ (n.stk k).queue ↔ q ∈ (s.stk k).queue)
          ∧ n.charges = s.charges ∧ n.streams = s.streams)
    ∧ (∀ (p : StopSt) (rest : List StopSt), (s.stk k).stops = p :: rest → (s.stk k).usable = true → (s.advance t).stopDue k = true → s.liveClaims k p.slot = [] →
        (∀ r ∈ (s.stk k).running, r.stoppedBy = some p.slot → writesTo k r.bits = k) →
      Answers (.stopPoint t k) s fun n =>
        let halts := (s.stk k).running.filter fun r => r.stoppedBy == some p.slot
        (n.stk k).stops = { p with saved := true } :: rest ∧ (n.stk k).running = (s.stk k).running.filter (fun r => r.stoppedBy != some p.slot)
          ∧ (n.stk k).halted = (s.stk k).halted ++ halts.map (fun r => r.halt (s.stk k).shelfCount)
          ∧ (n.stk k).carrel = putAll (s.stk k).carrel (halts.flatMap fun r => r.units.take (r.wholeUnits (s.stk k).shelfCount))
          ∧ (∀ j, j ≠ k → (n.stk j).carrel = (s.stk j).carrel) ∧ n.streams = s.streams)
    ∧ (∀ (p : StopSt) (rest : List StopSt), (s.stk k).stops = p :: rest → (s.advance t).resumeDue k = true →
        let at0 := (s.advance t).turnAt k .resume
        at0 ≤ s.at t → (s.advance t).quietBefore at0 = true →
        (∀ b ∈ (s.stk k).saved, b.cause = p.slot → b.bad = true →
          ∀ x ∈ s.charges, ¬ (x.stack = k ∧ x.phase = .admitted ∧ x.slot = b.slot)) →
      Answers (.resume t k) s fun n =>
        let held := (s.stk k).saved.filter fun b => b.cause == p.slot
        let mine := held.filter fun b => !b.bad
        (∀ b, held.filter (·.bad) = [b] →
            Raised s n 0x21 (some b.slot) (some k) (if b.spill then 2 else 1) (if b.spill then b.place else 48 + b.place) 0 0) ∧
        (n.stk k).stops = rest ∧ (n.stk k).halted = (s.stk k).halted.filter (fun r => r.stoppedBy != some p.slot)
          ∧ (n.stk k).carrel = mine.foldl (fun m b => memWrite m (65536 * b.block) b.data) (s.stk k).carrel
          ∧ (n.stk k).saved = (s.stk k).saved.filter (fun b => b.cause != p.slot)
          ∧ (n.stk k).heldTo = max at0 (s.stk k).heldTo + (mine.map fun b => saveCost b.spill).sum * s.cycTicks
          ∧ (n.stk k).running = (s.stk k).running ++ ((s.stk k).halted.filter fun r => r.stoppedBy == some p.slot).map (fun r =>
              { r with start := (n.stk k).heldTo, resumed := (n.stk k).heldTo, stoppedBy := none, cyc := s.cycTicks })
          ∧ n.charges = s.charges ∧ n.streams = s.streams)
    ∧ (∀ (x : SliceSt) (q : Nat) (at0 : Tick), (s.advance t).sliceDue k = some (x, q, at0) → (s.advance t).quietBefore at0 = true →
        (∀ r ∈ (s.stk k).running, r.eng = .main → s.slotOf r.charge = x.slot) →
      Answers (.sliceEnd t k) s fun n =>
        (∃ y ∈ (n.stk k).slices, y.slot = q) ∧ (∀ y ∈ (n.stk k).slices, y.slot ≠ x.slot)
          ∧ (n.stk k).running = (s.stk k).running.filter (fun r => r.eng != .main)
            ++ ((s.stk k).halted.filter fun r => r.eng == .main && r.stoppedBy.isNone && s.slotOf r.charge == q).map (fun r =>
              { r with start := max at0 (s.stk k).heldTo, resumed := max at0 (s.stk k).heldTo, cyc := s.cycTicks })
          ∧ (∀ r ∈ (s.stk k).running, r.eng = .main →
              ({ r with stopAt := some (s.sliceStop k x r) } : RunSt).halt (s.stk k).shelfCount ∈ (n.stk k).halted)
          ∧ ((s.stk k).runOn .main = none → (n.stk k).carrel = (s.stk k).carrel) ∧ n.streams = s.streams)

/-- REFIT_UPDATE updates every group of the draft from the gradients that its charge has left, and counts one step; of the ledger pages of the
draft that it names as corrected, one that has no earlier error and is not retired is noted. PUBLISH, when E steps have been made since the
last, makes the draft's codes the published ones under the next publication number and writes the draft to the archive; where a row fails the
bound of the accumulator it raises DRAFTRANGE with layer and row and publishes nothing. -/
def Obligations.RefitForms : Prop :=
  ∀ (t : Tick) (s : State) (d : Draft), s.up = true → s.steward.aDown = none → s.draft = some d →
    (∀ pages : List Nat, d.pendingUpdate = true →
      Answers (.refitUpdate t pages) s fun n =>
        (∃ d', n.draft = some d' ∧ d'.step = d.step + 1 ∧ d'.pendingUpdate = false ∧ d'.pub = d.pub ∧ d'.published = d.published
          ∧ d'.groups = (d.groups.mapIdx fun i g =>
              (g.update (d.grads.getD i []) (s.getN .refitB1) (s.getN .refitB2) (s.getN .refitLambda) (s.getN .refitEps)).1))
          ∧ n.archive = s.archive ∧ n.charges = s.charges ∧ n.streams = s.streams
          ∧ (pages = [] → n.steward = s.steward ∧ n.events = s.events)
          ∧ (∀ p, pages = [p] → s.steward.retiredPages.contains p = false → (∀ x ∈ s.steward.corrected, x.1 ≠ p) →
              (p, s.at t) ∈ n.steward.corrected ∧ n.steward.retiredPages = s.steward.retiredPages ∧ n.events = s.events))
    ∧ (∀ f p : FolioInfo, s.publishDue = true → s.refitFolios d = some (f, p) →
      Answers (.publish t) s fun n =>
        (draftFault d f p (d.groups.map (·.codes)) = none →
          n.draft = some { d with checked := d.step, pub := d.pub + 1, published := d.groups.map (·.codes), fillDue := true }
            ∧ n.archive.draft = some { d with checked := d.step, pub := d.pub + 1, published := d.groups.map (·.codes), fillDue := false }
            ∧ n.events = s.events)
        ∧ (∀ l r, draftFault d f p (d.groups.map (·.codes)) = some (l, r) →
          n.draft = some { d with checked := d.step } ∧ n.archive = s.archive
            ∧ Raised s n 0x28 (some 3) none d.parent.toNat l r (d.pub + 1)))

/-- HANG, when a descriptor that no stop request holds has run 40,000 cycles beyond its cost, and ISOLATION_REPORT, on a usable stack, raise
STACKFAULT with the causes 2 and 3 (no slot 0 or 1 is a tenant, no change waits, the stack had no fault before, and no inventory runs): the
stack is faulty, nothing is queued, runs, is lent or is valid there, no stream is resident there, and its inventory begins. The other stacks
keep their shares, and those whose pass is not done their queues. -/
def Obligations.StackFaultForms : Prop :=
  ∀ (t : Tick) (s : State) (k cause : Nat), s.stackList.length = 4 → k < 4 → (s.stk k).usable = true → s.changes = [] →
    (∀ sh ∈ (s.stk k).shares, 2 ≤ sh.slot) → (s.stk k).faultTimes = [] → s.invRunning = false → (s.stk k).inv = none →
    ∀ cmd : Instr, ((∃ (e : Engine) (r : RunSt), cmd = .hang t k e ∧ cause = 2 ∧ (s.stk k).runOn e = some r ∧ r.halts = false
          ∧ r.start + (r.left + 40000) * r.cyc < s.at t)
        ∨ (cmd = .isolationReport t k ∧ cause = 3 ∧ s.up = true)) →
      Answers cmd s fun n =>
        Raised s n 0x80 none (some k) cause 0xFF 0xFF 1
          ∧ (n.stk k).faulty = true ∧ (n.stk k).shares = [] ∧ (n.stk k).queue = [] ∧ (n.stk k).running = [] ∧ (n.stk k).valid = 0
          ∧ (n.stk k).inv = some { start := s.at t, startup := false } ∧ (n.stk k).faultTimes = [s.at t]
          ∧ (∀ x ∈ n.streams, x.stack = k → x.place ≠ .resident)
          ∧ ∀ j, j ≠ k → (n.stk j).shares = (s.stk j).shares ∧ ((s.stk j).passDone = false → (n.stk j).queue = (s.stk j).queue)

/-- INVENTORY_END after 30 ms re-initialises the stack and gates it: with nothing found it raises INVENTORY with the result PASS and the
stack keeps its shelves; with a bindery that fails the stack is weeded. SCHEDULED_INVENTORY gives its turn to the first stack whose
interval has expired, if it is free. LEDGER_SCRUB, a day after the last one, notes a corrected error, and the second of a page within 24 h retires the page.
DRAIN_END, once no descriptor of its slot runs there, removes the share that has drained, and gates a stack left with none. -/
def Obligations.InventoryForms : Prop :=
  ∀ (t : Tick) (s : State) (k : Nat), s.stackList.length = 4 → k < 4 →
    (∀ (f : InvFinding) (at0 : Tick), s.awake = true → (s.stk k).inv = some { start := at0, startup := false } → at0 + 30 * msTicks ≤ s.at t →
        s.changes = [] →
      Answers (.inventoryEnd t k f) s fun n =>
        (n.stk k).inv = none ∧ (n.stk k).gated = true ∧ (n.stk k).valid = 0 ∧ (n.stk k).carrel = [] ∧ (n.stk k).faulty = false
          ∧ (f.binderyFails = false → s.rowsShort k f = false → f.annexFails = false → f.rows = [] → (s.stk k).shelves ≠ 0 →
              (s.stk k).shelves &&& f.failedShelves = 0 → lifeIndex s.life = 3 →
              Raised s n 0x81 none (some k) k 0 0 0 ∧ (n.stk k).lastInv = some (s.stamp.number, .pass)
                ∧ (n.stk k).shelves = (s.stk k).shelves ∧ (n.stk k).weeded = (s.stk k).weeded)
          ∧ (f.binderyFails = true → (n.stk k).weeded = true ∧ (n.stk k).shares = [] ∧ (n.stk k).lastInv = some (s.stamp.number, .stack)))
    ∧ (s.up = true → s.invBusy = false → (s.advance t).invTurn = some k →
      Answers (.scheduledInventory t) s fun n =>
        (s.freeStack k = true → (n.stk k).invDue = some (s.advance t).atStamp) ∧ (s.freeStack k = false → n.stackList = s.stackList)
          ∧ (∀ j, j ≠ k → n.stk j = s.stk j) ∧ n.charges = s.charges ∧ n.streams = s.streams)
    ∧ (∀ page : Nat, s.up = true → s.steward.scrubAt ≤ s.at t → s.steward.retiredPages.contains page = false →
      Answers (.ledgerScrub t [page]) s fun n =>
        ((∃ p ∈ s.steward.corrected, p.1 = page ∧ s.at t < p.2 + 86400000 * msTicks) →
            n.steward.retired = s.steward.retired + 1 ∧ n.steward.retiredPages = s.steward.retiredPages ++ [page]
              ∧ Raised s n 0x86 none none page (s.steward.retired + 1) 0 0)
        ∧ ((∀ p ∈ s.steward.corrected, p.1 = page → p.2 + 86400000 * msTicks ≤ s.at t) →
            n.steward.retiredPages = s.steward.retiredPages ∧ n.events = s.events ∧ (page, s.at t) ∈ n.steward.corrected))
    ∧ (∀ (slot : Nat) (sh : Share), sh ∈ (s.stk k).shares → sh.slot = slot → sh.st = .draining → sh.doneAt ≤ s.at t →
        (∀ r ∈ (s.stk k).running, s.slotOf r.charge ≠ slot) → s.changes = [] →
      Answers (.drainEnd t k slot) s fun n =>
        (n.stk k).shares = (s.stk k).shares.filter (fun x => !(x.slot == slot && x.st == .draining))
          ∧ ((n.stk k).shares = [] → (n.stk k).gated = true) ∧ ((n.stk k).shares ≠ [] → (n.stk k).gated = (s.stk k).gated)
          ∧ ∀ j, j ≠ k → (n.stk j).shares = (s.stk j).shares ∧ (n.stk j).gated = (s.stk j).gated ∧ (n.stk j).carrel = (s.stk j).carrel)

/-- LOCKSTEP_A drives HRDY low and LOCKSTEP_B does not; either sets FAILING, with the role given up at the next boundary, exactly where an
aligned standby stands by. STEWARD_RESTART of pair B raises STEWARD with the pair, whether the role was handed over, and the microseconds
since the fault; of pair A it drops what waited, holds admission until the next stamp, and raises HRDY again. That HRDY falls whenever
pair A restarts is the model's choice of log entry 56. -/
def Obligations.StewardForms : Prop :=
  ∀ (t : Tick) (s : State), s.awake = true →
    (s.blank = false → s.steward.aDown = none → s.steward.bDown = none →
      Answers (.lockstepA t) s (fun n =>
        n.steward.aDown = some (s.at t) ∧ n.port.hrdy = false ∧ n.steward.failedOver = s.hasAligned
          ∧ n.roleSt.failing = (s.hasAligned || s.roleSt.failing) ∧ (s.hasAligned = true → n.roleSt.yieldAt = some (s.stamp.number + 1))
          ∧ n.stackList = s.stackList ∧ n.streams = s.streams)
      ∧ Answers (.lockstepB t) s (fun n =>
        n.steward.bDown = some (s.at t) ∧ n.port.hrdy = s.port.hrdy ∧ n.steward.failedOver = s.hasAligned
          ∧ n.roleSt.failing = (s.hasAligned || s.roleSt.failing) ∧ (s.hasAligned = true → n.roleSt.yieldAt = some (s.stamp.number + 1))
          ∧ n.stackList = s.stackList ∧ n.streams = s.streams))
    ∧ (∀ since : Tick, s.steward.bDown = some since → s.steward.heldProtect = [] →
      Answers (.stewardRestart t true) s fun n =>
        n.steward.bDown = none ∧ Raised s n 0x83 none none 1 s.steward.failedOver.toNat ((s.at t - since) / usTicks) 0 ∧ n.limits = s.limits)
    ∧ (∀ since : Tick, s.steward.aDown = some since →
      Answers (.stewardRestart t false) s fun n =>
        n.steward.aDown = none ∧ n.steward.holdTo = s.stamp.number + 1 ∧ n.steward.missed = [] ∧ n.waits = [] ∧ n.promotion = none
          ∧ n.port.hrdy = (!s.port.boot && s.power.brownAt.isNone) ∧ n.stackList = s.stackList ∧ n.streams = s.streams)

/-- BURST_RECEIVE, in a slot in which a node sends and none has been heard, within 4 µs of its nominal start at the antenna, which the samples
reached RXLAT before they arrived at the port, appends one burst that starts there, at once done where its header fails, which on a hub that leads is
the node's outcome FAIL, and marks the ports of the channel as having heard a node. LEARNED_DEADLINE, 14 µs
after the burst's end, makes the learned side of that burst final and late and drops its decode charge where that is still queued. Neither
raises an event or changes another node, a stack or another burst. -/
def Obligations.BurstForms : Prop :=
  ∀ (t : Tick) (s : State) (lch : Nat) (slot : Slot), s.airUp = true →
    (∀ (hdr : BitVec 48) (off : Int), s.awaits lch slot = true → (off - s.rxLat lch).natAbs ≤ 4 * usTicks → s.slotAt slot ≤ s.at t → s.air.ports.length = 4 →
      Answers (.burstReceive t lch slot hdr off) s fun n =>
        n.air.bursts = s.air.bursts ++ [{
            lch := lch, slot := slot, hdr := hdr, at0 := ((s.slotAt slot : Int) + 4 * usTicks + off - s.rxLat lch).toNat, done := !headerOk slot hdr }]
          ∧ (∀ x, x < 4 → (n.port? x).heard = ((s.port? x).heard || (s.portsOf lch).contains x) ∧ (n.port? x).fault = (s.port? x).fault)
          ∧ (headerOk slot hdr = true → n.nodes = s.nodes)
          ∧ (∀ h x, headerOk slot hdr = false → s.leads = true → s.slotShelf lch slot = some h → s.node? h = some x →
              n.node? h = some { x with outcome := 4 } ∧ ∀ j, j ≠ h → n.node? j = s.node? j)
          ∧ n.stackList = s.stackList ∧ n.charges = s.charges ∧ n.events = s.events)
    ∧ (∀ b : BurstSt, s.burst? lch slot = some b → b.fin = false → b.at0 + 484 * symbolTicks + 14 * usTicks ≤ s.at t →
      Answers (.learnedDeadline t lch slot) s fun n =>
        (∀ i (h : i < s.air.bursts.length), n.air.bursts[i]? =
            some (if s.air.bursts[i].lch = lch ∧ s.air.bursts[i].slot = slot then { s.air.bursts[i] with fin := true, late := true } else s.air.bursts[i]))
          ∧ (∀ c, c ∈ n.charges ↔ c ∈ s.charges ∧ ¬ (c.phase = .queued ∧ c.kind = .decode lch (Slot.pos s.air.nu slot)))
          ∧ n.nodes = s.nodes ∧ n.stackList = s.stackList ∧ n.events = s.events)

/-- BURST_OUTCOME, up to 20 µs after the burst's last sample, of a report burst whose header names its node and stamp, the learned result in time. On a hub that leads: equal payloads
that both pass and begin with the node's REPORT are accepted, so that the node has reported and its uplink slot is acknowledged; different
ones that both pass, the node's REPORT first in one of them, are accepted in neither form, and the divergence event names the shelfmark and the
slot; where neither passes with the node's REPORT first the node's outcome is FAIL and no event is raised. A standby that has not lost its primary accepts nothing and keeps the payload with the
burst. In an accession slot the twin's codeword is the reply to the current offer. -/
def Obligations.OutcomeForms : Prop :=
  ∀ (t : Tick) (s : State) (lch : Nat) (slot : Slot) (b : BurstSt) (rl : Bool) (rt : List Int) (m : RxMeas), s.airUp = true → s.burst? lch slot = some b →
    b.at0 + 484 * symbolTicks ≤ s.at t → s.at t ≤ b.at0 + 484 * symbolTicks + 20 * usTicks →
    (∀ (h : Nat) (x : NodeSt), slot ≠ .accession → s.slotShelf lch slot = some h → s.node? h = some x → s.headerFits h b.hdr = true →
        b.learnedLate rl = false →
      (s.leads = true → ∀ p i, b.learned = some p → b.twin rt = some p → reportFirst h p = true → slot = .uplink i → i < 64 →
        Answers (.burstOutcome t lch slot rl rt m) s fun n =>
          (∃ y, n.node? h = some y ∧ y.reported = true ∧ y.lost = false ∧ y.outcome = 0)
            ∧ (lookupD 0#64 (s.lchOf h) n.air.acks).getLsbD i = true)
      ∧ (s.leads = true → ∀ p q, b.learned = some p → b.twin rt = some q → p ≠ q →
        (reportFirst h p = true ∨ reportFirst h q = true) →
        Answers (.burstOutcome t lch slot rl rt m) s fun n =>
          Raised s n 0x40 none none h (Slot.pos s.air.nu slot) 0 0
            ∧ (∃ y, n.node? h = some y ∧ y.outcome = 1 ∧ y.reported = x.reported ∧ y.report = x.report)
            ∧ n.air.acks = s.air.acks ∧ n.cells = s.cells)
      ∧ (s.leads = true → (∀ p, b.learned = some p → reportFirst h p = false) → (∀ p, b.twin rt = some p → reportFirst h p = false) →
        Answers (.burstOutcome t lch slot rl rt m) s fun n =>
          n.events = s.events ∧ (∃ y, n.node? h = some y ∧ y.outcome = 4 ∧ y.reported = x.reported ∧ y.report = x.report)
            ∧ n.air.acks = s.air.acks ∧ n.cells = s.cells)
      ∧ (s.leads = false → s.roleSt.lostAt = none → ∀ p, b.learned = some p → b.twin rt = some p → reportFirst h p = true →
        Answers (.burstOutcome t lch slot rl rt m) s fun n =>
          (∀ z ∈ n.air.bursts, z.lch = lch → z.slot = slot → z.done = true ∧ z.payload = some p ∧ z.outcome = 0)
            ∧ (∃ y, n.node? h = some y ∧ y.reported = x.reported ∧ y.report = x.report)
            ∧ n.air.acks = s.air.acks ∧ n.cells = s.cells ∧ n.events = s.events))
    ∧ (∀ p : Bytes, slot = .accession → b.twin rt = some p → 0 < s.acc.offer → bitsOf b.hdr.toNat 16 8 = s.acc.offer →
        (s.leads = true → bitsOf b.hdr.toNat 24 17 = s.acc.attempt) → leNat (p.take 32) % 2 ^ 64 ≠ 0 → s.acc.endDue = false → s.acc.confirmed = [] →
      Answers (.burstOutcome t lch slot rl rt m) s fun n =>
        n.acc.reply = some (BitVec.ofNat 256 (leNat (p.take 32))) ∧ n.acc.offer = s.acc.offer ∧ n.nodes = s.nodes ∧ n.events = s.events)

/-- LOSS_INSTANT, once in a stamp: every node that was due and has not reported is lost (on a standby, unless it holds a retry of that node whose
acceptance its primary has still to tell), its cells are stale, the twin of every cell has run for the stamp, and no other node or cell changes
its mark; while the admission passes are still to come, the class 1 reservation and S of every stack fall by the need that the lost nodes no
longer have. RECEIVER_RELEASE at the end of the last slot sets the unused part of the class 0 reservation of every stack to 0, once in a stamp,
and leaves nodes and cells as they are. How the share of a node is measured is the model's choice of log entry 41. -/
def Obligations.LossForms : Prop :=
  ∀ (t : Tick) (s : State), s.airUp = true → s.air.acc = false → s.stackList.length = 4 →
    (s.air.lossDone = false → 0 < s.air.nu → s.lossAt ≤ s.at t →
      let lost : Nat → Bool := fun h => s.nodes.any fun y => y.due && !y.reported && !s.heldRetry y.shelf && y.shelf == h
      Answers (.lossInstant t) s fun n =>
        n.air.lossDone = true ∧ n.nodes = s.nodes.map (fun x => if lost x.shelf then { x with lost := true } else x)
          ∧ n.cells.length = s.cells.length
          ∧ (∀ i (h : i < s.cells.length), ∃ c, n.cells[i]? = some c ∧ c.ran = true ∧ c.shelf = s.cells[i].shelf ∧ c.learned = s.cells[i].learned
              ∧ c.isStale = (s.cells[i].isStale || lost c.shelf))
          ∧ ((∀ k, k < 4 → (s.stk k).passDone = false) → ∀ k, k < 4 →
              let share := min (s.stk k).reserved1 (s.stepNeed s.dueShelves k - s.stepNeed (s.dueShelves.filter fun h => !lost h) k)
              (n.stk k).reserved1 = (s.stk k).reserved1 - share ∧ (n.stk k).sum = (s.stk k).sum - share)
          ∧ n.settings = s.settings)
    ∧ (s.air.released = false → 0 < s.air.nd → s.frameEnd ≤ s.at t →
      Answers (.receiverRelease t) s fun n =>
        n.air.released = true ∧ (∀ k, k < 4 → (n.stk k).reserved0 = 0) ∧ n.nodes = s.nodes ∧ n.cells = s.cells ∧ n.settings = s.settings)

/-- CALL_SEND, once per channel and stamp and once the results of its uplink bursts are final, names the first NRT nodes of the channel whose report failed or diverged, and sends a burst of
TYPE 3 whose first 8 bytes are the acknowledgements of the channel, 4 µs after the call instant. ORDER_SEND, while messages wait for the
channel, sends a burst of TYPE 4 in the downlink slot and marks it used. Each goes out on a channel that has a port which can transmit;
stacks, cells and reports stay as they are. When a call may still be sent is the reading of log entry 47. -/
def Obligations.CallForms : Prop :=
  ∀ (t : Tick) (s : State) (lch : Nat), s.sends = true → s.air.acc = false → lch < s.air.nch → (s.txPort lch).isSome = true →
    (s.callAt ≤ s.at t → s.at t < s.callAt + 23 * usTicks → (s.advance t).uplinkFinal lch = true → (∀ p ∈ s.air.named, p.1 ≠ lch) →
      Answers (.callSend t lch) s fun n =>
        lookupD [] lch n.air.named
            = ((s.nodes.filter fun x => x.due && s.lchOf x.shelf == lch && (x.outcome == 4 || x.outcome == 1)).map (·.shelf)).take s.air.nrt
          ∧ (∃ hdr payload crc rest, n.out = .burst lch (s.callAt + 4 * usTicks) hdr payload crc (burstWords hdr payload) :: rest ∧ bitsOf hdr.toNat 3 0 = 3
              ∧ payload.take 8 = leBytes 8 (lookupD 0#64 lch s.air.acks).toNat)
          ∧ n.stackList = s.stackList ∧ n.cells = s.cells ∧ n.nodes.map (·.report) = s.nodes.map (·.report))
    ∧ (∀ d, s.steward.bDown = none → d < s.air.nd → s.downAt d ≤ s.at t → s.at t ≤ s.downAt d + 4 * usTicks → (lch, d) ∉ s.air.ordered →
        (s.advance t).ordersFor lch d ≠ [] →
      Answers (.orderSend t lch d) s fun n =>
        n.air.ordered = (lch, d) :: s.air.ordered
          ∧ (∃ hdr payload crc rest, n.out = .burst lch (s.downAt d + 4 * usTicks) hdr payload crc (burstWords hdr payload) :: rest ∧ bitsOf hdr.toNat 3 0 = 4)
          ∧ n.stackList = s.stackList ∧ n.cells = s.cells ∧ n.nodes.map (·.report) = s.nodes.map (·.report))

/-- TUNE_SCRIPT, from the end of the frame or of the last accession slot to P - 100 µs and once a stamp, gives every port that serves a channel, as the air
interface stands after the next boundary, the centre of that channel in the next stamp, and leaves the other ports. PORTFAULT marks a healthy port faulty with its cause (a silent port after 16 stamps), raises the event with port and cause code,
and has the mode decided again at the next boundary, unless the port's partner in pair mode is healthy: then the pair carries on (the
model's choice of log entry 42). -/
def Obligations.PortForms : Prop :=
  ∀ (t : Tick) (s : State), s.air.ports.length = 4 →
    (s.airUp = true → s.air.tuned = false → (if s.air.acc then s.accAt s.accSlots else s.frameEnd) ≤ s.at t →
        s.at t + 100 * usTicks ≤ s.stamp.t0 + s.stamp.period * msTicks →
      let q := (s.advance t).nextAir
      (∀ c d x, x ∈ q.portsOf c → x ∈ q.portsOf d → c = d) →
      Answers (.tuneScript t) s fun n =>
        n.air.tuned = true ∧ (∀ c x, c < q.channels → x ∈ q.portsOf c → x < 4 → (n.port? x).centre = some (q.centreOf (s.stamp.number + 1) c))
          ∧ (∀ x, (∀ c, c < q.channels → x ∉ q.portsOf c) → n.port? x = s.port? x)
          ∧ n.settings = s.settings ∧ n.nodes = s.nodes ∧ n.events = s.events)
    ∧ (∀ (port : Nat) (cause : PortCause), s.power.porter = true → s.power.booted = true → s.stamp.started = true → s.power.rstLow = none →
        port < 4 → s.healthy port = true → (cause = .silent → 16 ≤ (s.port? port).silent) →
      Answers (.portfault t port cause) s fun n =>
        Raised s n 0x41 none none port (match cause with | .rck => 0 | .rfr => 1 | .silent => 2) 0 0
          ∧ n.port? port = { s.port? port with fault := some cause, silent := 0 } ∧ (∀ x, x ≠ port → n.port? x = s.port? x)
          ∧ n.air.modeAt = (if s.air.pairs = true ∧ s.healthy (port / 2 * 2 + (1 - port % 2)) = true then s.air.modeAt
              else s.air.modeAt ++ [(s.advance t).atStamp])
          ∧ n.nodes = s.nodes ∧ n.settings = s.settings)

/-- BATON_RETURN within 2 ms of the wake pulse ends the wait for it, and BATONBREAK after 2 ms raises the event. ACCOFFER_SEND offers
shelfmark 1 first, offers the same again while none replies, and after a reply confirms the node, which is then accessioned with its 16
cells, and offers the next shelfmark. BTN_SENSE high in a slot that confirmed a node ends accession with the roster of the accessioned
nodes, or on a standby with that of its primary, and low does nothing but where that node was the last the hub can serve: then NODESLEFT is raised first. CHAINBREAK ends accession
with its event. -/
def Obligations.AccessionForms : Prop :=
  ∀ (t : Tick) (s : State), s.airUp = true →
    let heard := s.nodes.map fun x => (x.shelf, x.nid)
    let roster := if s.isStandby then s.spine.roster.getD heard else heard
    (∀ p : Tick, s.acc.pulse = some p →
      (s.at t ≤ p + 2 * msTicks → Answers (.batonReturn t) s fun n =>
        n.acc = { s.acc with pulse := none } ∧ n.events = s.events ∧ n.nodes = s.nodes)
      ∧ (p + 2 * msTicks ≤ s.at t → Answers (.batonbreak t) s fun n =>
        n.acc = { s.acc with pulse := none } ∧ Raised s n 0x50 none none 0 0 0 0 ∧ n.nodes = s.nodes))
    ∧ (s.acc.phase = .running → s.acc.endDue = false →
      (s.sends = true → s.air.acc = true → s.chainBroken = false → s.acc.slotJ < s.accSlots → s.accAt s.acc.slotJ ≤ s.at t →
        (s.acc.slotG = 0 → Answers (.accofferSend t) s fun n =>
          n.acc.offer = 1 ∧ n.acc.attempt = 1 ∧ n.acc.confirm = 0 ∧ n.acc.reply = none ∧ n.acc.slotG = 1 ∧ n.acc.slotJ = s.acc.slotJ + 1
            ∧ n.acc.sampled = false ∧ n.nodes = s.nodes
            ∧ ((s.txPort 0).isSome = true → ∃ hdr payload crc, n.out = .burst 0 (s.accAt s.acc.slotJ + 4 * usTicks) hdr payload crc (burstWords hdr payload) :: s.out
                ∧ bitsOf hdr.toNat 3 0 = 5))
        ∧ (0 < s.acc.slotG → s.acc.offer ≠ 0 → s.acc.reply = none → s.acc.attempt < 255 → Answers (.accofferSend t) s fun n =>
          n.acc.offer = s.acc.offer ∧ n.acc.attempt = s.acc.attempt + 1 ∧ n.acc.confirm = 0 ∧ n.acc.slotG = s.acc.slotG + 1
            ∧ n.acc.slotJ = s.acc.slotJ + 1 ∧ n.nodes = s.nodes)
        ∧ (∀ v : BitVec 256, 0 < s.acc.slotG → 0 < s.acc.offer → s.acc.reply = some v → Answers (.accofferSend t) s fun n =>
          n.acc.confirm = s.acc.offer ∧ n.acc.cid = v.setWidth 64 ∧ n.acc.confirmed = s.acc.confirmed ++ [(s.acc.offer, v)] ∧ n.acc.reply = none
            ∧ n.acc.offer = (if s.acc.offer = 256 ∨ s.acc.confirmed.length + 1 = s.accLimit then 0 else s.acc.offer + 1)
            ∧ (∃ y ∈ n.nodes, y.shelf = s.acc.offer ∧ y.nid = v.setWidth 64 ∧ y.unacked = [] ∧ y.queue = [])
            ∧ ((s.acc.offer, v.setWidth 64) ∉ s.archive.roster → ∀ i, 1 ≤ i → i ≤ 16 → ∃ c ∈ n.cells, c.shelf = s.acc.offer ∧ c.cell = i)))
      ∧ (s.acc.sampled = false → 0 < s.acc.slotJ → s.accAt (s.acc.slotJ - 1) + 250 * usTicks ≤ s.at t → 0 < s.acc.confirm →
        (∀ high : Bool, (high = true → Answers (.btnSenseSample t high) s fun n =>
            n.acc.endDue = true ∧ n.acc.sampled = true ∧ n.archive.roster = roster)
          ∧ (high = false → s.acc.confirmed.length ≠ s.accLimit → Answers (.btnSenseSample t high) s fun n =>
            n.acc = { s.acc with sampled := true } ∧ n.archive = s.archive ∧ n.nodes = s.nodes ∧ n.events = s.events)
          ∧ (high = false → s.acc.confirmed.length = s.accLimit → Answers (.btnSenseSample t high) s fun n =>
            n.acc.endDue = true ∧ (∃ e rest, n.events.fresh = s.events.fresh ++ e :: rest ∧ e.code = 0x53 ∧ e.a0 = BitVec.ofNat 32 s.accLimit)
              ∧ n.archive.roster = roster)))
      ∧ (s.chainBroken = true → s.accAt (s.acc.slotJ - 1) + 500 * usTicks + 4 * symbolTicks ≤ s.at t → Answers (.chainbreak t) s fun n =>
        n.acc.endDue = true
          ∧ (∃ e rest, n.events.fresh = s.events.fresh ++ e :: rest ∧ e.code = 0x52 ∧ e.a0 = BitVec.ofNat 32 s.acc.confirmed.length
              ∧ e.stamp = s.stamp.number ∧ e.seq = s.events.next)
          ∧ n.archive.roster = roster))

/-- TRAIN, HEARTBEAT, ROLE, CONFIG, SENSE, SEAL and CARD: a frame whose CRC fails or whose TYPE is another changes nothing but the count
of discarded frames. In secured mode a frame other than TRAIN without SEC, without a good tag or with a count not above the last one is
discarded too, and the instant is kept for SPINESEC. A sequenced frame that is not the next in order is discarded: of the state only the
link's own record changes, and the last sequence accepted does not. -/
def Obligations.DiscardForms : Prop :=
  ∀ (c : Instr) (rx : SpineRx) (m : SpineMsg) (s : State), s.sound = true → frameOf c = some (rx, m) → s.hears m.ftype →
    ((crcHolds rx = false ∨ rxType rx ≠ m.ftype) → Answers c s fun n =>
        n = { s with now := n.now, spine := { s.spine with detAt := some n.now, discarded := s.spine.discarded + 1 } })
    ∧ (crcHolds rx = true → rxType rx = m.ftype → m.ftype ≠ 1 → s.getN .spineSecure = 1 →
        (rxSec rx = false ∨ s.tagFits rx = false ∨ ∃ k, s.spine.rxCount = some k ∧ rx.count ≤ k) → Answers c s fun n =>
          n = { s with
            now := n.now
            spine := { s.spine with
              detAt := some n.now
              discarded := s.spine.discarded + 1
              discards := (s.spine.discards.filter fun x => decide (n.now < x + 1000 * msTicks)) ++ [n.now] } })
    ∧ (s.Passes rx m.ftype → 3 ≤ m.ftype → rxSeqOf rx ≠ s.spine.rxSeq + BitVec.ofNat 16 m.frames → Answers c s fun n =>
          n = { s with
            now := n.now
            spine := { s.spine with
              detAt := some n.now
              discarded := s.spine.discarded + 1
              lastRx := n.now
              rxCount := if rxSec rx then some rx.count else s.spine.rxCount } })

/-- SPINE_PREAMBLE ends phase 0 at side A's first detection and side B's 64th, which side B answers with 100 µs of preambles. TRAINING_PHASE takes the next phase at its instant from the
end of phase 0; phase 6 follows 16 delay exchanges and sends a TRAIN. TRAINING_TIMEOUT, 20 ms after a phase began, returns to phase 0
after 10 ms of silence, and the third in a row raises the event. TRAIN: a good frame of phase 5 adds a delay exchange, and the one that
completes 16 each way makes the link UP, which sets IRQ[11]. SPINE_DOWN, and SPINESEC after 16 discards within 1 s, which raises its
event, train again with all sequences at 0. SPINE_RESEND sends the outstanding frames again, in order and under the stamp that runs, after 50 µs without a new ACK.
Counting on after three failures is the reading of log entry 36, the use of the stated delay of log entry 37. -/
def Obligations.TrainingForms : Prop :=
  ∀ (t : Tick) (s : State), s.sound = true → s.awake = true →
    (s.spine.state = .training → s.spine.phase = 0 → s.spine.silentTo ≤ s.at t → Answers (.spinePreamble t) s fun n =>
        n = { s with now := s.at t, spine := n.spine, out := n.out } ∧ n.spine.detects = s.spine.detects + 1
          ∧ n.out = (if s.spine.sideB = true ∧ 64 ≤ s.spine.detects + 1 then .preambles (s.at t) (100 * usTicks) :: s.out else s.out)
          ∧ (s.spine.sideB = true → s.spine.detects + 1 < 64 → n.spine.phase = 0)
          ∧ (s.spine.sideB = false ∨ 64 ≤ s.spine.detects + 1 → n.spine.phase = 1 ∧ n.spine.phaseAt = s.at t))
    ∧ (∀ p : Nat, s.spine.state = .training → 2 ≤ p → p ≤ 6 → p = s.spine.phase + 1 → s.spine.phaseAt + [0, 0, 1, 2, 3, 5, 6].getD p 0 * msTicks ≤ s.at t →
        (p = 6 → 16 ≤ s.spine.rounds.length) → Answers (.trainingPhase t p) s fun n =>
          n.spine.phase = p ∧ n.spine.phaseAt = s.spine.phaseAt ∧ n.spine.rounds = s.spine.rounds ∧ n.spine.state = .training
            ∧ (p = 6 ∨ (p = 5 ∧ s.spine.sideB = false) → ∃ i payload crc,
                n.out = .spine (.train i) 0 (s.headerOf (.train i) 0 s.spine.txSeq s.stamp.number) payload [] crc :: s.out)
            ∧ (p < 5 ∨ (p = 5 ∧ s.spine.sideB = true) → n.out = s.out))
    ∧ (s.spine.state = .training → s.phaseBegan + 20 * msTicks ≤ s.at t → Answers (.trainingTimeout t) s fun n =>
        n.spine.state = .training ∧ n.spine.phase = 0 ∧ n.spine.silentTo = s.at t + 10 * msTicks ∧ n.spine.phaseAt = s.at t + 10 * msTicks
          ∧ (s.spine.fails ≠ 2 → n.spine.fails = s.spine.fails + 1 ∧ n.events = s.events)
          ∧ (s.spine.fails = 2 → n.spine.fails = 0 ∧ Raised s n 0x60 none none 3 0 0 0))
    ∧ (∀ (rx : SpineRx) (i : TrainInfo), s.spine.state = .training → s.Passes rx 1 →
        (s.spine.phase = 5 → Answers (.train t rx i) s fun n =>
            n.spine.rounds = (if i.roundTrip = 0 then s.spine.rounds else (s.spine.rounds ++ [i.roundTrip - i.turnaround]).take 16) ∧ n.spine.delay = n.spine.rounds.sum * crystalTicks / 32
              ∧ n.spine.phase = 5 ∧ n.spine.state = .training)
        ∧ (s.spine.phase = 6 → 15 ≤ s.spine.goodRx → 15 ≤ s.spine.goodTx → Answers (.train t rx i) s fun n =>
            n.spine.state = .up ∧ n.port.regs.irq.getLsbD 11 = true ∧ n.spine.fails = 0 ∧ n.stamp = s.stamp ∧ n.stackList = s.stackList))
    ∧ (s.spine.state = .up →
        (Answers (.spineDown t) s fun n =>
          n.spine.state = .training ∧ n.spine.phase = 0 ∧ n.spine.phaseAt = s.at t ∧ n.spine.sent = [] ∧ n.spine.txSeq = 0 ∧ n.spine.rxSeq = 0
            ∧ n.port.regs.irq.getLsbD 11 = true ∧ n.events = s.events ∧ n.streams = s.streams)
        ∧ (16 ≤ (s.spine.discards.filter fun x => decide (s.at t < x + 1000 * msTicks)).length → Answers (.spinesec t) s fun n =>
          n.spine.state = .training ∧ n.spine.phase = 0 ∧ n.spine.sent = [] ∧ n.spine.txSeq = 0 ∧ n.spine.rxSeq = 0 ∧ n.spine.discards = []
            ∧ Raised s n 0x61 none none s.spine.discards.length 0 0 0)
        ∧ (s.spine.sent ≠ [] → s.spine.ackAt + 50 * usTicks ≤ s.at t → Answers (.spineResend t) s fun n =>
          (∃ fs, n.out = fs ++ s.out ∧ fs.map sentAs = (s.spine.sent.map fun f => some (f.msg, f.part, s.headerOf f.msg f.part f.seq s.stamp.number)).reverse)
            ∧ n.spine.ackAt = s.at t ∧ n.spine.sent = s.spine.sent ∧ n.spine.txSeq = s.spine.txSeq
            ∧ n.spine.resent = s.spine.resent + s.spine.sent.length))

/-- HEARTBEAT: a hub that leads notes its standby's fields and keeps role and stamp; a hub without a role becomes the standby of a
primary; a standby that has its primary's settings takes its run and next number at its next boundary, and one that has not yet does not; a
standby that follows corrects its next boundary by the error, rounded to crystal periods and limited to 0.05 % of P, and declares the loss
where FAILING is set. PRIMARY_LOST after 1 ms without a good frame sets the
takeover boundary: the next one 500 µs away, a period that becomes live before it included, or 25 ms after the last heartbeat where that is
earlier. ROLE: a claim meets a primary as a
conflict, so side B is silent from its next boundary; a yield is a loss. -/
def Obligations.HeartbeatForms : Prop :=
  ∀ (t : Tick) (s : State), s.awake = true → s.stamp.started = true →
    (∀ (rx : SpineRx) (p : BitVec 128), s.spine.state = .up → s.Passes rx 2 →
        (s.leads = true → p.toNat % 4 = 2 → s.spine.reseal = false → Answers (.heartbeat t rx p) s fun n =>
            n.spine.lastBeat = s.at t ∧ n.spine.lastRx = s.at t ∧ n.spine.partnerRole = some .standby ∧ n.spine.partnerFailing = p.getLsbD 2
              ∧ n.spine.partnerSealed = p.extractLsb' 64 48 ∧ n.spine.partnerUnaligned = (p.extractLsb' 112 16).toNat
              ∧ n.roleSt = s.roleSt ∧ n.stamp = s.stamp ∧ n.out = s.out ∧ n.streams = s.streams)
        ∧ (s.roleSt.decided = false → p.toNat % 4 ≤ 1 → Answers (.heartbeat t rx p) s fun n =>
            n.isStandby = true ∧ n.roleSt.informed = false ∧ n.roleSt.target = s.roleSt.target ∧ n.stamp.number = s.stamp.number
              ∧ n.roleSt.lostAt = none ∧ (∀ x ∈ n.streams, x.aligned = false))
        ∧ (s.isStandby = true → s.roleSt.adopted = false → s.roleSt.lostAt = none → p.toNat % 4 ≤ 1 → Answers (.heartbeat t rx p) s fun n =>
            n.roleSt.target = (if s.roleSt.informed then some (p.extractLsb' 32 32, rxStamp rx + 1) else s.roleSt.target)
              ∧ n.roleSt.unaligned = false ∧ n.stamp.number = s.stamp.number ∧ n.stamp.run = s.stamp.run ∧ n.streams = s.streams)
        ∧ (s.isStandby = true → s.roleSt.adopted = true → s.roleSt.lostAt = none → p.toNat % 4 ≤ 1 →
            (p.getLsbD 2 = false → rxStamp rx = s.stamp.number → Answers (.heartbeat t rx p) s fun n =>
              n.stamp = { s.stamp with adjust := max (-((s.stampTicks / 2000 : Nat) : Int)) (min ((s.stampTicks / 2000 : Nat) : Int)
                  (divr ((s.at t : Int) - s.spine.delay - ((p.extractLsb' 4 21).toNat * crystalTicks : Nat) - (s.stamp.t0 : Int)) crystalTicks * crystalTicks)) }
                ∧ n.roleSt.unaligned = false ∧ n.roleSt.lostAt = none ∧ n.streams = s.streams)
            ∧ (p.getLsbD 2 = true → s.power.brownAt = none → Answers (.heartbeat t rx p) s fun n =>
              n.roleSt.lostAt = some (s.at t) ∧ ∃ b, n.roleSt.takeoverAt = some b ∧ b ≤ s.at t + 25 * msTicks)))
    ∧ (s.power.porter = true → s.power.rstLow = none → s.following = true → s.spine.lastRx + msTicks ≤ s.at t → Answers (.primaryLost t) s fun n =>
        n.roleSt.lostAt = some (s.at t)
          ∧ n.roleSt.takeoverAt = some (min (if s.at t + 500 * usTicks ≤ s.nextBoundary then s.nextBoundary
              else s.nextBoundary + s.toldPeriod (s.stamp.number + 1) * msTicks)
              (s.spine.lastBeat + 25 * msTicks))
          ∧ n.roleSt.role = .standby ∧ n.stamp = s.stamp)
    ∧ (∀ (rx : SpineRx) (k : RoleNote), s.spine.state = .up → s.Next rx (.role k) →
        (s.leads = true → k ≠ .yield → Answers (.role t rx k) s fun n =>
            n.roleSt = (if s.spine.sideB then { s.roleSt with silentFrom := some (s.stamp.number + 1) } else s.roleSt)
              ∧ n.spine.partnerRole = some .primary ∧ n.spine.rxSeq = s.spine.rxSeq + 1 ∧ n.streams = s.streams)
        ∧ (s.following = true → k = .yield → Answers (.role t rx k) s fun n =>
            n.roleSt.lostAt = some (s.at t) ∧ n.roleSt.takeoverAt.isSome = true ∧ n.spine.partnerRole = some .yielding))

/-- CONFIG on a standby lets a setting, a script or a parameter set become live at the stamp it names, and outside an accession gives it its
primary's roster; on a hub that leads it changes no
setting. SENSE on a standby adds the primary's codes in place of its own, and code 6 of millisecond 0 is its mark; a hub that leads ignores it. SEAL on a standby keeps the records
of a seal until its END, which makes it the last complete seal. CARD whose digest agrees aligns the stream and changes no other; one whose
digest the standby has still to form is kept until then, and the body of an import for its record. SEAL_SEND, with nothing of a former primary left to apply, closes the stamp's acts, oldest first, with an END that counts their records. Where the mark
lies is the reading of log entry 32. -/
def Obligations.SealForms : Prop :=
  ∀ (t : Tick) (s : State),
    (∀ (rx : SpineRx) (item : ConfigItem) (live : BitVec 48), s.hears 4 → s.Next rx (.config item live) →
        (s.isStandby = true →
          (∀ n v, item = .setting n v → Answers (.config t rx item live) s fun m =>
            m.settings = { s.settings with commits := s.settings.commits ++ [(live, [(n, v)])] } ∧ m.spine.rxSeq = rxSeqOf rx ∧ m.stackList = s.stackList)
          ∧ (∀ x c b, item = .script x c b → Answers (.config t rx item live) s fun m =>
            m.settings = { s.settings with scriptCommits := s.settings.scriptCommits ++ [(live, [(x, c, b)])] } ∧ m.stackList = s.stackList)
          ∧ (∀ k b, item = .twinset k b → Answers (.config t rx item live) s fun m =>
            m.settings = { s.settings with setCommits := s.settings.setCommits ++ [(live, [(k, b)])] } ∧ m.stackList = s.stackList)
          ∧ (∀ ids, item = .roster ids → s.acc.phase ≠ .running → Answers (.config t rx item live) s fun m =>
            m.archive.roster = ids ∧ m.nodes = s.nodes ∧ m.settings = s.settings))
        ∧ (s.isStandby = false → s.promotion = none → Answers (.config t rx item live) s fun m =>
            m.settings = s.settings ∧ m.changes = s.changes ∧ m.stackList = s.stackList ∧ m.spine.rxSeq = rxSeqOf rx))
    ∧ (∀ (rx : SpineRx) (stamp : BitVec 48) (ms : Nat) (ca cb : List (BitVec 24)) (mains : List (List (BitVec 24))), s.hears 5 →
        let a := ca.map frontCode
        let b := cb.map frontCode
        s.Next rx (.sense stamp ms a b (mains.map fun r => r.map frontCode)) →
        (s.isStandby = true → 0 < ms → ca.length = cb.length → Answers (.sense t rx stamp ms ca cb mains) s fun n =>
            n.sense.sumA = s.sense.sumA + a.sum ∧ n.sense.sumB = s.sense.sumB + b.sum ∧ n.sense.count = s.sense.count + ca.length
              ∧ n.sense.lastMs = some (a, b) ∧ n.sense.marked = s.sense.marked ∧ n.sense.cums = s.sense.cums)
        ∧ (s.isStandby = true → ms = 0 → ca.length = cb.length → 7 ≤ ca.length → Answers (.sense t rx stamp ms ca cb mains) s fun n =>
            n.sense.sumA = s.sense.sumA + a.sum ∧ n.sense.sumB = s.sense.sumB + b.sum
              ∧ n.sense.markA = a.getD 6 0 ∧ n.sense.markB = b.getD 6 0
              ∧ n.sense.cums = (stamp, s.sense.sumA + (a.take 7).sum, s.sense.sumB + (b.take 7).sum, s.sense.count + 7) :: s.sense.cums)
        ∧ (s.isStandby = false → Answers (.sense t rx stamp ms ca cb mains) s fun n =>
            n.sense = s.sense ∧ n.mains = s.mains ∧ n.limits = s.limits ∧ n.spine.rxSeq = rxSeqOf rx))
    ∧ (∀ (rx : SpineRx) (recs : List SealRec), s.hears 6 → s.Next rx (.seal recs) → s.isStandby = true →
        ((∀ r ∈ recs, ∀ a b c d, r ≠ .fin a b c d) → Answers (.seal t rx recs) s fun n =>
            n.spine.partSeal = s.spine.partSeal ++ recs ∧ n.spine.sealIn = s.spine.sealIn ∧ n.streams = s.streams)
        ∧ (∀ stamp c a b, recs = [.fin stamp c a b] → (∀ p, s.spine.sealIn = some p → p < stamp) → Answers (.seal t rx recs) s fun n =>
            n.spine.partSeal = [] ∧ n.spine.sealIn = some stamp))
    ∧ (∀ (rx : SpineRx) (head : BitVec 128) (body twin : Bytes), s.hears 7 → s.Next rx (.card head body twin) → s.isStandby = true →
        (head.getLsbD 127 = true → Answers (.card t rx head body twin) s fun n =>
            lookupD [] (cardSid head) n.spine.cards = body ∧ n.streams = s.streams)
        ∧ (head.getLsbD 127 = false → s.awaitsDigest head = true → Answers (.card t rx head body twin) s fun n =>
            n.spine.lateCards = s.spine.lateCards ++ [(head, body, twin)] ∧ n.streams = s.streams ∧ n.spine.digests = s.spine.digests)
        ∧ (head.getLsbD 127 = false → s.awaitsDigest head = false →
            (s.spine.digests.find? fun d => d.1 == cardSid head && d.2.1 == cardStamp head) = some (cardSid head, cardStamp head, body.drop (body.length - 32)) →
          Answers (.card t rx head body twin) s fun n =>
            n.stream (cardSid head) = { s.stream (cardSid head) with aligned := true } ∧ (∀ x, x ≠ cardSid head → n.stream x = s.stream x)
              ∧ n.events = s.events ∧ n.cells = s.cells))
    ∧ (s.up = true → s.leads = true → s.spine.partner = true → s.spine.pendingSeals = [] → (∀ h ∈ s.spine.seals, h.stamp ≠ s.stamp.number) → s.nextBoundary ≤ s.at t + 500 * usTicks →
      Answers (.sealSend t) s fun n =>
        n.spine.acts = [] ∧ n.spine.cardsDue = []
          ∧ (∃ first last, n.spine.seals = lastN 8 (s.spine.seals ++ [{
              stamp := s.stamp.number, recs := s.spine.acts.reverse ++ [.fin s.stamp.number (s.spine.acts.reverse.map SealRec.records).sum first last] }]))
          ∧ (s.spine.state = .up → n.spine.sealedTx = some s.stamp.number) ∧ n.streams = s.streams ∧ n.stamp = s.stamp)

/-- PARTNER_BEACON of the other side with its own run number, on a hub that leads, raises the event and silences side B from its next
boundary. PARTNER_BURST_RECEIVE: a beacon makes a hub that still listens an unaligned standby with the event, and only renews a standby's
note of its partner; a call tells an aligned standby which nodes are to retry; an offer tells it which shelfmark is confirmed and which is
offered. PROMOTION_LAGGING, 60 s after the command, answers its line ERR 21 LAGGING. -/
def Obligations.PartnerForms : Prop :=
  ∀ (t : Tick) (s : State),
    (∀ side : Bool, s.airUp = true → s.leads = true → side ≠ s.spine.sideB → Answers (.partnerBeacon t s.stamp.run side) s fun n =>
        Raised s n 0x64 none none 0 0 0 0
          ∧ n.roleSt = (if s.spine.sideB then { s.roleSt with silentFrom := some (s.stamp.number + 1) } else s.roleSt)
          ∧ n.stamp = s.stamp ∧ n.stackList = s.stackList)
    ∧ (s.awake = true → s.stamp.started = true → s.spine.partner = true → s.sends = false → s.power.brownAt = none →
        (∀ (run : BitVec 32) (side : Bool), side ≠ s.spine.sideB →
          (s.roleSt.decided = false → s.roleSt.listenTo.isSome = true → Answers (.partnerBurstReceive t (.beacon run side)) s fun n =>
            n.isStandby = true ∧ n.roleSt.unaligned = true ∧ n.roleSt.heardAt = some (s.at t) ∧ Raised s n 0x64 none none 0 0 0 0
              ∧ n.air.beacons = false)
          ∧ (s.isStandby = true → s.sound = true → Answers (.partnerBurstReceive t (.beacon run side)) s fun n =>
            n = { s with now := s.at t, roleSt := { s.roleSt with heardAt := some (s.at t) } }))
        ∧ (s.isStandby = true → s.roleSt.unaligned = false →
          (∀ (lch : Nat) (acks : BitVec 64), s.acc.phase ≠ .running → Answers (.partnerBurstReceive t (.call lch acks)) s fun n =>
            lookupD [] lch n.air.named
              = ((List.range s.air.nu).filterMap fun i => if acks.getLsbD i then none else s.slotShelf lch (.uplink i)).take s.air.nrt)
          ∧ (∀ (o c : Nat) (cid : BitVec 64), s.acc.phase = .running → Answers (.partnerBurstReceive t (.accoffer o c cid)) s fun n =>
            n.acc.offer = o ∧ n.acc.confirm = c ∧ n.acc.cid = cid ∧ n.acc.reply = none ∧ n.acc.slotJ = s.acc.slotJ + 1
              ∧ (c ≠ 0 → (∀ x ∈ s.acc.confirmed, x.1 ≠ c) → ∃ y ∈ n.nodes, y.shelf = c))))
    ∧ (∀ (p : Promotion) (tag : Option Nat), s.up = true → s.promotion = some p → p.since + 60000 * msTicks ≤ s.at t →
        (s.ses p.ses).waiting = [{ lineNo := p.lineNo, tag := tag, ready := none }] → Answers (.promotionLagging t) s fun n =>
          n.promotion = none ∧ n.out = .usith p.ses tag (.err 21 []) :: s.out ∧ (n.ses p.ses).waiting = []
            ∧ n.archive = s.archive ∧ n.draft = s.draft ∧ n.changes = s.changes)

/-- With room before the end of the ring, ESTIMATE_FRAME_WRITE stores the stamp's frame at ring 0's producer position, a header of TYPE 1
and VER 1 and then the payload, moves PROD past it and sets IRQ[0]; without room the frame is dropped: DROPS and SEQ rise and IRQ[9] is
set. On a standby that has lost its primary, the frames kept of the stamps after the last one that its primary is known to have written go
ahead of it, each with a SEQ; one that follows writes its own frame and keeps it. EVENT_FRAME_WRITE stores all new events in one frame of ring 1 and sets IRQ[1]; a PROTECT event that ends them goes in a second frame of its own, and IRQ[2] is set; HELD_FRAME_WRITE announces the frame that waits on
ring 3 and sets IRQ[4] where there is room, and leaves it waiting elsewhere. No other ring moves. -/
def Obligations.FrameForms : Prop :=
  ∀ (t : Tick) (s : State), s.port.rings.length = 6 → Memory.wf s.port.ringMem = true →
    (∀ f : HeldFrame, s.up = true → (s.advance t).frameDue = true → f = (s.advance t).estimateFrame s.roleSt.lostAt.isSome false → (s.ring 0).held = [] →
      (∀ x ∈ s.spine.frames, x.1.stamp ≤ s.roleSt.lastFramed) →
      (s.hasRoom 0 f.payload.length = true → (s.ring 0).prod.off + frameSize f.payload.length ≤ 589824 → (s.ring 0).dropped = 0 →
        Answers (.estimateFrameWrite t) s fun n =>
          memRead n.port.ringMem (0x100000 + (s.ring 0).prod.off) 2 = [1, 1]
            ∧ memRead n.port.ringMem (0x100000 + (s.ring 0).prod.off + 32) f.payload.length = f.payload
            ∧ (n.ring 0).prod = (s.ring 0).prod.past 589824 (frameSize f.payload.length) ∧ n.port.regs.irq.getLsbD 0 = true
            ∧ (n.ring 0).seq = ((s.ring 0).seq + 1) % 2 ^ 32 ∧ n.stamp.framed = true ∧ n.events = s.events ∧ ∀ r, r ≠ 0 → n.ring r = s.ring r)
      ∧ (s.hasRoom 0 f.payload.length = false → s.port.regs.drops ≠ 0xFFFFFFFF#32 →
        Answers (.estimateFrameWrite t) s fun n =>
          n.port.regs.drops = s.port.regs.drops + 1 ∧ n.port.regs.irq.getLsbD 9 = true ∧ n.port.ringMem = s.port.ringMem ∧ n.stamp.framed = true
            ∧ n.ring 0 = { s.ring 0 with seq := ((s.ring 0).seq + 1) % 2 ^ 32, lost := true, dropped := (s.ring 0).dropped + 1 }
            ∧ ∀ r, r ≠ 0 → n.ring r = s.ring r))
    ∧ (s.up = true → (s.advance t).frameDue = true → Answers (.estimateFrameWrite t) s fun n =>
        n.stamp.framed = true ∧ (∀ r, r ≠ 0 → n.ring r = s.ring r)
          ∧ (s.roleSt.lostAt.isSome = true → n.spine.frames = []
              ∧ (n.ring 0).seq = ((s.ring 0).seq + (s.spine.frames.filter fun x => decide (s.roleSt.lastFramed < x.1.stamp)).length + 1) % 2 ^ 32)
          ∧ (s.roleSt.lostAt = none → (n.ring 0).seq = ((s.ring 0).seq + 1) % 2 ^ 32
              ∧ n.spine.frames = (if s.isStandby then
                  lastN 64 (s.spine.frames ++ [((s.advance t).estimateFrame false false, (s.advance t).estimateFrame true false)]) else s.spine.frames)))
    ∧ (s.awake = true → s.steward.aDown = none →
        (s.events.fresh ≠ [] → ((∀ e ∈ s.events.fresh, e.code ≠ 1) ∨ s.events.fresh.length = 1) →
            s.hasRoom 1 (32 * s.events.fresh.length) = true → (s.ring 1).dropped = 0 →
            (s.ring 1).prod.off + frameSize (32 * s.events.fresh.length) ≤ 65536 →
          Answers (.eventFrameWrite t) s fun n =>
            n.events = { s.events with fresh := [] } ∧ n.port.regs.irq.getLsbD 1 = true
              ∧ memRead n.port.ringMem (0x190000 + (s.ring 1).prod.off + 32) (32 * s.events.fresh.length) = s.events.fresh.flatMap Event.bytes
              ∧ (n.ring 1).prod = (s.ring 1).prod.past 65536 (frameSize (32 * s.events.fresh.length)) ∧ ∀ r, r ≠ 1 → n.ring r = s.ring r)
        ∧ (∀ (es : List Event) (e : Event), s.events.fresh = es ++ [e] → es ≠ [] → (∀ x ∈ es, x.code ≠ 1) → e.code = 1 → (s.ring 1).dropped = 0 →
            inUse 65536 (s.ring 1).prod (s.ring 1).cons + frameSize (32 * es.length) + 64 ≤ 65536 →
            (s.ring 1).prod.off + frameSize (32 * es.length) + 64 < 65536 →
          Answers (.eventFrameWrite t) s fun n =>
            let off := (s.ring 1).prod.off
            n.events = { s.events with fresh := [] } ∧ n.port.regs.irq.getLsbD 1 = true ∧ n.port.regs.irq.getLsbD 2 = true
              ∧ memRead n.port.ringMem (0x190000 + off + 32) (32 * es.length) = es.flatMap Event.bytes
              ∧ memRead n.port.ringMem (0x190000 + off + frameSize (32 * es.length) + 32) 32 = e.bytes
              ∧ (n.ring 1).prod = { (s.ring 1).prod with off := off + frameSize (32 * es.length) + 64 }
              ∧ (n.ring 1).seq = ((s.ring 1).seq + 2) % 2 ^ 32)
        ∧ (∀ f : HeldFrame, (s.ring 3).held = [f] →
          (s.hasRoom 3 f.payload.length = true → (s.ring 3).dropped = 0 → Answers (.heldFrameWrite t 3) s fun n =>
            (n.ring 3).held = [] ∧ n.port.regs.irq.getLsbD 4 = true ∧ (n.ring 3).seq = ((s.ring 3).seq + 1) % 2 ^ 32
              ∧ n.events = s.events ∧ ∀ r, r ≠ 3 → n.ring r = s.ring r)
          ∧ (s.hasRoom 3 f.payload.length = false → s.sound = true → exec (.heldFrameWrite t 3) s = .next { s with now := s.at t })))

/-- STATUS_BLOCK_UPDATE copies the hub's registers, stamp, role, link and ring positions to what readers see, HRDY being low for 2 µs at most
from then; while a transaction is known to hold HCS_N low it is put off. TRANSACTION_TIMEOUT sets ERR[4] and IRQ[10], puts off the updates that
came due in the 4 ms for which HCS_N has been low, and every byte that the open transaction reads from then on is 0xFF; PARTIAL_LINE_TIMEOUT drops the characters of the unfinished line. Until the next update a
status-block read shows the old copy, while HIRQ_N follows the current registers at once. -/
def Obligations.PortTickForms : Prop :=
  ∀ (t : Tick) (s : State), s.sound = true → s.awake = true →
    (s.port.csLow = false → Answers (.statusBlockUpdate t) s fun n =>
        n = { s with
            now := s.at t, free := s.free + 1
            port := { s.port with shown := n.port.shown, deferred := false, lows := n.port.lows } }
          ∧ (∃ past, s.at t ≤ past ∧ past ≤ s.at t + 2 * usTicks
              ∧ n.port.lows = (s.port.lows.filter fun l => decide (s.at t < l.first + 5 * msTicks))
                  ++ [{ first := s.at t, past := past, before := s.port.shown }])
          ∧ n.port.shown.regs = s.port.regs ∧ n.port.shown.stamp = s.stamp.number ∧ n.port.shown.run = s.stamp.run
          ∧ n.port.shown.role = s.roleSt.role.code ∧ n.port.shown.spine = s.spine.state.code ∧ n.port.shown.economy = s.stamp.economy
          ∧ n.port.shown.period = s.stamp.period ∧ n.port.shown.restored = s.restored
          ∧ n.port.shown.rings = s.port.rings.map (fun r => (r.prod, r.cons)) ∧ n.hirqN = s.hirqN)
    ∧ (s.port.csLow = true → exec (.statusBlockUpdate t) s = .next { s with now := s.at t, port := { s.port with deferred := true } })
    ∧ (let began : LowPulse → Bool := fun l => decide (l.first ≤ s.at t - 4 * msTicks + 10 * nsTicks)
      Answers (.transactionTimeout t) s fun n =>
        n = { s with
            now := s.at t
            port := { s.port with
              csLow := true
              deferred := s.port.deferred || s.port.lows.any fun l => !began l
              shown := ((s.port.lows.find? fun l => !began l).map (·.before)).getD s.port.shown
              lows := s.port.lows.filter began
              regs := { s.port.regs with err := s.port.regs.err ||| 0x10#16, irq := s.port.regs.irq ||| 0x400#32 } } }
          ∧ (∀ fell op first a, n.readByte fell op first a = 0xFF)
          ∧ ((∀ l ∈ s.port.lows, began l = true) → n.statusBlock = s.statusBlock)
          ∧ (s.port.regs.irqen.getLsbD 10 = true → n.hirqN = false))
    ∧ exec (.partialLineTimeout t) s = .next { s with now := s.at t, lineSes := { s.lineSes with buf := [] } }

/-- With HRDY high: IRQ and ERR bits written as 1 are cleared; IRQEN takes the value but for bit 2, which stays 1; H2MLEN reads 0 at once,
and a write other than 0 sets IRQ[8]; a write of M2HLEN other than 0 is ignored and sets ERR[2], and 0 frees the mailbox for the next
lines. Each is a transaction of its own that begins with HRDY high, no earlier one being open. CONS of rings 0 to 4 takes a frame start or the producer's position and sets ERR[2] elsewhere; ring 5 takes PROD instead, and CONS
of ring 5 and PROD of the others are RO and set ERR[0]. With HRDY low, a status-block update included, none of them does anything. Nothing but the port changes. What PROD
of ring 5 may hold is the reading of log entry 90. -/
def Obligations.HostWriteForms : Prop :=
  ∀ (t : Tick) (s : State), s.sound = true → s.port.rings.length = 6 →
    (s.port.readyAt (s.at t) = false → ∀ c : Instr, ((∃ v, c = .irqWrite t v ∨ c = .irqenWrite t v)
        ∨ (∃ v, c = .errWrite t v ∨ c = .h2mlenWrite t v ∨ c = .m2hlenWrite t v) ∨ ∃ r v, c = .consWrite t r v ∨ c = .prodWrite t r v) →
      exec c s = .next { s with now := s.at t })
    ∧ (s.port.readyAt (s.at t) = true → s.port.csLow = false → s.port.deferred = false →
      (∀ v : BitVec 32,
        exec (.irqWrite t v) s = .next { s with now := s.at t, port := { s.port with regs := { s.port.regs with irq := s.port.regs.irq &&& ~~~v } } }
        ∧ exec (.irqenWrite t v) s = .next { s with now := s.at t, port := { s.port with regs := { s.port.regs with irqen := v ||| 4#32 } } })
      ∧ (∀ v : BitVec 16,
        exec (.errWrite t v) s = .next { s with now := s.at t, port := { s.port with regs := { s.port.regs with err := s.port.regs.err &&& ~~~v } } }
        ∧ exec (.h2mlenWrite t v) s = .next { s with
            now := s.at t
            port := { s.port with regs := { s.port.regs with
              h2mlen := 0, irq := if v = 0 then s.port.regs.irq else s.port.regs.irq ||| 0x100#32 } } }
        ∧ (v ≠ 0 → exec (.m2hlenWrite t v) s = .next { s with
            now := s.at t
            port := { s.port with regs := { s.port.regs with err := s.port.regs.err ||| 4#16, irq := s.port.regs.irq ||| 0x400#32 } } })
        ∧ (v = 0 → s.port.mailQueue = [] → exec (.m2hlenWrite t v) s = .next { s with
            now := s.at t, port := { s.port with regs := { s.port.regs with m2hlen := 0 } } })
        ∧ (∀ l, v = 0 → s.port.mailQueue = [l] → 0 < l.length → l.length ≤ 8192 → Memory.wf s.port.mailOut = true →
          Answers (.m2hlenWrite t v) s fun n =>
            n.port.mailQueue = [] ∧ n.port.regs.m2hlen = BitVec.ofNat 16 l.length ∧ n.port.regs.irq.getLsbD 7 = true
              ∧ memRead n.port.mailOut 0x2000 l.length = l))
      ∧ (∀ (r : Nat) (v : BitVec 32), r < 6 →
        (r < 5 → (Pos.ofWord v = (s.ring r).prod ∨ Pos.ofWord v ∈ (s.ring r).starts) → Answers (.consWrite t r v) s fun n =>
            (n.ring r).cons = Pos.ofWord v ∧ (n.ring r).prod = (s.ring r).prod ∧ n.port.regs = s.port.regs ∧ ∀ x, x ≠ r → n.ring x = s.ring x)
        ∧ (r < 5 → Pos.ofWord v ≠ (s.ring r).prod → Pos.ofWord v ∉ (s.ring r).starts → exec (.consWrite t r v) s = .next { s with
            now := s.at t
            port := { s.port with regs := { s.port.regs with err := s.port.regs.err ||| 4#16, irq := s.port.regs.irq ||| 0x400#32 } } })
        ∧ (r = 5 → exec (.consWrite t r v) s = .next { s with
            now := s.at t
            port := { s.port with regs := { s.port.regs with err := s.port.regs.err ||| 1#16, irq := s.port.regs.irq ||| 0x400#32 } } })
        ∧ (r < 5 → exec (.prodWrite t r v) s = .next { s with
            now := s.at t
            port := { s.port with regs := { s.port.regs with err := s.port.regs.err ||| 1#16, irq := s.port.regs.irq ||| 0x400#32 } } })
        ∧ (r = 5 → legalProd 131072 (Pos.ofWord v) (s.ring 5).cons = true → Answers (.prodWrite t r v) s fun n =>
            (n.ring 5).prod = Pos.ofWord v ∧ (n.ring 5).cons = (s.ring 5).cons ∧ n.port.regs = s.port.regs ∧ ∀ x, x ≠ 5 → n.ring x = s.ring x)
        ∧ (r = 5 → legalProd 131072 (Pos.ofWord v) (s.ring 5).cons = false → exec (.prodWrite t r v) s = .next { s with
            now := s.at t
            port := { s.port with regs := { s.port.regs with err := s.port.regs.err ||| 4#16, irq := s.port.regs.irq ||| 0x400#32 } } })))

/-- REGISTER_WRITE, a transaction of an awake hub: a first address outside the map sets ERR[1] and the bytes go nowhere, whatever the opcode and
HRDY. One whose opcode is not that of a write, and one whose HCS_N fell while HRDY was low, changes nothing otherwise; at the end of one that has
put off an update of the status block the update follows. A write of no bytes to the map does nothing. Bytes of the host-to-hub mailbox
are stored, byte by byte, while H2MLEN is 0, and set ERR[3] instead while it is not. Bytes of ring 5 are stored. Bytes for a hub-to-host
ring are ignored and set ERR[1]. A write of the RO fields at 0 to 22 sets ERR[0] and changes nothing else. The four bytes of IRQ clear the
bits they hold as 1. Every byte of mailbox and rings that is not stored reads as before. -/
def Obligations.RegisterWriteForms : Prop :=
  ∀ (t fell : Tick) (s : State) (op : BitVec 8) (addr : Nat) (data : Bytes), s.sound = true → s.awake = true →
    Memory.wf s.port.mailIn = true → Memory.wf s.port.ringMem = true →
    ((s.port.deferred = true ∨ ∃ l ∈ s.port.lows, fell + 10 * nsTicks < l.first) → (op ≠ 0x02 ∨ s.port.readyAt fell = false) →
        (mapRange addr).isSome = true →
      Answers (.registerWrite t ⟨op, addr, fell⟩ data) s fun n =>
        n.port.csLow = false ∧ n.port.deferred = false ∧ n.port.shown.regs = s.port.regs ∧ n.port.shown.stamp = s.stamp.number
          ∧ n.port.regs = s.port.regs ∧ n.port.mailIn = s.port.mailIn ∧ n.port.ringMem = s.port.ringMem
          ∧ ∃ l ∈ n.port.lows, l.first = s.at t ∧ l.past ≤ s.at t + 2 * usTicks)
    ∧ (s.port.csLow = false → s.port.deferred = false → (∀ l ∈ s.port.lows, l.first ≤ fell + 10 * nsTicks) →
    ((mapRange addr).isNone = true → exec (.registerWrite t ⟨op, addr, fell⟩ data) s = .next { s with
        now := s.at t
        port := { s.port with regs := { s.port.regs with err := s.port.regs.err ||| 2#16, irq := s.port.regs.irq ||| 0x400#32 } } })
    ∧ ((op ≠ 0x02 ∨ s.port.readyAt fell = false) → (mapRange addr).isSome = true →
        exec (.registerWrite t ⟨op, addr, fell⟩ data) s = .next { s with now := s.at t })
    ∧ (op = 0x02 → s.port.readyAt fell = true →
    (data = [] → (mapRange addr).isSome = true → exec (.registerWrite t ⟨op, addr, fell⟩ data) s = .next { s with now := s.at t })
    ∧ (0x1000 ≤ addr → addr + data.length ≤ 0x2000 → data ≠ [] →
        (s.port.regs.h2mlen = 0 → Answers (.registerWrite t ⟨op, addr, fell⟩ data) s fun n =>
          n = { s with now := s.at t, port := { s.port with mailIn := n.port.mailIn } } ∧ Memory.wf n.port.mailIn = true
            ∧ (∀ i, i < data.length → memGet n.port.mailIn (addr + i) = data.getD i 0)
            ∧ ∀ x, (x < addr ∨ addr + data.length ≤ x) → memGet n.port.mailIn x = memGet s.port.mailIn x)
        ∧ (s.port.regs.h2mlen ≠ 0 → exec (.registerWrite t ⟨op, addr, fell⟩ data) s = .next { s with
            now := s.at t
            port := { s.port with regs := { s.port.regs with err := s.port.regs.err ||| 8#16, irq := s.port.regs.irq ||| 0x400#32 } } }))
    ∧ (0x260000 ≤ addr → addr + data.length ≤ 0x280000 → data ≠ [] → Answers (.registerWrite t ⟨op, addr, fell⟩ data) s fun n =>
          n = { s with now := s.at t, port := { s.port with ringMem := n.port.ringMem } } ∧ Memory.wf n.port.ringMem = true
            ∧ (∀ i, i < data.length → memGet n.port.ringMem (addr + i) = data.getD i 0)
            ∧ ∀ x, (x < addr ∨ addr + data.length ≤ x) → memGet n.port.ringMem x = memGet s.port.ringMem x)
    ∧ (0x100000 ≤ addr → addr + data.length ≤ 0x260000 → data ≠ [] → exec (.registerWrite t ⟨op, addr, fell⟩ data) s = .next { s with
        now := s.at t
        port := { s.port with regs := { s.port.regs with err := s.port.regs.err ||| 2#16, irq := s.port.regs.irq ||| 0x400#32 } } })
    ∧ (addr + data.length ≤ 23 → data ≠ [] → exec (.registerWrite t ⟨op, addr, fell⟩ data) s = .next { s with
        now := s.at t
        port := { s.port with regs := { s.port.regs with err := s.port.regs.err ||| 1#16, irq := s.port.regs.irq ||| 0x400#32 } } })
    ∧ (∀ v : BitVec 32, addr = 24 → data = leBytes 4 v.toNat → exec (.registerWrite t ⟨op, addr, fell⟩ data) s = .next { s with
        now := s.at t, port := { s.port with regs := { s.port.regs with irq := s.port.regs.irq &&& ~~~v } } })))

/-- For the weight store, the carrel, the rings, the mailboxes and the staging area, which are lists of address and byte pairs in one
canonical form: writing bytes from an address on keeps the form; each written byte reads back and every other address reads as before;
zeroing a range makes it read 0 and leaves the rest; and two stores in the form that read alike at every address are the same. That an
address nothing has written reads 0 is the model's choice of log entry 7. -/
def Obligations.StoreLaws : Prop :=
  (∀ (m : Mem) (a : Nat) (bs : Bytes), Memory.wf m = true →
      Memory.wf (memWrite m a bs) = true ∧ ∀ x, memGet (memWrite m a bs) x = if a ≤ x ∧ x < a + bs.length then bs.getD (x - a) 0 else memGet m x)
    ∧ (∀ (m : Mem) (lo hi : Nat), Memory.wf m = true →
      Memory.wf (memZero m lo hi) = true ∧ ∀ x, memGet (memZero m lo hi) x = if lo ≤ x ∧ x < hi then 0 else memGet m x)
    ∧ (∀ (m m' : Mem), Memory.wf m = true → Memory.wf m' = true → (∀ x, memGet m x = memGet m' x) → m = m')

/-- From every state in which the ring memory, both mailboxes and the staging area are in canonical form (addresses strictly rising, no
entry equal to what an unlisted address reads as), whatever command stands at the front of the queue, a step answers a state in which they
still are. -/
def Obligations.PortStoresKept : Prop :=
  ∀ s : State, Memory.wf s.port.ringMem = true → Memory.wf s.port.mailIn = true → Memory.wf s.port.mailOut = true →
    Memory.wf s.archive.staging = true →
    ∃ n, step s = .next n ∧ Memory.wf n.port.ringMem = true ∧ Memory.wf n.port.mailIn = true ∧ Memory.wf n.port.mailOut = true
      ∧ Memory.wf n.archive.staging = true

/-- From every state in which the weight store, its tags and the carrel of every stack are in canonical form, whatever command stands at
the front of the queue, a step answers a state in which they still are. -/
def Obligations.StackStoresKept : Prop :=
  ∀ s : State, (∀ k ∈ s.stackList, Memory.wf k.store = true ∧ Memory.wf k.tags = true ∧ Memory.wf k.carrel = true) →
    ∃ n, step s = .next n ∧ ∀ k ∈ n.stackList, Memory.wf k.store = true ∧ Memory.wf k.tags = true ∧ Memory.wf k.carrel = true

/-- For every Usith command: a line whose tag is above 65535, and an untagged line of a GENERATED session, is answered SYNTAX without a tag; else an argument that the command does not have,
or one given twice, ARG; else an absent required argument MISSING; else an expert argument with EXPERT OFF, EXPERT; else a command that
the life-cycle state does not admit, once its values suit, STATE; else what a standby leaves to the primary, ROLE. The reply is the line's
one final reply and nothing but what talking changes differs. While pair A restarts, the line takes its place and waits. Where the hub
does not listen, nothing happens. The order of the checks is the model's reading of log entry 12. -/
def Obligations.LineErrors : Prop :=
  ∀ (c : Instr) (l : LineCmd) (s : State), lineOf c = some l → s.sound = true →
    (s.listens l.line.ses = true → (s.ses l.line.ses).waiting = [] → s.steward.aDown = none → (∃ k, l.line.tag = some k ∧ 65535 < k) →
        Replies c { l.line with tag := none } s s [.err 1 []])
    ∧ (s.listens l.line.ses = true → (s.ses l.line.ses).waiting = [] → (∀ k, l.line.tag = some k → k ≤ 65535) →
      (s.steward.aDown ≠ none → Answers c s fun n =>
        Waits s n l.line ∧ n.settings = s.settings ∧ n.streams = s.streams ∧ n.nodes = s.nodes ∧ n.archive = s.archive ∧ n.port = s.port)
      ∧ (s.steward.aDown = none →
        ((s.ses l.line.ses).generated = true → l.line.tag = none → Replies c l.line s s [.err 1 []])
        ∧ (((s.ses l.line.ses).generated = true → l.line.tag ≠ none) →
          (((∃ a ∈ l.line.args, ∀ q ∈ l.specs, q.arg ≠ a.1) ∨ ¬ (l.line.args.map (·.1)).Nodup) → Replies c l.line s s [.err 7 []])
          ∧ ((∀ a ∈ l.line.args, ∃ q ∈ l.specs, q.arg = a.1) → (l.line.args.map (·.1)).Nodup →
            ((∃ q ∈ l.specs, q.need = true ∧ lineVal l.line q.arg = none) → Replies c l.line s s [.err 8 []])
            ∧ ((∀ q ∈ l.specs, q.need = true → lineVal l.line q.arg ≠ none) →
              ((s.ses l.line.ses).expert = false → (∃ q ∈ l.specs, q.expert = true ∧ lineVal l.line q.arg ≠ none) → Replies c l.line s s [.err 10 []])
              ∧ (((s.ses l.line.ses).expert = true ∨ ∀ q ∈ l.specs, q.expert = true → lineVal l.line q.arg = none) →
                ((∃ q ∈ l.specs, ∃ v, lineVal l.line q.arg = some v ∧ q.form.ok v = false) → Replies c l.line s s [.err 9 []])
                ∧ ((∀ q ∈ l.specs, ∀ v, lineVal l.line q.arg = some v → q.form.ok v = true) →
                  (l.group.admits (lifeIndex s.life) = false → Replies c l.line s s [.err 11 []])
                  ∧ (l.group.admits (lifeIndex s.life) = true → s.isStandby = true → l.reserved s = true → Replies c l.line s s [.err 12 []]))))))))
    ∧ (s.listens l.line.ses = false → ∃ n, exec c s = .next n ∧ n = { s with now := n.now })

/-- LINE_ERROR. A line that lost characters to a full buffer is answered OVERRUN; an empty line is ignored; else one with a byte outside
0x20 to 0x7E CHAR; else one of more than 1,024 bytes LONG; else one that lacks a tag in GENERATED mode SYNTAX. Whatever the error, the
reply is the line's only one and nothing but what talking changes differs; a line with no error here changes nothing but the time. -/
def Obligations.BrokenLines : Prop :=
  ∀ (t : Tick) (ses : Sess) (bytes : Bytes) (lost : Bool) (s : State), s.sound = true → s.listens ses = true → s.steward.aDown = none →
    (s.ses ses).waiting = [] →
    (∀ e tag, lineError (s.ses ses).generated lost bytes = some (e, tag) →
      Replies (.lineError t ses bytes lost) { ses := ses, tag := tag, args := [] } s s [.err e []])
    ∧ (lineError (s.ses ses).generated lost bytes = none → exec (.lineError t ses bytes lost) s = .next { s with now := s.at t })
    ∧ (lost = true → ∃ tag, Replies (.lineError t ses bytes lost) { ses := ses, tag := tag, args := [] } s s [.err 5 []])
    ∧ (lost = false → bytes = [] → exec (.lineError t ses bytes lost) s = .next { s with now := s.at t })
    ∧ (lost = false → bytes ≠ [] → bytes.getLast? ≠ some 0x0D#8 →
      ((∃ b ∈ bytes, b.toNat < 0x20 ∨ 0x7E < b.toNat) →
        ∃ tag, Replies (.lineError t ses bytes lost) { ses := ses, tag := tag, args := [] } s s [.err 2 []])
      ∧ ((∀ b ∈ bytes, 0x20 ≤ b.toNat ∧ b.toNat ≤ 0x7E) →
        (1024 < bytes.length → ∃ tag, Replies (.lineError t ses bytes lost) { ses := ses, tag := tag, args := [] } s s [.err 3 []])
        ∧ (bytes.length ≤ 1024 → (s.ses ses).generated = true → bytes.head? ≠ some 0x40#8 →
          Replies (.lineError t ses bytes lost) { ses := ses, tag := none, args := [] } s s [.err 1 []])))

/-- IDENT, STAMP, SHOW, NODE SHOW, STREAM SHOW and LIST, FOLIO LIST, DRAFT SHOW, REQUEST SHOW, REPORT SERVICE and LINK, EVENT LIST, PORT
SHOW, SPINE SHOW, POWER SHOW, INVENTORY SHOW complete: exec answers a next state, in which a line without error is answered with data lines and exactly one final line, OK or ERR, the
last; and nothing differs but the time, what has left the hub, and what carries lines. -/
def Obligations.ReadsOnlyAnswer : Prop :=
  ∀ (t : Tick) (u : Line) (s : State), s.sound = true →
    (s.Clear (.ident t u) → ReadDone (.ident t u) u s)
    ∧ (s.Clear (.stamp t u) → ReadDone (.stamp t u) u s)
    ∧ (s.Clear (.showSetting t u) → ReadDone (.showSetting t u) u s)
    ∧ (s.Clear (.nodeShow t u) → ReadDone (.nodeShow t u) u s)
    ∧ (s.Clear (.streamShow t u) → ReadDone (.streamShow t u) u s)
    ∧ (s.Clear (.streamList t u) → ReadDone (.streamList t u) u s)
    ∧ (s.Clear (.folioList t u) → ReadDone (.folioList t u) u s)
    ∧ (s.Clear (.draftShow t u) → ReadDone (.draftShow t u) u s)
    ∧ (s.Clear (.requestShow t u) → ReadDone (.requestShow t u) u s)
    ∧ (s.Clear (.reportService t u) → ReadDone (.reportService t u) u s)
    ∧ (s.Clear (.reportLink t u) → ReadDone (.reportLink t u) u s)
    ∧ (s.Clear (.eventList t u) → ReadDone (.eventList t u) u s)
    ∧ (s.Clear (.portShow t u) → ReadDone (.portShow t u) u s)
    ∧ (s.Clear (.spineShow t u) → ReadDone (.spineShow t u) u s)
    ∧ (s.Clear (.powerShow t u) → ReadDone (.powerShow t u) u s)
    ∧ (s.Clear (.inventoryShow t u) → ReadDone (.inventoryShow t u) u s)

/-- STAMP shows the stamp, run, period, economy and the phase in microseconds. SHOW of a setting shows its live and staged value; UNKNOWN
for a name that SET does not take, STATE for a setting of a stream that waits for its restore, NOTFOUND for an index without object; a listing has one line for each index whose live value differs
from its default or that is staged. NODE SHOW of one shelfmark, STREAM LIST, FOLIO LIST, DRAFT SHOW, REQUEST SHOW, the reports and EVENT
LIST show what the hub holds and NOTFOUND, or STATE without a draft, where it holds none; STREAM LIST shows with the streams of a slot the
identifiers chosen for those that an accepted request will make. IDENT shows the role, the stamp and the run, STREAM
SHOW a stream's place and generation, or STATE where it waits for its restore, POWER SHOW the start and the counts of the restore, INVENTORY SHOW the last inventories, PORT SHOW a
port's fault, SPINE SHOW the link. -/
def Obligations.ReadReplies : Prop :=
  ∀ (t : Tick) (u : Line) (s : State), s.sound = true →
    (s.Clear (.stamp t u) → Replies (.stamp t u) u s s [.ok [("stamp", .nat s.stamp.number.toNat), ("run", .hex s.stamp.run.toNat 8),
        ("period", .setting .stampPeriod (some s.stamp.period)), ("econ", .word (if s.stamp.economy then "ON" else "OFF")),
        ("phase", .nat (if s.stamp.started then (s.at t - s.stamp.t0) / usTicks else 0))]])
    ∧ (∀ m : SName, s.Clear (.showSetting t u) → m ≠ .pairSide →
      (∀ b, lineVal u .name = some (.name m b) → m.unsettable = true → Replies (.showSetting t u) u s s [.err 6 []])
      ∧ (lineVal u .name = some (.name m false) → m.unsettable = false →
        (s.nameWaits m = true → Replies (.showSetting t u) u s s [.err 11 []])
        ∧ (s.nameWaits m = false → s.hasObject m = false → Replies (.showSetting t u) u s s [.err 15 []])
        ∧ (s.nameWaits m = false → s.hasObject m = true → Replies (.showSetting t u) u s s [.ok [("live", .setting m (s.get m)),
            ("staged", ((settingIn m s.settings.staged).map (RVal.setting m)).getD .absent)]]))
      ∧ (∀ f is, lineVal u .name = some (.name m true) → m.unsettable = false → familyOf m = some (f, is) →
        ∃ ds, Replies (.showSetting t u) u s s (ds ++ [.ok [("count", .nat ds.length)]])
          ∧ ∀ d, d ∈ ds ↔ ∃ i ∈ is, s.hasObject (f i) = true ∧ (s.get (f i) ≠ s.defaultOf (f i) ∨ (settingIn (f i) s.settings.staged).isSome = true)
              ∧ d = .item [("index", indexVal (f i) i), ("live", .setting (f i) (s.get (f i))), ("staged", s.stagedVal (f i))]))
    ∧ (s.Clear (.nodeShow t u) → lineVal u .node ≠ some (.kw .all) →
      (s.node? (lineNat u .node 0) = none → Replies (.nodeShow t u) u s s [.err 15 []])
      ∧ ∀ x, s.node? (lineNat u .node 0) = some x → ∃ d, Replies (.nodeShow t u) u s s [.item d, .ok []]
          ∧ ("shelf", .nat x.shelf) ∈ d ∧ ("id", .hex x.nid.toNat 16) ∈ d ∧ ("last", .nat x.report.last) ∈ d
          ∧ ("state", .word (if (s.lim .ns (256 * x.shelf)).tripped then "SILENT" else "ACTIVE")) ∈ d)
    ∧ (s.Clear (.streamList t u) →
      ((s.patron (lineNat u .slot 0)).folio = none → Replies (.streamList t u) u s s [.err 15 []])
      ∧ ((s.patron (lineNat u .slot 0)).folio ≠ none → ∃ ds, Replies (.streamList t u) u s s (ds ++ [.ok [("count", .nat ds.length)]])
          ∧ ∀ d, d ∈ ds ↔ ∃ x ∈ s.listed (lineNat u .slot 0),
              d = .item [("sid", .nat x.sid), ("place", .word x.place.name), ("step", .nat x.committed.step.toNat)])
      ∧ ((∀ r ∈ s.requests, r.slot = lineNat u .slot 0 → r.ahead s.stamp.number = false) →
          s.listed (lineNat u .slot 0) = s.streams.filter fun x => x.slot == lineNat u .slot 0 && x.place != .free)
      ∧ ∀ r ∈ s.requests, r.slot = lineNat u .slot 0 → r.ahead s.stamp.number = true → ∀ k ∈ r.chosen, ∃ x ∈ s.listed (lineNat u .slot 0), x.sid = k)
    ∧ (s.Clear (.folioList t u) → ∃ ds, Replies (.folioList t u) u s s (ds ++ [.ok []]) ∧ ds.length = s.archive.folios.length)
    ∧ (s.Clear (.draftShow t u) →
      (s.draft = none → Replies (.draftShow t u) u s s [.err 11 []])
      ∧ ∀ d, s.draft = some d →
          Replies (.draftShow t u) u s s [.ok [("parent", .hex d.parent.toNat 8), ("step", .nat d.step), ("pub", .nat d.pub)]])
    ∧ (s.Clear (.requestShow t u) →
      (s.req? (lineNat u .req 0) = none → Replies (.requestShow t u) u s s [.err 15 []])
      ∧ ∀ r, s.req? (lineNat u .req 0) = some r → Replies (.requestShow t u) u s s [.ok [("slot", .nat r.slot), ("kind", .word r.kind.name),
          ("state", .word r.state.name), ("chunks", .nat r.chunks), ("of", .nat r.chunksOf), ("cells", .nat (r.cells.filter (·.fin)).length)]])
    ∧ (s.Clear (.nodeShow t u) → lineVal u .node = some (.kw .all) →
      Replies (.nodeShow t u) u s s (s.nodes.map s.nodeLine ++ [.ok []]))
    ∧ (s.Clear (.reportService t u) →
      ((s.patron (lineNat u .slot 0)).latest = none → Replies (.reportService t u) u s s [.err 15 []])
      ∧ ∀ b, (s.patron (lineNat u .slot 0)).latest = some b → Replies (.reportService t u) u s s [.ok (recordFields serviceFields b)])
    ∧ (s.Clear (.reportLink t u) →
      ((s.node? (lineNat u .node 0)).bind (·.latest) = none → Replies (.reportLink t u) u s s [.err 15 []])
      ∧ ∀ b, (s.node? (lineNat u .node 0)).bind (·.latest) = some b → Replies (.reportLink t u) u s s [.ok (linkFields b)])
    ∧ (s.Clear (.eventList t u) → ∃ ds, Replies (.eventList t u) u s s (ds ++ [.ok []])
        ∧ ds.length = min (lineNat u .count 16) (s.events.kept.filter fun e => lineNat u .since 0 ≤ e.seq.toNat).length)
    ∧ (s.Clear (.ident t u) → ∃ d, Replies (.ident t u) u s s [.ok d] ∧ ("role", .word s.roleSt.role.name) ∈ d
        ∧ ("stamp", .nat s.stamp.number.toNat) ∈ d ∧ ("run", .hex s.stamp.run.toNat 8) ∈ d)
    ∧ (s.Clear (.streamShow t u) →
      let x := s.stream (lineNat u .sid 0)
      (s.awaitsRestore (lineNat u .sid 0) = true → Replies (.streamShow t u) u s s [.err 11 []])
      ∧ (s.awaitsRestore (lineNat u .sid 0) = false → x.place = .free → x.gen = 0 → Replies (.streamShow t u) u s s [.err 15 []])
      ∧ (s.awaitsRestore (lineNat u .sid 0) = false → (x.place ≠ .free ∨ x.gen ≠ 0) → ∃ d, Replies (.streamShow t u) u s s [.ok d]
          ∧ ("place", .word x.place.name) ∈ d ∧ ("gen", .nat x.gen.toNat) ∈ d))
    ∧ (s.Clear (.powerShow t u) → ∃ d, Replies (.powerShow t u) u s s [.ok d]
        ∧ ("start", .word s.power.start.name) ∈ d ∧ ("restored", .nat s.restoredCount) ∈ d ∧ ("skipped", .nat s.skipped) ∈ d)
    ∧ (s.Clear (.inventoryShow t u) → ∃ d, Replies (.inventoryShow t u) u s s [.ok d]
        ∧ ∀ k b r, k < 4 → (s.stk k).lastInv = some (b, r) → ("last", .nat b.toNat) ∈ d ∧ ("result", .word r.name) ∈ d)
    ∧ (s.Clear (.portShow t u) → ∃ d, Replies (.portShow t u) u s s [.ok d]
        ∧ ("state", .word (if (s.port? (linePort u)).fault.isSome then "FAULT" else "OK")) ∈ d
        ∧ ("fitted", .nat (s.fitted (linePort u)).toNat) ∈ d)
    ∧ (s.Clear (.spineShow t u) → ∃ d, Replies (.spineShow t u) u s s [.ok d] ∧ ("state", .word s.spine.state.name) ∈ d
        ∧ ("session", .hex s.spine.session.toNat 8) ∈ d ∧ ("resent", .nat s.spine.resent) ∈ d ∧ ("discarded", .nat s.spine.discarded) ∈ d)

/-- On the line session, or without baud=, SESSION replies OK and its properties are in force afterwards: MODE, EXPERT, NOTICE as given or
as they were, and the rate; a return to 115,200 baud gives the line session its default properties. On the port session baud= is answered
STATE and changes nothing. The other session keeps its properties. -/
def Obligations.SessionForms : Prop :=
  ∀ (t : Tick) (u : Line) (s : State), s.sound = true → s.Clear (.session t u) →
    (u.ses = .port → lineHas u .baud = true → Replies (.session t u) u s s [.err 11 []]
      ∧ Answers (.session t u) s fun n => n.portSes.generated = s.portSes.generated ∧ n.portSes.expert = s.portSes.expert
          ∧ n.portSes.notice = s.portSes.notice)
    ∧ ((u.ses = .line ∨ lineHas u .baud = false) →
      (∃ fs, Replies (.session t u) u s s [.ok fs])
      ∧ Answers (.session t u) s fun n =>
          let back := u.ses = .line ∧ lineNat u .baud s.lineSes.baud = 115200 ∧ s.lineSes.baud ≠ 115200
          ((n.ses u.ses).generated = true ↔ ¬ back ∧ (lineVal u .mode = some (.kw .generated) ∨ (lineVal u .mode = none ∧ (s.ses u.ses).generated = true)))
            ∧ ((n.ses u.ses).expert = true ↔ ¬ back ∧ (lineKw u .expert .on = true ∨ (lineVal u .expert = none ∧ (s.ses u.ses).expert = true)))
            ∧ ((n.ses u.ses).notice = true ↔ back ∨ lineKw u .notice .on = true ∨ (lineVal u .notice = none ∧ (s.ses u.ses).notice = true))
            ∧ (n.ses u.ses).baud = lineNat u .baud (s.ses u.ses).baud
            ∧ (∀ v, v ≠ u.ses → n.ses v = s.ses v))

/-- SET with distinct names. When every pair passes its own check, each name is staged with its value, every other name is staged as it
was, and nothing else changes. When some pair fails, the reply names the first failing name with its error, and nothing is staged or
changed. A pair whose index names no such patron, tensor, layer, node, cell, wire or port fails with NOTFOUND. -/
def Obligations.SetForms : Prop :=
  ∀ (t : Tick) (u : Line) (pairs : List (SName × Val)) (s : State), s.sound = true → s.Clear (.set t u pairs) → (pairs.map (·.1)).Nodup →
    pairs ≠ [] →
    ((∀ p ∈ pairs, ∃ x, s.setPair (s.ses u.ses).expert p.1 p.2 = .ok x) →
      ∃ st, Replies (.set t u pairs) u s { s with settings := { s.settings with staged := st } }
          [.ok [("staged", .nat (st.length + s.settings.stagedScripts.length + s.settings.stagedSets.length))]]
        ∧ (∀ p ∈ pairs, ∀ x, s.setPair (s.ses u.ses).expert p.1 p.2 = .ok x → settingIn p.1 st = some x)
        ∧ ∀ m, m ∉ pairs.map (·.1) → settingIn m st = settingIn m s.settings.staged)
    ∧ (∀ (before after : List (SName × Val)) (m : SName) (v : Val) (e : Nat), pairs = before ++ (m, v) :: after →
        (∀ p ∈ before, ∃ x, s.setPair (s.ses u.ses).expert p.1 p.2 = .ok x) → s.setPair (s.ses u.ses).expert m v = .error e →
      Replies (.set t u pairs) u s s [.err e [("name", .names [m])]])
    ∧ (∀ (m : SName) (v : Val), m.unsettable = false → s.nameWaits m = false →
        ((∃ p, m = .patronBalance p ∧ 16 ≤ p)
          ∨ (∃ p i, (m = .tensorMode p i ∨ m = .tensorWindow p i ∨ m = .tensorKlo p i ∨ m = .tensorKhi p i ∨ m = .tensorTheta p i ∨ m = .tensorLimit p i)
              ∧ s.tensor? p i = none)
          ∨ (∃ p l, m = .layerClamp p l ∧ ∀ f, s.folio? p = some f → f.stateLayers.length ≤ l)
          ∨ (∃ x l, m = .streamShift x l ∧ (s.hasStream x = false ∨ (s.stream x).committed.dims.length ≤ l))
          ∨ (∃ h, (m = .nodeTwinset h ∨ m = .nodeCurrent h ∨ m = .nodeTfit h ∨ m = .nodeRb h) ∧ s.node? h = none)
          ∨ (∃ h w, m = .nodeWr h w ∧ (s.node? h = none ∨ 16 < w))
          ∨ (∃ h i, m = .cellSensors h i ∧ (s.node? h = none ∨ i = 0 ∨ 16 < i))
          ∨ (∃ x, (m = .portTxlat x ∨ m = .portRxlat x) ∧ 4 ≤ x)) →
        s.setPair (s.ses u.ses).expert m v = .error 15
          ∧ (pairs = [(m, v)] → Replies (.set t u pairs) u s s [.err 15 [("name", .names [m])]]))

/-- A setting of a stream that waits for its restore fails with STATE. Of a name that has its object: an expert setting in a session with EXPERT OFF fails with EXPERT; else on a standby a setting that is
reserved to the primary with ROLE; else a value outside its form, resolution or range with RANGE; else a current limit before pack.iscale
is given with STATE, and one above 8,388,607 front-end codes with RANGE. No pair and a repeated name are answered MISSING and ARG. DISCARD
drops everything staged and says how much; the live settings stay. The order of the checks is the model's reading of log entry 12. -/
def Obligations.SetChecks : Prop :=
  ∀ (t : Tick) (u : Line) (s : State), s.sound = true →
    (∀ (m : SName) (v : Val) (expert : Bool), m.unsettable = false → s.nameWaits m = true → s.setPair expert m v = .error 11)
    ∧ (∀ (m : SName) (v : Val) (expert : Bool), m.unsettable = false → s.nameWaits m = false → s.hasObject m = true →
      (m.expert = true → expert = false → s.setPair expert m v = .error 10)
      ∧ ((m.expert = true → expert = true) →
        (m.primaryOnly = true → s.isStandby = true → s.setPair expert m v = .error 12)
        ∧ ((m.primaryOnly = true → s.isStandby = false) →
          (m.form.read v = none → s.setPair expert m v = .error 9)
          ∧ (∀ x, m.form.read v = some x →
            (∀ k l, m = .limitValue k l → (l = .occ ∨ l = .ocd ∨ l = .cd) →
              (s.get .packIscale = none → s.setPair expert m v = .error 11)
              ∧ ∀ nA mA, s.get .packIscale = some nA → x = some mA →
                  s.setPair expert m v = if mA * 1000000 ≤ 8388607 * nA then .ok (some mA) else .error 9)
            ∧ (currentLimit m = false → (∀ p i, m ≠ .tensorMode p i) → s.setPair expert m v = .ok x)))))
    ∧ (s.Clear (.set t u []) → Replies (.set t u []) u s s [.err 8 []])
    ∧ (∀ pairs, s.Clear (.set t u pairs) → ¬ (pairs.map (·.1)).Nodup → Replies (.set t u pairs) u s s [.err 7 []])
    ∧ (s.Clear (.discard t u) →
      Replies (.discard t u) u s { s with settings := { s.settings with staged := [], stagedScripts := [], stagedSets := [] } }
        [.ok [("discarded", .nat (s.settings.staged.length + s.settings.stagedScripts.length + s.settings.stagedSets.length))]])

/-- With nothing staged, APPLY replies OK with the stamp of R26 and changes nothing. Else, when a joint rule fails, it replies CONFLICT with the rule, its settings and the staged ones, and changes nothing; a staged period
that the mirror cannot keep is answered MIRROR. Else everything staged is committed for the stamp of R26, the staging copy is empty, the
air mode is decided for that stamp, and the reply names it. A hub that leads a pair with the spine UP also sends a staged setting as one
sequenced CONFIG frame with its stamp. The live settings do not change before. -/
def Obligations.ApplyForms : Prop :=
  ∀ (t : Tick) (u : Line) (s : State), s.sound = true → s.Clear (.apply t u) →
    let any : Prop := s.settings.staged ≠ [] ∨ s.settings.stagedScripts ≠ [] ∨ s.settings.stagedSets ≠ []
    (s.settings.staged = [] → s.settings.stagedScripts = [] → s.settings.stagedSets = [] →
        Replies (.apply t u) u s s [.ok [("at", .nat (s.advance t).atStamp.toNat)]])
    ∧ (∀ r ns, any → s.conflictRule = some (r, ns) → Replies (.apply t u) u s s [.err 13 [("rule", .word r), ("settings", .names ns),
        ("staged", .names (ns.filter fun m => (settingIn m s.settings.staged).isSome))]])
    ∧ (any → s.conflictRule = none →
      let b := (s.advance t).atStamp
      let q := s.settings
      let e : State := { s with
        settings := { q with
          staged := []
          stagedScripts := []
          stagedSets := []
          commits := if q.staged = [] then q.commits else q.commits ++ [(b, q.staged)]
          scriptCommits := if q.stagedScripts = [] then q.scriptCommits else q.scriptCommits ++ [(b, q.stagedScripts)]
          setCommits := if q.stagedSets = [] then q.setCommits else q.setCommits ++ [(b, q.stagedSets)] }
        air := { s.air with modeAt := s.air.modeAt ++ [b] } }
      ((settingIn .stampPeriod q.staged).isSome = true → s.spine.partner = true → mirrorLimit (s.afterN .stampPeriod) < s.mirrorBytes →
          Replies (.apply t u) u s s [.err 24 []])
      ∧ (s.spine.partner = false → Replies (.apply t u) u s e [.ok [("at", .nat b.toNat)]])
      ∧ (∀ m v, s.spine.partner = true → s.leads = true → s.spine.state = .up → q.staged = [(m, v)] → q.stagedScripts = [] → q.stagedSets = [] →
          m ≠ .stampPeriod →
        Answers (.apply t u) s fun n =>
          n.settings = e.settings ∧ n.air = e.air ∧ n.nodes = s.nodes ∧ n.streams = s.streams
            ∧ n.spine.sent = s.spine.sent ++ [{ seq := s.spine.txSeq + 1, stamp := s.stamp.number, msg := .config (.setting m v) b }]
            ∧ n.spine.txSeq = s.spine.txSeq + 1 ∧ Ends s n u [.ok [("at", .nat b.toNat)]]))

/-- SAVE writes every live setting, script and twin parameter set to the archive configuration, but no layer shift of a stream that has ended; nothing staged is saved, and what an APPLY
has committed for a later boundary is not: the values saved are those live now. A power-up keeps the saved configuration, BOOT_RECORD_READ
makes it the live configuration, and stamp 0 begins with it. SAVE also starts the count of shutdowns again (16 Table 16.2). -/
def Obligations.SaveForms : Prop :=
  ∀ (t : Tick) (u : Line) (s : State), s.sound = true →
    (s.Clear (.save t u) → Replies (.save t u) u s
        { s with
          power := { s.power with shutdowns := 0 }
          archive := { s.archive with saved := s.liveSettings, savedScripts := s.settings.scripts, savedSets := s.settings.twinsets } }
        [.ok [("saved", .nat s.stamp.number.toNat)]])
    ∧ (∀ m v, (m, v) ∈ s.liveSettings ↔ (m, v) ∈ s.settings.live
        ∧ ∀ x l, m = .streamShift x l → s.knows x = false ∨ (s.held m).isSome = true)
    ∧ (s.power.porter = false → Answers (.powerUp t) s fun n =>
        n.archive.saved = s.archive.saved ∧ n.archive.savedScripts = s.archive.savedScripts ∧ n.archive.savedSets = s.archive.savedSets
          ∧ n.power.bootRead = false ∧ n.stamp.started = false)
    ∧ (s.railsGood = true → s.power.origin + 12 * msTicks ≤ s.at t → s.power.bootRead = false → s.test.fuses.getLsbD 4 = false →
      Answers (.bootRecordRead t) s fun n =>
        n.settings.live = s.archive.saved ∧ n.settings.scripts = s.archive.savedScripts ∧ n.settings.twinsets = s.archive.savedSets
          ∧ n.power.bootRead = true)
    ∧ (s.railsGood = true → s.power.bootRead = true → s.stamp.started = false → s.blank = false →
      Answers (.pllLock t) s fun n => n.stamp.started = true ∧ n.stamp.number = 0 ∧ n.settings = s.settings)

/-- PAIR writes the side and the partner setting to the archive configuration and leaves the live ones as they are. A power-up and the
release of RST_N keep them and begin a boot, and BOOT_RECORD_READ makes them live. SHOW pair.side replies with the live and the saved side
and changes nothing. -/
def Obligations.PairForms : Prop :=
  ∀ (t : Tick) (u : Line) (s : State), s.sound = true →
    (s.Clear (.pair t u) → Replies (.pair t u) u s
        { s with archive := { s.archive with sideB := lineKw u .side .b, partner := lineKw u .partner .on } } [.ok [("effective", .word "RESTART")]])
    ∧ (s.power.porter = false → Answers (.powerUp t) s fun n =>
        n.archive.sideB = s.archive.sideB ∧ n.archive.partner = s.archive.partner ∧ n.power.bootRead = false)
    ∧ (s.power.rstLow ≠ none → Answers (.rstNRelease t) s fun n =>
        n.archive.sideB = s.archive.sideB ∧ n.archive.partner = s.archive.partner ∧ (s.power.waiting = .none → n.power.bootRead = false))
    ∧ (s.railsGood = true → s.power.origin + 12 * msTicks ≤ s.at t → s.power.bootRead = false → s.test.fuses.getLsbD 4 = false →
      Answers (.bootRecordRead t) s fun n =>
        n.spine.sideB = s.archive.sideB ∧ n.spine.partner = s.archive.partner ∧ n.power.bootRead = true)
    ∧ (∀ b, s.Clear (.showSetting t u) → lineVal u .name = some (.name .pairSide b) →
      Replies (.showSetting t u) u s s [.ok [("live", .word (if s.spine.sideB then "B" else "A")), ("saved", .word (if s.archive.sideB then "B" else "A"))]])

/-- B is P × f, f being 1,000,000 cycles per millisecond or 800,000 in economy mode; M is B / 20 and A is B − M; all three are exact; at
2, 10 and 50 ms they are as in Table 2.3, and from 2 ms on the margin covers an overrun of 40 µs and a pass of 10 µs. The node with
shelfmark h uses logical channel (h − 1) mod NCH and uplink slot floor((h − 1) / NCH): that slot serves a node of the roster with this
shelfmark and no other, two shelfmarks never share a slot, and every shelfmark up to NCH × NU has one. -/
def Obligations.StampFigures : Prop :=
  ∀ s : State, (
    s.clock = (if s.stamp.economy then 800000 else 1000000) ∧ s.budget = s.stamp.period * s.clock
      ∧ 20 * s.margin = s.budget ∧ s.admissible + s.margin = s.budget
      ∧ (2 ≤ s.stamp.period → 40 * (s.clock / 1000) + 10 * (s.clock / 1000) ≤ s.margin)
      ∧ (s.stamp.economy = false →
        (s.stamp.period = 2 → (s.budget, s.margin, s.admissible, 40 * (s.clock / 1000)) = (2000000, 100000, 1900000, 40000))
        ∧ (s.stamp.period = 10 → (s.budget, s.margin, s.admissible, 40 * (s.clock / 1000)) = (10000000, 500000, 9500000, 40000))
        ∧ (s.stamp.period = 50 → (s.budget, s.margin, s.admissible, 40 * (s.clock / 1000)) = (50000000, 2500000, 47500000, 40000)))
      ∧ (s.stamp.economy = true →
        (s.stamp.period = 2 → (s.budget, s.margin, s.admissible, 40 * (s.clock / 1000)) = (1600000, 80000, 1520000, 32000))
        ∧ (s.stamp.period = 10 → (s.budget, s.margin, s.admissible, 40 * (s.clock / 1000)) = (8000000, 400000, 7600000, 32000))
        ∧ (s.stamp.period = 50 → (s.budget, s.margin, s.admissible, 40 * (s.clock / 1000)) = (40000000, 2000000, 38000000, 32000))))
    ∧ (0 < s.air.nch → (
    (∀ h, 1 ≤ h → s.lchOf h = (h - 1) % s.air.nch ∧ s.upSlot h = (h - 1) / s.air.nch ∧ s.lchOf h < s.air.nch
        ∧ (h ≤ s.air.nch * s.air.nu → s.upSlot h < s.air.nu)
        ∧ (∀ x, s.node? h = some x → s.upSlot h < s.air.nu → s.slotShelf (s.lchOf h) (.uplink (s.upSlot h)) = some h))
    ∧ (∀ lch i h, s.slotShelf lch (.uplink i) = some h → s.lchOf h = lch ∧ s.upSlot h = i ∧ ∃ x, s.node? h = some x)
    ∧ ∀ h h', 1 ≤ h → 1 ≤ h' → s.lchOf h = s.lchOf h' → s.upSlot h = s.upSlot h' → h = h'))

/-- ACCESSION states the stamp of its first RELEASE and is STATE while one runs. BALANCE, OWTEST, NODE QUERY and NODE SLEEP to one node
put their message last in its queue and in no other, and the line waits for its sequence; for ALL they put it last among the broadcasts. A
shelfmark without a node is NOTFOUND; BALANCE during accession STATE; OWTEST while a test of that node is pending BUSY. NODE SLEEP clears
the node's balance timers, and BALANCE sets those of the cells it names; its order and its node are marked "no bleed time" where the
windows of the node, or of some node for ALL, take up the period. BREAK CLEAR drops a break that is held, and is NOTFOUND
elsewhere. Where the reply waits is the choice of log entry 23, where the mark is kept that of 118, ACCESSION's stamp the reading of 94. -/
def Obligations.NodeForms : Prop :=
  ∀ (t : Tick) (u : Line) (s : State), s.sound = true →
    (s.Clear (.accession t u) →
      (s.acc.busy = true → Replies (.accession t u) u s s [.err 11 []])
      ∧ (s.acc.busy = false →
        let late := s.stamp.number + 1 + BitVec.ofNat 48 s.air.bleft
        let b := if (s.advance t).atStamp < late then late else (s.advance t).atStamp
        Replies (.accession t u) u s { s with acc := { s.acc with due := some b } } [.ok [("at", .nat b.toNat)]]))
    ∧ (∀ (c : Instr) (m : Msg) (f : NodeSt → NodeSt), s.Clear c →
        (((c = .balance t u ∧ s.acc.busy = false) ∧ m = balanceMsg 0 (cellMask u) (lineQty u .dur 0 1000000000 0).toNat
            ∧ f = fun x => x.ordered (cellMask u) (lineQty u .dur 0 1000000000 0).toNat (s.at t))
          ∨ ((c = .owtest t u ∧ ∀ x, s.node? (lineNat u .node 0) = some x → x.owt = [])
            ∧ ∃ d n, ((lineVal u .dir = some (.kw .sink) ∧ d = 1 ∧ n = 1) ∨ (lineVal u .dir = some (.kw .source) ∧ d = 2 ∧ n = 1)
                ∨ (lineVal u .dir ≠ some (.kw .sink) ∧ lineVal u .dir ≠ some (.kw .source) ∧ d = 3 ∧ n = 2))
              ∧ m = owtestMsg 0 (lineNat u .wire 0) d ∧ f = fun x => { x with owt := x.owt ++ [{ wire := lineNat u .wire 0, left := n }] })
          ∨ (c = .nodeQuery t u ∧ m = { shelf := 0, mtype := 0x04, rest := [] } ∧ f = id)
          ∨ (c = .nodeSleep t u ∧ m = { shelf := 0, mtype := 0x05, rest := [] } ∧ f = fun x => { x with balance := [] })) →
      (lineVal u .node ≠ some (.kw .all) → s.node? (lineNat u .node 0) = none → Replies c u s s [.err 15 []])
      ∧ (lineVal u .node ≠ some (.kw .all) → ∀ x, s.node? (lineNat u .node 0) = some x → Answers c s fun n =>
          Waits s n u ∧ n.limits = s.limits ∧ n.air.bqueue = s.air.bqueue ∧ n.air.subs = s.air.subs + 1
            ∧ n.nodes = s.nodes.map fun y => if y.shelf = lineNat u .node 0 then
                { (f y).marked m s.stamp.period with queue := y.queue ++ [{ m with
                    shelf := y.shelf, reply := some (u.ses, (s.ses u.ses).lines), sub := s.air.subs, at0 := s.at t
                    noBleed := m.mtype == 1 && x.quiet s.stamp.period }] } else y)
      ∧ (lineVal u .node = some (.kw .all) → c ≠ .owtest t u → c ≠ .nodeQuery t u → Answers c s fun n =>
          Waits s n u ∧ n.nodes = s.nodes.map (fun y => (f y).marked m s.stamp.period)
            ∧ n.air = { s.air with
                subs := s.air.subs + 1
                bqueue := s.air.bqueue ++ [{ m with
                  shelf := 0, reply := some (u.ses, (s.ses u.ses).lines), sub := s.air.subs
                  noBleed := m.mtype == 1 && s.nodes.any fun y => y.quiet s.stamp.period }] }))
    ∧ (∀ (x : NodeSt) (d p : Nat), (x.marked (balanceMsg 0 (cellMask u) d) p).noBleed = decide (p * 10 ≤ x.wpre + x.wpost))
    ∧ (s.Clear (.balance t u) → s.acc.busy = true → Replies (.balance t u) u s s [.err 11 []])
    ∧ (∀ x, s.Clear (.owtest t u) → s.node? (lineNat u .node 0) = some x → x.owt ≠ [] → Replies (.owtest t u) u s s [.err 14 []])
    ∧ (s.Clear (.breakClear t u) →
      ((∀ x, s.node? (lineNat u .node 0) = some x → x.broken (lineNat u .wire 0) = false) → Replies (.breakClear t u) u s s [.err 15 []])
      ∧ ∀ x, s.node? (lineNat u .node 0) = some x → x.broken (lineNat u .wire 0) = true → Answers (.breakClear t u) s fun n =>
          Said s n u [.ok []] ∧ n.limits = s.limits ∧ n.air = s.air
            ∧ ∀ y, n.node? (lineNat u .node 0) = some y → y.broken (lineNat u .wire 0) = false
              ∧ (∀ b, b ∈ y.breaks → b ∈ x.breaks) ∧ ∀ b ∈ x.breaks, b.wire ≠ lineNat u .wire 0 → b ∈ y.breaks)

/-- PROTECT ACK of a sequence that no tripped limit bears is NOTFOUND. Where the clearing condition has stood long enough the limit clears
at once with the reply CLEARED and a PCLEAR event, which waits behind what is held while pair B restarts; else the acknowledgement is kept and the reply is PENDING. TWINSET LOAD without a
suitable frame is NOFRAME; a body that is not 384 bytes or whose temperature points do not rise strictly is RANGE; else the body is staged
for its set, every other staged set stays, and no live set changes. -/
def Obligations.AckAndTwinset : Prop :=
  ∀ (t : Tick) (u : Line) (s : State), s.sound = true →
    (s.Clear (.protectAck t u) →
      ((∀ x ∈ s.limits, x.tripped = true → x.seq ≠ lineNat u .seq 0) → Replies (.protectAck t u) u s s [.err 15 []])
      ∧ (∀ x, s.limits.find? (fun y => y.tripped && y.seq == lineNat u .seq 0) = some x →
        (x.clear < s.clearTests x → Replies (.protectAck t u) u s (s.putLim { x with acked := true }) [.ok [("state", .word "PENDING")]])
        ∧ (s.clearTests x ≤ x.clear → Answers (.protectAck t u) s fun n =>
            let key := if x.lim = .occ ∨ x.lim = .ocd ∨ x.lim = .cd then 0 else x.key
            Ends s n u [.ok [("state", .word "CLEARED")]]
              ∧ (s.steward.bDown = none → Raised s n 0x02 none none (limCode x.lim) key 0 0)
              ∧ (s.steward.bDown ≠ none → n.events = s.events ∧ n.steward.heldProtect = s.steward.heldProtect ++ [{
                  code := 2, a0 := BitVec.ofNat 32 (limCode x.lim), a1 := BitVec.ofNat 32 key, a2 := 0, a3 := 0 }])
              ∧ n.limits = s.limits.filter (fun y => !(y.lim == x.lim && y.key == x.key)) ∧ n.settings = s.settings ∧ n.nodes = s.nodes)))
    ∧ (s.Clear (.twinsetLoad t u) →
      ((s.takeInput 0x21 (lineNat u .tag 0)).1 = none → Replies (.twinsetLoad t u) u s (s.takeInput 0x21 (lineNat u .tag 0)).2 [.err 23 []])
      ∧ ∀ f, (s.takeInput 0x21 (lineNat u .tag 0)).1 = some f →
        ((f.body.length ≠ 384 ∨ setRises f.body = false) → Replies (.twinsetLoad t u) u s (s.takeInput 0x21 (lineNat u .tag 0)).2 [.err 9 []])
        ∧ (f.body.length = 384 → setRises f.body = true →
          ∃ st, Replies (.twinsetLoad t u) u s
              { (s.takeInput 0x21 (lineNat u .tag 0)).2 with settings := { s.settings with stagedSets := st } } [.ok [("staged", .flag)]]
            ∧ st.find? (fun p => p.1 = lineNat u .set 0) = some (lineNat u .set 0, f.body)
            ∧ ∀ k, k ≠ lineNat u .set 0 → st.find? (fun p => p.1 = k) = s.settings.stagedSets.find? (fun p => p.1 = k)))

/-- With no earlier request waiting. A request for a stream that an admitted charge names waits. CREATE: STATE for a slot that can have no
stream or the errors of R139; else the stream is PARKED in the slot with the next generation, an image of zeros and the given mode,
liveness and seed. FREE: NOTFOUND, STATE while a request has taken it or its record waits for its restore, else FREE with its generation kept. EXPORT and COPY: NOTFOUND,
STATE for reset-mask and for one that waits for its restore; with room on ring 4 the CARD frame is announced, and the stream is EXPORTED after an export and PARKED after a copy;
without room the frame and the reply are held. IMPORT: NOFRAME, STATE, CARD, LAYOUT, NOPAGES, MIRROR; else PARKED with the card's image
under the next generation. No other stream changes. When these are tested is the reading of log entry 97. -/
def Obligations.StreamForms : Prop :=
  ∀ (t : Tick) (u : Line) (s : State), s.sound = true → s.waits = [] →
    let k := lineNat u .sid 0
    (∀ c a, s.Clear c → s.streamBusy k = true →
        ((c = .streamCreate t u ∧ a = .created (lineNat u .slot 0) (lineKw u .mode .portable) (lineOn u .live false) (BitVec.ofNat 64 (lineNat u .seed 0)))
          ∨ (c = .streamFree t u ∧ a = .free)
          ∨ (c = .streamExport t u ∧ a = .card false (lineNat u .tag 0)) ∨ (c = .streamCopy t u ∧ a = .card true (lineNat u .tag 0))) →
      Answers c s fun n => Waits s n u ∧ n.waits = [{ sid := k, act := a, ses := u.ses, lineNo := (s.ses u.ses).lines }] ∧ n.streams = s.streams
        ∧ n.port = s.port)
    ∧ (s.streamBusy k = false →
      (s.Clear (.streamCreate t u) →
        let slot := lineNat u .slot 0
        let live := lineOn u .live false
        (s.noImage slot live = true → Replies (.streamCreate t u) u s s [.err 11 []])
        ∧ ∀ f, s.noImage slot live = false → s.folio? slot = some f →
          (∀ e, s.createFault f k slot live = some e → Replies (.streamCreate t u) u s s [.err e []])
          ∧ (s.createFault f k slot live = none → ∃ e : State, ∃ x : StreamSt,
              Replies (.streamCreate t u) u s e [.ok [("gen", .nat x.gen.toNat), ("pages", .nat x.pages)]]
                ∧ e.stream k = x ∧ x.place = .parked ∧ x.slot = slot ∧ x.gen = nextGen (s.stream k).gen
                ∧ x.committed = newImage f k slot x.gen (lineKw u .mode .portable) live (BitVec.ofNat 64 (lineNat u .seed 0))
                ∧ x.ledger = x.committed ∧ (∀ j, j ≠ k → e.stream j = s.stream j) ∧ e.stackList = s.stackList ∧ e.requests = s.requests))
      ∧ (s.Clear (.streamFree t u) →
        (s.awaitsRestore k = true → Replies (.streamFree t u) u s s [.err 11 []])
        ∧ (s.awaitsRestore k = false → s.hasStream k = false → Replies (.streamFree t u) u s s [.err 15 []])
        ∧ (s.hasStream k = true → s.sidTaken k = true → Replies (.streamFree t u) u s s [.err 11 []])
        ∧ (s.hasStream k = true → s.sidTaken k = false → ∃ e : State, Replies (.streamFree t u) u s e [.ok []]
            ∧ e.stream k = { sid := k, gen := (s.stream k).gen } ∧ (∀ j, j ≠ k → e.stream j = s.stream j) ∧ e.stackList = s.stackList))
      ∧ (∀ c copy, (c = .streamExport t u ∧ copy = false) ∨ (c = .streamCopy t u ∧ copy = true) → s.Clear c →
        (s.awaitsRestore k = true → Replies c u s s [.err 11 []])
        ∧ (s.awaitsRestore k = false → s.hasStream k = false → Replies c u s s [.err 15 []])
        ∧ (s.hasStream k = true → (s.stream k).committed.portable = false → Replies c u s s [.err 11 []])
        ∧ (s.awaitsRestore k = false → s.hasStream k = true → (s.stream k).committed.portable = true → s.port.rings.length = 6 → (s.ring 4).held = [] →
          let f := s.cardFrame copy (lineNat u .tag 0) { (s.stream k) with sid := k }
          (s.hasRoom 4 f.payload.length = true → Answers c s fun n =>
            Ends s n u [.ok (("gen", .nat (s.stream k).gen.toNat) :: if copy then [("step", .nat (s.stream k).committed.step.toNat)] else [])]
              ∧ (n.ring 4).seq = ((s.ring 4).seq + 1) % 2 ^ 32 ∧ n.port.regs.irq.getLsbD 5 = true ∧ n.waits = []
              ∧ (n.stream k).place = (if copy then .parked else .exported) ∧ (n.stream k).gen = (s.stream k).gen
              ∧ (copy = true → (n.stream k).committed = (s.stream k).committed) ∧ (∀ j, j ≠ k → n.stream j = s.stream j))
          ∧ (s.hasRoom 4 f.payload.length = false → Answers c s fun n =>
              Waits s n u ∧ (n.ring 4).held = [f] ∧ (n.ring 4).seq = (s.ring 4).seq ∧ (n.stream k).place = .parked
                ∧ n.waits = [{ sid := k, act := .sent copy (s.stream k).gen.toNat (s.stream k).committed.step.toNat, ses := u.ses
                               lineNo := (s.ses u.ses).lines }] ∧ ∀ j, j ≠ k → n.stream j = s.stream j)))
      ∧ (s.Clear (.streamImport t u) →
        let slot := lineNat u .slot 0
        let live := lineOn u .live false
        let g := s.takeInput 0x20 (lineNat u .tag 0)
        (g.1 = none → Replies (.streamImport t u) u s g.2 [.err 23 []])
        ∧ ∀ c, g.1 = some c →
          (s.noImage slot live = true → Replies (.streamImport t u) u s g.2 [.err 11 []])
          ∧ ∀ f, s.noImage slot live = false → s.folio? slot = some f →
            (∀ l, s.importFault f k slot live c.body = some l → Replies (.streamImport t u) u s g.2 [l])
            ∧ (s.importFault f k slot live c.body = none → ∃ e : State, ∃ x : StreamSt,
                Replies (.streamImport t u) u s e [.ok [("gen", .nat x.gen.toNat)]]
                  ∧ e.stream k = x ∧ x.place = .parked ∧ x.slot = slot ∧ x.gen = nextGen (s.stream k).gen
                  ∧ x.committed = { Image.ofBytes f.stateLayers c.body with sid := k, patron := slot, live := live, gen := x.gen }
                  ∧ (∀ j, j ≠ k → e.stream j = s.stream j) ∧ e.stackList = s.stackList)))

/-- FOLIO WRITE copies the body of its frame into the staging area at an offset that is a multiple of 64; RANGE and NOFRAME elsewhere.
FOLIO INSTALL: a failed check is answered AUTH or MALFORMED and stores nothing; a folio of the same identity is replaced in place when the
digests agree and STATE when they differ; STATE with 32 installed; else it is stored. FOLIO DELETE is STATE while the folio is bound, the
draft's parent, or to be lent by an accepted promotion. BIND binds an installed folio of the slot's kind to a slot that is not lent; UNBIND frees the slot and returns its
pages, OK for an empty slot, STATE while it is lent or holds a stream; both BUSY while a request of the slot is open. NOTFOUND of BIND and
DELETE is the reading of log entry 98. -/
def Obligations.FolioForms : Prop :=
  ∀ (t : Tick) (u : Line) (s : State), s.sound = true →
    (s.Clear (.folioWrite t u) →
      let off := lineNat u .offset 0
      let g := s.takeInput 0x21 (lineNat u .tag 0)
      (off % 64 ≠ 0 → Replies (.folioWrite t u) u s s [.err 9 []])
      ∧ (off % 64 = 0 →
        (g.1 = none → Replies (.folioWrite t u) u s g.2 [.err 23 []])
        ∧ ∀ f, g.1 = some f →
          (50331648 < off + f.body.length → Replies (.folioWrite t u) u s g.2 [.err 9 []])
          ∧ (off + f.body.length ≤ 50331648 → Replies (.folioWrite t u) u s
              { g.2 with archive := { s.archive with staging := memWrite s.archive.staging off f.body } } [.ok [("next", .nat (off + f.body.length))]])))
    ∧ (∀ f, s.Clear (.folioInstall t u f) →
      let b := memRead s.archive.staging 0 (lineNat u .length 0)
      let ok : List HubLine := [.ok [("folio", .hex f.fid.toNat 8), ("kind", .word (kindName f.kind)), ("wdigest", .bytes (f.wdigest.take 8))]]
      (∀ e, s.installFault b f = some e → (e = 25 ∨ e = 26) ∧ Replies (.folioInstall t u f) u s s [.err e []])
      ∧ (b.length < 128 → s.installFault b f = some 26)
      ∧ (s.installFault b f = none →
          weightDigest f.weightLines = f.wdigest ∧ f.rsZero = true ∧ f.tablesOk = true
            ∧ ed25519Verifies (s.fuseKey (Envelope.ofBytes b).keyslot) (b.take 64 ++ b.drop 128) (Envelope.ofBytes b).sig = true
            ∧ (s.folioSt? f.fid = none →
              (32 ≤ s.archive.folios.length → Replies (.folioInstall t u f) u s s [.err 11 []])
              ∧ (s.archive.folios.length < 32 → Replies (.folioInstall t u f) u s
                  { s with archive := { s.archive with folios := s.archive.folios ++ [{ info := f }] } } ok))
            ∧ ∀ old, s.folioSt? f.fid = some old →
              (old.info.wdigest ≠ f.wdigest → Replies (.folioInstall t u f) u s s [.err 11 []])
              ∧ (old.info.wdigest = f.wdigest → ∃ fs, Replies (.folioInstall t u f) u s { s with archive := { s.archive with folios := fs } } ok
                  ∧ fs.length = s.archive.folios.length ∧ fs.find? (fun x => x.info.fid == f.fid) = some { info := f, promoted := old.promoted }
                  ∧ ∀ fid, fid ≠ f.fid → fs.find? (fun x => x.info.fid == fid) = s.folioSt? fid)))
    ∧ (s.Clear (.folioDelete t u) →
      let fid := BitVec.ofNat 32 (lineNat u .folio 0)
      (s.folioSt? fid = none → Replies (.folioDelete t u) u s s [.err 15 []])
      ∧ (s.folioSt? fid ≠ none →
        (((∃ p ∈ s.patrons, p.folio = some fid) ∨ (∃ d, s.draft = some d ∧ d.parent = fid) ∨ ∃ c ∈ s.changes, c.fid = some fid) → Replies (.folioDelete t u) u s s [.err 11 []])
        ∧ ((∀ p ∈ s.patrons, p.folio ≠ some fid) → (∀ d, s.draft = some d → d.parent ≠ fid) → (∀ c ∈ s.changes, c.fid ≠ some fid) →
          Replies (.folioDelete t u) u s
            { s with archive := { s.archive with folios := s.archive.folios.filter fun x => x.info.fid != fid } } [.ok []])))
    ∧ (s.patrons.length = 16 →
      let p := lineNat u .slot 0
      (s.Clear (.bindFolio t u) →
        (s.folioSt? (BitVec.ofNat 32 (lineNat u .folio 0)) = none → Replies (.bindFolio t u) u s s [.err 15 []])
        ∧ ∀ x, s.folioSt? (BitVec.ofNat 32 (lineNat u .folio 0)) = some x →
          (∀ r, s.openReq? p = some r → Replies (.bindFolio t u) u s s [.err 14 [("slot", .nat r.slot), ("req", .nat r.num)]])
          ∧ (s.openReq? p = none →
            ((x.info.kind ≠ slotKind p ∨ s.slotLent p = true) → Replies (.bindFolio t u) u s s [.err 11 []])
            ∧ (x.info.kind = slotKind p → s.slotLent p = false → Answers (.bindFolio t u) s fun n =>
                Said s n u [.ok []] ∧ (n.patron p).folio = some x.info.fid ∧ (n.patron p).pages = (s.patron p).pages
                  ∧ (∀ q, q ≠ p → n.patron q = s.patron q) ∧ n.streams = s.streams ∧ n.stackList = s.stackList
                  ∧ n.archive.folios = s.archive.folios ∧ (s.keptPlaced = true → p < 4 → (p, x.info.fid) ∈ n.archive.bindings))))
      ∧ (s.Clear (.unbind t u) →
        ((s.patron p).folio = none → Replies (.unbind t u) u s s [.ok []])
        ∧ ((s.patron p).folio ≠ none →
          (∀ r, s.openReq? p = some r → Replies (.unbind t u) u s s [.err 14 [("slot", .nat r.slot), ("req", .nat r.num)]])
          ∧ (s.openReq? p = none →
            ((s.slotLent p = true ∨ ∃ x ∈ s.streams, x.slot = p ∧ (x.place = .parked ∨ x.place = .resident)) →
              Replies (.unbind t u) u s s [.err 11 []])
            ∧ (s.slotLent p = false → (∀ x ∈ s.streams, x.slot = p → x.place ≠ .parked ∧ x.place ≠ .resident) →
              Answers (.unbind t u) s fun n =>
                Said s n u [.ok []] ∧ (n.patron p).folio = none ∧ (n.patron p).pages = 0 ∧ (∀ q, q ≠ p → n.patron q = s.patron q)
                  ∧ n.streams = s.streams ∧ n.stackList = s.stackList)))))

/-- LOAN: RANGE for claim= of class 2 or 3, STATE without a folio, NOPAGES beyond the lendable pages, NOPLACE where no stacks suit; else
changes that begin at the stamp of R26 are accepted, one for each stack, that take free whole stacks, or in the expert form with less than
48 regions the named one, which a folio with paired layers cannot take alone, with the pages in all as asked. RELEASE and MOVE likewise. PROMOTE: RANGE, BUSY, or the error of R259; with a partner that has not
reported the publication it waits; else the folio is stored, its change accepted, and it is the draft's parent. DRAFT DISCARD drops the
draft. The successes stated are those of a hub without a partner or, for loans, of the slots from 4 on, which forward nothing. The errors
of RELEASE and of a second PROMOTE are the readings of log entry 99. -/
def Obligations.LoanForms : Prop :=
  ∀ (t : Tick) (u : Line) (s : State), s.sound = true →
    let p := lineNat u .slot 0
    let b := (s.advance t).atStamp
    (s.Clear (.loan t u) →
      let n := lineNat u .stackCount 1
      let pages := lineNat u .pages 0
      (lineHas u .claim = true → 2 ≤ classOf p → Replies (.loan t u) u s s [.err 9 []])
      ∧ ((lineHas u .claim = false ∨ classOf p < 2) →
        (s.folio? p = none → Replies (.loan t u) u s s [.err 11 []])
        ∧ ∀ f, s.folio? p = some f →
          (s.pagesUnlent < pages → Replies (.loan t u) u s s [.err 17 []])
          ∧ (pages ≤ s.pagesUnlent →
            ((∀ a ∈ [Arg.stack, .regions, .blocks, .claim], lineHas u a = false) →
              (s.wholeStacks f b n = none → Replies (.loan t u) u s s [.err 16 []])
              ∧ (∀ ks, s.wholeStacks f b n = some ks →
                (∀ k ∈ ks, k < 4 ∧ s.freeAt f b k = true) ∧ n ≤ ks.length
                  ∧ (s.folioFits p f (ks.map fun k => (k, 48)) = false → Replies (.loan t u) u s s [.err 16 []])
                  ∧ (s.folioFits p f (ks.map fun k => (k, 48)) = true → (4 ≤ p ∨ s.spine.partner = false) →
                    ∃ ch : List LoanChange, Replies (.loan t u) u s { s with changes := s.changes ++ ch }
                        [.ok [("at", .nat b.toNat), ("stacks", .hex (ks.map fun k => 2 ^ k).sum 1)]]
                      ∧ ch.map (·.stack) = ks ∧ (ch.map (·.pages)).sum = pages
                      ∧ ∀ c ∈ ch, c.slot = p ∧ c.lend = true ∧ c.begins = b ∧ c.regions = 48 ∧ c.blocks = 48 ∧ c.moveFrom = none)))
            ∧ (∀ k, lineVal u .stack = some (.int (k : Nat)) → lineHas u .stackCount = false → lineNat u .regions 48 < 48 →
              ((s.mirrors p k = true ∨ s.shareFits p k (lineNat u .regions 48) (lineNat u .blocks 48) (lineNat u .claim 0) = false
                  ∨ ((s.stk k).annexOk = false ∧ folioWide f = true)) → Replies (.loan t u) u s s [.err 16 []])
              ∧ (s.mirrors p k = false → s.shareFits p k (lineNat u .regions 48) (lineNat u .blocks 48) (lineNat u .claim 0) = true →
                  ((s.stk k).annexOk = true ∨ folioWide f = false) →
                (∀ x, s.slackFault k p f = some x → Replies (.loan t u) u s s [.err 16 [("slack", .nat x)]])
                ∧ (s.slackFault k p f = none → folioPaired f = true → Replies (.loan t u) u s s [.err 16 []])
                ∧ (s.slackFault k p f = none → folioPaired f = false → s.folioFits p f [(k, lineNat u .regions 48)] = true → (4 ≤ p ∨ s.spine.partner = false) →
                  Replies (.loan t u) u s
                    { s with changes := s.changes ++ [{
                        begins := b, slot := p, stack := k, lend := true, regions := lineNat u .regions 48, blocks := lineNat u .blocks 48
                        claim := lineNat u .claim 0, pages := pages }] }
                    [.ok [("at", .nat b.toNat), ("stacks", .hex (2 ^ k) 1)]])))))) 
    ∧ (s.Clear (.release t u) →
      let ks := (if lineHas u .stack then [lineNat u .stack 0] else List.range 4).filter (s.heldBy p)
      (ks = [] → Replies (.release t u) u s s [.err 11 []])
      ∧ (ks ≠ [] → (4 ≤ p ∨ s.spine.partner = false) → Replies (.release t u) u s
          { s with changes := s.changes ++ ks.map fun k => { begins := b, slot := p, stack := k, lend := false } } [.ok [("at", .nat b.toNat)]]))
    ∧ (s.Clear (.move t u) →
      let src := lineNat u .fromStack 0
      (((s.stk src).lentTo p = false ∨ s.heldBy p src = false ∨ (∃ c ∈ s.changes, c.moveFrom = some src) ∨ s.folio? p = none) →
        Replies (.move t u) u s s [.err 11 []])
      ∧ ∀ f, (s.stk src).lentTo p = true → s.heldBy p src = true → (∀ c ∈ s.changes, c.moveFrom ≠ some src) → s.folio? p = some f →
        let fits : Nat → Bool := fun k => s.freeAt f b k && s.movable p src f
        ((∀ k < 4, fits k = false) → Replies (.move t u) u s s [.err 16 []])
        ∧ ∀ k, k < 4 → fits k = true → (∀ j < k, fits j = false) → s.spine.partner = false → Replies (.move t u) u s
            { s with changes := s.changes ++ [{
                begins := b, slot := p, stack := k, lend := true, regions := 48, blocks := 48, moveFrom := some src }] }
            [.ok [("at", .nat b.toNat), ("to", .nat k)]])
    ∧ (s.Clear (.promote t u) →
      let pub := lineNat u .pub 0
      (p ≠ 1 → p < 4 → Replies (.promote t u) u s s [.err 9 []])
      ∧ ((p = 1 ∨ 4 ≤ p) →
        (s.promotion ≠ none → Replies (.promote t u) u s s [.err 14 []])
        ∧ (s.promotion = none →
          (∀ e, (s.advance t).promoteFault pub p = some e → Replies (.promote t u) u s s [.err e []])
          ∧ ((s.advance t).promoteFault pub p = none →
            (s.spine.partner = true → s.spine.partnerPub ≠ pub → Answers (.promote t u) s fun n => Waits s n u
              ∧ n.promotion = some { pub := pub, slot := p, since := s.at t, ses := u.ses, lineNo := (s.ses u.ses).lines } ∧ n.changes = s.changes)
            ∧ (s.spine.partner = false → ∃ c : LoanChange, ∃ fid : BitVec 32, Answers (.promote t u) s fun n =>
                Said s n u [.ok [("at", .nat b.toNat), ("folio", .hex fid.toNat 8)]] ∧ n.changes = s.changes ++ [c] ∧ n.promotion = none
                  ∧ c.slot = p ∧ c.lend = true ∧ c.begins = b ∧ c.fid = some fid
                  ∧ (∃ x ∈ n.archive.folios, x.info.fid = fid ∧ x.promoted = true)
                  ∧ n.draft.map (·.parent) = if p = 1 then some fid else s.draft.map (·.parent))))))
    ∧ (s.Clear (.draftDiscard t u) →
      (s.draft = none → Replies (.draftDiscard t u) u s s [.err 11 []])
      ∧ (s.draft ≠ none → Replies (.draftDiscard t u) u s { s with draft := none, archive := { s.archive with draft := none } } [.ok []]))

/-- A request is STATE without a suitable folio or a stack, BUSY with the open request of its slot or with 32 open, and the refusal makes
no request. A request that is accepted takes the next number, begins at the stamp of R26 and is last in the list. ROLLOUT: ARG or MISSING
unless exactly one of seg= and plan= is given, NOFRAME or RANGE for a plan that is missing or malformed; its horizon is the sum of its
segments and at most 1,440,000 steps, its cells are live streams and its copies FREE identifiers. REGENERATE: NOFRAME, LAYOUT, CARD, RANGE,
NOIDS, STATE without pages, or a working stream in the highest FREE identifier. JOB: NOFRAME, also for a TENSOR frame whose body is not its rows, or the input, of a REQIN or a TENSOR frame, is
kept, with the rows, the range step and the format of the TENSOR frame. CANCEL: NOTFOUND, STATE for a request that has ended, else it is CANCELLED. What a rollout
holds and the errors of a regeneration are the readings of log entries 100 and 101. -/
def Obligations.RequestForms : Prop :=
  ∀ (t : Tick) (u : Line) (s : State), s.sound = true →
    let p := lineNat u .slot 0
    let b := (s.advance t).atStamp
    (∀ suits : FolioInfo → Bool,
      (((∀ f, s.folio? p = some f → suits f = false) ∨ s.holdsStack p = false) → s.requestFault p suits = some (.err 11 []))
      ∧ ∀ f, s.folio? p = some f → suits f = true → s.holdsStack p = true →
        (∀ r, s.openReq? p = some r → s.requestFault p suits = some (.err 14 [("slot", .nat r.slot), ("req", .nat r.num)]))
        ∧ (s.openReq? p = none → s.requestFault p suits =
            if 32 ≤ (s.requests.filter Request.isOpen).length then some (.err 14 []) else none))
    ∧ (∀ c suits l, s.Clear c → ((c = .rollout t u ∧ suits = (fun f : FolioInfo => f.rollout) ∧ (lineHas u .seg != lineHas u .plan) = true)
          ∨ (c = .regenerate t u ∧ suits = fun f : FolioInfo => !f.rollout && !f.stateLayers.isEmpty) ∨ (c = .job t u ∧ suits = fun f : FolioInfo => !f.rollout)) →
        s.requestFault p suits = some l →
      Answers c s fun n => Said s n u [l] ∧ n.requests = s.requests ∧ n.nextReq = s.nextReq ∧ n.streams = s.streams ∧ n.port.rings = s.port.rings)
    ∧ (s.Clear (.rollout t u) →
      (lineHas u .seg = true → lineHas u .plan = true → Replies (.rollout t u) u s s [.err 7 []])
      ∧ (lineHas u .seg = false → lineHas u .plan = false → Replies (.rollout t u) u s s [.err 8 []])
      ∧ ∀ f, s.folio? p = some f → s.requestFault p (·.rollout) = none →
        (∀ qs, lineVal u .seg = some (.segs qs) → lineHas u .plan = false →
          (∀ e, (s.advance t).rollRequest u f qs = .error e → Replies (.rollout t u) u s s [.err e []])
          ∧ (1440000 < (qs.map (·.steps)).sum → (s.advance t).rollRequest u f qs = .error 9)
          ∧ ∀ r, (s.advance t).rollRequest u f qs = .ok r →
            Replies (.rollout t u) u s { s with requests := s.requests ++ [r], nextReq := nextNum s.nextReq }
                [.ok [("req", .nat s.nextReq), ("at", .nat b.toNat), ("horizon", .nat (qs.map (·.steps)).sum)]]
              ∧ r.num = s.nextReq ∧ r.slot = p ∧ r.kind = .rollout ∧ r.begins = b ∧ r.segs = qs ∧ r.total = (qs.map (·.steps)).sum
              ∧ r.total ≤ 1440000 ∧ ∀ x ∈ r.cells, x.sid ∈ s.liveStreams 1 ∧ (s.stream x.copy).place = .free)
        ∧ (lineHas u .seg = false → lineHas u .plan = true →
          let g := s.takeInput 0x21 (lineNat u .plan 0)
          (g.1 = none → Replies (.rollout t u) u s g.2 [.err 23 []])
          ∧ ∀ c, g.1 = some c →
            ((planSegs 65 c.body = none ∨ planSegs 65 c.body = some []) → Replies (.rollout t u) u s g.2 [.err 9 []])
            ∧ ∀ qs, planSegs 65 c.body = some qs → 1 ≤ qs.length → qs.length ≤ 64 →
              (∀ e, (s.advance t).rollRequest u f qs = .error e → Replies (.rollout t u) u s g.2 [.err e []])
              ∧ ∀ r, (s.advance t).rollRequest u f qs = .ok r →
                Replies (.rollout t u) u s { g.2 with requests := s.requests ++ [r], nextReq := nextNum s.nextReq }
                  [.ok [("req", .nat s.nextReq), ("at", .nat b.toNat), ("horizon", .nat (qs.map (·.steps)).sum)]]))
    ∧ (s.Clear (.regenerate t u) → ∀ f, s.folio? p = some f → s.requestFault p (fun f => !f.rollout && !f.stateLayers.isEmpty) = none →
      let g := s.takeInput 0x20 (lineNat u .card 0)
      (g.1 = none → Replies (.regenerate t u) u s g.2 [.err 23 []])
      ∧ ∀ c, g.1 = some c →
        (cardFault f c.body = some .layout → Replies (.regenerate t u) u s g.2 [.err 19 []])
        ∧ (∀ w, cardFault f c.body = some (.check w) → Replies (.regenerate t u) u s g.2 [.err 22 [("check", .word w)]])
        ∧ (cardFault f c.body = none →
          let h := g.2.takeInput 0x21 (lineNat u .input 0)
          (h.1 = none → Replies (.regenerate t u) u s h.2 [.err 23 []])
          ∧ ∀ i, h.1 = some i →
            (regenOk i.body = false → Replies (.regenerate t u) u s h.2 [.err 9 []])
            ∧ (regenOk i.body = true →
              (s.freeIds = [] → Replies (.regenerate t u) u s h.2 [.err 28 []])
              ∧ ∀ k, s.freeIds.head? = some k → (s.stream k).place = .free
                ∧ (s.pagesFree p < (s.regenStream f k p c.body).pages → Replies (.regenerate t u) u s h.2 [.err 11 []])
                ∧ ((s.regenStream f k p c.body).pages ≤ s.pagesFree p →
                ∃ e : State, ∃ r : Request, Replies (.regenerate t u) u s e [.ok [("req", .nat s.nextReq), ("at", .nat b.toNat)]]
                  ∧ e.requests = s.requests ++ [r] ∧ e.nextReq = nextNum s.nextReq ∧ r.num = s.nextReq ∧ r.slot = p ∧ r.kind = .regenerate
                  ∧ r.begins = b ∧ r.copy = some k ∧ r.input = i.body ∧ (e.stream k).held = true
                  ∧ (e.stream k).committed.portable = false ∧ ∀ j, j ≠ k → e.stream j = s.stream j))))
    ∧ (s.Clear (.job t u) → s.requestFault p (fun f => !f.rollout) = none →
      let r : Request := { num := s.nextReq, slot := p, kind := .job, begins := b, seed := BitVec.ofNat 64 (lineNat u .seed 0) }
      let g := s.takeInputOf [0x21, 0x22] (lineNat u .input 0)
      ((lineHas u .input = false ∨ lineVal u .input = some (.kw .none)) →
        Replies (.job t u) u s { s with requests := s.requests ++ [r], nextReq := nextNum s.nextReq } [.ok [("req", .nat s.nextReq), ("at", .nat b.toNat)]])
      ∧ (lineHas u .input = true → lineVal u .input ≠ some (.kw .none) →
        (g.1 = none → Replies (.job t u) u s g.2 [.err 23 []])
        ∧ ∀ f, g.1 = some f →
          (f.ftype = 0x22 → f.whole = false → Replies (.job t u) u s g.2 [.err 23 []])
          ∧ (∀ rows kstep wide, (f.ftype ≠ 0x22 ∧ rows = 0 ∧ kstep = 0 ∧ wide = false)
              ∨ (f.ftype = 0x22 ∧ f.whole = true ∧ rows = f.count ∧ kstep = f.kstep ∧ wide = (f.kind == 1)) →
            Replies (.job t u) u s
              { g.2 with
                  requests := s.requests ++ [{ r with input := f.body, rows := rows, kstep := kstep, wide := wide }]
                  nextReq := nextNum s.nextReq }
              [.ok [("req", .nat s.nextReq), ("at", .nat b.toNat)]])))
    ∧ (s.Clear (.cancel t u) →
      (s.req? (lineNat u .req 0) = none → Replies (.cancel t u) u s s [.err 15 []])
      ∧ ∀ r, s.req? (lineNat u .req 0) = some r →
        (r.isOpen = false → Replies (.cancel t u) u s s [.err 11 []])
        ∧ (r.isOpen = true → Answers (.cancel t u) s fun n => Ends s n u [.ok []]
            ∧ n.requests = s.requests.map (fun x => if x.num = r.num then { x with state := .cancelled } else x) ∧ n.nextReq = s.nextReq
            ∧ ∀ c ∈ n.charges, c ∈ s.charges))

/-- PORT RESTORE of a port without fault is STATE; else it returns at the stamp of R26 and the mode is decided. SCRIPT LOAD: a missing or
a misplaced centre is MISSING or ARG, no frame NOFRAME, a body too long or with lengths that do not end at its last byte RANGE; else it is
staged. SPINE KEY is STATE while spine.secure is ON, and RANGE unless 32 bytes. ROLE YIELD is STATE but on a primary with an aligned
standby, where the hub yields and says so on the spine. INVENTORY is EXPERT in DEPLOYED for a basic session and STATE for a stack not
free. LECTERN outside MANUFACTURE and RETURNED refuses the full signals. LIFE moves to the next state alone, with the run number, at the
next boundary or, in BLANK, at once. ROLE YIELD's boundary, LIFE's and SCRIPT LOAD's ARG are readings of log entries 102 to 104. -/
def Obligations.HubForms : Prop :=
  ∀ (t : Tick) (u : Line) (s : State), s.sound = true →
    let b := (s.advance t).atStamp
    (s.Clear (.portRestore t u) →
      ((s.port? (linePort u)).fault = none → Replies (.portRestore t u) u s s [.err 11 []])
      ∧ ((s.port? (linePort u)).fault ≠ none → Replies (.portRestore t u) u s
          { s with air := { s.air with
              ports := s.air.ports.modify (linePort u) fun p => { p with restoreAt := p.restoreAt ++ [b] }
              modeAt := s.air.modeAt ++ [b] } }
          [.ok [("at", .nat b.toNat)]]))
    ∧ (s.Clear (.scriptLoad t u) →
      let tune := lineKw u .kind .tune
      let g := s.takeInput 0x21 (lineNat u .tag 0)
      let c := if tune then some (lineNat u .centre 0) else none
      (tune = true → lineHas u .centre = false → Replies (.scriptLoad t u) u s s [.err 8 []])
      ∧ (tune = false → lineHas u .centre = true → Replies (.scriptLoad t u) u s s [.err 7 []])
      ∧ (lineHas u .centre = tune →
        (g.1 = none → Replies (.scriptLoad t u) u s g.2 [.err 23 []])
        ∧ ∀ f, g.1 = some f →
          (((if tune then 32 else 1024) < f.body.length ∨ scriptEnds f.body.length f.body = false) →
            Replies (.scriptLoad t u) u s g.2 [.err 9 []])
          ∧ (f.body.length ≤ (if tune then 32 else 1024) → scriptEnds f.body.length f.body = true → ∃ st,
              Replies (.scriptLoad t u) u s { g.2 with settings := { s.settings with stagedScripts := st } } [.ok [("staged", .flag)]]
                ∧ st.find? (fun y => y.1 == linePort u && y.2.1 == c) = some (linePort u, c, f.body)
                ∧ ∀ x d, (x ≠ linePort u ∨ d ≠ c) →
                    st.find? (fun y => y.1 == x && y.2.1 == d) = s.settings.stagedScripts.find? (fun y => y.1 == x && y.2.1 == d))))
    ∧ (s.Clear (.spineKey t u) →
      let g := s.takeInput 0x21 (lineNat u .tag 0)
      (s.getN .spineSecure = 1 → Replies (.spineKey t u) u s s [.err 11 []])
      ∧ (s.getN .spineSecure ≠ 1 →
        (g.1 = none → Replies (.spineKey t u) u s g.2 [.err 23 []])
        ∧ ∀ f, g.1 = some f →
          (f.body.length ≠ 32 → Replies (.spineKey t u) u s g.2 [.err 9 []])
          ∧ (f.body.length = 32 → Replies (.spineKey t u) u s { g.2 with archive := { s.archive with spineKey := some f.body } } [.ok []])))
    ∧ (s.Clear (.roleYield t u) →
      ((s.roleSt.role ≠ .primary ∨ s.spine.state ≠ .up ∨ s.spine.partnerRole ≠ some .standby ∨ s.spine.partnerUnaligned ≠ 0) →
        Replies (.roleYield t u) u s s [.err 11 []])
      ∧ (s.roleSt.role = .primary → s.roleSt.decided = true → s.spine.state = .up → s.spine.partnerRole = some .standby →
          s.spine.partnerUnaligned = 0 →
        let y := if s.spine.nextBeat + 500 * usTicks ≤ s.nextBoundary then s.stamp.number + 1 else s.stamp.number + 2
        Answers (.roleYield t u) s fun n => Ends s n u [.ok [("at", .nat y.toNat)]] ∧ n.roleSt.role = .yielding ∧ n.roleSt.yieldAt = some y
          ∧ n.spine.sent = s.spine.sent ++ [{ seq := s.spine.txSeq + 1, stamp := s.stamp.number, msg := .role .yield }]
          ∧ n.port.regs.irq.getLsbD 11 = true ∧ n.settings = s.settings ∧ n.streams = s.streams))
    ∧ (s.Clear (.inventory t u) → s.stackList.length = 4 →
      let k := lineNat u .stack 0
      (lifeIndex s.life = 3 → (s.ses u.ses).expert = false → Replies (.inventory t u) u s s [.err 10 []])
      ∧ ((lifeIndex s.life ≠ 3 ∨ (s.ses u.ses).expert = true) →
        ((s.mayInventory k = false ∨ s.invBusy = true) → Replies (.inventory t u) u s s [.err 11 []])
        ∧ (s.mayInventory k = true → s.invBusy = false → Answers (.inventory t u) s fun n => Said s n u [.ok [("at", .nat b.toNat)]]
            ∧ n.stk k = { s.stk k with invDue := some b } ∧ (∀ j, j ≠ k → n.stk j = s.stk j) ∧ n.settings = s.settings
            ∧ ∀ h, s.get .inventorySchedule = some h → ∀ a, (k, a) ∈ n.steward.invAt → a = s.at t + h.toNat * 3600000 * msTicks)))
    ∧ (∀ x y : Nat, s.Clear (.lectern t u) → lineVal u .sel0 = some (.sel x) → lineVal u .sel1 = some (.sel y) →
      ((6 ≤ x ∨ 6 ≤ y) → lifeIndex s.life ≠ 1 → lifeIndex s.life ≠ 4 → Replies (.lectern t u) u s s [.err 11 []])
      ∧ (((x < 6 ∧ y < 6) ∨ lifeIndex s.life = 1 ∨ lifeIndex s.life = 4) → Replies (.lectern t u) u s
          { s with test := { s.test with lect0 := lectSig x, lect1 := lectSig y } } [.ok []]))
    ∧ (∀ k d, s.Clear (.life t u) → lineVal u .dest = some (.kw k) →
        (k, d) ∈ [(Kw.manufacture, 1), (Kw.provisioned, 2), (Kw.deployed, 3), (Kw.returned, 4)] →
      (d ≠ lifeIndex s.life + 1 → Replies (.life t u) u s s [.err 11 []])
      ∧ (d = lifeIndex s.life + 1 →
        (lineVal u .confirm ≠ some (.int s.stamp.run.toNat) → Replies (.life t u) u s s [.err 9 []])
        ∧ (lineVal u .confirm = some (.int s.stamp.run.toNat) →
          (d = 2 → s.provisionable = false → Replies (.life t u) u s s [.err 11 []])
          ∧ (d = 4 → s.roleSt.leads = true → s.nodes ≠ [] → Replies (.life t u) u s s [.err 11 []])
          ∧ ((d = 2 → s.provisionable = true) → (d = 4 → s.roleSt.leads = true → s.nodes = []) →
            (s.blank = false → Replies (.life t u) u s { s with test := { s.test with lifeDue := s.test.lifeDue ++ [(d, b)] } } [.ok [("at", .nat b.toNat)]])
            ∧ (s.blank = true → Answers (.life t u) s fun n => n.life = 1 ∧ n.out = Out.usith u.ses u.tag (.ok [("at", .nat 0)]) :: s.out
                ∧ n.power.bootRead = false ∧ n.power.porter = true ∧ n.archive = { s.archive with powerUps := s.archive.powerUps + 1 })))))

/-- With every rail good. IDCODE shifts out the 32 bits of its word in every state. In MANUFACTURE and RETURNED, EXTEST and SAMPLE/PRELOAD
shift through the boundary register, which has captured one bit a cell, CLAMP and HIGHZ select bypass and hold the pins, FUSEREAD shifts out the
1,344 fuse bits, and FUSEPROG blows each bit shifted in as 1, in RETURNED those of REVOKE alone; elsewhere all of these select bypass, change no fuse
and leave the pins to the hub, also an instruction loaded before the state moved. BYPASS captures 0
and delays by one bit. Unpowered, nothing happens. TRST_N low resets the port to IDCODE. A scan changes nothing but the port, the fuses
and the count of free values. On a powered part without a scan's drive each pin that Table 15.7 names shows, while RST_N is low, its state of that table; a pin of an
unpowered bank shows nothing. What a scan command is, and the cells' order, is the choice of log entry 45, when a bank is powered that of 160; the
captured pins are free. -/
def Obligations.ScanForms : Prop :=
  ∀ (t : Tick) (tdi : Bits) (v : BitVec 1344) (s : State), s.sound = true →
    let onlyTest : State → TestSt → State := fun n x => { s with now := s.at t, free := n.free, test := x }
    (s.tapOn = false → ∀ c ∈ [Instr.extest t tdi, .idcode t, .samplePreload t tdi, .clamp t, .highz t, .fuseread t, .fuseprog t v, .bypass t tdi],
      exec c s = .next { s with now := s.at t })
    ∧ exec (.trstNLow t) s = .next { s with now := s.at t, test := { s.test with ir := .idcode, logicReset := true, shiftOut := [] } }
    ∧ (s.tapOn = true →
      (exec (.idcode t) s = .next { s with now := s.at t, test := { s.test with ir := .idcode, logicReset := false, shiftOut := lsbBits 32 idcodeWord } }
        ∧ (lsbBits 32 idcodeWord).head? = some true ∧ idcodeWord.extractLsb' 12 16 = 0xE440#16)
      ∧ (exec (.bypass t tdi) s = .next { s with
          now := s.at t
          test := { s.test with ir := .bypass, logicReset := false, shiftOut := (false :: tdi).take tdi.length, bypassBit := tdi.getLastD false } })
      ∧ (s.tapOpen = true →
        (∀ c ir, (c = .extest t tdi ∧ ir = TapIr.extest) ∨ (c = .samplePreload t tdi ∧ ir = TapIr.sample) → Answers c s fun n =>
          ∃ cap : Bits, cap.length = boundaryPins.length ∧ n = onlyTest n { s.test with
              ir := ir
              logicReset := false
              shiftOut := (cap ++ tdi).take tdi.length
              boundary := (cap ++ tdi).drop tdi.length }
            ∧ n.test.boundary.length = boundaryPins.length ∧ n.drive = (if ir = .extest then .boundary else .hub))
        ∧ (∀ c ir, (c = .clamp t ∧ ir = TapIr.clamp) ∨ (c = .highz t ∧ ir = TapIr.highz) → Answers c s fun n =>
            n = onlyTest s { s.test with ir := ir, logicReset := false, shiftOut := [], bypassBit := false }
              ∧ n.drive = (if ir = .clamp then .boundary else .highz))
        ∧ (Answers (.fuseread t) s fun n => n = onlyTest s { s.test with ir := .fuseread, logicReset := false, shiftOut := n.test.shiftOut }
            ∧ n.test.shiftOut.length = 1344 ∧ ∀ i, i < 1344 → n.test.shiftOut[i]? = some (s.test.fuses.getLsbD i))
        ∧ (Answers (.fuseprog t v) s fun n =>
            (∃ o : Bits, n = onlyTest n { s.test with ir := .fuseprog, logicReset := false, shiftOut := o, fuses := n.test.fuses } ∧ o.length = 1344)
              ∧ ∀ i, i < 1344 → n.test.fuses.getLsbD i = (s.test.fuses.getLsbD i || (v.getLsbD i && (s.life == 1 || decide (16 ≤ i ∧ i < 20))))))
      ∧ (s.tapOpen = false →
        s.drive = .hub
        ∧ (∀ c ∈ [Instr.extest t tdi, .samplePreload t tdi], exec c s = exec (.bypass t tdi) s)
        ∧ (∀ c ∈ [Instr.clamp t, .highz t, .fuseread t], Answers c s fun n =>
            n = onlyTest s { s.test with ir := .bypass, logicReset := false, shiftOut := [], bypassBit := false } ∧ n.drive = .hub)
        ∧ exec (.fuseprog t v) s = exec (.bypass t (lsbBits 1344 v)) s))
    ∧ (∀ p : Pin, p ≠ .spn → s.bankOn p.bank = false → s.pin p = .highZ)
    ∧ (s.power.rstLow ≠ none → s.drive = .hub →
      (∀ p, (p = .hirqN ∨ p = .utx ∨ p = .tdo ∨ (∃ i, p = .hio i ∨ p = .lect i)
            ∨ ∃ x, p = .iqSck x ∨ p = .iqSdo x ∨ p = .iqScsN x ∨ ∃ i, p = .iqTx x i ∨ p = .iqRx x i) → s.pin p = .highZ)
      ∧ (∀ p, (p = .hrdy ∨ p = .btnOut ∨ ∃ x, p = .iqTxen x ∨ p = .iqRxen x) → s.bankOn p.bank = true → s.pin p = .level false)
      ∧ ∀ k, s.power.porter = true → s.pin (.bken k) = .level (s.power.bkenNow s.now k))

/-- For every command but those of Named: whatever the state (with IRQEN[2] at 1, as every step leaves it), the step answers a state with
the same live, staged and committed settings, scripts and parameter sets, the same saved configuration, count of power-ups, spine key and
folio staging area of the archive, the same pair side and partner setting live and saved, the same run, stamp number and start of the
stamp, the same fuses, pending life-cycle move, lectern selections and test port, and the same power state. Named are the commands of
power, boot and reset, the boundaries, the frames of the spine and of the partner, the settings and loading commands of Usith, and the
test port. -/
def Obligations.RecordKept : Prop :=
  ∀ (c : Instr) (s : State), s.sound = true → Named c = false → Answers c s fun n => Recorded s n
end

