-- ==== Sys2Proof/Laws/Memory.lean ====
section
/-! SUPPORT. Every operation over an addressed store keeps its canonical form. -/

namespace Sys2Proof.Machine

/-- The canonical form, as a proposition. -/
theorem Memory.wf_iff (m : Mem) :
    Memory.wf m = true ↔ m.Pairwise (fun a b => a.1 < b.1) ∧ ∀ c ∈ m, c.2 ≠ 0 := by
  simp [Memory.wf]

theorem Memory.wf_nil : Memory.wf [] = true := by decide

/-- The entries of a store after a byte is written: old ones, or the new one. -/
theorem memPut_mem {m : Mem} {a : Nat} {v : Byte} {c : Host.Cell} (h : c ∈ memPut m a v) : c ∈ m ∨ (c = (a, v) ∧ v ≠ 0) := by
  induction m with
  | nil =>
    simp only [memPut] at h
    split at h <;> simp_all
  | cons d m ih =>
    simp only [memPut] at h
    split at h
    · split at h <;> simp_all <;> tauto
    · split at h
      · split at h <;> simp_all <;> tauto
      · simp only [List.mem_cons] at h ⊢
        rcases h with h | h
        · exact .inl (.inl h)
        · rcases ih h with h | h
          · exact .inl (.inr h)
          · exact .inr h

/-- Writing one byte keeps the canonical form. -/
theorem memPut_wf {m : Mem} (a : Nat) (v : Byte) (h : Memory.wf m = true) : Memory.wf (memPut m a v) = true := by
  rw [Memory.wf_iff] at h ⊢
  obtain ⟨h1, h2⟩ := h
  refine ⟨?_, fun c hc => ?_⟩
  · induction m with
    | nil => simp only [memPut]; split <;> simp
    | cons d m ih =>
      rw [List.pairwise_cons] at h1
      simp only [memPut]
      split
      · split
        · exact List.pairwise_cons.2 h1
        · rename_i had _
          refine List.pairwise_cons.2 ⟨fun c hc => ?_, List.pairwise_cons.2 h1⟩
          rcases List.mem_cons.1 hc with rfl | hc
          · exact had
          · exact Nat.lt_trans had (h1.1 c hc)
      · split
        · rename_i hda
          subst hda
          split
          · exact h1.2
          · exact List.pairwise_cons.2 ⟨fun c hc => h1.1 c hc, h1.2⟩
        · refine List.pairwise_cons.2 ⟨fun c hc => ?_, ih h1.2 fun c hc => h2 c (List.mem_cons_of_mem _ hc)⟩
          rcases memPut_mem hc with hc | ⟨rfl, _⟩
          · exact h1.1 c hc
          · show d.1 < a
            omega
  · rcases memPut_mem hc with hc | ⟨rfl, hv⟩
    · exact h2 c hc
    · exact hv

/-- Writing bytes keeps the canonical form. -/
theorem memWrite_wf {m : Mem} (a : Nat) (bs : Bytes) (h : Memory.wf m = true) : Memory.wf (memWrite m a bs) = true := by
  induction bs generalizing m a with
  | nil => exact h
  | cons b bs ih => exact ih (a + 1) (memPut_wf a b h)

/-- Clearing a range keeps the canonical form. -/
theorem memZero_wf {m : Mem} (lo hi : Nat) (h : Memory.wf m = true) : Memory.wf (memZero m lo hi) = true := by
  rw [Memory.wf_iff] at h ⊢
  exact ⟨h.1.filter _, fun c hc => h.2 c (List.mem_filter.1 hc).1⟩

/-- The stores of the hub right after reset hold nothing, in the canonical form. -/
theorem reset_stores_wf :
    Memory.wf State.reset.port.ringMem = true ∧ Memory.wf State.reset.port.mailIn = true
      ∧ Memory.wf State.reset.port.mailOut = true ∧ Memory.wf State.reset.archive.staging = true := by decide

end Sys2Proof.Machine
end

