-- ==== Sys2Proof/Laws/State.lean ====
section
/-! SUPPORT. What each named update of the state leaves as it was, one lemma for each field: no later proof unfolds a record update. -/

namespace Sys2Proof.Machine

variable (s : State)

/-! ## State.advance -/

@[simp] theorem State.advance_power (t : Tick) : (s.advance t).power = s.power := rfl
@[simp] theorem State.advance_stamp (t : Tick) : (s.advance t).stamp = s.stamp := rfl
@[simp] theorem State.advance_roleSt (t : Tick) : (s.advance t).roleSt = s.roleSt := rfl
@[simp] theorem State.advance_settings (t : Tick) : (s.advance t).settings = s.settings := rfl
@[simp] theorem State.advance_archive (t : Tick) : (s.advance t).archive = s.archive := rfl
@[simp] theorem State.advance_stackList (t : Tick) : (s.advance t).stackList = s.stackList := rfl
@[simp] theorem State.advance_patrons (t : Tick) : (s.advance t).patrons = s.patrons := rfl
@[simp] theorem State.advance_charges (t : Tick) : (s.advance t).charges = s.charges := rfl
@[simp] theorem State.advance_ended (t : Tick) : (s.advance t).ended = s.ended := rfl
@[simp] theorem State.advance_nextCharge (t : Tick) : (s.advance t).nextCharge = s.nextCharge := rfl
@[simp] theorem State.advance_changes (t : Tick) : (s.advance t).changes = s.changes := rfl
@[simp] theorem State.advance_pageChanges (t : Tick) : (s.advance t).pageChanges = s.pageChanges := rfl
@[simp] theorem State.advance_keptPlaced (t : Tick) : (s.advance t).keptPlaced = s.keptPlaced := rfl
@[simp] theorem State.advance_streams (t : Tick) : (s.advance t).streams = s.streams := rfl
@[simp] theorem State.advance_waits (t : Tick) : (s.advance t).waits = s.waits := rfl
@[simp] theorem State.advance_inputLog (t : Tick) : (s.advance t).inputLog = s.inputLog := rfl
@[simp] theorem State.advance_stepLog (t : Tick) : (s.advance t).stepLog = s.stepLog := rfl
@[simp] theorem State.advance_history (t : Tick) : (s.advance t).history = s.history := rfl
@[simp] theorem State.advance_draft (t : Tick) : (s.advance t).draft = s.draft := rfl
@[simp] theorem State.advance_promotion (t : Tick) : (s.advance t).promotion = s.promotion := rfl
@[simp] theorem State.advance_requests (t : Tick) : (s.advance t).requests = s.requests := rfl
@[simp] theorem State.advance_nextReq (t : Tick) : (s.advance t).nextReq = s.nextReq := rfl
@[simp] theorem State.advance_cells (t : Tick) : (s.advance t).cells = s.cells := rfl
@[simp] theorem State.advance_limits (t : Tick) : (s.advance t).limits = s.limits := rfl
@[simp] theorem State.advance_rota (t : Tick) : (s.advance t).rota = s.rota := rfl
@[simp] theorem State.advance_mains (t : Tick) : (s.advance t).mains = s.mains := rfl
@[simp] theorem State.advance_sense (t : Tick) : (s.advance t).sense = s.sense := rfl
@[simp] theorem State.advance_air (t : Tick) : (s.advance t).air = s.air := rfl
@[simp] theorem State.advance_nodes (t : Tick) : (s.advance t).nodes = s.nodes := rfl
@[simp] theorem State.advance_acc (t : Tick) : (s.advance t).acc = s.acc := rfl
@[simp] theorem State.advance_spine (t : Tick) : (s.advance t).spine = s.spine := rfl
@[simp] theorem State.advance_port (t : Tick) : (s.advance t).port = s.port := rfl
@[simp] theorem State.advance_lineSes (t : Tick) : (s.advance t).lineSes = s.lineSes := rfl
@[simp] theorem State.advance_portSes (t : Tick) : (s.advance t).portSes = s.portSes := rfl
@[simp] theorem State.advance_events (t : Tick) : (s.advance t).events = s.events := rfl
@[simp] theorem State.advance_steward (t : Tick) : (s.advance t).steward = s.steward := rfl
@[simp] theorem State.advance_test (t : Tick) : (s.advance t).test = s.test := rfl
@[simp] theorem State.advance_digestFree (t : Tick) : (s.advance t).digestFree = s.digestFree := rfl
@[simp] theorem State.advance_restoring (t : Tick) : (s.advance t).restoring = s.restoring := rfl
@[simp] theorem State.advance_restoreFrom (t : Tick) : (s.advance t).restoreFrom = s.restoreFrom := rfl
@[simp] theorem State.advance_restored (t : Tick) : (s.advance t).restored = s.restored := rfl
@[simp] theorem State.advance_restoredCount (t : Tick) : (s.advance t).restoredCount = s.restoredCount := rfl
@[simp] theorem State.advance_skipped (t : Tick) : (s.advance t).skipped = s.skipped := rfl
@[simp] theorem State.advance_free (t : Tick) : (s.advance t).free = s.free := rfl
@[simp] theorem State.advance_out (t : Tick) : (s.advance t).out = s.out := rfl
@[simp] theorem State.advance_pending (t : Tick) : (s.advance t).pending = s.pending := rfl

/-! ## State.emit -/

@[simp] theorem State.emit_now (o : Out) : (s.emit o).now = s.now := rfl
@[simp] theorem State.emit_power (o : Out) : (s.emit o).power = s.power := rfl
@[simp] theorem State.emit_stamp (o : Out) : (s.emit o).stamp = s.stamp := rfl
@[simp] theorem State.emit_roleSt (o : Out) : (s.emit o).roleSt = s.roleSt := rfl
@[simp] theorem State.emit_settings (o : Out) : (s.emit o).settings = s.settings := rfl
@[simp] theorem State.emit_archive (o : Out) : (s.emit o).archive = s.archive := rfl
@[simp] theorem State.emit_stackList (o : Out) : (s.emit o).stackList = s.stackList := rfl
@[simp] theorem State.emit_patrons (o : Out) : (s.emit o).patrons = s.patrons := rfl
@[simp] theorem State.emit_charges (o : Out) : (s.emit o).charges = s.charges := rfl
@[simp] theorem State.emit_ended (o : Out) : (s.emit o).ended = s.ended := rfl
@[simp] theorem State.emit_nextCharge (o : Out) : (s.emit o).nextCharge = s.nextCharge := rfl
@[simp] theorem State.emit_changes (o : Out) : (s.emit o).changes = s.changes := rfl
@[simp] theorem State.emit_pageChanges (o : Out) : (s.emit o).pageChanges = s.pageChanges := rfl
@[simp] theorem State.emit_keptPlaced (o : Out) : (s.emit o).keptPlaced = s.keptPlaced := rfl
@[simp] theorem State.emit_streams (o : Out) : (s.emit o).streams = s.streams := rfl
@[simp] theorem State.emit_waits (o : Out) : (s.emit o).waits = s.waits := rfl
@[simp] theorem State.emit_inputLog (o : Out) : (s.emit o).inputLog = s.inputLog := rfl
@[simp] theorem State.emit_stepLog (o : Out) : (s.emit o).stepLog = s.stepLog := rfl
@[simp] theorem State.emit_history (o : Out) : (s.emit o).history = s.history := rfl
@[simp] theorem State.emit_draft (o : Out) : (s.emit o).draft = s.draft := rfl
@[simp] theorem State.emit_promotion (o : Out) : (s.emit o).promotion = s.promotion := rfl
@[simp] theorem State.emit_requests (o : Out) : (s.emit o).requests = s.requests := rfl
@[simp] theorem State.emit_nextReq (o : Out) : (s.emit o).nextReq = s.nextReq := rfl
@[simp] theorem State.emit_cells (o : Out) : (s.emit o).cells = s.cells := rfl
@[simp] theorem State.emit_limits (o : Out) : (s.emit o).limits = s.limits := rfl
@[simp] theorem State.emit_rota (o : Out) : (s.emit o).rota = s.rota := rfl
@[simp] theorem State.emit_mains (o : Out) : (s.emit o).mains = s.mains := rfl
@[simp] theorem State.emit_sense (o : Out) : (s.emit o).sense = s.sense := rfl
@[simp] theorem State.emit_air (o : Out) : (s.emit o).air = s.air := rfl
@[simp] theorem State.emit_nodes (o : Out) : (s.emit o).nodes = s.nodes := rfl
@[simp] theorem State.emit_acc (o : Out) : (s.emit o).acc = s.acc := rfl
@[simp] theorem State.emit_spine (o : Out) : (s.emit o).spine = s.spine := rfl
@[simp] theorem State.emit_port (o : Out) : (s.emit o).port = s.port := rfl
@[simp] theorem State.emit_lineSes (o : Out) : (s.emit o).lineSes = s.lineSes := rfl
@[simp] theorem State.emit_portSes (o : Out) : (s.emit o).portSes = s.portSes := rfl
@[simp] theorem State.emit_events (o : Out) : (s.emit o).events = s.events := rfl
@[simp] theorem State.emit_steward (o : Out) : (s.emit o).steward = s.steward := rfl
@[simp] theorem State.emit_test (o : Out) : (s.emit o).test = s.test := rfl
@[simp] theorem State.emit_digestFree (o : Out) : (s.emit o).digestFree = s.digestFree := rfl
@[simp] theorem State.emit_restoring (o : Out) : (s.emit o).restoring = s.restoring := rfl
@[simp] theorem State.emit_restoreFrom (o : Out) : (s.emit o).restoreFrom = s.restoreFrom := rfl
@[simp] theorem State.emit_restored (o : Out) : (s.emit o).restored = s.restored := rfl
@[simp] theorem State.emit_restoredCount (o : Out) : (s.emit o).restoredCount = s.restoredCount := rfl
@[simp] theorem State.emit_skipped (o : Out) : (s.emit o).skipped = s.skipped := rfl
@[simp] theorem State.emit_free (o : Out) : (s.emit o).free = s.free := rfl
@[simp] theorem State.emit_pending (o : Out) : (s.emit o).pending = s.pending := rfl

/-! ## State.modRegs -/

@[simp] theorem State.modRegs_now (f : Regs → Regs) : (s.modRegs f).now = s.now := rfl
@[simp] theorem State.modRegs_power (f : Regs → Regs) : (s.modRegs f).power = s.power := rfl
@[simp] theorem State.modRegs_stamp (f : Regs → Regs) : (s.modRegs f).stamp = s.stamp := rfl
@[simp] theorem State.modRegs_roleSt (f : Regs → Regs) : (s.modRegs f).roleSt = s.roleSt := rfl
@[simp] theorem State.modRegs_settings (f : Regs → Regs) : (s.modRegs f).settings = s.settings := rfl
@[simp] theorem State.modRegs_archive (f : Regs → Regs) : (s.modRegs f).archive = s.archive := rfl
@[simp] theorem State.modRegs_stackList (f : Regs → Regs) : (s.modRegs f).stackList = s.stackList := rfl
@[simp] theorem State.modRegs_patrons (f : Regs → Regs) : (s.modRegs f).patrons = s.patrons := rfl
@[simp] theorem State.modRegs_charges (f : Regs → Regs) : (s.modRegs f).charges = s.charges := rfl
@[simp] theorem State.modRegs_ended (f : Regs → Regs) : (s.modRegs f).ended = s.ended := rfl
@[simp] theorem State.modRegs_nextCharge (f : Regs → Regs) : (s.modRegs f).nextCharge = s.nextCharge := rfl
@[simp] theorem State.modRegs_changes (f : Regs → Regs) : (s.modRegs f).changes = s.changes := rfl
@[simp] theorem State.modRegs_pageChanges (f : Regs → Regs) : (s.modRegs f).pageChanges = s.pageChanges := rfl
@[simp] theorem State.modRegs_keptPlaced (f : Regs → Regs) : (s.modRegs f).keptPlaced = s.keptPlaced := rfl
@[simp] theorem State.modRegs_streams (f : Regs → Regs) : (s.modRegs f).streams = s.streams := rfl
@[simp] theorem State.modRegs_waits (f : Regs → Regs) : (s.modRegs f).waits = s.waits := rfl
@[simp] theorem State.modRegs_inputLog (f : Regs → Regs) : (s.modRegs f).inputLog = s.inputLog := rfl
@[simp] theorem State.modRegs_stepLog (f : Regs → Regs) : (s.modRegs f).stepLog = s.stepLog := rfl
@[simp] theorem State.modRegs_history (f : Regs → Regs) : (s.modRegs f).history = s.history := rfl
@[simp] theorem State.modRegs_draft (f : Regs → Regs) : (s.modRegs f).draft = s.draft := rfl
@[simp] theorem State.modRegs_promotion (f : Regs → Regs) : (s.modRegs f).promotion = s.promotion := rfl
@[simp] theorem State.modRegs_requests (f : Regs → Regs) : (s.modRegs f).requests = s.requests := rfl
@[simp] theorem State.modRegs_nextReq (f : Regs → Regs) : (s.modRegs f).nextReq = s.nextReq := rfl
@[simp] theorem State.modRegs_cells (f : Regs → Regs) : (s.modRegs f).cells = s.cells := rfl
@[simp] theorem State.modRegs_limits (f : Regs → Regs) : (s.modRegs f).limits = s.limits := rfl
@[simp] theorem State.modRegs_rota (f : Regs → Regs) : (s.modRegs f).rota = s.rota := rfl
@[simp] theorem State.modRegs_mains (f : Regs → Regs) : (s.modRegs f).mains = s.mains := rfl
@[simp] theorem State.modRegs_sense (f : Regs → Regs) : (s.modRegs f).sense = s.sense := rfl
@[simp] theorem State.modRegs_air (f : Regs → Regs) : (s.modRegs f).air = s.air := rfl
@[simp] theorem State.modRegs_nodes (f : Regs → Regs) : (s.modRegs f).nodes = s.nodes := rfl
@[simp] theorem State.modRegs_acc (f : Regs → Regs) : (s.modRegs f).acc = s.acc := rfl
@[simp] theorem State.modRegs_spine (f : Regs → Regs) : (s.modRegs f).spine = s.spine := rfl
@[simp] theorem State.modRegs_lineSes (f : Regs → Regs) : (s.modRegs f).lineSes = s.lineSes := rfl
@[simp] theorem State.modRegs_portSes (f : Regs → Regs) : (s.modRegs f).portSes = s.portSes := rfl
@[simp] theorem State.modRegs_events (f : Regs → Regs) : (s.modRegs f).events = s.events := rfl
@[simp] theorem State.modRegs_steward (f : Regs → Regs) : (s.modRegs f).steward = s.steward := rfl
@[simp] theorem State.modRegs_test (f : Regs → Regs) : (s.modRegs f).test = s.test := rfl
@[simp] theorem State.modRegs_digestFree (f : Regs → Regs) : (s.modRegs f).digestFree = s.digestFree := rfl
@[simp] theorem State.modRegs_restoring (f : Regs → Regs) : (s.modRegs f).restoring = s.restoring := rfl
@[simp] theorem State.modRegs_restoreFrom (f : Regs → Regs) : (s.modRegs f).restoreFrom = s.restoreFrom := rfl
@[simp] theorem State.modRegs_restored (f : Regs → Regs) : (s.modRegs f).restored = s.restored := rfl
@[simp] theorem State.modRegs_restoredCount (f : Regs → Regs) : (s.modRegs f).restoredCount = s.restoredCount := rfl
@[simp] theorem State.modRegs_skipped (f : Regs → Regs) : (s.modRegs f).skipped = s.skipped := rfl
@[simp] theorem State.modRegs_free (f : Regs → Regs) : (s.modRegs f).free = s.free := rfl
@[simp] theorem State.modRegs_out (f : Regs → Regs) : (s.modRegs f).out = s.out := rfl
@[simp] theorem State.modRegs_pending (f : Regs → Regs) : (s.modRegs f).pending = s.pending := rfl

/-! ## State.irqSet -/

@[simp] theorem State.irqSet_now (b : Nat) : (s.irqSet b).now = s.now := rfl
@[simp] theorem State.irqSet_power (b : Nat) : (s.irqSet b).power = s.power := rfl
@[simp] theorem State.irqSet_stamp (b : Nat) : (s.irqSet b).stamp = s.stamp := rfl
@[simp] theorem State.irqSet_roleSt (b : Nat) : (s.irqSet b).roleSt = s.roleSt := rfl
@[simp] theorem State.irqSet_settings (b : Nat) : (s.irqSet b).settings = s.settings := rfl
@[simp] theorem State.irqSet_archive (b : Nat) : (s.irqSet b).archive = s.archive := rfl
@[simp] theorem State.irqSet_stackList (b : Nat) : (s.irqSet b).stackList = s.stackList := rfl
@[simp] theorem State.irqSet_patrons (b : Nat) : (s.irqSet b).patrons = s.patrons := rfl
@[simp] theorem State.irqSet_charges (b : Nat) : (s.irqSet b).charges = s.charges := rfl
@[simp] theorem State.irqSet_ended (b : Nat) : (s.irqSet b).ended = s.ended := rfl
@[simp] theorem State.irqSet_nextCharge (b : Nat) : (s.irqSet b).nextCharge = s.nextCharge := rfl
@[simp] theorem State.irqSet_changes (b : Nat) : (s.irqSet b).changes = s.changes := rfl
@[simp] theorem State.irqSet_pageChanges (b : Nat) : (s.irqSet b).pageChanges = s.pageChanges := rfl
@[simp] theorem State.irqSet_keptPlaced (b : Nat) : (s.irqSet b).keptPlaced = s.keptPlaced := rfl
@[simp] theorem State.irqSet_streams (b : Nat) : (s.irqSet b).streams = s.streams := rfl
@[simp] theorem State.irqSet_waits (b : Nat) : (s.irqSet b).waits = s.waits := rfl
@[simp] theorem State.irqSet_inputLog (b : Nat) : (s.irqSet b).inputLog = s.inputLog := rfl
@[simp] theorem State.irqSet_stepLog (b : Nat) : (s.irqSet b).stepLog = s.stepLog := rfl
@[simp] theorem State.irqSet_history (b : Nat) : (s.irqSet b).history = s.history := rfl
@[simp] theorem State.irqSet_draft (b : Nat) : (s.irqSet b).draft = s.draft := rfl
@[simp] theorem State.irqSet_promotion (b : Nat) : (s.irqSet b).promotion = s.promotion := rfl
@[simp] theorem State.irqSet_requests (b : Nat) : (s.irqSet b).requests = s.requests := rfl
@[simp] theorem State.irqSet_nextReq (b : Nat) : (s.irqSet b).nextReq = s.nextReq := rfl
@[simp] theorem State.irqSet_cells (b : Nat) : (s.irqSet b).cells = s.cells := rfl
@[simp] theorem State.irqSet_limits (b : Nat) : (s.irqSet b).limits = s.limits := rfl
@[simp] theorem State.irqSet_rota (b : Nat) : (s.irqSet b).rota = s.rota := rfl
@[simp] theorem State.irqSet_mains (b : Nat) : (s.irqSet b).mains = s.mains := rfl
@[simp] theorem State.irqSet_sense (b : Nat) : (s.irqSet b).sense = s.sense := rfl
@[simp] theorem State.irqSet_air (b : Nat) : (s.irqSet b).air = s.air := rfl
@[simp] theorem State.irqSet_nodes (b : Nat) : (s.irqSet b).nodes = s.nodes := rfl
@[simp] theorem State.irqSet_acc (b : Nat) : (s.irqSet b).acc = s.acc := rfl
@[simp] theorem State.irqSet_spine (b : Nat) : (s.irqSet b).spine = s.spine := rfl
@[simp] theorem State.irqSet_lineSes (b : Nat) : (s.irqSet b).lineSes = s.lineSes := rfl
@[simp] theorem State.irqSet_portSes (b : Nat) : (s.irqSet b).portSes = s.portSes := rfl
@[simp] theorem State.irqSet_events (b : Nat) : (s.irqSet b).events = s.events := rfl
@[simp] theorem State.irqSet_steward (b : Nat) : (s.irqSet b).steward = s.steward := rfl
@[simp] theorem State.irqSet_test (b : Nat) : (s.irqSet b).test = s.test := rfl
@[simp] theorem State.irqSet_digestFree (b : Nat) : (s.irqSet b).digestFree = s.digestFree := rfl
@[simp] theorem State.irqSet_restoring (b : Nat) : (s.irqSet b).restoring = s.restoring := rfl
@[simp] theorem State.irqSet_restoreFrom (b : Nat) : (s.irqSet b).restoreFrom = s.restoreFrom := rfl
@[simp] theorem State.irqSet_restored (b : Nat) : (s.irqSet b).restored = s.restored := rfl
@[simp] theorem State.irqSet_restoredCount (b : Nat) : (s.irqSet b).restoredCount = s.restoredCount := rfl
@[simp] theorem State.irqSet_skipped (b : Nat) : (s.irqSet b).skipped = s.skipped := rfl
@[simp] theorem State.irqSet_free (b : Nat) : (s.irqSet b).free = s.free := rfl
@[simp] theorem State.irqSet_out (b : Nat) : (s.irqSet b).out = s.out := rfl
@[simp] theorem State.irqSet_pending (b : Nat) : (s.irqSet b).pending = s.pending := rfl

/-! ## State.errSet -/

@[simp] theorem State.errSet_now (b : Nat) : (s.errSet b).now = s.now := rfl
@[simp] theorem State.errSet_power (b : Nat) : (s.errSet b).power = s.power := rfl
@[simp] theorem State.errSet_stamp (b : Nat) : (s.errSet b).stamp = s.stamp := rfl
@[simp] theorem State.errSet_roleSt (b : Nat) : (s.errSet b).roleSt = s.roleSt := rfl
@[simp] theorem State.errSet_settings (b : Nat) : (s.errSet b).settings = s.settings := rfl
@[simp] theorem State.errSet_archive (b : Nat) : (s.errSet b).archive = s.archive := rfl
@[simp] theorem State.errSet_stackList (b : Nat) : (s.errSet b).stackList = s.stackList := rfl
@[simp] theorem State.errSet_patrons (b : Nat) : (s.errSet b).patrons = s.patrons := rfl
@[simp] theorem State.errSet_charges (b : Nat) : (s.errSet b).charges = s.charges := rfl
@[simp] theorem State.errSet_ended (b : Nat) : (s.errSet b).ended = s.ended := rfl
@[simp] theorem State.errSet_nextCharge (b : Nat) : (s.errSet b).nextCharge = s.nextCharge := rfl
@[simp] theorem State.errSet_changes (b : Nat) : (s.errSet b).changes = s.changes := rfl
@[simp] theorem State.errSet_pageChanges (b : Nat) : (s.errSet b).pageChanges = s.pageChanges := rfl
@[simp] theorem State.errSet_keptPlaced (b : Nat) : (s.errSet b).keptPlaced = s.keptPlaced := rfl
@[simp] theorem State.errSet_streams (b : Nat) : (s.errSet b).streams = s.streams := rfl
@[simp] theorem State.errSet_waits (b : Nat) : (s.errSet b).waits = s.waits := rfl
@[simp] theorem State.errSet_inputLog (b : Nat) : (s.errSet b).inputLog = s.inputLog := rfl
@[simp] theorem State.errSet_stepLog (b : Nat) : (s.errSet b).stepLog = s.stepLog := rfl
@[simp] theorem State.errSet_history (b : Nat) : (s.errSet b).history = s.history := rfl
@[simp] theorem State.errSet_draft (b : Nat) : (s.errSet b).draft = s.draft := rfl
@[simp] theorem State.errSet_promotion (b : Nat) : (s.errSet b).promotion = s.promotion := rfl
@[simp] theorem State.errSet_requests (b : Nat) : (s.errSet b).requests = s.requests := rfl
@[simp] theorem State.errSet_nextReq (b : Nat) : (s.errSet b).nextReq = s.nextReq := rfl
@[simp] theorem State.errSet_cells (b : Nat) : (s.errSet b).cells = s.cells := rfl
@[simp] theorem State.errSet_limits (b : Nat) : (s.errSet b).limits = s.limits := rfl
@[simp] theorem State.errSet_rota (b : Nat) : (s.errSet b).rota = s.rota := rfl
@[simp] theorem State.errSet_mains (b : Nat) : (s.errSet b).mains = s.mains := rfl
@[simp] theorem State.errSet_sense (b : Nat) : (s.errSet b).sense = s.sense := rfl
@[simp] theorem State.errSet_air (b : Nat) : (s.errSet b).air = s.air := rfl
@[simp] theorem State.errSet_nodes (b : Nat) : (s.errSet b).nodes = s.nodes := rfl
@[simp] theorem State.errSet_acc (b : Nat) : (s.errSet b).acc = s.acc := rfl
@[simp] theorem State.errSet_spine (b : Nat) : (s.errSet b).spine = s.spine := rfl
@[simp] theorem State.errSet_lineSes (b : Nat) : (s.errSet b).lineSes = s.lineSes := rfl
@[simp] theorem State.errSet_portSes (b : Nat) : (s.errSet b).portSes = s.portSes := rfl
@[simp] theorem State.errSet_events (b : Nat) : (s.errSet b).events = s.events := rfl
@[simp] theorem State.errSet_steward (b : Nat) : (s.errSet b).steward = s.steward := rfl
@[simp] theorem State.errSet_test (b : Nat) : (s.errSet b).test = s.test := rfl
@[simp] theorem State.errSet_digestFree (b : Nat) : (s.errSet b).digestFree = s.digestFree := rfl
@[simp] theorem State.errSet_restoring (b : Nat) : (s.errSet b).restoring = s.restoring := rfl
@[simp] theorem State.errSet_restoreFrom (b : Nat) : (s.errSet b).restoreFrom = s.restoreFrom := rfl
@[simp] theorem State.errSet_restored (b : Nat) : (s.errSet b).restored = s.restored := rfl
@[simp] theorem State.errSet_restoredCount (b : Nat) : (s.errSet b).restoredCount = s.restoredCount := rfl
@[simp] theorem State.errSet_skipped (b : Nat) : (s.errSet b).skipped = s.skipped := rfl
@[simp] theorem State.errSet_free (b : Nat) : (s.errSet b).free = s.free := rfl
@[simp] theorem State.errSet_out (b : Nat) : (s.errSet b).out = s.out := rfl
@[simp] theorem State.errSet_pending (b : Nat) : (s.errSet b).pending = s.pending := rfl

/-! ## State.modStk -/

@[simp] theorem State.modStk_now (k : Nat) (f : StackSt → StackSt) : (s.modStk k f).now = s.now := rfl
@[simp] theorem State.modStk_power (k : Nat) (f : StackSt → StackSt) : (s.modStk k f).power = s.power := rfl
@[simp] theorem State.modStk_stamp (k : Nat) (f : StackSt → StackSt) : (s.modStk k f).stamp = s.stamp := rfl
@[simp] theorem State.modStk_roleSt (k : Nat) (f : StackSt → StackSt) : (s.modStk k f).roleSt = s.roleSt := rfl
@[simp] theorem State.modStk_settings (k : Nat) (f : StackSt → StackSt) : (s.modStk k f).settings = s.settings := rfl
@[simp] theorem State.modStk_archive (k : Nat) (f : StackSt → StackSt) : (s.modStk k f).archive = s.archive := rfl
@[simp] theorem State.modStk_patrons (k : Nat) (f : StackSt → StackSt) : (s.modStk k f).patrons = s.patrons := rfl
@[simp] theorem State.modStk_charges (k : Nat) (f : StackSt → StackSt) : (s.modStk k f).charges = s.charges := rfl
@[simp] theorem State.modStk_ended (k : Nat) (f : StackSt → StackSt) : (s.modStk k f).ended = s.ended := rfl
@[simp] theorem State.modStk_nextCharge (k : Nat) (f : StackSt → StackSt) : (s.modStk k f).nextCharge = s.nextCharge := rfl
@[simp] theorem State.modStk_changes (k : Nat) (f : StackSt → StackSt) : (s.modStk k f).changes = s.changes := rfl
@[simp] theorem State.modStk_pageChanges (k : Nat) (f : StackSt → StackSt) : (s.modStk k f).pageChanges = s.pageChanges := rfl
@[simp] theorem State.modStk_keptPlaced (k : Nat) (f : StackSt → StackSt) : (s.modStk k f).keptPlaced = s.keptPlaced := rfl
@[simp] theorem State.modStk_streams (k : Nat) (f : StackSt → StackSt) : (s.modStk k f).streams = s.streams := rfl
@[simp] theorem State.modStk_waits (k : Nat) (f : StackSt → StackSt) : (s.modStk k f).waits = s.waits := rfl
@[simp] theorem State.modStk_inputLog (k : Nat) (f : StackSt → StackSt) : (s.modStk k f).inputLog = s.inputLog := rfl
@[simp] theorem State.modStk_stepLog (k : Nat) (f : StackSt → StackSt) : (s.modStk k f).stepLog = s.stepLog := rfl
@[simp] theorem State.modStk_history (k : Nat) (f : StackSt → StackSt) : (s.modStk k f).history = s.history := rfl
@[simp] theorem State.modStk_draft (k : Nat) (f : StackSt → StackSt) : (s.modStk k f).draft = s.draft := rfl
@[simp] theorem State.modStk_promotion (k : Nat) (f : StackSt → StackSt) : (s.modStk k f).promotion = s.promotion := rfl
@[simp] theorem State.modStk_requests (k : Nat) (f : StackSt → StackSt) : (s.modStk k f).requests = s.requests := rfl
@[simp] theorem State.modStk_nextReq (k : Nat) (f : StackSt → StackSt) : (s.modStk k f).nextReq = s.nextReq := rfl
@[simp] theorem State.modStk_cells (k : Nat) (f : StackSt → StackSt) : (s.modStk k f).cells = s.cells := rfl
@[simp] theorem State.modStk_limits (k : Nat) (f : StackSt → StackSt) : (s.modStk k f).limits = s.limits := rfl
@[simp] theorem State.modStk_rota (k : Nat) (f : StackSt → StackSt) : (s.modStk k f).rota = s.rota := rfl
@[simp] theorem State.modStk_mains (k : Nat) (f : StackSt → StackSt) : (s.modStk k f).mains = s.mains := rfl
@[simp] theorem State.modStk_sense (k : Nat) (f : StackSt → StackSt) : (s.modStk k f).sense = s.sense := rfl
@[simp] theorem State.modStk_air (k : Nat) (f : StackSt → StackSt) : (s.modStk k f).air = s.air := rfl
@[simp] theorem State.modStk_nodes (k : Nat) (f : StackSt → StackSt) : (s.modStk k f).nodes = s.nodes := rfl
@[simp] theorem State.modStk_acc (k : Nat) (f : StackSt → StackSt) : (s.modStk k f).acc = s.acc := rfl
@[simp] theorem State.modStk_spine (k : Nat) (f : StackSt → StackSt) : (s.modStk k f).spine = s.spine := rfl
@[simp] theorem State.modStk_port (k : Nat) (f : StackSt → StackSt) : (s.modStk k f).port = s.port := rfl
@[simp] theorem State.modStk_lineSes (k : Nat) (f : StackSt → StackSt) : (s.modStk k f).lineSes = s.lineSes := rfl
@[simp] theorem State.modStk_portSes (k : Nat) (f : StackSt → StackSt) : (s.modStk k f).portSes = s.portSes := rfl
@[simp] theorem State.modStk_events (k : Nat) (f : StackSt → StackSt) : (s.modStk k f).events = s.events := rfl
@[simp] theorem State.modStk_steward (k : Nat) (f : StackSt → StackSt) : (s.modStk k f).steward = s.steward := rfl
@[simp] theorem State.modStk_test (k : Nat) (f : StackSt → StackSt) : (s.modStk k f).test = s.test := rfl
@[simp] theorem State.modStk_digestFree (k : Nat) (f : StackSt → StackSt) : (s.modStk k f).digestFree = s.digestFree := rfl
@[simp] theorem State.modStk_restoring (k : Nat) (f : StackSt → StackSt) : (s.modStk k f).restoring = s.restoring := rfl
@[simp] theorem State.modStk_restoreFrom (k : Nat) (f : StackSt → StackSt) : (s.modStk k f).restoreFrom = s.restoreFrom := rfl
@[simp] theorem State.modStk_restored (k : Nat) (f : StackSt → StackSt) : (s.modStk k f).restored = s.restored := rfl
@[simp] theorem State.modStk_restoredCount (k : Nat) (f : StackSt → StackSt) : (s.modStk k f).restoredCount = s.restoredCount := rfl
@[simp] theorem State.modStk_skipped (k : Nat) (f : StackSt → StackSt) : (s.modStk k f).skipped = s.skipped := rfl
@[simp] theorem State.modStk_free (k : Nat) (f : StackSt → StackSt) : (s.modStk k f).free = s.free := rfl
@[simp] theorem State.modStk_out (k : Nat) (f : StackSt → StackSt) : (s.modStk k f).out = s.out := rfl
@[simp] theorem State.modStk_pending (k : Nat) (f : StackSt → StackSt) : (s.modStk k f).pending = s.pending := rfl

/-! ## State.modPatron -/

@[simp] theorem State.modPatron_now (p : Nat) (f : Patron → Patron) : (s.modPatron p f).now = s.now := rfl
@[simp] theorem State.modPatron_power (p : Nat) (f : Patron → Patron) : (s.modPatron p f).power = s.power := rfl
@[simp] theorem State.modPatron_stamp (p : Nat) (f : Patron → Patron) : (s.modPatron p f).stamp = s.stamp := rfl
@[simp] theorem State.modPatron_roleSt (p : Nat) (f : Patron → Patron) : (s.modPatron p f).roleSt = s.roleSt := rfl
@[simp] theorem State.modPatron_settings (p : Nat) (f : Patron → Patron) : (s.modPatron p f).settings = s.settings := rfl
@[simp] theorem State.modPatron_archive (p : Nat) (f : Patron → Patron) : (s.modPatron p f).archive = s.archive := rfl
@[simp] theorem State.modPatron_stackList (p : Nat) (f : Patron → Patron) : (s.modPatron p f).stackList = s.stackList := rfl
@[simp] theorem State.modPatron_charges (p : Nat) (f : Patron → Patron) : (s.modPatron p f).charges = s.charges := rfl
@[simp] theorem State.modPatron_ended (p : Nat) (f : Patron → Patron) : (s.modPatron p f).ended = s.ended := rfl
@[simp] theorem State.modPatron_nextCharge (p : Nat) (f : Patron → Patron) : (s.modPatron p f).nextCharge = s.nextCharge := rfl
@[simp] theorem State.modPatron_changes (p : Nat) (f : Patron → Patron) : (s.modPatron p f).changes = s.changes := rfl
@[simp] theorem State.modPatron_pageChanges (p : Nat) (f : Patron → Patron) : (s.modPatron p f).pageChanges = s.pageChanges := rfl
@[simp] theorem State.modPatron_keptPlaced (p : Nat) (f : Patron → Patron) : (s.modPatron p f).keptPlaced = s.keptPlaced := rfl
@[simp] theorem State.modPatron_streams (p : Nat) (f : Patron → Patron) : (s.modPatron p f).streams = s.streams := rfl
@[simp] theorem State.modPatron_waits (p : Nat) (f : Patron → Patron) : (s.modPatron p f).waits = s.waits := rfl
@[simp] theorem State.modPatron_inputLog (p : Nat) (f : Patron → Patron) : (s.modPatron p f).inputLog = s.inputLog := rfl
@[simp] theorem State.modPatron_stepLog (p : Nat) (f : Patron → Patron) : (s.modPatron p f).stepLog = s.stepLog := rfl
@[simp] theorem State.modPatron_history (p : Nat) (f : Patron → Patron) : (s.modPatron p f).history = s.history := rfl
@[simp] theorem State.modPatron_draft (p : Nat) (f : Patron → Patron) : (s.modPatron p f).draft = s.draft := rfl
@[simp] theorem State.modPatron_promotion (p : Nat) (f : Patron → Patron) : (s.modPatron p f).promotion = s.promotion := rfl
@[simp] theorem State.modPatron_requests (p : Nat) (f : Patron → Patron) : (s.modPatron p f).requests = s.requests := rfl
@[simp] theorem State.modPatron_nextReq (p : Nat) (f : Patron → Patron) : (s.modPatron p f).nextReq = s.nextReq := rfl
@[simp] theorem State.modPatron_cells (p : Nat) (f : Patron → Patron) : (s.modPatron p f).cells = s.cells := rfl
@[simp] theorem State.modPatron_limits (p : Nat) (f : Patron → Patron) : (s.modPatron p f).limits = s.limits := rfl
@[simp] theorem State.modPatron_rota (p : Nat) (f : Patron → Patron) : (s.modPatron p f).rota = s.rota := rfl
@[simp] theorem State.modPatron_mains (p : Nat) (f : Patron → Patron) : (s.modPatron p f).mains = s.mains := rfl
@[simp] theorem State.modPatron_sense (p : Nat) (f : Patron → Patron) : (s.modPatron p f).sense = s.sense := rfl
@[simp] theorem State.modPatron_air (p : Nat) (f : Patron → Patron) : (s.modPatron p f).air = s.air := rfl
@[simp] theorem State.modPatron_nodes (p : Nat) (f : Patron → Patron) : (s.modPatron p f).nodes = s.nodes := rfl
@[simp] theorem State.modPatron_acc (p : Nat) (f : Patron → Patron) : (s.modPatron p f).acc = s.acc := rfl
@[simp] theorem State.modPatron_spine (p : Nat) (f : Patron → Patron) : (s.modPatron p f).spine = s.spine := rfl
@[simp] theorem State.modPatron_port (p : Nat) (f : Patron → Patron) : (s.modPatron p f).port = s.port := rfl
@[simp] theorem State.modPatron_lineSes (p : Nat) (f : Patron → Patron) : (s.modPatron p f).lineSes = s.lineSes := rfl
@[simp] theorem State.modPatron_portSes (p : Nat) (f : Patron → Patron) : (s.modPatron p f).portSes = s.portSes := rfl
@[simp] theorem State.modPatron_events (p : Nat) (f : Patron → Patron) : (s.modPatron p f).events = s.events := rfl
@[simp] theorem State.modPatron_steward (p : Nat) (f : Patron → Patron) : (s.modPatron p f).steward = s.steward := rfl
@[simp] theorem State.modPatron_test (p : Nat) (f : Patron → Patron) : (s.modPatron p f).test = s.test := rfl
@[simp] theorem State.modPatron_digestFree (p : Nat) (f : Patron → Patron) : (s.modPatron p f).digestFree = s.digestFree := rfl
@[simp] theorem State.modPatron_restoring (p : Nat) (f : Patron → Patron) : (s.modPatron p f).restoring = s.restoring := rfl
@[simp] theorem State.modPatron_restoreFrom (p : Nat) (f : Patron → Patron) : (s.modPatron p f).restoreFrom = s.restoreFrom := rfl
@[simp] theorem State.modPatron_restored (p : Nat) (f : Patron → Patron) : (s.modPatron p f).restored = s.restored := rfl
@[simp] theorem State.modPatron_restoredCount (p : Nat) (f : Patron → Patron) : (s.modPatron p f).restoredCount = s.restoredCount := rfl
@[simp] theorem State.modPatron_skipped (p : Nat) (f : Patron → Patron) : (s.modPatron p f).skipped = s.skipped := rfl
@[simp] theorem State.modPatron_free (p : Nat) (f : Patron → Patron) : (s.modPatron p f).free = s.free := rfl
@[simp] theorem State.modPatron_out (p : Nat) (f : Patron → Patron) : (s.modPatron p f).out = s.out := rfl
@[simp] theorem State.modPatron_pending (p : Nat) (f : Patron → Patron) : (s.modPatron p f).pending = s.pending := rfl

/-! ## State.modCtr -/

@[simp] theorem State.modCtr_now (p : Nat) (f : ServiceCtr → ServiceCtr) : (s.modCtr p f).now = s.now := rfl
@[simp] theorem State.modCtr_power (p : Nat) (f : ServiceCtr → ServiceCtr) : (s.modCtr p f).power = s.power := rfl
@[simp] theorem State.modCtr_stamp (p : Nat) (f : ServiceCtr → ServiceCtr) : (s.modCtr p f).stamp = s.stamp := rfl
@[simp] theorem State.modCtr_roleSt (p : Nat) (f : ServiceCtr → ServiceCtr) : (s.modCtr p f).roleSt = s.roleSt := rfl
@[simp] theorem State.modCtr_settings (p : Nat) (f : ServiceCtr → ServiceCtr) : (s.modCtr p f).settings = s.settings := rfl
@[simp] theorem State.modCtr_archive (p : Nat) (f : ServiceCtr → ServiceCtr) : (s.modCtr p f).archive = s.archive := rfl
@[simp] theorem State.modCtr_stackList (p : Nat) (f : ServiceCtr → ServiceCtr) : (s.modCtr p f).stackList = s.stackList := rfl
@[simp] theorem State.modCtr_charges (p : Nat) (f : ServiceCtr → ServiceCtr) : (s.modCtr p f).charges = s.charges := rfl
@[simp] theorem State.modCtr_ended (p : Nat) (f : ServiceCtr → ServiceCtr) : (s.modCtr p f).ended = s.ended := rfl
@[simp] theorem State.modCtr_nextCharge (p : Nat) (f : ServiceCtr → ServiceCtr) : (s.modCtr p f).nextCharge = s.nextCharge := rfl
@[simp] theorem State.modCtr_changes (p : Nat) (f : ServiceCtr → ServiceCtr) : (s.modCtr p f).changes = s.changes := rfl
@[simp] theorem State.modCtr_pageChanges (p : Nat) (f : ServiceCtr → ServiceCtr) : (s.modCtr p f).pageChanges = s.pageChanges := rfl
@[simp] theorem State.modCtr_keptPlaced (p : Nat) (f : ServiceCtr → ServiceCtr) : (s.modCtr p f).keptPlaced = s.keptPlaced := rfl
@[simp] theorem State.modCtr_streams (p : Nat) (f : ServiceCtr → ServiceCtr) : (s.modCtr p f).streams = s.streams := rfl
@[simp] theorem State.modCtr_waits (p : Nat) (f : ServiceCtr → ServiceCtr) : (s.modCtr p f).waits = s.waits := rfl
@[simp] theorem State.modCtr_inputLog (p : Nat) (f : ServiceCtr → ServiceCtr) : (s.modCtr p f).inputLog = s.inputLog := rfl
@[simp] theorem State.modCtr_stepLog (p : Nat) (f : ServiceCtr → ServiceCtr) : (s.modCtr p f).stepLog = s.stepLog := rfl
@[simp] theorem State.modCtr_history (p : Nat) (f : ServiceCtr → ServiceCtr) : (s.modCtr p f).history = s.history := rfl
@[simp] theorem State.modCtr_draft (p : Nat) (f : ServiceCtr → ServiceCtr) : (s.modCtr p f).draft = s.draft := rfl
@[simp] theorem State.modCtr_promotion (p : Nat) (f : ServiceCtr → ServiceCtr) : (s.modCtr p f).promotion = s.promotion := rfl
@[simp] theorem State.modCtr_requests (p : Nat) (f : ServiceCtr → ServiceCtr) : (s.modCtr p f).requests = s.requests := rfl
@[simp] theorem State.modCtr_nextReq (p : Nat) (f : ServiceCtr → ServiceCtr) : (s.modCtr p f).nextReq = s.nextReq := rfl
@[simp] theorem State.modCtr_cells (p : Nat) (f : ServiceCtr → ServiceCtr) : (s.modCtr p f).cells = s.cells := rfl
@[simp] theorem State.modCtr_limits (p : Nat) (f : ServiceCtr → ServiceCtr) : (s.modCtr p f).limits = s.limits := rfl
@[simp] theorem State.modCtr_rota (p : Nat) (f : ServiceCtr → ServiceCtr) : (s.modCtr p f).rota = s.rota := rfl
@[simp] theorem State.modCtr_mains (p : Nat) (f : ServiceCtr → ServiceCtr) : (s.modCtr p f).mains = s.mains := rfl
@[simp] theorem State.modCtr_sense (p : Nat) (f : ServiceCtr → ServiceCtr) : (s.modCtr p f).sense = s.sense := rfl
@[simp] theorem State.modCtr_air (p : Nat) (f : ServiceCtr → ServiceCtr) : (s.modCtr p f).air = s.air := rfl
@[simp] theorem State.modCtr_nodes (p : Nat) (f : ServiceCtr → ServiceCtr) : (s.modCtr p f).nodes = s.nodes := rfl
@[simp] theorem State.modCtr_acc (p : Nat) (f : ServiceCtr → ServiceCtr) : (s.modCtr p f).acc = s.acc := rfl
@[simp] theorem State.modCtr_spine (p : Nat) (f : ServiceCtr → ServiceCtr) : (s.modCtr p f).spine = s.spine := rfl
@[simp] theorem State.modCtr_port (p : Nat) (f : ServiceCtr → ServiceCtr) : (s.modCtr p f).port = s.port := rfl
@[simp] theorem State.modCtr_lineSes (p : Nat) (f : ServiceCtr → ServiceCtr) : (s.modCtr p f).lineSes = s.lineSes := rfl
@[simp] theorem State.modCtr_portSes (p : Nat) (f : ServiceCtr → ServiceCtr) : (s.modCtr p f).portSes = s.portSes := rfl
@[simp] theorem State.modCtr_events (p : Nat) (f : ServiceCtr → ServiceCtr) : (s.modCtr p f).events = s.events := rfl
@[simp] theorem State.modCtr_steward (p : Nat) (f : ServiceCtr → ServiceCtr) : (s.modCtr p f).steward = s.steward := rfl
@[simp] theorem State.modCtr_test (p : Nat) (f : ServiceCtr → ServiceCtr) : (s.modCtr p f).test = s.test := rfl
@[simp] theorem State.modCtr_digestFree (p : Nat) (f : ServiceCtr → ServiceCtr) : (s.modCtr p f).digestFree = s.digestFree := rfl
@[simp] theorem State.modCtr_restoring (p : Nat) (f : ServiceCtr → ServiceCtr) : (s.modCtr p f).restoring = s.restoring := rfl
@[simp] theorem State.modCtr_restoreFrom (p : Nat) (f : ServiceCtr → ServiceCtr) : (s.modCtr p f).restoreFrom = s.restoreFrom := rfl
@[simp] theorem State.modCtr_restored (p : Nat) (f : ServiceCtr → ServiceCtr) : (s.modCtr p f).restored = s.restored := rfl
@[simp] theorem State.modCtr_restoredCount (p : Nat) (f : ServiceCtr → ServiceCtr) : (s.modCtr p f).restoredCount = s.restoredCount := rfl
@[simp] theorem State.modCtr_skipped (p : Nat) (f : ServiceCtr → ServiceCtr) : (s.modCtr p f).skipped = s.skipped := rfl
@[simp] theorem State.modCtr_free (p : Nat) (f : ServiceCtr → ServiceCtr) : (s.modCtr p f).free = s.free := rfl
@[simp] theorem State.modCtr_out (p : Nat) (f : ServiceCtr → ServiceCtr) : (s.modCtr p f).out = s.out := rfl
@[simp] theorem State.modCtr_pending (p : Nat) (f : ServiceCtr → ServiceCtr) : (s.modCtr p f).pending = s.pending := rfl

/-! ## State.putStream -/

@[simp] theorem State.putStream_now (x : StreamSt) : (s.putStream x).now = s.now := rfl
@[simp] theorem State.putStream_power (x : StreamSt) : (s.putStream x).power = s.power := rfl
@[simp] theorem State.putStream_stamp (x : StreamSt) : (s.putStream x).stamp = s.stamp := rfl
@[simp] theorem State.putStream_roleSt (x : StreamSt) : (s.putStream x).roleSt = s.roleSt := rfl
@[simp] theorem State.putStream_settings (x : StreamSt) : (s.putStream x).settings = s.settings := rfl
@[simp] theorem State.putStream_archive (x : StreamSt) : (s.putStream x).archive = s.archive := rfl
@[simp] theorem State.putStream_stackList (x : StreamSt) : (s.putStream x).stackList = s.stackList := rfl
@[simp] theorem State.putStream_patrons (x : StreamSt) : (s.putStream x).patrons = s.patrons := rfl
@[simp] theorem State.putStream_charges (x : StreamSt) : (s.putStream x).charges = s.charges := rfl
@[simp] theorem State.putStream_ended (x : StreamSt) : (s.putStream x).ended = s.ended := rfl
@[simp] theorem State.putStream_nextCharge (x : StreamSt) : (s.putStream x).nextCharge = s.nextCharge := rfl
@[simp] theorem State.putStream_changes (x : StreamSt) : (s.putStream x).changes = s.changes := rfl
@[simp] theorem State.putStream_pageChanges (x : StreamSt) : (s.putStream x).pageChanges = s.pageChanges := rfl
@[simp] theorem State.putStream_keptPlaced (x : StreamSt) : (s.putStream x).keptPlaced = s.keptPlaced := rfl
@[simp] theorem State.putStream_waits (x : StreamSt) : (s.putStream x).waits = s.waits := rfl
@[simp] theorem State.putStream_inputLog (x : StreamSt) : (s.putStream x).inputLog = s.inputLog := rfl
@[simp] theorem State.putStream_stepLog (x : StreamSt) : (s.putStream x).stepLog = s.stepLog := rfl
@[simp] theorem State.putStream_history (x : StreamSt) : (s.putStream x).history = s.history := rfl
@[simp] theorem State.putStream_draft (x : StreamSt) : (s.putStream x).draft = s.draft := rfl
@[simp] theorem State.putStream_promotion (x : StreamSt) : (s.putStream x).promotion = s.promotion := rfl
@[simp] theorem State.putStream_requests (x : StreamSt) : (s.putStream x).requests = s.requests := rfl
@[simp] theorem State.putStream_nextReq (x : StreamSt) : (s.putStream x).nextReq = s.nextReq := rfl
@[simp] theorem State.putStream_cells (x : StreamSt) : (s.putStream x).cells = s.cells := rfl
@[simp] theorem State.putStream_limits (x : StreamSt) : (s.putStream x).limits = s.limits := rfl
@[simp] theorem State.putStream_rota (x : StreamSt) : (s.putStream x).rota = s.rota := rfl
@[simp] theorem State.putStream_mains (x : StreamSt) : (s.putStream x).mains = s.mains := rfl
@[simp] theorem State.putStream_sense (x : StreamSt) : (s.putStream x).sense = s.sense := rfl
@[simp] theorem State.putStream_air (x : StreamSt) : (s.putStream x).air = s.air := rfl
@[simp] theorem State.putStream_nodes (x : StreamSt) : (s.putStream x).nodes = s.nodes := rfl
@[simp] theorem State.putStream_acc (x : StreamSt) : (s.putStream x).acc = s.acc := rfl
@[simp] theorem State.putStream_spine (x : StreamSt) : (s.putStream x).spine = s.spine := rfl
@[simp] theorem State.putStream_port (x : StreamSt) : (s.putStream x).port = s.port := rfl
@[simp] theorem State.putStream_lineSes (x : StreamSt) : (s.putStream x).lineSes = s.lineSes := rfl
@[simp] theorem State.putStream_portSes (x : StreamSt) : (s.putStream x).portSes = s.portSes := rfl
@[simp] theorem State.putStream_events (x : StreamSt) : (s.putStream x).events = s.events := rfl
@[simp] theorem State.putStream_steward (x : StreamSt) : (s.putStream x).steward = s.steward := rfl
@[simp] theorem State.putStream_test (x : StreamSt) : (s.putStream x).test = s.test := rfl
@[simp] theorem State.putStream_digestFree (x : StreamSt) : (s.putStream x).digestFree = s.digestFree := rfl
@[simp] theorem State.putStream_restoring (x : StreamSt) : (s.putStream x).restoring = s.restoring := rfl
@[simp] theorem State.putStream_restoreFrom (x : StreamSt) : (s.putStream x).restoreFrom = s.restoreFrom := rfl
@[simp] theorem State.putStream_restored (x : StreamSt) : (s.putStream x).restored = s.restored := rfl
@[simp] theorem State.putStream_restoredCount (x : StreamSt) : (s.putStream x).restoredCount = s.restoredCount := rfl
@[simp] theorem State.putStream_skipped (x : StreamSt) : (s.putStream x).skipped = s.skipped := rfl
@[simp] theorem State.putStream_free (x : StreamSt) : (s.putStream x).free = s.free := rfl
@[simp] theorem State.putStream_out (x : StreamSt) : (s.putStream x).out = s.out := rfl
@[simp] theorem State.putStream_pending (x : StreamSt) : (s.putStream x).pending = s.pending := rfl

/-! ## State.modNode -/

@[simp] theorem State.modNode_now (h : Nat) (f : NodeSt → NodeSt) : (s.modNode h f).now = s.now := rfl
@[simp] theorem State.modNode_power (h : Nat) (f : NodeSt → NodeSt) : (s.modNode h f).power = s.power := rfl
@[simp] theorem State.modNode_stamp (h : Nat) (f : NodeSt → NodeSt) : (s.modNode h f).stamp = s.stamp := rfl
@[simp] theorem State.modNode_roleSt (h : Nat) (f : NodeSt → NodeSt) : (s.modNode h f).roleSt = s.roleSt := rfl
@[simp] theorem State.modNode_settings (h : Nat) (f : NodeSt → NodeSt) : (s.modNode h f).settings = s.settings := rfl
@[simp] theorem State.modNode_archive (h : Nat) (f : NodeSt → NodeSt) : (s.modNode h f).archive = s.archive := rfl
@[simp] theorem State.modNode_stackList (h : Nat) (f : NodeSt → NodeSt) : (s.modNode h f).stackList = s.stackList := rfl
@[simp] theorem State.modNode_patrons (h : Nat) (f : NodeSt → NodeSt) : (s.modNode h f).patrons = s.patrons := rfl
@[simp] theorem State.modNode_charges (h : Nat) (f : NodeSt → NodeSt) : (s.modNode h f).charges = s.charges := rfl
@[simp] theorem State.modNode_ended (h : Nat) (f : NodeSt → NodeSt) : (s.modNode h f).ended = s.ended := rfl
@[simp] theorem State.modNode_nextCharge (h : Nat) (f : NodeSt → NodeSt) : (s.modNode h f).nextCharge = s.nextCharge := rfl
@[simp] theorem State.modNode_changes (h : Nat) (f : NodeSt → NodeSt) : (s.modNode h f).changes = s.changes := rfl
@[simp] theorem State.modNode_pageChanges (h : Nat) (f : NodeSt → NodeSt) : (s.modNode h f).pageChanges = s.pageChanges := rfl
@[simp] theorem State.modNode_keptPlaced (h : Nat) (f : NodeSt → NodeSt) : (s.modNode h f).keptPlaced = s.keptPlaced := rfl
@[simp] theorem State.modNode_streams (h : Nat) (f : NodeSt → NodeSt) : (s.modNode h f).streams = s.streams := rfl
@[simp] theorem State.modNode_waits (h : Nat) (f : NodeSt → NodeSt) : (s.modNode h f).waits = s.waits := rfl
@[simp] theorem State.modNode_inputLog (h : Nat) (f : NodeSt → NodeSt) : (s.modNode h f).inputLog = s.inputLog := rfl
@[simp] theorem State.modNode_stepLog (h : Nat) (f : NodeSt → NodeSt) : (s.modNode h f).stepLog = s.stepLog := rfl
@[simp] theorem State.modNode_history (h : Nat) (f : NodeSt → NodeSt) : (s.modNode h f).history = s.history := rfl
@[simp] theorem State.modNode_draft (h : Nat) (f : NodeSt → NodeSt) : (s.modNode h f).draft = s.draft := rfl
@[simp] theorem State.modNode_promotion (h : Nat) (f : NodeSt → NodeSt) : (s.modNode h f).promotion = s.promotion := rfl
@[simp] theorem State.modNode_requests (h : Nat) (f : NodeSt → NodeSt) : (s.modNode h f).requests = s.requests := rfl
@[simp] theorem State.modNode_nextReq (h : Nat) (f : NodeSt → NodeSt) : (s.modNode h f).nextReq = s.nextReq := rfl
@[simp] theorem State.modNode_cells (h : Nat) (f : NodeSt → NodeSt) : (s.modNode h f).cells = s.cells := rfl
@[simp] theorem State.modNode_limits (h : Nat) (f : NodeSt → NodeSt) : (s.modNode h f).limits = s.limits := rfl
@[simp] theorem State.modNode_rota (h : Nat) (f : NodeSt → NodeSt) : (s.modNode h f).rota = s.rota := rfl
@[simp] theorem State.modNode_mains (h : Nat) (f : NodeSt → NodeSt) : (s.modNode h f).mains = s.mains := rfl
@[simp] theorem State.modNode_sense (h : Nat) (f : NodeSt → NodeSt) : (s.modNode h f).sense = s.sense := rfl
@[simp] theorem State.modNode_air (h : Nat) (f : NodeSt → NodeSt) : (s.modNode h f).air = s.air := rfl
@[simp] theorem State.modNode_acc (h : Nat) (f : NodeSt → NodeSt) : (s.modNode h f).acc = s.acc := rfl
@[simp] theorem State.modNode_spine (h : Nat) (f : NodeSt → NodeSt) : (s.modNode h f).spine = s.spine := rfl
@[simp] theorem State.modNode_port (h : Nat) (f : NodeSt → NodeSt) : (s.modNode h f).port = s.port := rfl
@[simp] theorem State.modNode_lineSes (h : Nat) (f : NodeSt → NodeSt) : (s.modNode h f).lineSes = s.lineSes := rfl
@[simp] theorem State.modNode_portSes (h : Nat) (f : NodeSt → NodeSt) : (s.modNode h f).portSes = s.portSes := rfl
@[simp] theorem State.modNode_events (h : Nat) (f : NodeSt → NodeSt) : (s.modNode h f).events = s.events := rfl
@[simp] theorem State.modNode_steward (h : Nat) (f : NodeSt → NodeSt) : (s.modNode h f).steward = s.steward := rfl
@[simp] theorem State.modNode_test (h : Nat) (f : NodeSt → NodeSt) : (s.modNode h f).test = s.test := rfl
@[simp] theorem State.modNode_digestFree (h : Nat) (f : NodeSt → NodeSt) : (s.modNode h f).digestFree = s.digestFree := rfl
@[simp] theorem State.modNode_restoring (h : Nat) (f : NodeSt → NodeSt) : (s.modNode h f).restoring = s.restoring := rfl
@[simp] theorem State.modNode_restoreFrom (h : Nat) (f : NodeSt → NodeSt) : (s.modNode h f).restoreFrom = s.restoreFrom := rfl
@[simp] theorem State.modNode_restored (h : Nat) (f : NodeSt → NodeSt) : (s.modNode h f).restored = s.restored := rfl
@[simp] theorem State.modNode_restoredCount (h : Nat) (f : NodeSt → NodeSt) : (s.modNode h f).restoredCount = s.restoredCount := rfl
@[simp] theorem State.modNode_skipped (h : Nat) (f : NodeSt → NodeSt) : (s.modNode h f).skipped = s.skipped := rfl
@[simp] theorem State.modNode_free (h : Nat) (f : NodeSt → NodeSt) : (s.modNode h f).free = s.free := rfl
@[simp] theorem State.modNode_out (h : Nat) (f : NodeSt → NodeSt) : (s.modNode h f).out = s.out := rfl
@[simp] theorem State.modNode_pending (h : Nat) (f : NodeSt → NodeSt) : (s.modNode h f).pending = s.pending := rfl

/-! ## State.modCell -/

@[simp] theorem State.modCell_now (x : Nat) (f : CellSt → CellSt) : (s.modCell x f).now = s.now := rfl
@[simp] theorem State.modCell_power (x : Nat) (f : CellSt → CellSt) : (s.modCell x f).power = s.power := rfl
@[simp] theorem State.modCell_stamp (x : Nat) (f : CellSt → CellSt) : (s.modCell x f).stamp = s.stamp := rfl
@[simp] theorem State.modCell_roleSt (x : Nat) (f : CellSt → CellSt) : (s.modCell x f).roleSt = s.roleSt := rfl
@[simp] theorem State.modCell_settings (x : Nat) (f : CellSt → CellSt) : (s.modCell x f).settings = s.settings := rfl
@[simp] theorem State.modCell_archive (x : Nat) (f : CellSt → CellSt) : (s.modCell x f).archive = s.archive := rfl
@[simp] theorem State.modCell_stackList (x : Nat) (f : CellSt → CellSt) : (s.modCell x f).stackList = s.stackList := rfl
@[simp] theorem State.modCell_patrons (x : Nat) (f : CellSt → CellSt) : (s.modCell x f).patrons = s.patrons := rfl
@[simp] theorem State.modCell_charges (x : Nat) (f : CellSt → CellSt) : (s.modCell x f).charges = s.charges := rfl
@[simp] theorem State.modCell_ended (x : Nat) (f : CellSt → CellSt) : (s.modCell x f).ended = s.ended := rfl
@[simp] theorem State.modCell_nextCharge (x : Nat) (f : CellSt → CellSt) : (s.modCell x f).nextCharge = s.nextCharge := rfl
@[simp] theorem State.modCell_changes (x : Nat) (f : CellSt → CellSt) : (s.modCell x f).changes = s.changes := rfl
@[simp] theorem State.modCell_pageChanges (x : Nat) (f : CellSt → CellSt) : (s.modCell x f).pageChanges = s.pageChanges := rfl
@[simp] theorem State.modCell_keptPlaced (x : Nat) (f : CellSt → CellSt) : (s.modCell x f).keptPlaced = s.keptPlaced := rfl
@[simp] theorem State.modCell_streams (x : Nat) (f : CellSt → CellSt) : (s.modCell x f).streams = s.streams := rfl
@[simp] theorem State.modCell_waits (x : Nat) (f : CellSt → CellSt) : (s.modCell x f).waits = s.waits := rfl
@[simp] theorem State.modCell_inputLog (x : Nat) (f : CellSt → CellSt) : (s.modCell x f).inputLog = s.inputLog := rfl
@[simp] theorem State.modCell_stepLog (x : Nat) (f : CellSt → CellSt) : (s.modCell x f).stepLog = s.stepLog := rfl
@[simp] theorem State.modCell_history (x : Nat) (f : CellSt → CellSt) : (s.modCell x f).history = s.history := rfl
@[simp] theorem State.modCell_draft (x : Nat) (f : CellSt → CellSt) : (s.modCell x f).draft = s.draft := rfl
@[simp] theorem State.modCell_promotion (x : Nat) (f : CellSt → CellSt) : (s.modCell x f).promotion = s.promotion := rfl
@[simp] theorem State.modCell_requests (x : Nat) (f : CellSt → CellSt) : (s.modCell x f).requests = s.requests := rfl
@[simp] theorem State.modCell_nextReq (x : Nat) (f : CellSt → CellSt) : (s.modCell x f).nextReq = s.nextReq := rfl
@[simp] theorem State.modCell_limits (x : Nat) (f : CellSt → CellSt) : (s.modCell x f).limits = s.limits := rfl
@[simp] theorem State.modCell_rota (x : Nat) (f : CellSt → CellSt) : (s.modCell x f).rota = s.rota := rfl
@[simp] theorem State.modCell_mains (x : Nat) (f : CellSt → CellSt) : (s.modCell x f).mains = s.mains := rfl
@[simp] theorem State.modCell_sense (x : Nat) (f : CellSt → CellSt) : (s.modCell x f).sense = s.sense := rfl
@[simp] theorem State.modCell_air (x : Nat) (f : CellSt → CellSt) : (s.modCell x f).air = s.air := rfl
@[simp] theorem State.modCell_nodes (x : Nat) (f : CellSt → CellSt) : (s.modCell x f).nodes = s.nodes := rfl
@[simp] theorem State.modCell_acc (x : Nat) (f : CellSt → CellSt) : (s.modCell x f).acc = s.acc := rfl
@[simp] theorem State.modCell_spine (x : Nat) (f : CellSt → CellSt) : (s.modCell x f).spine = s.spine := rfl
@[simp] theorem State.modCell_port (x : Nat) (f : CellSt → CellSt) : (s.modCell x f).port = s.port := rfl
@[simp] theorem State.modCell_lineSes (x : Nat) (f : CellSt → CellSt) : (s.modCell x f).lineSes = s.lineSes := rfl
@[simp] theorem State.modCell_portSes (x : Nat) (f : CellSt → CellSt) : (s.modCell x f).portSes = s.portSes := rfl
@[simp] theorem State.modCell_events (x : Nat) (f : CellSt → CellSt) : (s.modCell x f).events = s.events := rfl
@[simp] theorem State.modCell_steward (x : Nat) (f : CellSt → CellSt) : (s.modCell x f).steward = s.steward := rfl
@[simp] theorem State.modCell_test (x : Nat) (f : CellSt → CellSt) : (s.modCell x f).test = s.test := rfl
@[simp] theorem State.modCell_digestFree (x : Nat) (f : CellSt → CellSt) : (s.modCell x f).digestFree = s.digestFree := rfl
@[simp] theorem State.modCell_restoring (x : Nat) (f : CellSt → CellSt) : (s.modCell x f).restoring = s.restoring := rfl
@[simp] theorem State.modCell_restoreFrom (x : Nat) (f : CellSt → CellSt) : (s.modCell x f).restoreFrom = s.restoreFrom := rfl
@[simp] theorem State.modCell_restored (x : Nat) (f : CellSt → CellSt) : (s.modCell x f).restored = s.restored := rfl
@[simp] theorem State.modCell_restoredCount (x : Nat) (f : CellSt → CellSt) : (s.modCell x f).restoredCount = s.restoredCount := rfl
@[simp] theorem State.modCell_skipped (x : Nat) (f : CellSt → CellSt) : (s.modCell x f).skipped = s.skipped := rfl
@[simp] theorem State.modCell_free (x : Nat) (f : CellSt → CellSt) : (s.modCell x f).free = s.free := rfl
@[simp] theorem State.modCell_out (x : Nat) (f : CellSt → CellSt) : (s.modCell x f).out = s.out := rfl
@[simp] theorem State.modCell_pending (x : Nat) (f : CellSt → CellSt) : (s.modCell x f).pending = s.pending := rfl

/-! ## State.modCharge -/

@[simp] theorem State.modCharge_now (i : Nat) (f : ChargeSt → ChargeSt) : (s.modCharge i f).now = s.now := rfl
@[simp] theorem State.modCharge_power (i : Nat) (f : ChargeSt → ChargeSt) : (s.modCharge i f).power = s.power := rfl
@[simp] theorem State.modCharge_stamp (i : Nat) (f : ChargeSt → ChargeSt) : (s.modCharge i f).stamp = s.stamp := rfl
@[simp] theorem State.modCharge_roleSt (i : Nat) (f : ChargeSt → ChargeSt) : (s.modCharge i f).roleSt = s.roleSt := rfl
@[simp] theorem State.modCharge_settings (i : Nat) (f : ChargeSt → ChargeSt) : (s.modCharge i f).settings = s.settings := rfl
@[simp] theorem State.modCharge_archive (i : Nat) (f : ChargeSt → ChargeSt) : (s.modCharge i f).archive = s.archive := rfl
@[simp] theorem State.modCharge_stackList (i : Nat) (f : ChargeSt → ChargeSt) : (s.modCharge i f).stackList = s.stackList := rfl
@[simp] theorem State.modCharge_patrons (i : Nat) (f : ChargeSt → ChargeSt) : (s.modCharge i f).patrons = s.patrons := rfl
@[simp] theorem State.modCharge_ended (i : Nat) (f : ChargeSt → ChargeSt) : (s.modCharge i f).ended = s.ended := rfl
@[simp] theorem State.modCharge_nextCharge (i : Nat) (f : ChargeSt → ChargeSt) : (s.modCharge i f).nextCharge = s.nextCharge := rfl
@[simp] theorem State.modCharge_changes (i : Nat) (f : ChargeSt → ChargeSt) : (s.modCharge i f).changes = s.changes := rfl
@[simp] theorem State.modCharge_pageChanges (i : Nat) (f : ChargeSt → ChargeSt) : (s.modCharge i f).pageChanges = s.pageChanges := rfl
@[simp] theorem State.modCharge_keptPlaced (i : Nat) (f : ChargeSt → ChargeSt) : (s.modCharge i f).keptPlaced = s.keptPlaced := rfl
@[simp] theorem State.modCharge_streams (i : Nat) (f : ChargeSt → ChargeSt) : (s.modCharge i f).streams = s.streams := rfl
@[simp] theorem State.modCharge_waits (i : Nat) (f : ChargeSt → ChargeSt) : (s.modCharge i f).waits = s.waits := rfl
@[simp] theorem State.modCharge_inputLog (i : Nat) (f : ChargeSt → ChargeSt) : (s.modCharge i f).inputLog = s.inputLog := rfl
@[simp] theorem State.modCharge_stepLog (i : Nat) (f : ChargeSt → ChargeSt) : (s.modCharge i f).stepLog = s.stepLog := rfl
@[simp] theorem State.modCharge_history (i : Nat) (f : ChargeSt → ChargeSt) : (s.modCharge i f).history = s.history := rfl
@[simp] theorem State.modCharge_draft (i : Nat) (f : ChargeSt → ChargeSt) : (s.modCharge i f).draft = s.draft := rfl
@[simp] theorem State.modCharge_promotion (i : Nat) (f : ChargeSt → ChargeSt) : (s.modCharge i f).promotion = s.promotion := rfl
@[simp] theorem State.modCharge_requests (i : Nat) (f : ChargeSt → ChargeSt) : (s.modCharge i f).requests = s.requests := rfl
@[simp] theorem State.modCharge_nextReq (i : Nat) (f : ChargeSt → ChargeSt) : (s.modCharge i f).nextReq = s.nextReq := rfl
@[simp] theorem State.modCharge_cells (i : Nat) (f : ChargeSt → ChargeSt) : (s.modCharge i f).cells = s.cells := rfl
@[simp] theorem State.modCharge_limits (i : Nat) (f : ChargeSt → ChargeSt) : (s.modCharge i f).limits = s.limits := rfl
@[simp] theorem State.modCharge_rota (i : Nat) (f : ChargeSt → ChargeSt) : (s.modCharge i f).rota = s.rota := rfl
@[simp] theorem State.modCharge_mains (i : Nat) (f : ChargeSt → ChargeSt) : (s.modCharge i f).mains = s.mains := rfl
@[simp] theorem State.modCharge_sense (i : Nat) (f : ChargeSt → ChargeSt) : (s.modCharge i f).sense = s.sense := rfl
@[simp] theorem State.modCharge_air (i : Nat) (f : ChargeSt → ChargeSt) : (s.modCharge i f).air = s.air := rfl
@[simp] theorem State.modCharge_nodes (i : Nat) (f : ChargeSt → ChargeSt) : (s.modCharge i f).nodes = s.nodes := rfl
@[simp] theorem State.modCharge_acc (i : Nat) (f : ChargeSt → ChargeSt) : (s.modCharge i f).acc = s.acc := rfl
@[simp] theorem State.modCharge_spine (i : Nat) (f : ChargeSt → ChargeSt) : (s.modCharge i f).spine = s.spine := rfl
@[simp] theorem State.modCharge_port (i : Nat) (f : ChargeSt → ChargeSt) : (s.modCharge i f).port = s.port := rfl
@[simp] theorem State.modCharge_lineSes (i : Nat) (f : ChargeSt → ChargeSt) : (s.modCharge i f).lineSes = s.lineSes := rfl
@[simp] theorem State.modCharge_portSes (i : Nat) (f : ChargeSt → ChargeSt) : (s.modCharge i f).portSes = s.portSes := rfl
@[simp] theorem State.modCharge_events (i : Nat) (f : ChargeSt → ChargeSt) : (s.modCharge i f).events = s.events := rfl
@[simp] theorem State.modCharge_steward (i : Nat) (f : ChargeSt → ChargeSt) : (s.modCharge i f).steward = s.steward := rfl
@[simp] theorem State.modCharge_test (i : Nat) (f : ChargeSt → ChargeSt) : (s.modCharge i f).test = s.test := rfl
@[simp] theorem State.modCharge_digestFree (i : Nat) (f : ChargeSt → ChargeSt) : (s.modCharge i f).digestFree = s.digestFree := rfl
@[simp] theorem State.modCharge_restoring (i : Nat) (f : ChargeSt → ChargeSt) : (s.modCharge i f).restoring = s.restoring := rfl
@[simp] theorem State.modCharge_restoreFrom (i : Nat) (f : ChargeSt → ChargeSt) : (s.modCharge i f).restoreFrom = s.restoreFrom := rfl
@[simp] theorem State.modCharge_restored (i : Nat) (f : ChargeSt → ChargeSt) : (s.modCharge i f).restored = s.restored := rfl
@[simp] theorem State.modCharge_restoredCount (i : Nat) (f : ChargeSt → ChargeSt) : (s.modCharge i f).restoredCount = s.restoredCount := rfl
@[simp] theorem State.modCharge_skipped (i : Nat) (f : ChargeSt → ChargeSt) : (s.modCharge i f).skipped = s.skipped := rfl
@[simp] theorem State.modCharge_free (i : Nat) (f : ChargeSt → ChargeSt) : (s.modCharge i f).free = s.free := rfl
@[simp] theorem State.modCharge_out (i : Nat) (f : ChargeSt → ChargeSt) : (s.modCharge i f).out = s.out := rfl
@[simp] theorem State.modCharge_pending (i : Nat) (f : ChargeSt → ChargeSt) : (s.modCharge i f).pending = s.pending := rfl

/-! ## State.modPort -/

@[simp] theorem State.modPort_now (x : Nat) (f : PortSt → PortSt) : (s.modPort x f).now = s.now := rfl
@[simp] theorem State.modPort_power (x : Nat) (f : PortSt → PortSt) : (s.modPort x f).power = s.power := rfl
@[simp] theorem State.modPort_stamp (x : Nat) (f : PortSt → PortSt) : (s.modPort x f).stamp = s.stamp := rfl
@[simp] theorem State.modPort_roleSt (x : Nat) (f : PortSt → PortSt) : (s.modPort x f).roleSt = s.roleSt := rfl
@[simp] theorem State.modPort_settings (x : Nat) (f : PortSt → PortSt) : (s.modPort x f).settings = s.settings := rfl
@[simp] theorem State.modPort_archive (x : Nat) (f : PortSt → PortSt) : (s.modPort x f).archive = s.archive := rfl
@[simp] theorem State.modPort_stackList (x : Nat) (f : PortSt → PortSt) : (s.modPort x f).stackList = s.stackList := rfl
@[simp] theorem State.modPort_patrons (x : Nat) (f : PortSt → PortSt) : (s.modPort x f).patrons = s.patrons := rfl
@[simp] theorem State.modPort_charges (x : Nat) (f : PortSt → PortSt) : (s.modPort x f).charges = s.charges := rfl
@[simp] theorem State.modPort_ended (x : Nat) (f : PortSt → PortSt) : (s.modPort x f).ended = s.ended := rfl
@[simp] theorem State.modPort_nextCharge (x : Nat) (f : PortSt → PortSt) : (s.modPort x f).nextCharge = s.nextCharge := rfl
@[simp] theorem State.modPort_changes (x : Nat) (f : PortSt → PortSt) : (s.modPort x f).changes = s.changes := rfl
@[simp] theorem State.modPort_pageChanges (x : Nat) (f : PortSt → PortSt) : (s.modPort x f).pageChanges = s.pageChanges := rfl
@[simp] theorem State.modPort_keptPlaced (x : Nat) (f : PortSt → PortSt) : (s.modPort x f).keptPlaced = s.keptPlaced := rfl
@[simp] theorem State.modPort_streams (x : Nat) (f : PortSt → PortSt) : (s.modPort x f).streams = s.streams := rfl
@[simp] theorem State.modPort_waits (x : Nat) (f : PortSt → PortSt) : (s.modPort x f).waits = s.waits := rfl
@[simp] theorem State.modPort_inputLog (x : Nat) (f : PortSt → PortSt) : (s.modPort x f).inputLog = s.inputLog := rfl
@[simp] theorem State.modPort_stepLog (x : Nat) (f : PortSt → PortSt) : (s.modPort x f).stepLog = s.stepLog := rfl
@[simp] theorem State.modPort_history (x : Nat) (f : PortSt → PortSt) : (s.modPort x f).history = s.history := rfl
@[simp] theorem State.modPort_draft (x : Nat) (f : PortSt → PortSt) : (s.modPort x f).draft = s.draft := rfl
@[simp] theorem State.modPort_promotion (x : Nat) (f : PortSt → PortSt) : (s.modPort x f).promotion = s.promotion := rfl
@[simp] theorem State.modPort_requests (x : Nat) (f : PortSt → PortSt) : (s.modPort x f).requests = s.requests := rfl
@[simp] theorem State.modPort_nextReq (x : Nat) (f : PortSt → PortSt) : (s.modPort x f).nextReq = s.nextReq := rfl
@[simp] theorem State.modPort_cells (x : Nat) (f : PortSt → PortSt) : (s.modPort x f).cells = s.cells := rfl
@[simp] theorem State.modPort_limits (x : Nat) (f : PortSt → PortSt) : (s.modPort x f).limits = s.limits := rfl
@[simp] theorem State.modPort_rota (x : Nat) (f : PortSt → PortSt) : (s.modPort x f).rota = s.rota := rfl
@[simp] theorem State.modPort_mains (x : Nat) (f : PortSt → PortSt) : (s.modPort x f).mains = s.mains := rfl
@[simp] theorem State.modPort_sense (x : Nat) (f : PortSt → PortSt) : (s.modPort x f).sense = s.sense := rfl
@[simp] theorem State.modPort_nodes (x : Nat) (f : PortSt → PortSt) : (s.modPort x f).nodes = s.nodes := rfl
@[simp] theorem State.modPort_acc (x : Nat) (f : PortSt → PortSt) : (s.modPort x f).acc = s.acc := rfl
@[simp] theorem State.modPort_spine (x : Nat) (f : PortSt → PortSt) : (s.modPort x f).spine = s.spine := rfl
@[simp] theorem State.modPort_port (x : Nat) (f : PortSt → PortSt) : (s.modPort x f).port = s.port := rfl
@[simp] theorem State.modPort_lineSes (x : Nat) (f : PortSt → PortSt) : (s.modPort x f).lineSes = s.lineSes := rfl
@[simp] theorem State.modPort_portSes (x : Nat) (f : PortSt → PortSt) : (s.modPort x f).portSes = s.portSes := rfl
@[simp] theorem State.modPort_events (x : Nat) (f : PortSt → PortSt) : (s.modPort x f).events = s.events := rfl
@[simp] theorem State.modPort_steward (x : Nat) (f : PortSt → PortSt) : (s.modPort x f).steward = s.steward := rfl
@[simp] theorem State.modPort_test (x : Nat) (f : PortSt → PortSt) : (s.modPort x f).test = s.test := rfl
@[simp] theorem State.modPort_digestFree (x : Nat) (f : PortSt → PortSt) : (s.modPort x f).digestFree = s.digestFree := rfl
@[simp] theorem State.modPort_restoring (x : Nat) (f : PortSt → PortSt) : (s.modPort x f).restoring = s.restoring := rfl
@[simp] theorem State.modPort_restoreFrom (x : Nat) (f : PortSt → PortSt) : (s.modPort x f).restoreFrom = s.restoreFrom := rfl
@[simp] theorem State.modPort_restored (x : Nat) (f : PortSt → PortSt) : (s.modPort x f).restored = s.restored := rfl
@[simp] theorem State.modPort_restoredCount (x : Nat) (f : PortSt → PortSt) : (s.modPort x f).restoredCount = s.restoredCount := rfl
@[simp] theorem State.modPort_skipped (x : Nat) (f : PortSt → PortSt) : (s.modPort x f).skipped = s.skipped := rfl
@[simp] theorem State.modPort_free (x : Nat) (f : PortSt → PortSt) : (s.modPort x f).free = s.free := rfl
@[simp] theorem State.modPort_out (x : Nat) (f : PortSt → PortSt) : (s.modPort x f).out = s.out := rfl
@[simp] theorem State.modPort_pending (x : Nat) (f : PortSt → PortSt) : (s.modPort x f).pending = s.pending := rfl

/-! ## State.modReq -/

@[simp] theorem State.modReq_now (i : Nat) (f : Request → Request) : (s.modReq i f).now = s.now := rfl
@[simp] theorem State.modReq_power (i : Nat) (f : Request → Request) : (s.modReq i f).power = s.power := rfl
@[simp] theorem State.modReq_stamp (i : Nat) (f : Request → Request) : (s.modReq i f).stamp = s.stamp := rfl
@[simp] theorem State.modReq_roleSt (i : Nat) (f : Request → Request) : (s.modReq i f).roleSt = s.roleSt := rfl
@[simp] theorem State.modReq_settings (i : Nat) (f : Request → Request) : (s.modReq i f).settings = s.settings := rfl
@[simp] theorem State.modReq_archive (i : Nat) (f : Request → Request) : (s.modReq i f).archive = s.archive := rfl
@[simp] theorem State.modReq_stackList (i : Nat) (f : Request → Request) : (s.modReq i f).stackList = s.stackList := rfl
@[simp] theorem State.modReq_patrons (i : Nat) (f : Request → Request) : (s.modReq i f).patrons = s.patrons := rfl
@[simp] theorem State.modReq_charges (i : Nat) (f : Request → Request) : (s.modReq i f).charges = s.charges := rfl
@[simp] theorem State.modReq_ended (i : Nat) (f : Request → Request) : (s.modReq i f).ended = s.ended := rfl
@[simp] theorem State.modReq_nextCharge (i : Nat) (f : Request → Request) : (s.modReq i f).nextCharge = s.nextCharge := rfl
@[simp] theorem State.modReq_changes (i : Nat) (f : Request → Request) : (s.modReq i f).changes = s.changes := rfl
@[simp] theorem State.modReq_pageChanges (i : Nat) (f : Request → Request) : (s.modReq i f).pageChanges = s.pageChanges := rfl
@[simp] theorem State.modReq_keptPlaced (i : Nat) (f : Request → Request) : (s.modReq i f).keptPlaced = s.keptPlaced := rfl
@[simp] theorem State.modReq_streams (i : Nat) (f : Request → Request) : (s.modReq i f).streams = s.streams := rfl
@[simp] theorem State.modReq_waits (i : Nat) (f : Request → Request) : (s.modReq i f).waits = s.waits := rfl
@[simp] theorem State.modReq_inputLog (i : Nat) (f : Request → Request) : (s.modReq i f).inputLog = s.inputLog := rfl
@[simp] theorem State.modReq_stepLog (i : Nat) (f : Request → Request) : (s.modReq i f).stepLog = s.stepLog := rfl
@[simp] theorem State.modReq_history (i : Nat) (f : Request → Request) : (s.modReq i f).history = s.history := rfl
@[simp] theorem State.modReq_draft (i : Nat) (f : Request → Request) : (s.modReq i f).draft = s.draft := rfl
@[simp] theorem State.modReq_promotion (i : Nat) (f : Request → Request) : (s.modReq i f).promotion = s.promotion := rfl
@[simp] theorem State.modReq_nextReq (i : Nat) (f : Request → Request) : (s.modReq i f).nextReq = s.nextReq := rfl
@[simp] theorem State.modReq_cells (i : Nat) (f : Request → Request) : (s.modReq i f).cells = s.cells := rfl
@[simp] theorem State.modReq_limits (i : Nat) (f : Request → Request) : (s.modReq i f).limits = s.limits := rfl
@[simp] theorem State.modReq_rota (i : Nat) (f : Request → Request) : (s.modReq i f).rota = s.rota := rfl
@[simp] theorem State.modReq_mains (i : Nat) (f : Request → Request) : (s.modReq i f).mains = s.mains := rfl
@[simp] theorem State.modReq_sense (i : Nat) (f : Request → Request) : (s.modReq i f).sense = s.sense := rfl
@[simp] theorem State.modReq_air (i : Nat) (f : Request → Request) : (s.modReq i f).air = s.air := rfl
@[simp] theorem State.modReq_nodes (i : Nat) (f : Request → Request) : (s.modReq i f).nodes = s.nodes := rfl
@[simp] theorem State.modReq_acc (i : Nat) (f : Request → Request) : (s.modReq i f).acc = s.acc := rfl
@[simp] theorem State.modReq_spine (i : Nat) (f : Request → Request) : (s.modReq i f).spine = s.spine := rfl
@[simp] theorem State.modReq_port (i : Nat) (f : Request → Request) : (s.modReq i f).port = s.port := rfl
@[simp] theorem State.modReq_lineSes (i : Nat) (f : Request → Request) : (s.modReq i f).lineSes = s.lineSes := rfl
@[simp] theorem State.modReq_portSes (i : Nat) (f : Request → Request) : (s.modReq i f).portSes = s.portSes := rfl
@[simp] theorem State.modReq_events (i : Nat) (f : Request → Request) : (s.modReq i f).events = s.events := rfl
@[simp] theorem State.modReq_steward (i : Nat) (f : Request → Request) : (s.modReq i f).steward = s.steward := rfl
@[simp] theorem State.modReq_test (i : Nat) (f : Request → Request) : (s.modReq i f).test = s.test := rfl
@[simp] theorem State.modReq_digestFree (i : Nat) (f : Request → Request) : (s.modReq i f).digestFree = s.digestFree := rfl
@[simp] theorem State.modReq_restoring (i : Nat) (f : Request → Request) : (s.modReq i f).restoring = s.restoring := rfl
@[simp] theorem State.modReq_restoreFrom (i : Nat) (f : Request → Request) : (s.modReq i f).restoreFrom = s.restoreFrom := rfl
@[simp] theorem State.modReq_restored (i : Nat) (f : Request → Request) : (s.modReq i f).restored = s.restored := rfl
@[simp] theorem State.modReq_restoredCount (i : Nat) (f : Request → Request) : (s.modReq i f).restoredCount = s.restoredCount := rfl
@[simp] theorem State.modReq_skipped (i : Nat) (f : Request → Request) : (s.modReq i f).skipped = s.skipped := rfl
@[simp] theorem State.modReq_free (i : Nat) (f : Request → Request) : (s.modReq i f).free = s.free := rfl
@[simp] theorem State.modReq_out (i : Nat) (f : Request → Request) : (s.modReq i f).out = s.out := rfl
@[simp] theorem State.modReq_pending (i : Nat) (f : Request → Request) : (s.modReq i f).pending = s.pending := rfl

/-! ## State.modSes -/

@[simp] theorem State.modSes_now (u : Sess) (f : SessSt → SessSt) : (s.modSes u f).now = s.now := by cases u <;> rfl
@[simp] theorem State.modSes_power (u : Sess) (f : SessSt → SessSt) : (s.modSes u f).power = s.power := by cases u <;> rfl
@[simp] theorem State.modSes_stamp (u : Sess) (f : SessSt → SessSt) : (s.modSes u f).stamp = s.stamp := by cases u <;> rfl
@[simp] theorem State.modSes_roleSt (u : Sess) (f : SessSt → SessSt) : (s.modSes u f).roleSt = s.roleSt := by cases u <;> rfl
@[simp] theorem State.modSes_settings (u : Sess) (f : SessSt → SessSt) : (s.modSes u f).settings = s.settings := by cases u <;> rfl
@[simp] theorem State.modSes_archive (u : Sess) (f : SessSt → SessSt) : (s.modSes u f).archive = s.archive := by cases u <;> rfl
@[simp] theorem State.modSes_stackList (u : Sess) (f : SessSt → SessSt) : (s.modSes u f).stackList = s.stackList := by cases u <;> rfl
@[simp] theorem State.modSes_patrons (u : Sess) (f : SessSt → SessSt) : (s.modSes u f).patrons = s.patrons := by cases u <;> rfl
@[simp] theorem State.modSes_charges (u : Sess) (f : SessSt → SessSt) : (s.modSes u f).charges = s.charges := by cases u <;> rfl
@[simp] theorem State.modSes_ended (u : Sess) (f : SessSt → SessSt) : (s.modSes u f).ended = s.ended := by cases u <;> rfl
@[simp] theorem State.modSes_nextCharge (u : Sess) (f : SessSt → SessSt) : (s.modSes u f).nextCharge = s.nextCharge := by cases u <;> rfl
@[simp] theorem State.modSes_changes (u : Sess) (f : SessSt → SessSt) : (s.modSes u f).changes = s.changes := by cases u <;> rfl
@[simp] theorem State.modSes_pageChanges (u : Sess) (f : SessSt → SessSt) : (s.modSes u f).pageChanges = s.pageChanges := by cases u <;> rfl
@[simp] theorem State.modSes_keptPlaced (u : Sess) (f : SessSt → SessSt) : (s.modSes u f).keptPlaced = s.keptPlaced := by cases u <;> rfl
@[simp] theorem State.modSes_streams (u : Sess) (f : SessSt → SessSt) : (s.modSes u f).streams = s.streams := by cases u <;> rfl
@[simp] theorem State.modSes_waits (u : Sess) (f : SessSt → SessSt) : (s.modSes u f).waits = s.waits := by cases u <;> rfl
@[simp] theorem State.modSes_inputLog (u : Sess) (f : SessSt → SessSt) : (s.modSes u f).inputLog = s.inputLog := by cases u <;> rfl
@[simp] theorem State.modSes_stepLog (u : Sess) (f : SessSt → SessSt) : (s.modSes u f).stepLog = s.stepLog := by cases u <;> rfl
@[simp] theorem State.modSes_history (u : Sess) (f : SessSt → SessSt) : (s.modSes u f).history = s.history := by cases u <;> rfl
@[simp] theorem State.modSes_draft (u : Sess) (f : SessSt → SessSt) : (s.modSes u f).draft = s.draft := by cases u <;> rfl
@[simp] theorem State.modSes_promotion (u : Sess) (f : SessSt → SessSt) : (s.modSes u f).promotion = s.promotion := by cases u <;> rfl
@[simp] theorem State.modSes_requests (u : Sess) (f : SessSt → SessSt) : (s.modSes u f).requests = s.requests := by cases u <;> rfl
@[simp] theorem State.modSes_nextReq (u : Sess) (f : SessSt → SessSt) : (s.modSes u f).nextReq = s.nextReq := by cases u <;> rfl
@[simp] theorem State.modSes_cells (u : Sess) (f : SessSt → SessSt) : (s.modSes u f).cells = s.cells := by cases u <;> rfl
@[simp] theorem State.modSes_limits (u : Sess) (f : SessSt → SessSt) : (s.modSes u f).limits = s.limits := by cases u <;> rfl
@[simp] theorem State.modSes_rota (u : Sess) (f : SessSt → SessSt) : (s.modSes u f).rota = s.rota := by cases u <;> rfl
@[simp] theorem State.modSes_mains (u : Sess) (f : SessSt → SessSt) : (s.modSes u f).mains = s.mains := by cases u <;> rfl
@[simp] theorem State.modSes_sense (u : Sess) (f : SessSt → SessSt) : (s.modSes u f).sense = s.sense := by cases u <;> rfl
@[simp] theorem State.modSes_air (u : Sess) (f : SessSt → SessSt) : (s.modSes u f).air = s.air := by cases u <;> rfl
@[simp] theorem State.modSes_nodes (u : Sess) (f : SessSt → SessSt) : (s.modSes u f).nodes = s.nodes := by cases u <;> rfl
@[simp] theorem State.modSes_acc (u : Sess) (f : SessSt → SessSt) : (s.modSes u f).acc = s.acc := by cases u <;> rfl
@[simp] theorem State.modSes_spine (u : Sess) (f : SessSt → SessSt) : (s.modSes u f).spine = s.spine := by cases u <;> rfl
@[simp] theorem State.modSes_port (u : Sess) (f : SessSt → SessSt) : (s.modSes u f).port = s.port := by cases u <;> rfl
@[simp] theorem State.modSes_events (u : Sess) (f : SessSt → SessSt) : (s.modSes u f).events = s.events := by cases u <;> rfl
@[simp] theorem State.modSes_steward (u : Sess) (f : SessSt → SessSt) : (s.modSes u f).steward = s.steward := by cases u <;> rfl
@[simp] theorem State.modSes_test (u : Sess) (f : SessSt → SessSt) : (s.modSes u f).test = s.test := by cases u <;> rfl
@[simp] theorem State.modSes_digestFree (u : Sess) (f : SessSt → SessSt) : (s.modSes u f).digestFree = s.digestFree := by cases u <;> rfl
@[simp] theorem State.modSes_restoring (u : Sess) (f : SessSt → SessSt) : (s.modSes u f).restoring = s.restoring := by cases u <;> rfl
@[simp] theorem State.modSes_restoreFrom (u : Sess) (f : SessSt → SessSt) : (s.modSes u f).restoreFrom = s.restoreFrom := by cases u <;> rfl
@[simp] theorem State.modSes_restored (u : Sess) (f : SessSt → SessSt) : (s.modSes u f).restored = s.restored := by cases u <;> rfl
@[simp] theorem State.modSes_restoredCount (u : Sess) (f : SessSt → SessSt) : (s.modSes u f).restoredCount = s.restoredCount := by cases u <;> rfl
@[simp] theorem State.modSes_skipped (u : Sess) (f : SessSt → SessSt) : (s.modSes u f).skipped = s.skipped := by cases u <;> rfl
@[simp] theorem State.modSes_free (u : Sess) (f : SessSt → SessSt) : (s.modSes u f).free = s.free := by cases u <;> rfl
@[simp] theorem State.modSes_out (u : Sess) (f : SessSt → SessSt) : (s.modSes u f).out = s.out := by cases u <;> rfl
@[simp] theorem State.modSes_pending (u : Sess) (f : SessSt → SessSt) : (s.modSes u f).pending = s.pending := by cases u <;> rfl

/-! ## State.settle -/

@[simp] theorem State.settle_now (s' : State) : (s.settle s').now = s.now := rfl
@[simp] theorem State.settle_power (s' : State) : (s.settle s').power = s'.power := rfl
@[simp] theorem State.settle_stamp (s' : State) : (s.settle s').stamp = s'.stamp := rfl
@[simp] theorem State.settle_roleSt (s' : State) : (s.settle s').roleSt = s'.roleSt := rfl
@[simp] theorem State.settle_settings (s' : State) : (s.settle s').settings = s'.settings := rfl
@[simp] theorem State.settle_archive (s' : State) : (s.settle s').archive = s'.archive := rfl
@[simp] theorem State.settle_stackList (s' : State) : (s.settle s').stackList = s'.stackList := rfl
@[simp] theorem State.settle_patrons (s' : State) : (s.settle s').patrons = s'.patrons := rfl
@[simp] theorem State.settle_charges (s' : State) : (s.settle s').charges = s'.charges := rfl
@[simp] theorem State.settle_ended (s' : State) : (s.settle s').ended = s'.ended := rfl
@[simp] theorem State.settle_nextCharge (s' : State) : (s.settle s').nextCharge = s'.nextCharge := rfl
@[simp] theorem State.settle_changes (s' : State) : (s.settle s').changes = s'.changes := rfl
@[simp] theorem State.settle_pageChanges (s' : State) : (s.settle s').pageChanges = s'.pageChanges := rfl
@[simp] theorem State.settle_keptPlaced (s' : State) : (s.settle s').keptPlaced = s'.keptPlaced := rfl
@[simp] theorem State.settle_streams (s' : State) : (s.settle s').streams = s'.streams := rfl
@[simp] theorem State.settle_waits (s' : State) : (s.settle s').waits = s'.waits := rfl
@[simp] theorem State.settle_inputLog (s' : State) : (s.settle s').inputLog = s'.inputLog := rfl
@[simp] theorem State.settle_stepLog (s' : State) : (s.settle s').stepLog = s'.stepLog := rfl
@[simp] theorem State.settle_history (s' : State) : (s.settle s').history = s'.history := rfl
@[simp] theorem State.settle_draft (s' : State) : (s.settle s').draft = s'.draft := rfl
@[simp] theorem State.settle_promotion (s' : State) : (s.settle s').promotion = s'.promotion := rfl
@[simp] theorem State.settle_requests (s' : State) : (s.settle s').requests = s'.requests := rfl
@[simp] theorem State.settle_nextReq (s' : State) : (s.settle s').nextReq = s'.nextReq := rfl
@[simp] theorem State.settle_cells (s' : State) : (s.settle s').cells = s'.cells := rfl
@[simp] theorem State.settle_limits (s' : State) : (s.settle s').limits = s'.limits := rfl
@[simp] theorem State.settle_rota (s' : State) : (s.settle s').rota = s'.rota := rfl
@[simp] theorem State.settle_mains (s' : State) : (s.settle s').mains = s'.mains := rfl
@[simp] theorem State.settle_sense (s' : State) : (s.settle s').sense = s'.sense := rfl
@[simp] theorem State.settle_air (s' : State) : (s.settle s').air = s'.air := rfl
@[simp] theorem State.settle_nodes (s' : State) : (s.settle s').nodes = s'.nodes := rfl
@[simp] theorem State.settle_acc (s' : State) : (s.settle s').acc = s'.acc := rfl
@[simp] theorem State.settle_spine (s' : State) : (s.settle s').spine = s'.spine := rfl
@[simp] theorem State.settle_lineSes (s' : State) : (s.settle s').lineSes = s'.lineSes := rfl
@[simp] theorem State.settle_portSes (s' : State) : (s.settle s').portSes = s'.portSes := rfl
@[simp] theorem State.settle_events (s' : State) : (s.settle s').events = s'.events := rfl
@[simp] theorem State.settle_steward (s' : State) : (s.settle s').steward = s'.steward := rfl
@[simp] theorem State.settle_digestFree (s' : State) : (s.settle s').digestFree = s'.digestFree := rfl
@[simp] theorem State.settle_restoring (s' : State) : (s.settle s').restoring = s'.restoring := rfl
@[simp] theorem State.settle_restoreFrom (s' : State) : (s.settle s').restoreFrom = s'.restoreFrom := rfl
@[simp] theorem State.settle_restored (s' : State) : (s.settle s').restored = s'.restored := rfl
@[simp] theorem State.settle_restoredCount (s' : State) : (s.settle s').restoredCount = s'.restoredCount := rfl
@[simp] theorem State.settle_skipped (s' : State) : (s.settle s').skipped = s'.skipped := rfl
@[simp] theorem State.settle_free (s' : State) : (s.settle s').free = s'.free := rfl
@[simp] theorem State.settle_out (s' : State) : (s.settle s').out = s'.out := rfl
@[simp] theorem State.settle_pending (s' : State) : (s.settle s').pending = s.pending := rfl

/-! ## The fields that an update changes -/

@[simp] theorem State.advance_now (t : Tick) : (s.advance t).now = max s.now t := rfl
@[simp] theorem State.emit_out (o : Out) : (s.emit o).out = o :: s.out := rfl
@[simp] theorem State.modRegs_regs (f : Regs → Regs) : (s.modRegs f).port.regs = f s.port.regs := rfl
@[simp] theorem State.modRegs_hrdy (f : Regs → Regs) : (s.modRegs f).port.hrdy = s.port.hrdy := rfl
@[simp] theorem State.modRegs_rings (f : Regs → Regs) : (s.modRegs f).port.rings = s.port.rings := rfl
@[simp] theorem State.settle_fuses (s' : State) : (s.settle s').test.fuses = s.test.fuses ||| s'.test.fuses := rfl
@[simp] theorem State.settle_irqen (s' : State) : (s.settle s').port.regs.irqen = s'.port.regs.irqen ||| 4#32 := rfl
@[simp] theorem State.settle_irq (s' : State) : (s.settle s').port.regs.irq = s'.port.regs.irq := rfl
@[simp] theorem State.settle_err (s' : State) : (s.settle s').port.regs.err = s'.port.regs.err := rfl
@[simp] theorem State.settle_rings (s' : State) : (s.settle s').port.rings = s'.port.rings := rfl
@[simp] theorem State.settle_hrdy (s' : State) : (s.settle s').port.hrdy = s'.port.hrdy := rfl
@[simp] theorem State.settle_ringMem (s' : State) : (s.settle s').port.ringMem = s'.port.ringMem := rfl
@[simp] theorem State.settle_mailIn (s' : State) : (s.settle s').port.mailIn = s'.port.mailIn := rfl
@[simp] theorem State.settle_mailOut (s' : State) : (s.settle s').port.mailOut = s'.port.mailOut := rfl
@[simp] theorem State.modSes_lineSession (f : SessSt → SessSt) : (s.modSes .line f).lineSes = f s.lineSes := rfl
@[simp] theorem State.modSes_portSession (f : SessSt → SessSt) : (s.modSes .port f).portSes = f s.portSes := rfl
@[simp] theorem State.modSes_ses (u : Sess) (f : SessSt → SessSt) : (s.modSes u f).ses u = f (s.ses u) := by cases u <;> rfl

end Sys2Proof.Machine
end

