-- ==== Sys2Proof/Laws/Ops.lean ====
section
/-! SUPPORT. What each shared operation can do, said once: a command's shape, a reply, a notice, an event. -/

namespace Sys2Proof.Machine

/-! ## The shape of a command -/

/-- An event of the table always answers a next state, the settled one. -/
theorem occurs_eq (t : Tick) (ok : State → Bool) (act : State → State) (s : State) :
    occurs t ok act s = .next ((s.advance t).settle (if ok (s.advance t) then act (s.advance t) else s.advance t)) := rfl

/-- Where its condition holds it acts. -/
theorem occurs_of {t : Tick} {ok : State → Bool} {act : State → State} {s : State} (h : ok (s.advance t) = true) :
    occurs t ok act s = .next ((s.advance t).settle (act (s.advance t))) := by simp [occurs_eq, h]

/-- Where it does not hold nothing but the time moves. -/
theorem occurs_not {t : Tick} {ok : State → Bool} {act : State → State} {s : State} (h : ok (s.advance t) = false) :
    occurs t ok act s = .next ((s.advance t).settle (s.advance t)) := by simp [occurs_eq, h]

/-- A host write with HRDY high acts. -/
theorem hostWrite_of {t : Tick} {act : State → State} {s : State} (h : (s.advance t).ready = true) :
    occurs t State.ready act s = .next ((s.advance t).settle (act (s.advance t))) := occurs_of h

/-- The end of a transaction that was not held open too long changes nothing more. -/
theorem csRise_of {s : State} (h : s.port.csLow = false) (hd : s.port.deferred = false) : s.csRise = s := by
  unfold State.csRise
  rw [if_neg (by simp [hd]), ← h]

/-! ## Lines -/

/-- Sending a line changes what has left the hub, and the mailbox of the data port. -/
theorem sendLine_shape (s : State) (u : Sess) (tag : Option Nat) (l : HubLine) :
    ∃ p, s.sendLine u tag l = { s with out := .usith u tag l :: s.out, port := p } := by
  cases u with
  | line => exact ⟨_, rfl⟩
  | port =>
    simp only [State.sendLine, State.flushMail]
    split
    · exact ⟨_, rfl⟩
    · split
      · exact ⟨_, rfl⟩
      · exact ⟨_, rfl⟩

/-- Lines sent one after another. -/
theorem sendLines_shape (u : Sess) (tag : Option Nat) (ls : List HubLine) (s : State) :
    ∃ p, ls.foldl (fun s l => s.sendLine u tag l) s =
      { s with out := (ls.reverse.map fun l => Out.usith u tag l) ++ s.out, port := p } := by
  induction ls generalizing s with
  | nil => exact ⟨s.port, rfl⟩
  | cons l ls ih =>
    obtain ⟨p, hp⟩ := sendLine_shape s u tag l
    obtain ⟨q, hq⟩ := ih (s.sendLine u tag l)
    refine ⟨q, ?_⟩
    rw [List.foldl_cons, hq, hp]
    simp

/-- A notice changes what has left the hub, and the mailbox. -/
theorem notify_shape (s : State) (w : String) (fs : List (String × RVal)) :
    ∃ o p, s.notify w fs = { s with out := o, port := p } := by
  simp only [State.notify]
  split
  · exact ⟨s.out, s.port, rfl⟩
  · split
    · obtain ⟨p, hp⟩ := sendLine_shape s .line none (.notice w fs)
      rw [hp]
      split
      · obtain ⟨q, hq⟩ := sendLine_shape { s with out := .usith .line none (.notice w fs) :: s.out, port := p } .port none (.notice w fs)
        rw [hq]
        exact ⟨_, _, rfl⟩
      · exact ⟨_, _, rfl⟩
    · split
      · obtain ⟨q, hq⟩ := sendLine_shape s .port none (.notice w fs)
        rw [hq]
        exact ⟨_, _, rfl⟩
      · exact ⟨s.out, s.port, rfl⟩

/-- The record of an event raised now (13 Table 13.15). -/
def State.newEvent (s : State) (code : Nat) (patron stack : Option Nat) (a0 a1 a2 a3 : Nat) : Event :=
  { code := BitVec.ofNat 16 code, patron := patron, stack := stack, stamp := s.stamp.number
    a0 := BitVec.ofNat 32 a0, a1 := BitVec.ofNat 32 a1, a2 := BitVec.ofNat 32 a2, a3 := BitVec.ofNat 32 a3, seq := s.events.next }

/-- An event changes the events held, what has left the hub, and the mailbox. -/
theorem raise_shape (s : State) (code : Nat) (patron stack : Option Nat) (a0 a1 a2 a3 : Nat) :
    ∃ o p, s.raise code patron stack a0 a1 a2 a3 = { s with
      out := o
      port := p
      events := { s.events with
        next := s.events.next + 1
        fresh := s.events.fresh ++ [s.newEvent code patron stack a0 a1 a2 a3]
        kept := lastN 256 (s.events.kept ++ [s.newEvent code patron stack a0 a1 a2 a3]) } } := by
  simp only [State.raise]
  exact notify_shape _ _ _

/-- Replies that are sent change a session's list, what has left the hub, and the mailbox. -/
theorem flushReplies_shape (u : Sess) (k : Nat) (s : State) :
    ∃ o p l q, flushReplies u k s = { s with out := o, port := p, lineSes := l, portSes := q } := by
  induction k generalizing s with
  | zero => exact ⟨s.out, s.port, s.lineSes, s.portSes, rfl⟩
  | succ k ih =>
    simp only [flushReplies]
    split
    · exact ⟨s.out, s.port, s.lineSes, s.portSes, rfl⟩
    · split
      · exact ⟨s.out, s.port, s.lineSes, s.portSes, rfl⟩
      · rename_i w ws _ _ ls _
        obtain ⟨p, hp⟩ := sendLines_shape u w.tag ls (s.modSes u fun q => { q with waiting := ws })
        rw [hp]
        split
        · obtain ⟨o, p', l, q, h⟩ := ih ({ (s.modSes u fun q => { q with waiting := ws }) with
            out := (ls.reverse.map fun x => Out.usith u w.tag x) ++ (s.modSes u fun q => { q with waiting := ws }).out
            port := p }.modSes u _)
          rw [h]
          cases u <;> exact ⟨_, _, _, _, rfl⟩
        · obtain ⟨o, p', l, q, h⟩ := ih { (s.modSes u fun q => { q with waiting := ws }) with
            out := (ls.reverse.map fun x => Out.usith u w.tag x) ++ (s.modSes u fun q => { q with waiting := ws }).out
            port := p }
          rw [h]
          cases u <;> exact ⟨_, _, _, _, rfl⟩

/-- A reply changes the sessions, what has left the hub, and the mailbox: nothing else. -/
theorem answer_shape (s : State) (u : Sess) (n : Nat) (ls : List HubLine) :
    ∃ o p l q, s.answer u n ls = { s with out := o, port := p, lineSes := l, portSes := q } := by
  simp only [State.answer, State.flushSes]
  obtain ⟨o, p, l, q, h⟩ := flushReplies_shape u ((s.modSes u fun q => { q with
    waiting := q.waiting.map fun p => if p.lineNo = n then { p with ready := some ls } else p }).ses u).waiting.length
    (s.modSes u fun q => { q with waiting := q.waiting.map fun p => if p.lineNo = n then { p with ready := some ls } else p })
  rw [h]
  cases u <;> exact ⟨_, _, _, _, rfl⟩

/-- A line takes its place in its session and changes nothing else. -/
theorem openLine_shape (s : State) (u : Sess) (tag : Option Nat) :
    ∃ l q, s.openLine u tag = { s with lineSes := l, portSes := q } := by
  cases u <;> exact ⟨_, _, rfl⟩

/-- With no earlier line open, the reply to a line that has just been opened goes out at once. -/
theorem answer_opened_out (s : State) (u : Sess) (tag : Option Nat) (ls : List HubLine) (h : (s.ses u).waiting = []) :
    ((s.openLine u tag).answer u (s.ses u).lines ls).out = (ls.reverse.map fun l => Out.usith u tag l) ++ s.out := by
  cases u <;>
  · simp only [State.ses] at h
    simp only [State.answer, State.flushSes, State.openLine, State.modSes, State.ses, h]
    simp only [List.nil_append, List.map_cons, List.map_nil, if_true, List.length_cons, List.length_nil, flushReplies, State.ses, State.modSes]
    obtain ⟨p, hp⟩ := sendLines_shape _ tag ls _
    rw [hp]

end Sys2Proof.Machine
end

