-- ==== Sys2Proof/Laws/Base.lean ====
section
/-! SUPPORT. The part of the hub that most operations leave alone: its time and queue, power, test access and fuses, settings, the clock of
record, the sides of the pair, and what the archive keeps of them. One lemma for each operation says that it keeps this part. -/

namespace Sys2Proof.Machine

set_option linter.unusedSimpArgs false
set_option linter.unusedTactic false
set_option linter.unreachableTactic false

/-- What most operations keep. -/
structure Base where
  now : Tick
  pending : List Instr
  power : Power
  test : TestSt
  settings : Settings
  started : Bool
  number : BitVec 48
  run : BitVec 32
  t0 : Tick
  boot : Bool
  irqen : BitVec 32
  powerUps : BitVec 31
  saved : List (SName × Option Int)
  savedScripts : List (Nat × Option Nat × Bytes)
  savedSets : List (Nat × Bytes)
  keptSide : Bool
  keptPartner : Bool
  spineKey : Option Bytes
  staging : Mem
  side : Bool
  partner : Bool

def State.base (s : State) : Base :=
  { now := s.now, pending := s.pending, power := s.power, test := s.test, settings := s.settings
    started := s.stamp.started, number := s.stamp.number, run := s.stamp.run, t0 := s.stamp.t0
    boot := s.port.boot, irqen := s.port.regs.irqen, powerUps := s.archive.powerUps, saved := s.archive.saved
    savedScripts := s.archive.savedScripts, savedSets := s.archive.savedSets, keptSide := s.archive.sideB
    keptPartner := s.archive.partner, spineKey := s.archive.spineKey, staging := s.archive.staging
    side := s.spine.sideB, partner := s.spine.partner }

theorem toBase (s : State) :
    s.now = s.base.now ∧ s.pending = s.base.pending ∧ s.power = s.base.power ∧ s.test = s.base.test ∧ s.settings = s.base.settings
      ∧ s.stamp.started = s.base.started ∧ s.stamp.number = s.base.number ∧ s.stamp.run = s.base.run ∧ s.stamp.t0 = s.base.t0
      ∧ s.port.boot = s.base.boot ∧ s.port.regs.irqen = s.base.irqen ∧ s.archive.powerUps = s.base.powerUps
      ∧ s.archive.saved = s.base.saved ∧ s.archive.savedScripts = s.base.savedScripts ∧ s.archive.savedSets = s.base.savedSets
      ∧ s.archive.sideB = s.base.keptSide ∧ s.archive.partner = s.base.keptPartner ∧ s.archive.spineKey = s.base.spineKey
      ∧ s.archive.staging = s.base.staging ∧ s.spine.sideB = s.base.side ∧ s.spine.partner = s.base.partner :=
  ⟨rfl, rfl, rfl, rfl, rfl, rfl, rfl, rfl, rfl, rfl, rfl, rfl, rfl, rfl, rfl, rfl, rfl, rfl, rfl, rfl, rfl⟩

theorem base_eq (s : State) :
    s.base = { now := s.now, pending := s.pending, power := s.power, test := s.test, settings := s.settings
               started := s.stamp.started, number := s.stamp.number, run := s.stamp.run, t0 := s.stamp.t0
               boot := s.port.boot, irqen := s.port.regs.irqen, powerUps := s.archive.powerUps, saved := s.archive.saved
               savedScripts := s.archive.savedScripts, savedSets := s.archive.savedSets, keptSide := s.archive.sideB
               keptPartner := s.archive.partner, spineKey := s.archive.spineKey, staging := s.archive.staging
               side := s.spine.sideB, partner := s.spine.partner } := rfl

/-- A fold of steps that keep it keeps it. -/
theorem base_foldl {α : Type} {f : State → α → State} (h : ∀ s x, (f s x).base = s.base) (xs : List α) (s : State) :
    (xs.foldl f s).base = s.base := by
  induction xs generalizing s with
  | nil => rfl
  | cons x xs ih => rw [List.foldl_cons, ih, h]

@[simp] theorem base_ite (c : Prop) [Decidable c] (a b : State) : (if c then a else b).base = if c then a.base else b.base := by
  split <;> rfl

theorem base_changes (s : State) (x : List LoanChange) : ({ s with changes := x } : State).base = s.base := rfl
theorem base_streams (s : State) (x : List StreamSt) : ({ s with streams := x } : State).base = s.base := rfl
theorem base_air (s : State) (x : Air) : ({ s with air := x } : State).base = s.base := rfl

theorem base_nodes (s : State) (x : List NodeSt) : ({ s with nodes := x } : State).base = s.base := rfl

theorem base_mk (x0 x1 x2 x3 x4 x5 x6 x7 x8 x9 x10 x11 x12 x13 x14 x15 x16 x17 x18 x19 x20 x21 x22 x23 x24 x25 x26 x27 x28 x29 x30 x31 x32 x33 x34 x35 x36 x37 x38 x39 x40 x41 x42 x43 x44 x45 x46) : (State.mk x0 x1 x2 x3 x4 x5 x6 x7 x8 x9 x10 x11 x12 x13 x14 x15 x16 x17 x18 x19 x20 x21 x22 x23 x24 x25 x26 x27 x28 x29 x30 x31 x32 x33 x34 x35 x36 x37 x38 x39 x40 x41 x42 x43 x44 x45 x46).base =
    { now := x0, pending := x46, power := x1, test := x37, settings := x4
      started := x2.started, number := x2.number, run := x2.run, t0 := x2.t0
      boot := x32.boot, irqen := x32.regs.irqen, powerUps := x5.powerUps, saved := x5.saved
      savedScripts := x5.savedScripts, savedSets := x5.savedSets, keptSide := x5.sideB
      keptPartner := x5.partner, spineKey := x5.spineKey, staging := x5.staging
      side := x31.sideB, partner := x31.partner } := rfl

theorem Base.eta (b : Base) : Base.mk b.now b.pending b.power b.test b.settings b.started b.number b.run b.t0 b.boot b.irqen b.powerUps b.saved b.savedScripts b.savedSets b.keptSide b.keptPartner b.spineKey b.staging b.side b.partner = b := rfl

@[simp] theorem State.modStk_base (s : State) (k : Nat) (f : StackSt → StackSt) : (State.modStk s k f).base = s.base := by rfl

@[simp] theorem State.modPatron_base (s : State) (p : Nat) (f : Patron → Patron) : (State.modPatron s p f).base = s.base := by rfl

@[simp] theorem State.modCtr_base (s : State) (p : Nat) (f : ServiceCtr → ServiceCtr) : (State.modCtr s p f).base = s.base := by rfl

@[simp] theorem State.putStream_base (s : State) (x : StreamSt) : (State.putStream s x).base = s.base := by rfl

@[simp] theorem State.modStream_base (s : State) (sid : Nat) (f : StreamSt → StreamSt) : (State.modStream s sid f).base = s.base := by rfl

@[simp] theorem State.modNode_base (s : State) (shelf : Nat) (f : NodeSt → NodeSt) : (State.modNode s shelf f).base = s.base := by rfl

@[simp] theorem State.modCell_base (s : State) (sid : Nat) (f : CellSt → CellSt) : (State.modCell s sid f).base = s.base := by rfl

@[simp] theorem State.modCellAt_base (s : State) (shelf cell : Nat) (f : CellSt → CellSt) : (State.modCellAt s shelf cell f).base = s.base := by rfl

@[simp] theorem State.modCharge_base (s : State) (id : Nat) (f : ChargeSt → ChargeSt) : (State.modCharge s id f).base = s.base := by rfl

@[simp] theorem State.modPort_base (s : State) (x : Nat) (f : PortSt → PortSt) : (State.modPort s x f).base = s.base := by rfl

@[simp] theorem State.modReq_base (s : State) (n : Nat) (f : Request → Request) : (State.modReq s n f).base = s.base := by rfl

@[simp] theorem State.modSes_base (s : State) (u : Sess) (f : SessSt → SessSt) : (State.modSes s u f).base = s.base := by
  unfold State.modSes
  split <;> simp [toBase, base_mk, Base.eta, base_foldl]

@[simp] theorem State.modRegs_base (s : State) (f : Regs → Regs) : (s.modRegs f).base = { s.base with irqen := (f s.port.regs).irqen } := rfl

@[simp] theorem State.irqSet_base (s : State) (bit : Nat) : (State.irqSet s bit).base = s.base := by rfl

@[simp] theorem State.errSet_base (s : State) (bit : Nat) : (State.errSet s bit).base = s.base := by rfl

@[simp] theorem State.emit_base (s : State) (o : Out) : (State.emit s o).base = s.base := by rfl

@[simp] theorem State.flushMail_base (s : State) : (State.flushMail s).base = s.base := by
  unfold State.flushMail
  dsimp only
  repeat' split
  all_goals simp [toBase, base_mk, Base.eta, base_foldl]

@[simp] theorem State.sendLine_base (s : State) (u : Sess) (tag : Option Nat) (l : HubLine) : (State.sendLine s u tag l).base = s.base := by
  unfold State.sendLine
  split <;> simp [toBase, base_mk, Base.eta, base_foldl]

@[simp] theorem State.notify_base (s : State) (w : String) (fs : List (String × RVal)) : (State.notify s w fs).base = s.base := by
  simp [State.notify]

@[simp] theorem State.raise_base (s : State) (code : Nat) (patron stack : Option Nat) (a0 a1 a2 a3 : Nat) : (State.raise s code patron stack a0 a1 a2 a3).base = s.base := by
  simp [State.raise, toBase, base_mk, Base.eta]

@[simp] theorem flushReplies_base (u : Sess) (k : Nat) (s : State) : (flushReplies u k s).base = s.base := by
  induction k generalizing s with
  | zero => rfl
  | succ k ih =>
    simp only [flushReplies]
    split
    · rfl
    · split
      · rfl
      · rw [ih]
        split
        · rw [State.modSes_base, base_foldl (fun s l => State.sendLine_base s u _ l), State.modSes_base]
        · rw [base_foldl (fun s l => State.sendLine_base s u _ l), State.modSes_base]

@[simp] theorem State.flushSes_base (s : State) (u : Sess) : (State.flushSes s u).base = s.base := by
  simp [State.flushSes]

@[simp] theorem State.answer_base (s : State) (u : Sess) (lineNo : Nat) (ls : List HubLine) : (State.answer s u lineNo ls).base = s.base := by
  simp [State.answer]

@[simp] theorem State.freeNat_base (s : State) : (State.freeNat s).2.base = s.base := by rfl

@[simp] theorem State.parkAll_base (s : State) (f : StreamSt → Bool) : (State.parkAll s f).base = s.base := by rfl

@[simp] theorem State.remapCells_base (s : State) : (State.remapCells s).base = s.base := by rfl

@[simp] theorem State.modRing_base (s : State) (r : Nat) (f : Ring → Ring) : (State.modRing s r f).base = s.base := by rfl

@[simp] theorem State.writeRing_base (s : State) (a : Nat) (b : Bytes) : (State.writeRing s a b).base = s.base := by rfl

@[simp] theorem State.announce_base (s : State) (r : Nat) (f : HeldFrame) : (State.announce s r f).base = s.base := by
  simp [State.announce]

@[simp] theorem State.dropFrame_base (s : State) (r : Nat) : (State.dropFrame s r).base = s.base := by rfl

@[simp] theorem State.sendFrame_base (s : State) (r ftype : Nat) (stamp : BitVec 48) (nrec : Nat) (payload : Bytes) : (State.sendFrame s r ftype stamp nrec payload).base = s.base := by
  simp [State.sendFrame]

@[simp] theorem discardEvents_base (k : Nat) (s : State) : (discardEvents k s).base = s.base := by
  induction k generalizing s with
  | zero => rfl
  | succ k ih => simp only [discardEvents]; repeat' split
                 all_goals simp [ih, toBase, base_mk, Base.eta]

@[simp] theorem State.writeRun_base (s : State) (evs : List Event) : (s.writeRun evs).base = s.base := by
  simp only [State.writeRun]; split <;> simp [toBase, base_mk, Base.eta]
@[simp] theorem writeRuns_base (w : Bool) (rs : List (List Event)) (s : State) : (writeRuns w rs s).base = s.base := by
  induction rs generalizing w s with
  | nil => rfl
  | cons r rs ih => simp only [writeRuns]; split <;> simp [ih]
@[simp] theorem State.writeEvents_base (s : State) : (State.writeEvents s).base = s.base := by
  simp [State.writeEvents]

@[simp] theorem State.holdProtect_base (s : State) (code lim key value set : Nat) : (s.holdProtect code lim key value set).base = s.base := by rfl

@[simp] theorem State.raiseProtect_base (s : State) (lim key value set : Nat) : (State.raiseProtect s lim key value set).base = s.base := by
  simp [State.raiseProtect, toBase, base_mk, Base.eta]

@[simp] theorem State.consumeInput_base (s : State) (n : Nat) : (State.consumeInput s n).base = s.base := by rfl

@[simp] theorem skipPads_base (k : Nat) (s : State) : (skipPads k s).base = s.base := by
  induction k generalizing s with
  | zero => rfl
  | succ k ih => simp only [skipPads]; split
                 · rfl
                 · simp [ih]

@[simp] theorem State.takeInputOf_base (s : State) (ftypes : List Nat) (tag : Nat) : (State.takeInputOf s ftypes tag).2.base = s.base := by
  unfold State.takeInputOf
  dsimp only
  repeat' split
  all_goals simp [toBase, base_mk, Base.eta, base_foldl]

@[simp] theorem State.takeInput_base (s : State) (ftype tag : Nat) : (State.takeInput s ftype tag).2.base = s.base := by
  simp [State.takeInput]

@[simp] theorem State.reqEnd_base (s : State) (r : Request) (kind : Nat) : (State.reqEnd s r kind).base = s.base := by
  simp [State.reqEnd]

@[simp] theorem State.folioRef_base (s : State) (slot stack status index req : Nat) : (State.folioRef s slot stack status index req).base = s.base := by
  simp [State.folioRef]

@[simp] theorem State.modBurst_base (s : State) (lch pos : Nat) (f : BurstSt → BurstSt) : (State.modBurst s lch pos f).base = s.base := by rfl

@[simp] theorem State.logAct_base (s : State) (e : LogEntry) : (State.logAct s e).base = s.base := by rfl

@[simp] theorem State.freeCopy_base (s : State) (slot sid : Nat) : (s.freeCopy slot sid).base = s.base := by
  unfold State.freeCopy
  dsimp only
  repeat' split
  all_goals simp

@[simp] theorem State.endRequest_base (s : State) (r : Request) (st : ReqState) (kind : Nat) : (State.endRequest s r st kind).base = s.base := by
  unfold State.endRequest
  dsimp only
  rw [State.reqEnd_base, base_foldl (fun s sid => by split <;> simp)]
  rfl

@[simp] theorem State.refusedSteps_base (s : State) (slot stack : Nat) (sids : List Nat) (status index : Nat) : (State.refusedSteps s slot stack sids status index).base = s.base := by
  simp [State.refusedSteps, toBase, base_mk, Base.eta, base_foldl]

@[simp] theorem State.refused_base (s : State) (slot stack : Nat) (kind : ChargeKind) (status index : Nat) : (State.refused s slot stack kind status index).base = s.base := by
  unfold State.refused
  dsimp only
  repeat' split
  all_goals simp [toBase, base_mk, Base.eta, base_foldl]

@[simp] theorem State.record_base (s : State) (c : ChargeSt) (op index : Nat) (fin : Bool) (status cycles drift detail : Nat) : (State.record s c op index fin status cycles drift detail).base = s.base := by rfl

@[simp] theorem State.moveCharge_base (s : State) (c : ChargeSt) (dst : Nat × Nat) : (State.moveCharge s c dst).base = s.base := by
  unfold State.moveCharge
  split <;> simp [toBase, base_mk, Base.eta, base_foldl]

@[simp] theorem State.rehome_base (s : State) : (State.rehome s).base = s.base := by
  unfold State.rehome
  refine base_foldl (fun s x => ?_) _ _
  repeat' split
  all_goals simp [toBase, base_mk, Base.eta, base_foldl]

@[simp] theorem State.joinSlice_base (s : State) (stack slot id : Nat) : (State.joinSlice s stack slot id).base = s.base := by rfl

@[simp] theorem State.noteEnd_base (s : State) (id : Nat) : (s.noteEnd id).base = s.base := by rfl

@[simp] theorem State.noteReady_base (s : State) (t : Tick) : (s.noteReady t).base = s.base := by
  unfold State.noteReady
  exact base_foldl (fun s i => by simp) _ _

@[simp] theorem State.admitCharge_base (s : State) (id : Nat) (res : Option Nat) (at0 : Tick) : (State.admitCharge s id res at0).base = s.base := by
  unfold State.admitCharge
  split <;> simp [toBase, base_mk, Base.eta, base_foldl]

@[simp] theorem State.placePark_base (paid : Bool) (s : State) (x : StreamSt) : (State.placePark paid s x).base = s.base := by
  simp [State.placePark, toBase, base_mk, Base.eta, base_foldl]

@[simp] theorem State.placeParks_base (s : State) (k slot : Nat) : (State.placeParks s k slot).base = s.base := by
  unfold State.placeParks
  split <;> simp [toBase, base_mk, Base.eta, base_foldl]

@[simp] theorem admitRun_base (k slot : Nat) (atPass : Bool) (at0 : Tick) (n : Nat) (s : State) : (admitRun k slot atPass at0 n s).base = s.base := by
  induction n generalizing s with
  | zero => rfl
  | succ n ih =>
    unfold admitRun
    dsimp only
    repeat' split
    all_goals simp only [ih, State.admitCharge_base, State.placeParks_base, State.rehome_base]

@[simp] theorem State.reconsider_base (s : State) (k : Nat) (at0 : Tick) : (State.reconsider s k at0).base = s.base := by
  unfold State.reconsider
  split
  · rfl
  · rw [State.noteReady_base, base_foldl (fun s p => by simp)]

@[simp] theorem State.reconsiderAll_base (s : State) (due : Tick) : (s.reconsiderAll due).base = s.base := by
  unfold State.reconsiderAll
  dsimp only
  rw [State.noteReady_base, base_foldl (fun s k => by simp)]

@[simp] theorem State.releaseOverlap_base (s : State) (stack slot : Nat) : (State.releaseOverlap s stack slot).base = s.base := by rfl

@[simp] theorem State.requeueFirst_base (s : State) (c : ChargeSt) (eligible : BitVec 48) : (State.requeueFirst s c eligible).base = s.base := by rfl

@[simp] theorem State.writeHome_base (s : State) (sid : Nat) : (State.writeHome s sid).base = s.base := by
  simp [State.writeHome]

@[simp] theorem State.resetWork_base (s : State) (c : ChargeSt) : (State.resetWork s c).base = s.base := by
  simp [State.resetWork, toBase, base_mk, Base.eta, base_foldl]

@[simp] theorem State.abandon_base (s : State) (at0 : Tick) (id : Nat) (index op status cycles detail : Nat) (again : Option (BitVec 48)) : (State.abandon s at0 id index op status cycles detail again).base = s.base := by
  unfold State.abandon
  dsimp only
  split
  · rfl
  · rw [State.reconsiderAll_base, State.releaseOverlap_base, State.noteReady_base]
    split <;> simp [toBase, base_mk, Base.eta, base_foldl]

@[simp] theorem State.rebase_base (s : State) (stack : Nat) (r : RunSt) (served : Nat) (t : Tick) : (State.rebase s stack r served t).base = s.base := by rfl

@[simp] theorem State.joinPort_base (s : State) (stack : Nat) (t : Tick) : (State.joinPort s stack t).base = s.base := by
  unfold State.joinPort
  split <;> simp [toBase, base_mk, Base.eta, base_foldl]

@[simp] theorem State.leavePort_base (s : State) (stack : Nat) (t : Tick) : (State.leavePort s stack t).base = s.base := by
  unfold State.leavePort
  repeat' split
  all_goals simp [toBase, base_mk, Base.eta, base_foldl]

@[simp] theorem State.compareQuant_base (s : State) (sid q learned twin : Nat) : (State.compareQuant s sid q learned twin).base = s.base := by
  unfold State.compareQuant
  split <;> simp [toBase, base_mk, Base.eta, base_foldl]

@[simp] theorem State.compareCell_base (s : State) (sid : Nat) (l : Learned) : (State.compareCell s sid l).base = s.base := by
  unfold State.compareCell
  split <;> simp [toBase, base_mk, Base.eta, base_foldl]

@[simp] theorem State.advise_base (s : State) (sid : Nat) (l : Learned) : (State.advise s sid l).base = s.base := by
  simp [State.advise, toBase, base_mk, Base.eta, base_foldl]

@[simp] theorem State.remember_base (s : State) (sid : Nat) (row : List Int) (forecast : Int) : (State.remember s sid row forecast).base = s.base := by rfl

@[simp] theorem State.act_base (s : State) (r : SealRec) (xs : Bits) : (State.act s r xs).base = s.base := by
  simp [State.act, toBase, base_mk, Base.eta]

@[simp] theorem State.actOn_base (s : State) (live : Bool) (r : SealRec) (xs : Bits) : (State.actOn s live r xs).base = s.base := by
  simp [State.actOn]

@[simp] theorem State.shiftActs_base (s : State) (live : Bool) (sid : Nat) (old new : List Nat) : (State.shiftActs s live sid old new).base = s.base := by
  simp [State.shiftActs, toBase, base_mk, Base.eta, base_foldl]

@[simp] theorem State.logCommitted_base (s : State) (sid : Nat) (sample : BitVec 48) (shifts : List Nat) : (State.logCommitted s sid sample shifts).base = s.base := by rfl

@[simp] theorem State.dropRecord_base (s : State) (p : SealRec → Bool) : (State.dropRecord s p).base = s.base := by rfl

@[simp] theorem State.takeClips_base (s : State) (slot : Nat) (clips : List ClipCount) : (State.takeClips s slot clips).base = s.base := by rfl

@[simp] theorem State.commitLive_base (s : State) (sid : Nat) (u : Unsealed) : (State.commitLive s sid u).base = s.base := by
  unfold State.commitLive
  dsimp only
  split <;> simp

@[simp] theorem State.driftCheck_base (s : State) (slot sid drift : Nat) (shadow : List Int) : (State.driftCheck s slot sid drift shadow).base = s.base := by
  simp [State.driftCheck]

@[simp] theorem State.mainsCommit_base (s : State) (features : List Int) : (State.mainsCommit s features).base = s.base := by
  simp [State.mainsCommit, toBase, base_mk, Base.eta]

@[simp] theorem State.rollChunk_base (s : State) (r : Request) (sid index : Nat) (heads : List (List Int)) : (State.rollChunk s r sid index heads).base = s.base := by rfl

@[simp] theorem State.rollFrames_base (s : State) (r : Request) (c : RollCell) (colophon : Bytes) : (State.rollFrames s r c colophon).base = s.base := by
  simp [State.rollFrames, toBase, base_mk, Base.eta, base_foldl]

@[simp] theorem State.rollCellEnd_base (s : State) (num sid : Nat) (colophon : Bytes) : (State.rollCellEnd s num sid colophon).base = s.base := by
  unfold State.rollCellEnd
  dsimp only
  repeat' split
  all_goals simp [toBase, base_mk, Base.eta, base_foldl]

@[simp] theorem State.jobChunkEnd_base (s : State) (c : ChargeSt) (num sid : Nat) (last : Bool) : (State.jobChunkEnd s c num sid last).base = s.base := by
  unfold State.jobChunkEnd
  dsimp only
  repeat' split
  all_goals simp [toBase, base_mk, Base.eta, base_foldl]

@[simp] theorem State.queueMsg_base (s : State) (m : Msg) : (State.queueMsg s m).base = s.base := by rfl

@[simp] theorem State.queueBroadcast_base (s : State) (m : Msg) : (State.queueBroadcast s m).base = s.base := by rfl

@[simp] theorem State.putLim_base (s : State) (x : LimSt) : (State.putLim s x).base = s.base := by rfl

@[simp] theorem State.clearLim_base (s : State) (x : LimSt) (a1 : Nat) : (State.clearLim s x a1).base = s.base := by
  simp [State.clearLim]

@[simp] theorem State.testLimit_base (s : State) (l : Lim) (key a1 set : Nat) (value : Int) (trip clears : Bool) (debounce clearN : Nat) : (State.testLimit s l key a1 set value trip clears debounce clearN).base = s.base := by
  simp [State.testLimit]

@[simp] theorem State.testVolts_base (s : State) (n : NodeSt) (i : Nat) (twin : Option Nat) : (State.testVolts s n i twin).base = s.base := by
  unfold State.testVolts
  dsimp only
  repeat' split
  all_goals simp [toBase, base_mk, Base.eta, base_foldl]

@[simp] theorem State.testTemps_base (s : State) (n : NodeSt) (c : CellSt) : (State.testTemps s n c).base = s.base := by
  unfold State.testTemps
  dsimp only
  repeat' split
  all_goals simp [toBase, base_mk, Base.eta, base_foldl]

@[simp] theorem State.testCurrent_base (s : State) (set : Nat) (l : Lim) (ch : Nat) (m : Int) : (State.testCurrent s set l ch m).base = s.base := by
  unfold State.testCurrent
  split <;> simp [toBase, base_mk, Base.eta, base_foldl]

@[simp] theorem State.testDisagree_base (s : State) (set : Nat) (a b : Int) : (State.testDisagree s set a b).base = s.base := by
  unfold State.testDisagree
  split <;> simp [toBase, base_mk, Base.eta, base_foldl]

@[simp] theorem State.testCurrents_base (s : State) (a b : Int) : (s.testCurrents a b).base = s.base := by
  unfold State.testCurrents
  exact base_foldl (fun s set => by simp only [State.testDisagree_base, State.testCurrent_base]) _ _

@[simp] theorem State.testSilent_base (s : State) (n : NodeSt) : (State.testSilent s n).base = s.base := by
  simp [State.testSilent]

@[simp] theorem State.runLateTwins_base (s : State) : (State.runLateTwins s).base = s.base := by rfl

@[simp] theorem State.autoTest_base (s : State) (shelf wire : Nat) : (State.autoTest s shelf wire).base = s.base := by
  unfold State.autoTest
  split <;> simp [toBase, base_mk, Base.eta, base_foldl]

@[simp] theorem State.patternAt_base (s : State) (shelf k : Nat) (holds : Bool) : (State.patternAt s shelf k holds).base = s.base := by
  unfold State.patternAt
  split <;> simp [toBase, base_mk, Base.eta, base_foldl]

@[simp] theorem State.endDeviation_base (s : State) (shelf wire : Nat) (holds : Bool) : (State.endDeviation s shelf wire holds).base = s.base := by
  unfold State.endDeviation
  split <;> simp [toBase, base_mk, Base.eta, base_foldl]

@[simp] theorem State.patterns_base (s : State) (n : NodeSt) (d : Nat → Option Int) : (s.patterns n d).base = s.base := by
  unfold State.patterns
  dsimp only
  rw [State.endDeviation_base, State.endDeviation_base, base_foldl (fun s i => by simp)]
  split <;> simp

@[simp] theorem State.owResult_base (s : State) (shelf wire : Nat) (dlo dhi dmod : Int) : (State.owResult s shelf wire dlo dhi dmod).base = s.base := by
  unfold State.owResult
  dsimp only
  repeat' split
  all_goals simp [toBase, base_mk, Base.eta, base_foldl]

@[simp] theorem State.takeSample_base (s : State) (shelf : Nat) (raw : Report) : (State.takeSample s shelf raw).base = s.base := by
  unfold State.takeSample
  simp only [toBase, base_mk, Base.eta, base_foldl]
  split <;> simp [toBase, base_mk, Base.eta, base_foldl]

@[simp] theorem State.numberBatches_base (s : State) : (State.numberBatches s).base = s.base := by
  unfold State.numberBatches
  refine base_foldl (fun s x => ?_) _ _
  repeat' split
  all_goals simp [toBase, base_mk, Base.eta, base_foldl]

@[simp] theorem State.setRota_base (s : State) (shelf : Nat) (on : Bool) : (State.setRota s shelf on).base = s.base := by
  simp [State.setRota]

@[simp] theorem enterRota_base (n : Nat) (s : State) : (enterRota n s).base = s.base := by
  induction n generalizing s with
  | zero => rfl
  | succ n ih => simp only [enterRota]; repeat' split
                 all_goals simp [ih, toBase, base_mk, Base.eta]

@[simp] theorem State.leaveRota_base (s : State) : (State.leaveRota s).base = s.base := by
  unfold State.leaveRota
  split <;> simp [toBase, base_mk, Base.eta, base_foldl]

@[simp] theorem State.decideRota_base (s : State) : (State.decideRota s).base = s.base := by
  simp [State.decideRota, toBase, base_mk, Base.eta]

@[simp] theorem State.endRota_base (s : State) : (State.endRota s).base = s.base := by rfl

@[simp] theorem State.applyMode_base (s : State) : (State.applyMode s).base = s.base := by rfl

@[simp] theorem State.planFrame_base (s : State) : (State.planFrame s).base = s.base := by
  simp [State.planFrame, toBase, base_mk, Base.eta]

@[simp] theorem State.transmit_base (s : State) (lch : Nat) (at0 : Tick) (low : Nat) (payload : Bytes) (symbols : Nat) (clear : Tick) : (State.transmit s lch at0 low payload symbols clear).base = s.base := by
  unfold State.transmit
  split <;> simp [toBase, base_mk, Base.eta, base_foldl]

@[simp] theorem State.sendSlotBurst_base (s : State) (lch : Nat) (at0 : Tick) (type ts : Nat) (payload : Bytes) (clear : Tick) : (State.sendSlotBurst s lch at0 type ts payload clear).base = s.base := by
  simp [State.sendSlotBurst]

@[simp] theorem State.placeMsg_base (s : State) (m : Msg) : (State.placeMsg s m).1.base = s.base := by
  unfold State.placeMsg
  dsimp only
  repeat' split
  all_goals simp [toBase, base_mk, Base.eta, base_foldl]

@[simp] theorem placeAll_base (ms : List Msg) (s : State) : (placeAll ms s).1.base = s.base := by
  induction ms generalizing s with
  | nil => rfl
  | cons m ms ih => simp [placeAll, ih]

@[simp] theorem State.giveUp_base (s : State) (n : NodeSt) : (State.giveUp s n).base = s.base := by
  unfold State.giveUp
  simp only [toBase, base_mk, Base.eta, base_foldl]
  split <;> simp [toBase, base_mk, Base.eta, base_foldl]

@[simp] theorem State.giveUps_base (s : State) (lch : Nat) : (State.giveUps s lch).base = s.base := by
  simp [State.giveUps, toBase, base_mk, Base.eta, base_foldl]

@[simp] theorem State.nextBroadcast_base (s : State) : (State.nextBroadcast s).base = s.base := by
  unfold State.nextBroadcast
  dsimp only
  repeat' split
  all_goals simp [toBase, base_mk, Base.eta, base_foldl]

@[simp] theorem State.endBroadcast_base (s : State) : (State.endBroadcast s).base = s.base := by
  unfold State.endBroadcast
  split <;> simp [toBase, base_mk, Base.eta, base_foldl]

@[simp] theorem State.sendBeacons_base (s : State) : (State.sendBeacons s).base = s.base := by
  simp [State.sendBeacons, toBase, base_mk, Base.eta, base_foldl]

@[simp] theorem State.syncConfigs_base (s : State) (broadcast : Bool) : (State.syncConfigs s broadcast).base = s.base := by
  simp [State.syncConfigs, toBase, base_mk, Base.eta, base_foldl]

@[simp] theorem State.reissue_base (s : State) (n : NodeSt) : (State.reissue s n).base = s.base := by
  simp [State.reissue, toBase, base_mk, Base.eta, base_foldl]

@[simp] theorem State.takeMessage_base (s : State) (shelf : Nat) (m : Nat × Nat × Nat × Bytes) : (State.takeMessage s shelf m).base = s.base := by
  simp [State.takeMessage]

@[simp] theorem State.takePayload_base (s : State) (shelf : Nat) (b : Bytes) : (State.takePayload s shelf b).base = s.base := by
  unfold State.takePayload
  dsimp only
  repeat' split
  all_goals simp [toBase, base_mk, Base.eta, base_foldl]

@[simp] theorem State.acceptReport_base (s : State) (shelf : Nat) (slot : Slot) (outcome : Nat) (b : Bytes) : (State.acceptReport s shelf slot outcome b).base = s.base := by
  unfold State.acceptReport
  simp only [toBase, base_mk, Base.eta, base_foldl]
  split <;> simp [toBase, base_mk, Base.eta, base_foldl]

@[simp] theorem State.modBurstAt_base (s : State) (lch : Nat) (slot : Slot) (f : BurstSt → BurstSt) : (State.modBurstAt s lch slot f).base = s.base := by rfl

@[simp] theorem State.receiveBurst_base (s : State) (lch : Nat) (slot : Slot) (hdr : BitVec 48) (offset : Int) : (State.receiveBurst s lch slot hdr offset).base = s.base := by
  unfold State.receiveBurst
  dsimp only
  repeat' split
  all_goals simp [toBase, base_mk, Base.eta, base_foldl]

@[simp] theorem State.learnedDeadline_base (s : State) (lch : Nat) (slot : Slot) : (State.learnedDeadline s lch slot).base = s.base := by rfl

@[simp] theorem State.takeReply_base (s : State) (hdr : BitVec 48) (p : Bytes) : (State.takeReply s hdr p).base = s.base := by
  simp [State.takeReply, toBase, base_mk, Base.eta]

@[simp] theorem State.countOutcome_base (s : State) (lch shelf code : Nat) (late : Bool) (m : RxMeas) : (State.countOutcome s lch shelf code late m).base = s.base := by rfl

@[simp] theorem State.burstOutcome_base (s : State) (lch : Nat) (slot : Slot) (b : BurstSt) (learned : Bool) (twin : List Int) (m : RxMeas) : (State.burstOutcome s lch slot b learned twin m).base = s.base := by
  unfold State.burstOutcome
  dsimp only
  repeat' split
  all_goals simp [toBase, base_mk, Base.eta, base_foldl]

@[simp] theorem State.loseReports_base (s : State) : (State.loseReports s).base = s.base := by
  simp [State.loseReports, toBase, base_mk, Base.eta, base_foldl]

@[simp] theorem State.releaseReceiver_base (s : State) : (State.releaseReceiver s).base = s.base := by
  simp [State.releaseReceiver, toBase, base_mk, Base.eta, base_foldl]

@[simp] theorem State.countRetry_base (s : State) (shelf : Nat) : (s.countRetry shelf).base = s.base := by rfl

@[simp] theorem State.sendCall_base (s : State) (lch : Nat) : (State.sendCall s lch).base = s.base := by
  simp [State.sendCall, toBase, base_mk, Base.eta, base_foldl]

@[simp] theorem State.sendOrder_base (s : State) (lch d : Nat) : (State.sendOrder s lch d).base = s.base := by
  simp [State.sendOrder, toBase, base_mk, Base.eta]

@[simp] theorem freeBytes_base (n : Nat) (s : State) : (freeBytes n s).2.base = s.base := by
  induction n generalizing s with
  | zero => rfl
  | succ n ih => simp [freeBytes, ih]

@[simp] theorem State.runScriptOf_base (s : State) (scripts : List (Nat × Option Nat × Bytes)) (x : Nat) (centre : Option Nat) : (s.runScriptOf scripts x centre).base = s.base := by
  unfold State.runScriptOf
  split <;> simp [toBase, base_mk, Base.eta, base_foldl]

@[simp] theorem State.runScript_base (s : State) (x : Nat) (centre : Option Nat) : (State.runScript s x centre).base = s.base := by
  simp [State.runScript]

@[simp] theorem State.tune_base (s : State) : (State.tune s).base = s.base := by
  unfold State.tune
  dsimp only
  rw [base_air, base_foldl (fun s c => base_foldl (fun s x => by simp) _ _)]

@[simp] theorem State.decideMode_base (s : State) : (State.decideMode s).base = s.base := by rfl

@[simp] theorem State.portFault_base (s : State) (port : Nat) (cause : PortCause) : (State.portFault s port cause).base = s.base := by
  simp [State.portFault]

@[simp] theorem State.addNode_base (s : State) (shelf : Nat) (info : BitVec 256) : (State.addNode s shelf info).base = s.base := by rfl

@[simp] theorem State.dropNodes_base (s : State) : (State.dropNodes s).base = s.base := by
  simp [State.dropNodes, toBase, base_mk, Base.eta, base_foldl]

@[simp] theorem State.endAccession_base (s : State) : (State.endAccession s).base = s.base := by
  simp [State.endAccession, toBase, base_mk, Base.eta]

@[simp] theorem State.offerNext_base (s : State) : (State.offerNext s).base = s.base := by
  unfold State.offerNext
  dsimp only
  repeat' split
  all_goals simp [toBase, base_mk, Base.eta, base_foldl]

@[simp] theorem State.sendOffer_base (s : State) : (State.sendOffer s).base = s.base := by
  simp [State.sendOffer]

@[simp] theorem State.accBoundary_base (s : State) : (State.accBoundary s).base = s.base := by
  unfold State.accBoundary
  simp only [toBase, base_mk, Base.eta, base_foldl]
  split <;> simp [toBase, base_mk, Base.eta, base_foldl]

@[simp] theorem State.countRelease_base (s : State) : (State.countRelease s).base = s.base := by
  unfold State.countRelease
  split <;> simp [toBase, base_mk, Base.eta, base_foldl]

@[simp] theorem State.queueRelease_base (s : State) : (State.queueRelease s).base = s.base := by
  unfold State.queueRelease
  split <;> simp [toBase, base_mk, Base.eta, base_foldl]

@[simp] theorem State.countSilence_base (s : State) : (State.countSilence s).base = s.base := by rfl

@[simp] theorem State.countRxdiv_base (s : State) : (State.countRxdiv s).base = s.base := by
  simp [State.countRxdiv, toBase, base_mk, Base.eta, base_foldl]

@[simp] theorem State.countSilentNodes_base (s : State) : (s.countSilentNodes).base = s.base := by
  unfold State.countSilentNodes
  split
  · rfl
  · refine base_foldl (fun s n => ?_) _ _
    dsimp only
    split <;> simp

@[simp] theorem State.airBoundary_base (s : State) : (State.airBoundary s).base = s.base := by
  simp [State.airBoundary, toBase, base_mk, Base.eta]

@[simp] theorem State.queueCharge_base (s : State) (c : ChargeSt) (first : Bool) : (State.queueCharge s c first).base = s.base := by rfl

@[simp] theorem State.queueFills_base (s : State) (f : FolioInfo) (slot stack : Nat) (layers : List (Nat × List Nat)) : (State.queueFills s f slot stack layers).base = s.base := by
  simp [State.queueFills, toBase, base_mk, Base.eta, base_foldl]

@[simp] theorem State.keepLoans_base (s : State) : (State.keepLoans s).base = s.base := by
  simp [State.keepLoans, toBase, base_mk, Base.eta]

@[simp] theorem State.clearTensors_base (s : State) (p : Nat) : (State.clearTensors s p).base = s.base := by rfl

@[simp] theorem State.dropUnlent_base (s : State) (slot stack : Nat) : (State.dropUnlent s slot stack).base = s.base := by
  simp [State.dropUnlent, toBase, base_mk, Base.eta, base_foldl]

@[simp] theorem State.beginDrain_base (s : State) (slot stack : Nat) (fid : Option (BitVec 32)) : (State.beginDrain s slot stack fid).base = s.base := by
  simp [State.beginDrain]

@[simp] theorem State.mergeShares_base (s : State) (stack slot : Nat) : (State.mergeShares s stack slot).base = s.base := by
  unfold State.mergeShares
  split <;> simp [toBase, base_mk, Base.eta, base_foldl]

@[simp] theorem State.lendShare_base (s : State) (stack slot : Nat) (fid : Option (BitVec 32)) : (s.lendShare stack slot fid).base = s.base := by
  unfold State.lendShare
  dsimp only
  rw [base_changes, base_foldl (fun s c => by split <;> simp)]
  split
  · rw [base_foldl (fun s k => by split <;> simp)]; simp
  · simp

@[simp] theorem State.checkReady_base (s : State) (stack : Nat) : (State.checkReady s stack).base = s.base := by
  simp [State.checkReady, toBase, base_mk, Base.eta, base_foldl]

@[simp] theorem State.beginLend_base (s : State) (c : LoanChange) : (State.beginLend s c).base = s.base := by
  unfold State.beginLend
  simp only [toBase, base_mk, Base.eta, base_foldl]
  split <;> simp [toBase, base_mk, Base.eta, base_foldl]

@[simp] theorem beginIn_base (bd : Bool) (a b : List LoanChange) (s : State) : (beginIn bd a b s).2.base = s.base := by
  induction b generalizing a s with
  | nil => rfl
  | cons c b ih => simp only [beginIn]; repeat' split
                   all_goals simp [ih]

@[simp] theorem State.beginChanges_base (s : State) (bd : Bool) : (State.beginChanges s bd).base = s.base := by
  unfold State.beginChanges
  dsimp only
  rw [State.keepLoans_base, base_changes, beginIn_base, base_foldl (fun s c => by simp)]
  rfl

@[simp] theorem State.stagger_base (s old : State) : (s.stagger old).base = s.base := by
  simp [State.stagger, toBase, base_mk, Base.eta, base_foldl]

@[simp] theorem State.lendReady_base (s : State) : (State.lendReady s).base = s.base := by
  simp [State.lendReady, toBase, base_mk, Base.eta, base_foldl]

@[simp] theorem State.endDrain_base (s : State) (slot stack : Nat) : (State.endDrain s slot stack).base = s.base := by
  simp [State.endDrain]

@[simp] theorem State.lapseOf_base (s : State) (stack cause : Nat) (pick : LoanChange → Bool) : (s.lapseOf stack cause pick).base = s.base := by
  simp [State.lapseOf, toBase, base_mk, Base.eta, base_foldl]

@[simp] theorem State.lapse_base (s : State) (stack cause : Nat) : (State.lapse s stack cause).base = s.base := by
  simp [State.lapse]

@[simp] theorem State.bindRefit_base (s : State) (f : FolioInfo) : (State.bindRefit s f).base = s.base := by
  unfold State.bindRefit
  dsimp only
  repeat' split
  all_goals simp [toBase, base_mk, Base.eta, base_foldl]

@[simp] theorem State.countClips_base (s : State) (tensor produced clipped : Nat) : (State.countClips s tensor produced clipped).base = s.base := by rfl

@[simp] theorem State.keepGrads_base (s : State) (c : ChargeSt) : (State.keepGrads s c).base = s.base := by
  unfold State.keepGrads
  split <;> simp [toBase, base_mk, Base.eta, base_foldl]

@[simp] theorem State.updateDraft_base (s : State) (d : Draft) : (State.updateDraft s d).base = s.base := by
  unfold State.updateDraft
  dsimp only
  repeat' split
  all_goals simp [toBase, base_mk, Base.eta, base_foldl]

@[simp] theorem State.scrubPage_base (s : State) (page : Nat) : (State.scrubPage s page).base = s.base := by
  simp [State.scrubPage, toBase, base_mk, Base.eta]

@[simp] theorem State.publish_base (s : State) (d : Draft) : (State.publish s d).base = s.base := by
  unfold State.publish
  dsimp only
  repeat' split
  all_goals simp [toBase, base_mk, Base.eta, base_foldl]

@[simp] theorem State.draftFills_base (s : State) : (s.draftFills).base = s.base := by
  unfold State.draftFills
  dsimp only
  split
  · rfl
  · split
    · rfl
    · split
      · rfl
      · rw [base_foldl (fun s w => by simp)]; rfl

@[simp] theorem State.decodeLost_base (s : State) (c : ChargeSt) : (State.decodeLost s c).base = s.base := by
  unfold State.decodeLost
  split <;> simp [toBase, base_mk, Base.eta, base_foldl]

@[simp] theorem State.dropAdmitted_base (s : State) (stack : Nat) (lost : List Nat) (pick : ChargeSt → Bool) : (s.dropAdmitted stack lost pick).base = s.base := by
  unfold State.dropAdmitted
  dsimp only
  rw [base_foldl (fun s c => by simp), State.modStk_base]
  refine Eq.trans (b := (List.foldl State.resetWork _ _).base) rfl ?_
  rw [base_foldl (fun s c => by simp), base_foldl (fun s c => by simp)]
  split <;> simp

@[simp] theorem State.keepWeeding_base (s : State) (stack : Nat) : (State.keepWeeding s stack).base = s.base := by rfl

@[simp] theorem State.weedStack_base (s : State) (stack : Nat) : (State.weedStack s stack).base = s.base := by
  simp [State.weedStack, toBase, base_mk, Base.eta, base_foldl]

@[simp] theorem State.weedShelves_base (s : State) (stack : Nat) (failed : BitVec 32) : (State.weedShelves s stack failed).base = s.base := by
  simp [State.weedShelves]

@[simp] theorem State.weedAnnex_base (s : State) (stack : Nat) : (State.weedAnnex s stack).base = s.base := by
  unfold State.weedAnnex
  split <;> simp

@[simp] theorem State.startInventory_base (s : State) (stack : Nat) : (State.startInventory s stack).base = s.base := by rfl

@[simp] theorem State.abortInventory_base (s : State) (stack : Nat) : (State.abortInventory s stack).base = s.base := by
  unfold State.abortInventory
  split <;> simp [toBase, base_mk, Base.eta, base_foldl]

@[simp] theorem State.rescue_base (s : State) (slot : Nat) : (State.rescue s slot).1.base = s.base := by
  unfold State.rescue
  split
  · rfl
  · dsimp only
    rw [State.beginChanges_base, base_changes]
    split <;> split <;> simp [base_foldl]

@[simp] theorem State.failStack_base (s : State) (stack : Nat) (tenants : List Nat) (live : List ChargeSt) (times : List Tick) : (State.failStack s stack tenants live times).base = s.base := by
  unfold State.failStack
  dsimp only
  rw [State.lapse_base, base_foldl (fun s c => by simp), State.modStk_base, base_streams, State.dropAdmitted_base, base_foldl (fun s c => by simp)]

@[simp] theorem State.rescueTenant_base (s : State) (tenants : List Nat) (slot : Nat) : (s.rescueTenant tenants slot).1.base = s.base := by
  unfold State.rescueTenant; split <;> simp

@[simp] theorem State.checkFaulty_base (s : State) (stack faults : Nat) : (State.checkFaulty s stack faults).base = s.base := by
  simp [State.checkFaulty]

@[simp] theorem State.stackFault_base (s : State) (stack cause : Nat) : (s.stackFault stack cause).base = s.base := by
  unfold State.stackFault
  dsimp only
  split
  · rfl
  · rw [State.reconsiderAll_base, State.keepLoans_base, State.rehome_base, State.checkFaulty_base, State.raise_base, State.stagger_base, State.rescueTenant_base,
      State.rescueTenant_base, State.failStack_base]

@[simp] theorem State.countStale_base (s : State) (allStale : Bool) : (State.countStale s allStale).base = s.base := by rfl

@[simp] theorem State.writeEstimates_base (s : State) (rerun : Bool) : (State.writeEstimates s rerun).base = s.base := by
  simp [State.writeEstimates, toBase, base_mk, Base.eta]

@[simp] theorem State.clipPatron_base (s : State) (p : Nat) : (State.clipPatron s p).base = s.base := by
  simp [State.clipPatron, toBase, base_mk, Base.eta, base_foldl]

@[simp] theorem State.clipFrames_base (s : State) : (s.clipFrames).base = s.base := base_foldl (fun s p => State.clipPatron_base s p) _ _

@[simp] theorem State.driftFrame_base (s : State) (p : Nat) : (State.driftFrame s p).base = s.base := by
  simp [State.driftFrame]

@[simp] theorem State.driftFrames_base (s : State) : (s.driftFrames).base = s.base := base_foldl (fun s p => State.driftFrame_base s p) _ _

@[simp] theorem State.lapseRebuild_base (s : State) (p : Nat) : (State.lapseRebuild s p).base = s.base := by
  simp [State.lapseRebuild, toBase, base_mk, Base.eta, base_foldl]

@[simp] theorem State.moveMonitor_base (s : State) (p : Nat) : (State.moveMonitor s p).base = s.base := by
  simp [State.moveMonitor, toBase, base_mk, Base.eta]

@[simp] theorem State.takeMonitor_base (s : State) (p : Nat) : (State.takeMonitor s p).base = s.base := by
  simp [State.takeMonitor]

@[simp] theorem State.monitors_base (s : State) : (State.monitors s).base = s.base := by
  simp [State.monitors, toBase, base_mk, Base.eta, base_foldl]

@[simp] theorem State.serviceFrames_base (s : State) (links : List Bytes) : (s.serviceFrames links).base = s.base := by
  unfold State.serviceFrames
  dsimp only
  split
  · rfl
  · rw [base_nodes, State.sendFrame_base, base_foldl (fun s r => by simp), State.sendFrame_base]

@[simp] theorem State.countStamps_base (s : State) : (State.countStamps s).base = s.base := by rfl

@[simp] theorem State.setRole_base (s : State) (r : Role) : (State.setRole s r).base = s.base := by
  simp [State.setRole, toBase, base_mk, Base.eta]

@[simp] theorem State.setSpine_base (s : State) (x : SpineState) : (State.setSpine s x).base = s.base := by
  simp [State.setSpine, toBase, base_mk, Base.eta]

@[simp] theorem State.startTraining_base (s : State) : (State.startTraining s).base = s.base := by
  simp [State.startTraining, toBase, base_mk, Base.eta]

@[simp] theorem State.wakeChain_base (s : State) : (State.wakeChain s).base = s.base := by
  simp [State.wakeChain, toBase, base_mk, Base.eta]

@[simp] theorem State.becomePrimary_base (s : State) : (State.becomePrimary s).base = s.base := by
  simp [State.becomePrimary, toBase, base_mk, Base.eta]

@[simp] theorem State.dropLoans_base (s : State) : (State.dropLoans s).base = s.base := by rfl

@[simp] theorem State.becomeStandby_base (s : State) : (s.becomeStandby false).base = s.base := by
  simp [State.becomeStandby, toBase, base_mk, Base.eta]

@[simp] theorem State.putSpine_base (s : State) (seq : BitVec 16) (stamp : BitVec 48) (m : SpineMsg) (part : Nat) : (State.putSpine s seq stamp m part).base = s.base := by rfl

@[simp] theorem State.sendFree_base (s : State) (m : SpineMsg) : (State.sendFree s m).base = s.base := by rfl

@[simp] theorem State.sendPart_base (s : State) (m : SpineMsg) (part : Nat) : (s.sendPart m part).base = s.base := by rfl

@[simp] theorem State.sendSeq_base (s : State) (m : SpineMsg) : (State.sendSeq s m).base = s.base := by
  unfold State.sendSeq
  split
  · rfl
  · exact base_foldl (fun s i => by simp) _ _

@[simp] theorem State.forward_base (s : State) (item : ConfigItem) (live : BitVec 48) : (State.forward s item live).base = s.base := by
  unfold State.forward
  dsimp only
  repeat' split
  all_goals simp [toBase, base_mk, Base.eta, base_foldl]

@[simp] theorem State.scheduleInventory_base (s : State) : (State.scheduleInventory s).base = s.base := by rfl

@[simp] theorem State.claim_base (s : State) : (State.claim s).base = s.base := by
  simp [State.claim]

@[simp] theorem State.startAir_base (s : State) : (State.startAir s).base = s.base := by
  simp [State.startAir, toBase, base_mk, Base.eta, base_foldl]

@[simp] theorem State.endRestore_base (s : State) : (State.endRestore s).base = s.base := by
  simp [State.endRestore, toBase, base_mk, Base.eta]

@[simp] theorem State.beginRestore_base (s : State) : (State.beginRestore s).base = s.base := by
  simp [State.beginRestore, toBase, base_mk, Base.eta]

@[simp] theorem State.restoreRecord_base (s : State) (r : Nat × Image) : (State.restoreRecord s r).base = s.base := by
  simp [State.restoreRecord, toBase, base_mk, Base.eta]

@[simp] theorem State.dropRebuild_base (s : State) (sid : Nat) : (State.dropRebuild s sid).base = s.base := by rfl

@[simp] theorem State.parkNow_base (s : State) (sid : Nat) : (State.parkNow s sid).base = s.base := by rfl

@[simp] theorem State.freeStream_base (s : State) (sid : Nat) : (State.freeStream s sid).base = s.base := by
  simp [State.freeStream]

@[simp] theorem State.cardDone_base (s : State) (w : StreamWait) (copy : Bool) (gen step : Nat) : (State.cardDone s w copy gen step).base = s.base := by
  simp [State.cardDone]

@[simp] theorem State.renewCell_base (s : State) (sid : Nat) (i : Image) : (s.renewCell sid i).base = s.base := by
  unfold State.renewCell
  split <;> rfl

@[simp] theorem State.importStream_base (s : State) (sid slot : Nat) (live : Bool) (img : Image) : (State.importStream s sid slot live img).base = s.base := by
  unfold State.importStream
  dsimp only
  rw [State.actOn_base, State.remapCells_base, State.renewCell_base]
  split <;> simp [toBase, base_mk, Base.eta]

@[simp] theorem State.createStream_base (s : State) (f : FolioInfo) (sid slot : Nat) (portable live : Bool) (seed : BitVec 64) : (State.createStream s f sid slot portable live seed).base = s.base := by
  simp [State.createStream]

@[simp] theorem State.serveWait_base (s : State) (w : StreamWait) : (State.serveWait s w).base = s.base := by
  unfold State.serveWait
  dsimp only
  repeat' split
  all_goals simp [toBase, base_mk, Base.eta, base_foldl]

@[simp] theorem serveFrom_base (n : Nat) (a b : List StreamWait) (s : State) : (serveFrom n a b s).base = s.base := by
  induction n generalizing a b s with
  | zero => rfl
  | succ n ih => cases b <;> (simp only [serveFrom]; repeat' split) <;> simp [ih, toBase, base_mk, Base.eta]

theorem State.heldCard_base {s z : State} {f f' : HeldFrame} {w w' : StreamWait} (h : s.heldCard f w = some (z, f', w')) : z.base = s.base := by
  unfold State.heldCard at h
  split at h
  · split at h
    · cases h
    · simp only [Option.some.injEq, Prod.mk.injEq] at h
      rw [← h.1, State.parkNow_base]
  · simp only [Option.some.injEq, Prod.mk.injEq] at h
    rw [← h.1]

theorem base_waits (s : State) (x : List StreamWait) : ({ s with waits := x } : State).base = s.base := rfl

@[simp] theorem sendHeldCards_base (n : Nat) (s : State) : (sendHeldCards n s).base = s.base := by
  induction n generalizing s with
  | zero => rfl
  | succ n ih =>
    simp only [sendHeldCards]
    split
    · rfl
    · split
      · rfl
      · split
        · rfl
        · rename_i h
          have hz := State.heldCard_base h
          split
          · rfl
          · rw [ih]
            split <;> simp [base_waits, hz]

@[simp] theorem State.serveWaits_base (s : State) : (State.serveWaits s).base = s.base := by
  simp [State.serveWaits]

@[simp] theorem State.streamRequest_base (s : State) (sid : Nat) (act : StreamAct) (ses : Sess) (lineNo : Nat) : (State.streamRequest s sid act ses lineNo).base = s.base := by
  simp [State.streamRequest, toBase, base_mk, Base.eta]

@[simp] theorem State.streamLost_base (s : State) (sid page : Nat) : (State.streamLost s sid page).base = s.base := by
  unfold State.streamLost
  dsimp only
  repeat' split
  all_goals simp [toBase, base_mk, Base.eta, base_foldl]

@[simp] theorem State.tallyStk_base (s : State) (stack : Nat) (t : Tick) : (State.tallyStk s stack t).base = s.base := by rfl

@[simp] theorem State.writeRows_base (s : State) (c : ChargeSt) (f : FolioInfo) : (s.writeRows c f).base = s.base := by
  unfold State.writeRows
  split
  · refine base_foldl (fun s x => ?_) _ _
    dsimp only
    split <;> rfl
  · rfl

@[simp] theorem State.putInputs_base (s : State) (c : ChargeSt) (xs : List (Nat × Bytes)) : (s.putInputs c xs).base = s.base := by
  simp [State.putInputs]

@[simp] theorem State.keepInputs_base (s : State) (c : ChargeSt) (f : FolioInfo) (xs : List (Nat × Bytes)) : (s.keepInputs c f xs).base = s.base := by rfl

@[simp] theorem State.feed_base (s : State) (c : ChargeSt) : (s.feed c).base = s.base := by
  unfold State.feed
  dsimp only
  repeat' split
  all_goals simp

@[simp] theorem State.openRebuild_base (s : State) (c : ChargeSt) (sid : Nat) : (State.openRebuild s c sid).base = s.base := by
  unfold State.openRebuild
  split <;> simp [toBase, base_mk, Base.eta, base_foldl]

@[simp] theorem State.startRebuild_base (s : State) (c : ChargeSt) : (State.startRebuild s c).base = s.base := by
  unfold State.startRebuild
  split <;> simp [toBase, base_mk, Base.eta, base_foldl]

@[simp] theorem State.openRedo_base (s : State) (c : ChargeSt) (row : Nat) : (s.openRedo c row).base = s.base := by
  unfold State.openRedo
  dsimp only
  repeat' split
  all_goals simp

@[simp] theorem State.startCharge_base (s : State) (c : ChargeSt) : (State.startCharge s c).base = s.base := by
  unfold State.startCharge
  split
  · rfl
  · rw [base_foldl (fun s i => by simp)]; simp

@[simp] theorem State.leaveQueue_base (s : State) (at0 : Tick) (stack : Nat) (o : Op) (i : Nat) (c : ChargeSt) : (s.leaveQueue at0 stack o i c).base = s.base := by
  unfold State.leaveQueue
  dsimp only
  split <;> simp

@[simp] theorem State.countSkew_base (s : State) (stack slot layer : Nat) : (State.countSkew s stack slot layer).1.base = s.base := by rfl

@[simp] theorem State.loseCopies_base (s : State) (lost : List Nat) : (s.loseCopies lost).base = s.base := by rfl

@[simp] theorem State.failDesc_base (s : State) (at0 : Tick) (c : ChargeSt) (q : QDesc) (status detail cycles : Nat) : (State.failDesc s at0 c q status detail cycles).base = s.base := by
  unfold State.failDesc
  dsimp only
  repeat' split
  all_goals simp [toBase, base_mk, Base.eta, base_foldl]

@[simp] theorem State.takeRun_base (s : State) (c : ChargeSt) (d : BitVec 512) (o : RunOut) : (State.takeRun s c d o).s.base = s.base := by
  unfold State.takeRun
  dsimp only
  split <;> simp

@[simp] theorem State.keepHeads_base (s : State) (c : ChargeSt) (d : BitVec 512) : (State.keepHeads s c d).base = s.base := by
  unfold State.keepHeads
  split <;> simp [toBase, base_mk, Base.eta, base_foldl]

@[simp] theorem effMatmul_base (s : State) (c : ChargeSt) (d : BitVec 512) : (effMatmul s c d).s.base = s.base := by
  simp [effMatmul]

@[simp] theorem effScan_base (s : State) (c : ChargeSt) (d : BitVec 512) : (effScan s c d).s.base = s.base := by
  unfold effScan
  dsimp only
  split <;> simp

@[simp] theorem effBind_base (s : State) (c : ChargeSt) (d : BitVec 512) : (effBind s c d).s.base = s.base := by
  simp [effBind]

@[simp] theorem effStreamin_base (s : State) (c : ChargeSt) (d : BitVec 512) : (effStreamin s c d).s.base = s.base := by
  unfold effStreamin
  dsimp only
  repeat' split
  all_goals simp [toBase, base_mk, Base.eta, base_foldl]

@[simp] theorem effRecall_base (s : State) (c : ChargeSt) (d : BitVec 512) : (effRecall s c d).s.base = s.base := by
  unfold effRecall
  simp only [toBase, base_mk, Base.eta, base_foldl]
  split <;> simp [toBase, base_mk, Base.eta, base_foldl]

@[simp] theorem effPark_base (s : State) (c : ChargeSt) (d : BitVec 512) : (effPark s c d).s.base = s.base := by
  unfold effPark
  simp only [toBase, base_mk, Base.eta, base_foldl]
  split <;> simp [toBase, base_mk, Base.eta, base_foldl]

@[simp] theorem State.commitStepRow_base (s : State) (c : ChargeSt) (f : FolioInfo) (p : Nat × StreamSt) (l : Nat) : (State.commitStepRow s c f p l).base = s.base := by
  unfold State.commitStepRow
  dsimp only
  repeat' split
  all_goals first | rfl | simp

@[simp] theorem State.commitState_base (s : State) (sid : Nat) (state : List (List Int)) : (State.commitState s sid state).base = s.base := by
  simp [State.commitState]

@[simp] theorem State.commitRebuild_base (s : State) (sid : Nat) (needs : List (Nat × Nat)) (last : Bool) : (State.commitRebuild s sid needs last).base = s.base := by
  simp [State.commitRebuild]

@[simp] theorem State.rolloutEnd_base (s : State) (id : Nat) : (State.rolloutEnd s id).base = s.base := by
  unfold State.rolloutEnd
  dsimp only
  repeat' split
  all_goals simp [toBase, base_mk, Base.eta, base_foldl]

@[simp] theorem State.restoreRow_base (s : State) (c : ChargeSt) (row : Nat) (x : StreamSt) (l : Nat) : (s.restoreRow c row x l).base = s.base := by
  unfold State.restoreRow
  dsimp only
  split <;> rfl

@[simp] theorem State.commitRow_base (s : State) (c : ChargeSt) (more : Bool) (lsteps : Nat) (p : Nat × Nat) : (State.commitRow s c more lsteps p).base = s.base := by
  unfold State.commitRow
  dsimp only
  rw [State.writeHome_base]
  split
  · split <;> simp
  · split <;> simp
  · split
    · simp
    · split <;> simp

@[simp] theorem effCommit_base (s : State) (c : ChargeSt) (d : BitVec 512) : (effCommit s c d).s.base = s.base := by
  unfold effCommit
  dsimp only
  split <;> rfl

@[simp] theorem State.countElements_base (s : State) (c : ChargeSt) (pick : ClipCount → Bool) : (s.countElements c pick).base = s.base := by
  simp [State.countElements]

@[simp] theorem endCommit_base (s : State) (c : ChargeSt) (d : BitVec 512) : (endCommit s c d).base = s.base := by
  unfold endCommit
  split
  · rfl
  · dsimp only
    have h : ∀ (s : State) (l : List (Nat × Nat)) m k, (l.foldl (fun s p => s.commitRow c m k p) s).base = s.base := fun s l m k => base_foldl (fun s p => by simp) l s
    repeat' split
    all_goals simp [h]

@[simp] theorem effXfer_base (s : State) (c : ChargeSt) (d : BitVec 512) : (effXfer s c d).s.base = s.base := by
  unfold effXfer
  dsimp only
  split <;> rfl

@[simp] theorem effShadow_base (s : State) (c : ChargeSt) (d : BitVec 512) : (effShadow s c d).s.base = s.base := by rfl

@[simp] theorem endDigest_base (s : State) (c : ChargeSt) (d : BitVec 512) : (endDigest s c d).base = s.base := by rfl

@[simp] theorem endColophon_base (s : State) (c : ChargeSt) (d : BitVec 512) : (endColophon s c d).base = s.base := by
  simp [endColophon]

@[simp] theorem effectOf_base (o : Op) (s : State) (c : ChargeSt) (q : QDesc) : (effectOf o s c q).s.base = s.base := by
  unfold effectOf
  split <;> simp

@[simp] theorem State.fillDone_base (s : State) (slot stack region : Nat) : (State.fillDone s slot stack region).base = s.base := by
  simp [State.fillDone]

@[simp] theorem State.putUnits_base (s : State) (stack : Nat) (units : List (List (Nat × Bytes))) : (State.putUnits s stack units).base = s.base := by
  unfold State.putUnits
  split <;> rfl

@[simp] theorem State.putEnd_base (s : State) (c : ChargeSt) (x : RunEnd) : (State.putEnd s c x).base = s.base := by
  simp [State.putEnd, toBase, base_mk, Base.eta, base_foldl]

@[simp] theorem State.lateDrift_base (s : State) (c : ChargeSt) (row : Nat) : (s.lateDrift c row).base = s.base := by
  unfold State.lateDrift
  split
  · split <;> simp
  · rfl

@[simp] theorem State.endEffect_base (s : State) (c : ChargeSt) (d : BitVec 512) : (State.endEffect s c d).base = s.base := by
  unfold State.endEffect
  dsimp only
  split
  · split <;> simp
  · simp
  · exact base_foldl (fun s p => by split <;> simp) _ _
  · exact base_foldl (fun s p => by simp) _ _
  all_goals simp

@[simp] theorem State.trimLog_base (s : State) : (State.trimLog s).base = s.base := by rfl

@[simp] theorem State.endKind_base (s : State) (c : ChargeSt) : (State.endKind s c).base = s.base := by
  unfold State.endKind
  dsimp only
  repeat' split
  all_goals simp [toBase, base_mk, Base.eta, base_foldl]

@[simp] theorem State.chargeEnd_base (s : State) (id : Nat) (at0 : Tick) : (State.chargeEnd s id at0).base = s.base := by
  unfold State.chargeEnd
  split
  · rfl
  · split
    · rfl
    · dsimp only
      split <;> simp [toBase, base_mk, Base.eta]

@[simp] theorem State.recordDesc_base (s : State) (c : ChargeSt) (bits : BitVec 512) (index : Nat) (status cycles drift detail : Nat) : (State.recordDesc s c bits index status cycles drift detail).base = s.base := by
  simp [State.recordDesc]

@[simp] theorem Effect.begin_base (e : Effect) (at0 : Tick) (stack : Nat) (c : ChargeSt) (o : Op) (pre : List QDesc) (q : QDesc) :
    (e.begin at0 stack c o pre q).base = e.s.base := by
  unfold Effect.begin
  dsimp only
  rw [State.modStk_base]
  split <;> simp

@[simp] theorem State.startDesc_base (s : State) (stack : Nat) (o : Op) : (State.startDesc s stack o).base = s.base := by
  unfold State.startDesc
  split
  · rfl
  · split
    · rfl
    · dsimp only
      split
      · rw [State.chargeEnd_base, State.noteReady_base, State.recordDesc_base]
        split <;> split <;> simp
      · rw [apply_ite State.base, State.failDesc_base, State.noteReady_base, Effect.begin_base, ite_self]
        split <;> simp

@[simp] theorem State.oweDebt_base (s : State) (stack slot : Nat) (r : RunSt) (due : Tick) : (State.oweDebt s stack slot r due).base = s.base := by
  simp [State.oweDebt]

@[simp] theorem State.leaveEngine_base (s : State) (stack : Nat) (r : RunSt) (due : Tick) : (State.leaveEngine s stack r due).base = s.base := by
  simp [State.leaveEngine, toBase, base_mk, Base.eta, base_foldl]

@[simp] theorem State.takeOuts_base (s : State) (id : Nat) : (s.takeOuts id).base = s.base := by
  unfold State.takeOuts
  split
  · rfl
  · dsimp only
    split <;> rfl

@[simp] theorem State.completeDesc_base (s : State) (stack : Nat) (e : Engine) : (State.completeDesc s stack e).base = s.base := by
  unfold State.completeDesc
  dsimp only
  repeat' split
  all_goals simp [toBase, base_mk, Base.eta, base_foldl]

@[simp] theorem State.preempt_base (s : State) (stack slot : Nat) : (State.preempt s stack slot).base = s.base := by
  unfold State.preempt
  dsimp only
  rw [State.noteReady_base, State.modStk_base, base_foldl (fun s p => by simp)]

@[simp] theorem State.preemptLost_base (s : State) (at0 : Tick) (stack owner : Nat) : (s.preemptLost at0 stack owner).base = s.base := by
  unfold State.preemptLost
  dsimp only
  rw [base_foldl (fun s c => by simp), State.dropAdmitted_base]

@[simp] theorem State.saveBlock_base (s : State) (at0 : Tick) (stack slot : Nat) (b : Nat × Nat) : (State.saveBlock s at0 stack slot b).base = s.base := by
  unfold State.saveBlock
  split
  · simp
  · dsimp only
    split <;> simp [toBase, base_mk, Base.eta]

@[simp] theorem State.haltAll_base (s : State) (at0 : Tick) (stack : Nat) (pick : RunSt → Bool) : (State.haltAll s at0 stack pick).base = s.base := by
  unfold State.haltAll
  dsimp only
  rw [State.modStk_base, base_foldl (fun s r => by split <;> simp), State.tallyStk_base]

@[simp] theorem State.stopPoint_base (s : State) (stack : Nat) : (State.stopPoint s stack).base = s.base := by
  unfold State.stopPoint
  split
  · rfl
  · dsimp only
    rw [State.noteReady_base, base_foldl (fun s b => by split <;> simp), State.modStk_base, State.haltAll_base]

@[simp] theorem State.loseSaved_base (at0 : Tick) (stack : Nat) (s : State) (b : SavedBlock) : (State.loseSaved at0 stack s b).base = s.base := by
  unfold State.loseSaved
  dsimp only
  rw [base_foldl (fun s c => by simp), State.raise_base]

theorem base_steward (s : State) (x : Steward) : ({ s with steward := x } : State).base = s.base := rfl

@[simp] theorem State.resumeStops_base (s : State) (stack : Nat) : (State.resumeStops s stack).base = s.base := by
  unfold State.resumeStops
  split
  · rfl
  · dsimp only
    rw [State.noteReady_base, State.modStk_base, base_steward, base_foldl (fun s b => by simp), State.tallyStk_base]

@[simp] theorem State.endSlice_base (s : State) (stack : Nat) : (State.endSlice s stack).base = s.base := by
  unfold State.endSlice
  split
  · rfl
  · simp [toBase, base_mk, Base.eta, base_foldl]

@[simp] theorem State.logSteps_base (s : State) (c : ChargeSt) : (State.logSteps s c).base = s.base := by
  unfold State.logSteps
  split <;> simp [toBase, base_mk, Base.eta, base_foldl]

@[simp] theorem State.takeShifts_base (s : State) (sid : Nat) : (s.takeShifts sid).base = s.base := by
  unfold State.takeShifts
  exact base_foldl (fun s r => by split <;> simp) _ _

@[simp] theorem State.markSubmitted_base (s : State) (c : ChargeSt) : (State.markSubmitted s c).base = s.base := by
  unfold State.markSubmitted
  split <;> simp [toBase, base_mk, Base.eta, base_foldl]

@[simp] theorem State.submit_base (s : State) (cmd : ChargeSpec) : (State.submit s cmd).base = s.base := by
  unfold State.submit
  simp only [toBase, base_mk, Base.eta, base_foldl]
  split <;> simp [toBase, base_mk, Base.eta, base_foldl]

@[simp] theorem State.stopCharge_base (early : Bool) (at0 : Tick) (stack : Nat) (s : State) (c : ChargeSt) : (State.stopCharge early at0 stack s c).base = s.base := by
  unfold State.stopCharge
  dsimp only
  rw [State.abandon_base, State.decodeLost_base]
  split <;> simp

@[simp] theorem State.endStack_base (early : Bool) (at0 : Tick) (s : State) (stack : Nat) : (State.endStack early at0 s stack).base = s.base := by
  unfold State.endStack
  dsimp only
  split
  · rfl
  · split
    · rw [base_foldl (fun s c => State.stopCharge_base early at0 stack s c), State.dropAdmitted_base]
    · rw [State.stackFault_base, base_foldl (fun s c => State.stopCharge_base early at0 stack s c), State.dropAdmitted_base]

@[simp] theorem State.missFrame_base (s : State) : (State.missFrame s).base = s.base := by
  simp [State.missFrame, toBase, base_mk, Base.eta, base_foldl]

@[simp] theorem State.keepRows_base (s : State) : (State.keepRows s).base = s.base := by
  simp [State.keepRows, toBase, base_mk, Base.eta, base_foldl]

@[simp] theorem State.doAct_base (s : State) (a : StackAct) : (s.doAct a).base = s.base := by
  unfold State.doAct
  split
  · simp
  · simp
  · simp
  · simp
  · simp
  · simp
  · split <;> simp

@[simp] theorem runBy_base (t : Tick) (n : Nat) (s : State) : (runBy t n s).base = s.base := by
  induction n generalizing s with
  | zero => rfl
  | succ n ih =>
    simp only [runBy]
    split
    · rfl
    · rw [ih, State.doAct_base]

@[simp] theorem State.keepFrame_base (s : State) : s.keepFrame.base = s.base := by
  unfold State.keepFrame
  split <;> rfl

@[simp] theorem State.compareBehind_base (s : State) : s.compareBehind.base = s.base := by
  unfold State.compareBehind
  refine base_foldl (fun s c => ?_) _ _
  split
  · dsimp only; split <;> simp
  · rfl

@[simp] theorem State.closeStamp_base (s : State) (early : Bool) (at0 : Tick) : (s.closeStamp early at0).base = s.base := by
  unfold State.closeStamp
  dsimp only
  rw [base_foldl (fun s k => State.endStack_base early at0 s k)]
  simp only [State.missFrame_base, State.endRota_base, State.countSilence_base, State.countRxdiv_base, State.countSilentNodes_base, State.keepRows_base,
    State.keepFrame_base, State.compareBehind_base]
  split <;> simp

@[simp] theorem State.beginCell_base (s : State) (r : Request) (c : RollCell) : (State.beginCell s r c).1.base = s.base := by rfl

@[simp] theorem beginCells_base (r : Request) (cs : List RollCell) (s : State) : (beginCells r cs s).1.base = s.base := by
  induction cs generalizing s with
  | nil => rfl
  | cons c cs ih => simp [beginCells, ih]

@[simp] theorem State.beginRequests_base (s : State) (n : BitVec 48) : (s.beginRequests n).base = s.base := by
  unfold State.beginRequests
  refine base_foldl (fun s r => ?_) _ _
  dsimp only
  split <;> simp

@[simp] theorem State.settingActs_base (s : State) : s.settingActs.base = s.base := by
  unfold State.settingActs
  exact base_foldl (fun s c => by simp) _ _

@[simp] theorem State.acceptLoan_base (s : State) (slot : Nat) (ks : List Nat) (regions blocks claim pages : Nat) (begins : BitVec 48) (moveFrom : Option Nat) : (State.acceptLoan s slot ks regions blocks claim pages begins moveFrom).base = s.base := by rfl

@[simp] theorem State.forwardLoan_base (s : State) (slot : Nat) (a : LoanAct) (b : BitVec 48) : (State.forwardLoan s slot a b).base = s.base := by
  simp [State.forwardLoan]

@[simp] theorem State.placeKeptLoan_base (s : State) (l : KeptLoan) : (s.placeKeptLoan l).base = s.base := by
  unfold State.placeKeptLoan
  dsimp only
  repeat' split
  all_goals first | rfl | simp | exact base_foldl (fun s p => by simp) _ _

@[simp] theorem State.placeKept_base (s : State) : (State.placeKept s).base = s.base := by
  simp [State.placeKept, toBase, base_mk, Base.eta, base_foldl]

@[simp] theorem State.dueInventories_base (s : State) : (State.dueInventories s).base = s.base := by
  simp [State.dueInventories, toBase, base_mk, Base.eta, base_foldl]

@[simp] theorem State.loansAtBoundary_base (s : State) : s.loansAtBoundary.base = s.base := by
  simp [State.loansAtBoundary]

@[simp] theorem State.endRoles_base (s : State) : (s.endRoles).base = s.base := by
  unfold State.endRoles; dsimp only; split
  · exact State.becomeStandby_base s
  · rfl

@[simp] theorem State.newStamp_base (s : State) : (State.newStamp s).base = s.base := by rfl

@[simp] theorem State.keepLog_base (s : State) : (State.keepLog s).base = s.base := by rfl

@[simp] theorem State.writeKept_base (s : State) : s.writeKept.base = s.base := by
  unfold State.writeKept
  dsimp only
  rw [base_foldl (fun s f => by simp)]
  rfl

@[simp] theorem State.takeOver_base (s : State) : (State.takeOver s).base = s.base := by
  unfold State.takeOver
  dsimp only
  split <;> simp [toBase, base_mk, Base.eta]

@[simp] theorem State.dropOversize_base (s : State) (stack : Nat) : (State.dropOversize s stack).base = s.base := by
  simp [State.dropOversize, toBase, base_mk, Base.eta, base_foldl]

@[simp] theorem State.countSolo_base (s : State) (stack : Nat) : (State.countSolo s stack).base = s.base := by
  simp [State.countSolo, toBase, base_mk, Base.eta, base_foldl]

@[simp] theorem State.pass_base (s : State) (stack : Nat) : (State.pass s stack).base = s.base := by
  simp [State.pass, toBase, base_mk, Base.eta, base_foldl]

@[simp] theorem State.unweed_base (s : State) (stack : Nat) : (State.unweed s stack).base = s.base := by
  simp [State.unweed]

@[simp] theorem State.endInventory_base (s : State) (stack : Nat) (f : InvFinding) : (State.endInventory s stack f).base = s.base := by
  unfold State.endInventory
  simp only [toBase, base_mk, Base.eta, base_foldl]
  split <;> simp [toBase, base_mk, Base.eta, base_foldl]

@[simp] theorem State.resetTurn_base (s : State) (stack : Nat) : (State.resetTurn s stack).base = s.base := by
  unfold State.resetTurn
  split <;> simp [toBase, base_mk, Base.eta, base_foldl]

@[simp] theorem State.failOver_base (s : State) : (State.failOver s).base = s.base := by
  simp [State.failOver, toBase, base_mk, Base.eta]

@[simp] theorem State.answerFaults_base (s : State) (u : Sess) : (State.answerFaults s u).base = s.base := by
  simp [State.answerFaults, toBase, base_mk, Base.eta, base_foldl]

@[simp] theorem State.setHrdy_base (s : State) (b : Bool) : (s.setHrdy b).base = s.base := by rfl

@[simp] theorem State.restartA_base (s : State) (since : Tick) : (State.restartA s since).base = s.base := by
  unfold State.restartA
  dsimp only
  rw [State.raise_base, State.writeEvents_base, base_foldl (fun s f => by simp), State.modRing_base, State.setHrdy_base]
  refine Eq.trans (b := ((s.answerFaults .line).answerFaults .port).base) rfl ?_
  simp

@[simp] theorem State.restartB_base (s : State) (since : Tick) : (State.restartB s since).base = s.base := by
  simp [State.restartB, toBase, base_mk, Base.eta, base_foldl]

@[simp] theorem State.clearIrq_base (s : State) (v : BitVec 32) : (State.clearIrq s v).base = s.base := by rfl

@[simp] theorem State.clearErr_base (s : State) (v : BitVec 16) : (State.clearErr s v).base = s.base := by rfl

@[simp] theorem State.writeH2m_base (s : State) (v : BitVec 16) : (State.writeH2m s v).base = s.base := by
  simp [State.writeH2m, toBase, base_mk, Base.eta]

@[simp] theorem State.writeM2h_base (s : State) (v : BitVec 16) : (State.writeM2h s v).base = s.base := by
  simp [State.writeM2h, toBase, base_mk, Base.eta]

@[simp] theorem State.writeCons_base (s : State) (r : Nat) (v : BitVec 32) : (State.writeCons s r v).base = s.base := by
  simp [State.writeCons]

@[simp] theorem State.writeProd_base (s : State) (r : Nat) (v : BitVec 32) : (State.writeProd s r v).base = s.base := by
  simp [State.writeProd]

@[simp] theorem sendHeld_base (r n : Nat) (s : State) : (sendHeld r n s).base = s.base := by
  induction n generalizing s with
  | zero => rfl
  | succ n ih => simp only [sendHeld]; repeat' split
                 all_goals simp [ih]

@[simp] theorem State.strike_base (s : State) (stack : Nat) (o : Op) (hw : Strikes) : (State.strike s stack o hw).base = s.base := by rfl

@[simp] theorem State.startOn_base (s : State) (a : StackAt) (o : Op) : (State.startOn s a o).base = s.base := by
  simp [State.startOn]

@[simp] theorem State.sendTrain_base (s : State) (roundTrip turnaround : Nat) : (State.sendTrain s roundTrip turnaround).base = s.base := by rfl

@[simp] theorem State.takeAck_base (s : State) (ack : BitVec 16) : (State.takeAck s ack).base = s.base := by
  simp [State.takeAck, toBase, base_mk, Base.eta]

@[simp] theorem State.takeFrame_base (s : State) (rx : SpineRx) (ftype : Nat) : (State.takeFrame s rx ftype).1.base = s.base := by
  unfold State.takeFrame
  dsimp only
  repeat' split
  all_goals simp [toBase, base_mk, Base.eta, base_foldl]

@[simp] theorem State.takeSeq_base (s : State) (rx : SpineRx) (m : SpineMsg) : (State.takeSeq s rx m).1.base = s.base := by
  unfold State.takeSeq
  dsimp only
  repeat' split
  all_goals simp [toBase, base_mk, Base.eta, base_foldl]

theorem State.onFrame_base (s : State) (rx : SpineRx) (t : Nat) {f : State → State} (h : ∀ s, (f s).base = s.base) : (s.onFrame rx t f).base = s.base := by
  simp only [State.onFrame]; split <;> simp [h]

theorem State.onSeq_base (s : State) (rx : SpineRx) (m : SpineMsg) {f : State → State} (h : ∀ s, (f s).base = s.base) : (s.onSeq rx m f).base = s.base := by
  simp only [State.onSeq]; split <;> simp [h]

@[simp] theorem State.conflict_base (s : State) : (State.conflict s).base = s.base := by
  simp [State.conflict, toBase, base_mk, Base.eta]

@[simp] theorem State.linkUp_base (s : State) : (State.linkUp s).base = s.base := by
  simp [State.linkUp, toBase, base_mk, Base.eta]

@[simp] theorem State.takeTrain_base (s : State) (i : TrainInfo) : (State.takeTrain s i).base = s.base := by
  simp [State.takeTrain, toBase, base_mk, Base.eta]

@[simp] theorem State.forwardShares_base (s : State) (slot : Nat) : (s.forwardShares slot).base = s.base := by
  unfold State.forwardShares
  dsimp only
  split
  · rw [State.forward_base, base_foldl (fun s f => by simp)]
  · exact base_foldl (fun s f => by simp) _ _

@[simp] theorem State.forwardChange_base (s : State) (c : LoanChange) : (s.forwardChange c).base = s.base := by
  unfold State.forwardChange
  dsimp only
  split <;> simp

@[simp] theorem State.forwardLoans_base (s : State) : (s.forwardLoans).base = s.base := by
  unfold State.forwardLoans
  dsimp only
  rw [base_foldl (fun s c => by simp), base_foldl (fun s p => by simp)]

@[simp] theorem State.forwardSettings_base (s : State) : s.forwardSettings.base = s.base := by
  unfold State.forwardSettings
  dsimp only
  rw [base_foldl (fun s c => base_foldl (fun s x => by simp) _ _), base_ite, State.forward_base, ite_self,
    base_foldl (fun s c => base_foldl (fun s x => by simp) _ _),
    base_foldl (fun s c => base_foldl (fun s x => by simp) _ _), base_foldl (fun s x => by simp), base_foldl (fun s x => by simp),
    base_foldl (fun s x => by simp)]

@[simp] theorem State.resendSeals_base (s : State) (after : BitVec 48) : (State.resendSeals s after).base = s.base := by
  simp [State.resendSeals, toBase, base_mk, Base.eta, base_foldl]

@[simp] theorem State.follow_base (s : State) (run : BitVec 32) (n : BitVec 48) (phase : Nat) : (State.follow s run n phase).base = s.base := by
  simp [State.follow, toBase, base_mk, Base.eta]

@[simp] theorem State.noteBeat_base (s : State) (p : BitVec 128) : (State.noteBeat s p).base = s.base := by rfl

@[simp] theorem State.reportPub_base (s : State) : (State.reportPub s).base = s.base := by
  unfold State.reportPub
  split <;> simp [toBase, base_mk, Base.eta, base_foldl]

@[simp] theorem State.promoteAt_base (s : State) (slot : Nat) (b : BitVec 48) (place : Option (Nat × Bool)) : (State.promoteAt s slot b place).base = s.base := by
  unfold State.promoteAt
  split <;> rfl

@[simp] theorem State.acceptPromotion_base (s : State) (pub slot : Nat) (ses : Sess) (lineNo : Nat) : (State.acceptPromotion s pub slot ses lineNo).base = s.base := by
  unfold State.acceptPromotion
  dsimp only
  split <;> rw [State.answer_base]
  · rfl
  · rw [State.forward_base, State.promoteAt_base]
    rfl

@[simp] theorem State.loseAlignment_base (s : State) : (State.loseAlignment s).base = s.base := by rfl

@[simp] theorem State.takeBroadcast_base (s : State) (stamp : BitVec 48) (mtype seq : Nat) (body : Bytes) : (s.takeBroadcast stamp mtype seq body).base = s.base := by
  unfold State.takeBroadcast
  dsimp only
  split <;> rfl

@[simp] theorem State.takeOrder_base (s : State) (stamp : BitVec 48) (shelf mtype seq : Nat) (sync : Bool) (body : Bytes) : (State.takeOrder s stamp shelf mtype seq sync body).base = s.base := by
  unfold State.takeOrder
  split
  · simp
  · rfl

@[simp] theorem State.lateReport_base (s : State) (stamp : BitVec 48) (shelf : Nat) (p : Bytes) : (s.lateReport stamp shelf p).base = s.base := by
  unfold State.lateReport
  split <;> rfl

@[simp] theorem State.sealReport_base (s : State) (stamp : BitVec 48) (shelf pos outcome : Nat) (p : Bytes) : (State.sealReport s stamp shelf pos outcome p).base = s.base := by
  unfold State.sealReport
  dsimp only
  repeat' split
  all_goals simp

theorem State.applyRecord_base {s s' : State} {n : BitVec 48} {r : SealRec} (h : s.applyRecord n r = some s') : s'.base = s.base := by
  cases r <;> simp only [State.applyRecord] at h
  case step => 
    repeat' split at h
    all_goals first | cases h | skip
    all_goals simp
  case rebuild =>
    repeat' split at h
    all_goals first | cases h | skip
    all_goals simp
  all_goals injection h with h; subst h
  all_goals try rfl
  all_goals try (simp; done)
  all_goals repeat' split
  all_goals try (simp; done)
  all_goals simp [toBase, base_mk, Base.eta]

@[simp] theorem applyRecs_base (n : BitVec 48) (rs : List SealRec) (b : List Nat) (l : List SealRec) (s : State) : (applyRecs n rs b l s).2.2.base = s.base := by
  induction rs generalizing b l s with
  | nil => rfl
  | cons r rs ih =>
    simp only [applyRecs]
    split
    · rename_i s' h
      rw [ih]
      split at h
      · cases h
      · exact State.applyRecord_base h
    · rw [ih]

@[simp] theorem State.formDigest_base (s : State) (stamp : BitVec 48) (sid : Nat) : (s.formDigest stamp sid).base = s.base := by
  unfold State.formDigest
  split <;> rfl

@[simp] theorem applyHeld_base (hs : List HeldSeal) (b : List Nat) (l : List HeldSeal) (s : State) : (applyHeld hs b l s).2.base = s.base := by
  induction hs generalizing b l s with
  | nil => rfl
  | cons h hs ih => simp only [applyHeld]; rw [ih, base_foldl (fun s x => by simp), applyRecs_base]

@[simp] theorem State.applyHeldSeals_base (s : State) : (s.applyHeldSeals).base = s.base := by
  unfold State.applyHeldSeals
  dsimp only
  exact applyHeld_base s.spine.pendingSeals [] [] { s with spine := { s.spine with pendingSeals := [] } }

@[simp] theorem State.reshadow_base (s : State) (slot sid : Nat) (stamp : BitVec 48) (i : Image) : (State.reshadow s slot sid stamp i).base = s.base := by
  simp [State.reshadow]

@[simp] theorem State.replaceImage_base (s : State) (sid : Nat) (stamp : BitVec 48) (i : Image) (twin : Bytes) : (State.replaceImage s sid stamp i twin).base = s.base := by
  unfold State.replaceImage
  dsimp only
  rw [State.applyHeldSeals_base, State.modCell_base, State.reshadow_base, State.remapCells_base]
  rfl

@[simp] theorem State.compareCard_base (s : State) (head : BitVec 128) (body twin : Bytes) : (s.compareCard head body twin).base = s.base := by
  unfold State.compareCard
  dsimp only
  split
  · rfl
  · split
    · rfl
    · split
      · rfl
      · split
        · rfl
        · rw [State.replaceImage_base]
          split
          · rw [State.raise_base]; rfl
          · rfl

@[simp] theorem State.applySeals_base (s : State) : (s.applySeals).base = s.base := by
  unfold State.applySeals
  dsimp only
  rw [base_foldl (fun s c => by simp)]
  exact State.applyHeldSeals_base s

@[simp] theorem State.takeCard_base (s : State) (head : BitVec 128) (body twin : Bytes) : (State.takeCard s head body twin).base = s.base := by
  unfold State.takeCard
  split
  · rfl
  · split
    · rfl
    · simp

@[simp] theorem State.dropUnnamed_base (s : State) (stamp : BitVec 48) : (State.dropUnnamed s stamp).base = s.base := by rfl

@[simp] theorem State.completeSeal_base (s : State) (stamp : BitVec 48) (recs : List SealRec) (fin : SealRec) (first last : Nat) : (State.completeSeal s stamp recs fin first last).base = s.base := by
  simp [State.completeSeal, toBase, base_mk, Base.eta]

@[simp] theorem State.takeSeal_base (s : State) (recs : List SealRec) : (State.takeSeal s recs).base = s.base := by
  unfold State.takeSeal
  refine base_foldl (fun s x => ?_) _ _
  dsimp only
  repeat' split
  all_goals simp [toBase, base_mk, Base.eta, base_foldl]

@[simp] theorem State.sendSeal_base (s : State) : (State.sendSeal s).base = s.base := by
  simp [State.sendSeal, toBase, base_mk, Base.eta, base_foldl]

@[simp] theorem State.acceptOwn_base (s : State) : (s.acceptOwn).base = s.base := by
  unfold State.acceptOwn
  refine base_foldl (fun s b => ?_) _ _
  split
  · split <;> simp
  · rfl

@[simp] theorem State.decideUnsealed_base (s : State) : s.decideUnsealed.base = s.base := by
  unfold State.decideUnsealed
  dsimp only
  refine Eq.trans (b := (List.foldl (fun s (h : BitVec 48 × Nat × Nat × Nat × Bytes) => State.lateReport s h.1 h.2.1 h.2.2.2.2) s _).base) rfl ?_
  exact base_foldl (fun s h => by simp) _ _

@[simp] theorem State.declareLost_base (s : State) : (s.declareLost).base = s.base := by
  unfold State.declareLost
  dsimp only
  rw [base_foldl (fun s x => by split <;> (try split) <;> simp), State.applySeals_base, State.decideUnsealed_base, State.acceptOwn_base]
  rfl

@[simp] theorem State.clearHostLoans_base (s : State) (ks : List Nat) (live : BitVec 48) : (State.clearHostLoans s ks live).base = s.base := by rfl

@[simp] theorem State.noteMirror_base (s : State) (slot : Nat) (ks : List Nat) : (s.noteMirror slot ks).base = s.base := by rfl

@[simp] theorem State.takeLoan_base (s : State) (a : LoanAct) (live : BitVec 48) : (State.takeLoan s a live).base = s.base := by
  unfold State.takeLoan
  split <;> simp [toBase, base_mk, Base.eta, base_foldl]

@[simp] theorem State.takeSense_base (s : State) (n : BitVec 48) (ms : Nat) (ca cb : List Int) (m : List (List Int)) : (s.takeSense n ms ca cb m).base = s.base := by
  unfold State.takeSense
  dsimp only
  rw [State.testCurrents_base]
  rfl

@[simp] theorem State.hearCall_base (s : State) (lch : Nat) (acks : BitVec 64) : (s.hearCall lch acks).base = s.base := by
  unfold State.hearCall
  dsimp only
  rw [base_air, base_foldl (fun s i => by simp), base_foldl (fun s i => by
    split
    · split <;> simp
    · rfl)]
  split <;> simp

@[simp] theorem State.hearOffer_base (s : State) (offer confirm : Nat) (cid : BitVec 64) : (State.hearOffer s offer confirm cid).base = s.base := by
  simp [State.hearOffer, toBase, base_mk, Base.eta]

@[simp] theorem State.openLine_base (s : State) (u : Sess) (tag : Option Nat) : (State.openLine s u tag).base = s.base := by
  simp [State.openLine]

@[simp] theorem State.orderNode_base (s : State) (u : Line) (n : Nat) (m : Msg) (f : NodeSt → NodeSt) : (State.orderNode s u n m f).base = s.base := by
  unfold State.orderNode
  split <;> simp [toBase, base_mk, Base.eta, base_foldl]

@[simp] theorem State.orderAll_base (s : State) (u : Line) (n : Nat) (m : Msg) (f : NodeSt → NodeSt) : (State.orderAll s u n m f).base = s.base := by rfl

@[simp] theorem State.cardRequest_base (s : State) (u : Line) (n : Nat) (copy : Bool) : (State.cardRequest s u n copy).base = s.base := by
  simp [State.cardRequest]

@[simp] theorem State.refuseRequest_base (s : State) (u : Line) (n : Nat) (l : HubLine) : (State.refuseRequest s u n l).base = s.base := by
  simp [State.refuseRequest]

@[simp] theorem State.acceptRequest_base (s : State) (u : Line) (n : Nat) (r : Request) (more : List (String × RVal)) : (State.acceptRequest s u n r more).base = s.base := by
  simp [State.acceptRequest, toBase, base_mk, Base.eta]

@[simp] theorem State.planOf_base (s : State) (u : Line) : (s.planOf u).2.base = s.base := by
  have h := State.takeInput_base s 0x21 (lineNat u .plan 0)
  unfold State.planOf
  split
  · rfl
  · split
    · rename_i h'; rw [h'] at h; exact h
    · rename_i h'; rw [h'] at h
      split
      · split <;> exact h
      · exact h

@[simp] theorem State.regenerate_base (s : State) (u : Line) (n : Nat) (f : FolioInfo) (card input : Bytes) : (State.regenerate s u n f card input).base = s.base := by
  unfold State.regenerate
  dsimp only
  repeat' split
  all_goals simp [toBase, base_mk, Base.eta, base_foldl]

@[simp] theorem State.capture_base (s : State) (n : Nat) : (State.capture s n).2.base = s.base := by rfl

/-! ## The clock of record -/

/-- The clock of record: whether stamps run, the stamp's number, the run, and the instant of the boundary; and the test access state. -/
def State.clk (s : State) : Bool × BitVec 48 × BitVec 32 × Tick × TestSt := (s.stamp.started, s.stamp.number, s.stamp.run, s.stamp.t0, s.test)

theorem clk_of_base {a b : State} (h : a.base = b.base) : a.clk = b.clk := by
  have h1 := congrArg Base.started h
  have h2 := congrArg Base.number h
  have h3 := congrArg Base.run h
  have h4 := congrArg Base.t0 h
  have h5 := congrArg Base.test h
  simp only [State.base] at h1 h2 h3 h4 h5
  simp only [State.clk, h1, h2, h3, h4, h5]

/-- A fold of steps that keep the clock keeps it. -/
theorem clk_foldl {α : Type} {f : State → α → State} (h : ∀ s x, (f s x).clk = s.clk) (xs : List α) (s : State) :
    (xs.foldl f s).clk = s.clk := by
  induction xs generalizing s with
  | nil => rfl
  | cons x xs ih => rw [List.foldl_cons, ih, h]

theorem State.hold_clk (s : State) (p : SName × Option Int) : (s.hold p).clk = s.clk := by
  unfold State.hold
  dsimp only
  split <;> rfl

theorem State.setLive_clk (s : State) (p : SName × Option Int) : (s.setLive p).clk = s.clk := by
  unfold State.setLive
  dsimp only
  split
  · rw [clk_of_base (State.logAct_base _ _), State.hold_clk]
  · exact State.hold_clk s p

theorem State.scriptsLive_clk (s : State) : s.scriptsLive.clk = s.clk := by
  unfold State.scriptsLive
  exact clk_foldl (fun s x => clk_of_base (by simp)) _ _

theorem State.settingsLive_clk (s : State) (new : List (SName × Option Int)) : (s.settingsLive new).clk = s.clk := by
  unfold State.settingsLive
  rw [State.scriptsLive_clk, clk_foldl State.setLive_clk]
  rfl

theorem State.settingActs_clk (s : State) : s.settingActs.clk = s.clk := by
  unfold State.settingActs
  exact clk_foldl (fun s c => clk_of_base (by simp)) _ _

theorem State.dropRebuilds_clk (s : State) : s.dropRebuilds.clk = s.clk := rfl

theorem State.driveTck_base (s : State) : s.driveTck.base = s.base := by rfl

theorem State.goLive_clk (s : State) : s.goLive.clk = s.clk := by
  unfold State.goLive
  dsimp only
  generalize s.dueSettings = new
  have h1 : ∀ x : State, (if new.isEmpty || !x.leads then x else x.syncConfigs true).clk = x.clk := fun x => clk_of_base (by split <;> simp)
  have h2 : ∀ x : State, (if new.any fun p => modeSetting p.1 then x.driveTck.applyMode else x).clk = x.clk :=
    fun x => clk_of_base (by split <;> simp [State.driveTck_base])
  have h3 : ∀ x : State, (if new.any fun p => p.1 == .inventorySchedule then x.scheduleInventory else x).clk = x.clk :=
    fun x => clk_of_base (by split <;> simp)
  have h4 : ∀ x : State, (if (new.any fun p => p.1 == .driftMonitor) && x.getN .driftMonitor = 0 then x.dropRebuilds else x).clk = x.clk := fun x => by
    split <;> rfl
  rw [h1, h2, h3, State.settingActs_clk]
  exact (h4 (s.settingsLive new)).trans (State.settingsLive_clk s new)

theorem State.newStamp_clk (s : State) : s.newStamp.clk = s.clk := rfl

theorem State.nameRailFault_clk (s : State) : s.nameRailFault.clk = s.clk := by
  unfold State.nameRailFault
  split
  · split
    · rename_i r _ _
      have h : (({ s with power := { s.power with railFault := none } } : State).raise 0x87 none none r s.power.shutdowns 0 0).clk
          = ({ s with power := { s.power with railFault := none } } : State).clk := clk_of_base (by simp)
      rw [h]; rfl
    · rfl
  · rfl

/-- What going quiet changes at a boundary leaves the clock alone. -/
theorem clk_quiet (s : State) :
    (if s.power.brownAt.isSome then { s with power := { s.power with quiet := true }, acc := { s.acc with btnOut := false } } else s : State).clk = s.clk := by
  split <;> rfl

theorem State.airAtBoundary_clk (s : State) : s.airAtBoundary.clk = s.clk := by
  have h : ∀ (x : State) (c : Bool), (if c then (((x.airBoundary).sendBeacons).countRelease).forward (.roster
      (((x.airBoundary).sendBeacons).countRelease).archive.roster) (((x.airBoundary).sendBeacons).countRelease).stamp.number
      else ((x.airBoundary).sendBeacons).countRelease).clk = x.clk := fun x c => clk_of_base (by split <;> simp)
  rw [← clk_quiet s]
  unfold State.airAtBoundary
  dsimp only
  generalize (if s.power.brownAt.isSome then { s with power := { s.power with quiet := true }, acc := { s.acc with btnOut := false } } else s : State) = x
  split
  · rfl
  · exact h x _

/-- With no life-cycle move due, what begins with a stamp leaves the clock alone. -/
theorem State.openStamp_clk (s : State) (h : ∀ m ∈ s.test.lifeDue, ¬ m.2 ≤ s.stamp.number) : s.openStamp.clk = s.clk := by
  have keep : ∀ x : State, x.clipFrames.monitors.placeKept.loansAtBoundary.countStamps.keepLog.base
      = x.base := fun x => by simp
  generalize hl : s.nodes.map s.linkRecord = links
  have air : (((((s.goLive).serviceFrames links).newStamp).nameRailFault).endRoles).airAtBoundary.clk = s.clk := by
    rw [State.airAtBoundary_clk, clk_of_base (State.endRoles_base _), State.nameRailFault_clk, State.newStamp_clk,
      clk_of_base (State.serviceFrames_base _ _), State.goLive_clk]
  have hc := (clk_of_base (keep (((((s.goLive).serviceFrames links).newStamp).nameRailFault).endRoles).airAtBoundary)).trans air
  unfold State.openStamp
  dsimp only
  rw [hl]
  split
  · rename_i m hm
    have ht := congrArg (fun c => c.2.2.2.2) hc
    have hn := congrArg (fun c => c.2.1) hc
    simp only [State.clk] at ht hn
    rw [ht, hn] at hm
    have hle := List.find?_some hm
    exact absurd (of_decide_eq_true hle) (h m (List.mem_of_find?_eq_some hm))
  · exact hc

/-- A boundary on a hub that counts its own stamps: the next number begins at the given instant. -/
theorem State.boundary_clk (s : State) (at0 : Tick) (early : Bool) (hr : s.roleSt.target = none)
    (h : ∀ m ∈ s.test.lifeDue, ¬ m.2 ≤ s.stamp.number + 1) :
    (s.boundary at0 early).clk = (s.stamp.started, s.stamp.number + 1, s.stamp.run, at0, s.test) := by
  have hc : ((s.closeStamp early at0).beginRequests (s.stamp.number + 1)).clk = s.clk := clk_of_base (by simp)
  simp only [State.clk, Prod.mk.injEq] at hc
  obtain ⟨h1, h2, h3, _, h5⟩ := hc
  unfold State.boundary
  rw [State.openStamp_clk]
  · simp only [State.nextStamp, hr, State.clk, h1, h2, h3, h5]
  · simp only [State.nextStamp, hr, h5, h2]
    exact h

/-- A boundary at which a standby adopts its primary's run and number. -/
theorem State.boundary_clk_adopts (s : State) (at0 : Tick) (early : Bool) {run : BitVec 32} {n : BitVec 48} (hr : s.roleSt.target = some (run, n))
    (h : ∀ m ∈ s.test.lifeDue, ¬ m.2 ≤ n) :
    (s.boundary at0 early).clk = (s.stamp.started, n, run, at0, s.test) := by
  have hc : ((s.closeStamp early at0).beginRequests (s.stamp.number + 1)).clk = s.clk := clk_of_base (by simp)
  simp only [State.clk, Prod.mk.injEq] at hc
  obtain ⟨h1, h2, h3, _, h5⟩ := hc
  unfold State.boundary
  rw [State.openStamp_clk]
  · simp only [State.nextStamp, hr, State.clk, h1, h5]
  · simp only [State.nextStamp, hr, h5]
    exact h


end Sys2Proof.Machine
end

