-- ==== Sys2Proof/Laws/Step.lean ====
section
/-! SUPPORT. What every command has in common: it answers a next state, and that state is a settled one. -/

namespace Sys2Proof.Machine

/-- Every command ends in a next state, settled from the state at its own instant. -/
theorem exec_settles (c : Instr) (s : State) : ∃ t s', exec c s = .next ((s.advance t).settle s') := by
  cases c <;> exact ⟨_, _, rfl⟩

/-- What settling leaves alone. -/
theorem settle_now (s s' : State) : (s.settle s').now = s.now := rfl
theorem settle_pending (s s' : State) : (s.settle s').pending = s.pending := rfl
theorem settle_fuses (s s' : State) : (s.settle s').test.fuses = s.test.fuses ||| s'.test.fuses := rfl
theorem settle_irqen (s s' : State) : (s.settle s').port.regs.irqen = s'.port.regs.irqen ||| 4#32 := rfl

/-- IRQEN[2] is already 1. -/
theorem irqen_or {v : BitVec 32} (h : v.getLsbD 2 = true) : v ||| 4#32 = v := by
  apply BitVec.eq_of_getLsbD_eq
  intro i hi
  rw [BitVec.getLsbD_or]
  by_cases h2 : i = 2
  · subst h2; simp [h]
  · have : (4#32).getLsbD i = false := by
      have h4 : ∀ j : Fin 32, j.val ≠ 2 → (4#32).getLsbD j.val = false := by decide
      exact h4 ⟨i, hi⟩ h2
    simp [this]

/-- Settling a state that has kept IRQEN[2] and its fuses puts back the time and the queue, and changes nothing else. -/
theorem settle_eq {a s' : State} (h : s'.port.regs.irqen.getLsbD 2 = true) (hf : s'.test.fuses = a.test.fuses) :
    a.settle s' = { s' with now := a.now, pending := a.pending } := by
  unfold State.settle
  rw [irqen_or h, ← hf, BitVec.or_self]

/-- The kept part after settling. -/
theorem settle_base {a s' : State} (h : s'.base = a.base) :
    (a.settle s').base = { a.base with irqen := a.port.regs.irqen ||| 4#32 } := by
  have hf : s'.test = a.test := congrArg Base.test h
  have hi : s'.port.regs.irqen = a.port.regs.irqen := congrArg Base.irqen h
  have h1 := congrArg Base.power h
  have h2 := congrArg Base.settings h
  have h3 := congrArg Base.started h
  have h4 := congrArg Base.number h
  have h5 := congrArg Base.run h
  have h6 := congrArg Base.t0 h
  have h7 := congrArg Base.boot h
  have h8 := congrArg Base.powerUps h
  have h9 := congrArg Base.saved h
  have h10 := congrArg Base.savedScripts h
  have h11 := congrArg Base.savedSets h
  have h12 := congrArg Base.keptSide h
  have h13 := congrArg Base.keptPartner h
  have h14 := congrArg Base.spineKey h
  have h15 := congrArg Base.staging h
  have h16 := congrArg Base.side h
  have h17 := congrArg Base.partner h
  simp only [State.base] at h1 h2 h3 h4 h5 h6 h7 h8 h9 h10 h11 h12 h13 h14 h15 h16 h17
  simp only [State.settle, State.base, hf, hi, BitVec.or_self, h1, h2, h3, h4, h5, h6, h7, h8, h9, h10, h11, h12, h13, h14, h15, h16, h17]

/-! ## Events whose condition holds -/

/-- A command whose condition holds answers with what it does, settled. -/
theorem occurs_is {t : Tick} {ok : State → Bool} {act : State → State} {s n : State} (h : ok (s.advance t) = true)
    (e : (s.advance t).settle (act (s.advance t)) = n) : occurs t ok act s = .next n := by
  unfold occurs
  rw [if_pos h, e]

/-! ## The kept part of the hub -/

theorem occurs_base {t : Tick} {ok : State → Bool} {act : State → State} {s n : State}
    (ha : ∀ s, (act s).base = s.base) (h : occurs t ok act s = .next n) :
    n.base = { s.base with now := max s.now t, irqen := s.port.regs.irqen ||| 4#32 } := by
  unfold occurs at h
  injection h with h
  subst h
  have : (if ok (s.advance t) then act (s.advance t) else s.advance t).base = (s.advance t).base := by
    split
    · rw [ha]
    · rfl
  rw [settle_base this]
  rfl

theorem usith_base {t : Tick} {u : Line} {specs : List ArgSpec} {g : CmdGroup} {res : State → Bool} {act : State → Nat → State} {s n : State}
    (ha : ∀ s k, (act s k).base = s.base) (h : usith t u specs g res act s = .next n) :
    n.base = { s.base with now := max s.now t, irqen := s.port.regs.irqen ||| 4#32 } := by
  unfold usith at h
  refine occurs_base ?_ h
  intro s
  dsimp only
  split
  · simp [State.openLine]
  · split
    · simp [State.openLine]
    · rw [ha]; simp [State.openLine]

theorem usithRead_base {t : Tick} {u : Line} {specs : List ArgSpec} {r : State → List HubLine} {s n : State}
    (h : usithRead t u specs r s = .next n) :
    n.base = { s.base with now := max s.now t, irqen := s.port.regs.irqen ||| 4#32 } := by
  unfold usithRead at h
  exact usith_base (fun s k => by simp) h

/-! ## Usith commands -/

/-- A line that the hub hears and that passes its checks reaches its command. -/
theorem usith_ready {t : Tick} {u : Line} {specs : List ArgSpec} {g : CmdGroup} {res : State → Bool} {act : State → Nat → State} {s : State}
    (hl : s.listens u.ses = true) (ha : s.steward.aDown = none)
    (hf : ((s.advance t).openLine u.ses u.tag).lineFault u specs g (res ((s.advance t).openLine u.ses u.tag)) = none) :
    usith t u specs g res act s =
      .next ((s.advance t).settle (act ((s.advance t).openLine u.ses u.tag) (s.ses u.ses).lines)) := by
  have hs : ((s.advance t).openLine u.ses u.tag).steward.aDown.isSome = false := by
    cases hu : u.ses <;> simp [State.openLine, State.modSes, State.advance, ha]
  have hn : ((s.advance t).ses u.ses).lines = (s.ses u.ses).lines := by cases u.ses <;> rfl
  have ht : (u.tag.filter fun k => decide (k ≤ 65535)) = u.tag := by
    cases hu : u.tag with
    | none => rfl
    | some k =>
      by_cases hk : k ≤ 65535
      · simp [Option.filter, hk]
      · simp [State.lineFault, hu, Nat.lt_of_not_le hk] at hf
  unfold usith
  rw [occurs_of (by exact hl)]
  simp only [ht, hs, Bool.false_eq_true, if_false, hf, hn]

/-- The checks of a line see nothing that its opening changes. -/
theorem lineFault_opened (s : State) (t : Tick) (u : Line) (specs : List ArgSpec) (g : CmdGroup) (b : Bool) :
    ((s.advance t).openLine u.ses u.tag).lineFault u specs g b = s.lineFault u specs g b := by
  cases hu : u.ses <;> simp [State.lineFault, State.openLine, State.modSes, State.advance, State.ses, State.life, State.isStandby, hu]

/-- The reply of the only line that waits goes out at once. -/
theorem answer_out (s : State) (u : Sess) (n : Nat) (tag : Option Nat) (ls : List HubLine)
    (h : (s.ses u).waiting = [{ lineNo := n, tag := tag, ready := none }]) :
    (s.answer u n ls).out = (ls.reverse.map fun l => Out.usith u tag l) ++ s.out := by
  cases u <;>
  · simp only [State.ses] at h
    simp only [State.answer, State.flushSes, State.modSes, State.ses, h]
    simp only [List.map_cons, List.map_nil, if_true, List.length_cons, List.length_nil, flushReplies, State.ses, State.modSes]
    obtain ⟨p, hp⟩ := sendLines_shape _ tag ls _
    rw [hp]

end Sys2Proof.Machine
end

