-- ==== Sys2Proof/WellFormed.lean ====
section
/-! DEFINITION. Which commands of the table name something that the hub has: its stacks, rails, channels, ports, rings and
slots, and lists of the lengths that the spec gives. A command that is not well formed is no event of a hub; its meaning
is total all the same. -/

namespace Sys2Proof

/-- A slot of the frame has room for 64 nodes' reports and 16 retries on a channel at most (10 R285). -/
def Slot.wellFormed : Slot → Bool
  | .uplink i => decide (i < 64)
  | .retry k => decide (k < 64)
  | .accession => true

/-- A charge names a stack and a patron slot, and holds 1 to 256 descriptors (06 R155). -/
def ChargeSpec.wellFormed (c : ChargeSpec) : Bool := decide (c.stack < 4 ∧ c.slot < 16)

/-- A front-end code lies between its end values, ±8,388,607 (15 R425). -/
def codeWellFormed (x : BitVec 24) : Bool := x != 0x800000#24
/-- One mains instant is a code of each of VMA, VMB, VMC and VMN (15 Table 15.2). -/
def mainsWellFormed (xs : List (BitVec 24)) : Bool := decide (xs.length = 4) && xs.all codeWellFormed

/-- What a line refers to is the command's own check (14 R399); its session and tag are any (13 R385). -/
def Line.wellFormed (u : Line) : Bool :=
  match u.tag with
  | some n => decide (n ≤ 65535)
  | none => true

/-- The command names only what the hub has. -/
def Instr.wellFormed : Instr → Bool
  | .railPowerGood _ rail | .railGoodLost _ rail => decide (rail < 5)
  | .streamin _ a | .matmul _ a | .scan _ a | .bind _ a | .recall _ a | .park _ a | .commit _ a | .xfer _ a | .shadow _ a
  | .digest _ a | .colophon _ a | .sync _ a => decide (a.k < 4)
  | .stackWake _ k | .startupInventoryEnd _ k _ | .admissionPass _ k
  | .descriptorComplete _ k _ | .stopPoint _ k | .resume _ k | .sliceEnd _ k | .hang _ k _ | .isolationReport _ k
  | .inventoryEnd _ k _ => decide (k < 4)
  | .preemption _ k p | .drainEnd _ k p => decide (k < 4 ∧ p < 16)
  | .conversion _ a b m => codeWellFormed a && codeWellFormed b && m.all mainsWellFormed
  | .chargeSubmit _ c => c.wellFormed
  | .burstReceive _ l sl _ _ | .learnedDeadline _ l sl | .burstOutcome _ l sl _ _ _ => decide (l < 4) && sl.wellFormed
  | .callSend _ l | .orderSend _ l _ => decide (l < 4)
  | .portfault _ x _ => decide (x < 4)
  | .trainingPhase _ p => decide (p ≤ 6)
  | .sense _ _ _ _ ca cb m => decide (ca.length = 64 ∧ cb.length = 64 ∧ m.length = 16) && (ca ++ cb).all codeWellFormed && m.all mainsWellFormed
  | .heldFrameWrite _ r => decide (r = 1 ∨ r = 3 ∨ r = 4)
  | .consWrite _ r _ => decide (r < 5)
  | .prodWrite _ r _ => decide (r = 5)
  | .registerWrite t a d => decide (a.addr + d.length ≤ 2 ^ 32 ∧ a.fell ≤ t)
  | .session _ u | .ident _ u | .stamp _ u | .set _ u _ | .showSetting _ u | .discard _ u | .apply _ u | .save _ u | .accession _ u
  | .nodeShow _ u | .balance _ u | .owtest _ u | .breakClear _ u | .nodeQuery _ u | .nodeSleep _ u | .protectAck _ u
  | .twinsetLoad _ u | .streamCreate _ u | .streamFree _ u | .streamExport _ u | .streamCopy _ u | .streamImport _ u
  | .streamShow _ u | .streamList _ u | .folioWrite _ u | .folioInstall _ u _ | .folioList _ u | .folioDelete _ u | .bindFolio _ u
  | .unbind _ u | .loan _ u | .release _ u | .move _ u | .promote _ u | .draftDiscard _ u | .draftShow _ u | .rollout _ u
  | .regenerate _ u | .job _ u | .cancel _ u | .requestShow _ u | .reportService _ u | .reportLink _ u | .eventList _ u
  | .portShow _ u | .portRestore _ u | .scriptLoad _ u | .pair _ u | .spineShow _ u | .spineKey _ u | .roleYield _ u
  | .powerShow _ u | .inventory _ u | .inventoryShow _ u | .lectern _ u | .life _ u => u.wellFormed
  | .powerUp _ | .busCheckEnd _ | .railEnable _ | .railGoodTimeout _ | .railRestart _ | .bootRecordRead _ | .pllLock _
  | .stewardBoot _ | .roleDecision _ | .beaconListenEnd _ | .unalignedPromotion _ | .hrdyRise _ | .snapshotRestore _
  | .streamRecordRestore _ | .brownOut _ _ | .brownOutHrdyLow _ | .snapshotWrite _ | .snapshotSeal _ | .busRestart _
  | .rstNLow _ | .rstNRelease _ | .stampBoundary _ | .takeoverBoundary _ | .sampleMark _
  | .currentMean _ | .heartbeatSend _ | .starvedEvent _ | .unservedEvent _ | .divsum _ | .refitUpdate _ _ | .publish _
  | .scheduledInventory _ | .ledgerScrub _ _ | .lockstepA _ | .lockstepB _ | .stewardRestart _ _ | .lossInstant _
  | .receiverRelease _ | .tuneScript _ | .batonReturn _ | .batonbreak _ | .accofferSend _ | .btnSenseSample _ _ | .chainbreak _
  | .trainingTimeout _ | .train _ _ _ | .heartbeat _ _ _ | .role _ _ _ | .config _ _ _ _ | .seal _ _ _ | .card _ _ _ _ _
  | .spineResend _ | .spinesec _ | .sealSend _ | .primaryLost _ | .partnerBeacon _ _ _ | .estimateFrameWrite _
  | .eventFrameWrite _ | .statusBlockUpdate _ | .transactionTimeout _ | .irqWrite _ _ | .irqenWrite _ _ | .errWrite _ _
  | .h2mlenWrite _ _ | .m2hlenWrite _ _ | .partialLineTimeout _ | .extest _ _ | .idcode _ | .samplePreload _ _ | .clamp _
  | .highz _ | .fuseread _ | .fuseprog _ _ | .bypass _ _ | .trstNLow _ | .powerLoss _ | .lineError _ _ _ _
  | .partnerBurstReceive _ _ | .spinePreamble _ | .spineDown _ | .promotionLagging _ => true

end Sys2Proof
end

