-- ==== Sys2Proof/Tests/Slice0.lean ====
section
/-! SUPPORT. Tests of the model: ill-formed commands that each check of WellFormed.lean refuses, single steps on small states, and for the
statements of Certificates/Slice0/Obligations.lean a state and operands that meet their hypotheses together. -/

namespace Sys2Proof.Machine

-- A kernel evaluation waits for every theorem before it. Run beside each other, the tests below would each hold a thread and its
-- stack while they wait, more than the memory limit allows; so they run one after another, to the end of this namespace.
set_option Elab.async false

/-! ## Commands that name what the hub lacks -/

theorem test_ill_rail : (Instr.railPowerGood 0 5).wellFormed = false ∧ (Instr.railGoodLost 0 5).wellFormed = false := by decide
theorem test_ill_stack : (Instr.stackWake 0 4).wellFormed = false ∧ (Instr.streamin 0 { k := 4 }).wellFormed = false := by decide
theorem test_ill_slot : (Instr.preemption 0 1 16).wellFormed = false ∧ (Instr.drainEnd 0 4 0).wellFormed = false := by decide
theorem test_ill_code : (Instr.conversion 0 0x800000 0 none).wellFormed = false ∧ (Instr.conversion 0 0 0x800000 none).wellFormed = false := by decide
theorem test_ill_mains : (Instr.conversion 0 0 0 (some [0, 0, 0])).wellFormed = false := by decide
theorem test_ill_charge : (Instr.chargeSubmit 0 { slot := 16, stack := 0, kind := .step [] false, descs := [], rows := [], prereqs := [], inputs := [] }).wellFormed = false := by
  decide
theorem test_ill_channel : (Instr.burstReceive 0 4 .accession 0 0).wellFormed = false ∧ (Instr.callSend 0 4).wellFormed = false
    ∧ (Instr.orderSend 0 4 0).wellFormed = false := by decide
theorem test_ill_uplink : (Instr.learnedDeadline 0 0 (.uplink 64)).wellFormed = false := by decide
theorem test_ill_retry : (Instr.learnedDeadline 0 0 (.retry 64)).wellFormed = false := by decide
theorem test_ill_port : (Instr.portfault 0 4 .rck).wellFormed = false := by decide
theorem test_ill_phase : (Instr.trainingPhase 0 7).wellFormed = false := by decide
theorem test_ill_sense : (Instr.sense 0 { hdr := 0, crc := 0, count := 0 } 0 0 [] [] []).wellFormed = false := by decide
theorem test_ill_held : (Instr.heldFrameWrite 0 2).wellFormed = false := by decide
theorem test_ill_ring : (Instr.consWrite 0 5 0).wellFormed = false ∧ (Instr.prodWrite 0 4 0).wellFormed = false := by decide
theorem test_empty_write : (Instr.registerWrite 0 { addr := 0 } []).wellFormed = true := by decide
theorem test_ill_write_end : (Instr.registerWrite 0 { addr := 2 ^ 32 } [0]).wellFormed = false := by decide
theorem test_ill_tag : (Instr.ident 0 { ses := .line, tag := some 65536, args := [] }).wellFormed = false := by decide
theorem test_no_word : decodeTableWord 16 0 = none := by decide

/-! ## States and lines for the tests

Each `witness_<name>` shows, for the statement `Obligations.<name>`, states and operands that meet its hypotheses together, clause by clause,
at a boundary value where a clause has one. -/

/-- One millisecond and one microsecond. -/
def ms1 : Tick := 12000000
def us1 : Tick := 12000

/-- A stack in service. -/
def plainStack : StackSt := { present := true }
/-- A hub that runs alone in stamp 5, DEPLOYED, with nothing bound, lent or accessioned. -/
def hub : State := {
  power := { porter := true, booted := true, bootRead := true, bken := 31, good := 31 }
  stamp := { started := true, number := 5, run := 7 }
  roleSt := { decided := true }
  stackList := [plainStack, plainStack, plainStack, plainStack]
  patrons := (List.range 16).map fun p => { slot := p }
  port := { boot := false, hrdy := true }
  lineSes := { notice := false }
  test := { fuses := 7 } }
/-- The primary of a pair on an UP spine. -/
def lead : State := { hub with
  roleSt := { decided := true, role := .primary }
  spine := { partner := true, state := .up, partnerRole := some .standby } }
/-- The standby of a pair, on an UP spine. -/
def stand : State := { hub with
  roleSt := { decided := true, role := .standby, adopted := true }
  spine := { partner := true, sideB := true, state := .up, partnerRole := some .primary } }
/-- A hub without power, with its archive and fuses. -/
def dark : State := { hub with power := {}, stamp := {}, roleSt := {}, port := {} }
/-- A hub that boots: every rail good, the boot record not read. -/
def booting : State := { dark with power := { porter := true, bken := 31, good := 31 } }

/-- A line of the line session. -/
def ln (args : List (Arg × Val)) : Line := { ses := .line, tag := none, args := args }

/-- `State.Clear`, as a test. -/
def clearB (s : State) (c : Instr) : Bool :=
  match lineOf c with
  | some l => s.listens l.line.ses && s.steward.aDown.isNone && (s.lineFault l.line l.specs l.group (l.reserved s)).isNone
      && (s.ses l.line.ses).waiting.isEmpty
  | none => false

theorem clear_of {s : State} {c : Instr} (h : clearB s c = true) : s.Clear c := by
  unfold clearB at h
  split at h
  · rename_i l hl
    simp only [Bool.and_eq_true, Option.isNone_iff_eq_none, List.isEmpty_iff] at h
    exact ⟨l, hl, h.1.1.1, h.1.1.2, h.1.2, h.2⟩
  · exact absurd h (by decide)

/-- What a command leaves, by a test. -/
def leaves (c : Instr) (s : State) (p : State → Bool) : Bool :=
  match exec c s with
  | .next n => p n
  | _ => false

theorem answers_of {c : Instr} {s : State} {p : State → Bool} (h : leaves c s p = true) : Answers c s fun n => p n = true := by
  unfold leaves at h
  split at h
  · exact ⟨_, by assumption, h⟩
  · exact absurd h (by decide)

/-! ## The step and the invariants -/

theorem witness_StepRunsFront : hub.pending = [] ∧ step { hub with pending := [.statusBlockUpdate 0] } = exec (.statusBlockUpdate 0) hub := by
  exact ⟨by decide +kernel, rfl⟩
theorem witness_StepKeepsInvariant : Keeps 7 hub ∧ Keeps 0 dark := ⟨⟨by decide +kernel, by decide +kernel⟩, ⟨by decide +kernel, by decide +kernel⟩⟩
theorem witness_RecordKept : hub.sound = true ∧ Named (.statusBlockUpdate 0) = false ∧ Named (.lossInstant 0) = false ∧ Named (.apply 0 (ln [])) = true := by
  decide
theorem witness_PortStoresKept : Memory.wf hub.port.ringMem = true ∧ Memory.wf hub.port.mailIn = true ∧ Memory.wf hub.port.mailOut = true
    ∧ Memory.wf hub.archive.staging = true ∧ Memory.wf [(3, 1#8), (5, 2#8)] = true := by decide +kernel
theorem witness_StackStoresKept : ∀ k ∈ hub.stackList, Memory.wf k.store = true ∧ Memory.wf k.tags = true ∧ Memory.wf k.carrel = true := by decide +kernel
theorem witness_StoreLaws : Memory.wf (memWrite [] 4 [1, 0, 3]) = true ∧ memWrite [] 4 [1, 0, 3] = [(4, 1#8), (6, 3#8)] := by decide +kernel

/-! ## Power and the first second -/

/-- Waiting for the bus. -/
def onBus : State := { dark with power := { porter := true, waiting := .busCheck } }
theorem witness_RailSequence :
    (onBus.sound = true ∧ onBus.power.waiting = .busCheck ∧ onBus.power.waitFrom + 2 * msTicks ≤ onBus.at (2 * ms1))
    ∧ (∀ k, 1 ≤ k → k ≤ 4 →
        let s : State := { dark with power := { porter := true, bken := BitVec.ofNat 5 (2 ^ k - 1), good := BitVec.ofNat 5 (2 ^ k - 1) } }
        s.power.waiting = .none ∧ (∀ j < k, s.power.bken.getLsbD j = true) ∧ s.power.bken.getLsbD k = false ∧ s.power.good.getLsbD (k - 1) = true
          ∧ s.power.origin + (2 * k + 2) * msTicks ≤ s.at ((2 * k + 2) * ms1))
    ∧ (∀ k < 5,
        let s : State := { dark with power := { porter := true, bken := BitVec.ofNat 5 (2 ^ (k + 1) - 1), good := BitVec.ofNat 5 (2 ^ k - 1) } }
        s.power.waiting = .none ∧ s.power.bken.getLsbD k = true ∧ s.power.good.getLsbD k = false ∧ s.at (2 * ms1) ≤ s.power.enabledAt + 2 * msTicks) := by
  refine ⟨by decide +kernel, ?_, ?_⟩
  · intro k h1 h4; interval_cases k <;> decide +kernel
  · intro k h; interval_cases k <;> decide +kernel
theorem witness_RailFault :
    (∀ k < 5,
      let s : State := { dark with power := { porter := true, bken := BitVec.ofNat 5 (2 ^ (k + 1) - 1), good := BitVec.ofNat 5 (2 ^ k - 1) } }
      s.sound = true ∧ s.power.porter = true ∧ s.power.waiting = .none ∧ s.power.brownAt = none ∧ (∀ j ≤ k, s.power.bken.getLsbD j = true)
        ∧ (k = 4 ∨ s.power.bken.getLsbD (k + 1) = false) ∧ s.power.good.getLsbD k = false ∧ s.power.enabledAt + 2 * msTicks ≤ s.at (2 * ms1))
    ∧ (∀ k < 5, hub.sound = true ∧ hub.power.waiting = .none ∧ hub.power.bken.getLsbD k = true ∧ hub.power.good.getLsbD k = true)
    ∧ (booting.power.brownAt = none ∧ booting.power.rstLow = none ∧ booting.power.bken.getLsbD 0 = true ∧ booting.power.booted = false)
    ∧ (let s : State := { dark with power := { porter := true, waiting := .railRestart } }
       s.power.porter = true ∧ s.power.waitFrom + 1000 * msTicks ≤ s.at (1000 * ms1))
    ∧ (let s : State := { dark with power := { porter := true, waiting := .busRestart, offTimes := [(4, 0), (3, 200 * us1)] } }
       s.power.porter = true ∧ ∀ o ∈ s.power.offTimes, o.2 ≤ s.at (200 * us1)) := by
  refine ⟨?_, by decide +kernel, by decide +kernel, by decide +kernel, by decide +kernel⟩
  intro k h; interval_cases k <;> decide +kernel
theorem witness_PowerLossAndReset : hub.power.porter = true ∧ dark.power.porter = false ∧ hub.power.waiting = .none ∧ hub.power.brownAt = none
    ∧ hub.power.rstLow = none ∧ ({ hub with power := { hub.power with rstLow := some 0 } } : State).power.rstLow.isSome = true := by decide +kernel
theorem test_power_up : leaves (.powerUp 9) dark (fun n => n.power.porter && n.archive.powerUps == 1 && n.power.waitFrom == 9) = true := by decide +kernel
theorem test_power_loss : leaves (.powerLoss 9) hub (fun n => !n.power.porter && n.test.fuses == 7 && !n.stamp.started) = true := by decide +kernel

theorem witness_BootForms :
    (booting.railsGood = true ∧ booting.power.origin + 12 * msTicks ≤ booting.at (12 * ms1) ∧ booting.power.bootRead = false
      ∧ booting.test.fuses.getLsbD 4 = false)
    ∧ (let s : State := { booting with power := { booting.power with bootRead := true } }
       s.railsGood = true ∧ s.power.bootRead = true ∧ s.stamp.started = false ∧ s.blank = false)
    ∧ (let s : State := { booting with power := { booting.power with bootRead := true }, stamp := { started := true } }
       s.railsGood = true ∧ s.stamp.started = true ∧ s.power.booted = false ∧ s.blank = false) := by decide +kernel
theorem test_boot_side : leaves (.bootRecordRead (12 * ms1)) { booting with archive := { sideB := true, powerUps := 3 } }
    (fun n => n.spine.sideB && n.stamp.run == 0x80000003#32 && n.power.bootRead) = true := by decide +kernel

/-- A hub whose start-up inventories are under way. -/
def starting : State := { hub with roleSt := {}, port := {} }
theorem witness_StartUpForms :
    (starting.awake = true ∧ (starting.stk 3).usable = true ∧ (starting.stk 0).tested = false
      ∧ (∀ k < 4, starting.power.origin + (60 + 5 * k) * msTicks ≤ starting.at ((60 + 5 * k) * ms1)) ∧ (∀ j < 4, (starting.stk j).inv = none))
    ∧ (let s : State := { starting with stackList := [{ plainStack with inv := some { start := 60 * ms1, startup := true } }, plainStack, plainStack, plainStack] }
       (s.stk 0).inv = some { start := 60 * ms1, startup := true } ∧ 60 * ms1 + 4 * msTicks ≤ s.at (64 * ms1)
        ∧ (s.stk 0).shelves &&& ~~~ 1#32 ≠ 0)
    ∧ (starting.power.brownAt = none ∧ starting.roleSt.decided = false ∧ starting.roleSt.listenTo = none
        ∧ starting.power.origin + 140 * msTicks ≤ starting.at (140 * ms1) ∧ starting.spine.partner = false)
    ∧ (let s : State := { starting with spine := { partner := true, state := .up } }
       s.spine.partner = true ∧ s.spine.state = .up ∧ s.spine.partnerRole = none
        ∧ ({ s with spine := { s.spine with partnerRole := some .alone } } : State).spine.partnerRole = some .alone)
    ∧ (let s : State := { starting with roleSt := { listenTo := some (240 * ms1) } }
       s.roleSt.decided = false ∧ s.roleSt.listenTo = some (240 * ms1) ∧ 240 * ms1 ≤ s.at (240 * ms1))
    ∧ (let s : State := { stand with roleSt := { decided := true, role := .standby, unaligned := true, heardAt := some 0 }, stamp := { started := true, t0 := 25 * ms1 } }
       s.awake = true ∧ s.isStandby = true ∧ s.roleSt.unaligned = true ∧ (∀ h ∈ s.roleSt.heardAt, h + 25 * msTicks ≤ s.stamp.t0))
    ∧ (starting.port.boot = true ∧ starting.power.origin + 150 * msTicks ≤ starting.at (150 * ms1) ∧ starting.blank = false) := by decide +kernel
/-- A valid snapshot of one stream's record, which nothing has consumed. -/
def saved9 : Snapshot :=
  let x : Snapshot := { valid := true, consumed := false, records := [snapRec { sid := 9 }] }
  { x with crc := crc32 x.fixedBytes }
/-- The hub 1 ms after it has declared a brown-out, with what its snapshot is to hold. -/
def browned : State := { hub with power := { hub.power with brownAt := some 0, stopped := true }, steward := { snap := some saved9 } }
set_option maxRecDepth 100000 in
theorem witness_BrownOutForms :
    (hub.awake = true ∧ hub.power.waiting = .none ∧ hub.power.brownAt = none ∧ hub.power.bken.getLsbD 0 = true ∧ hub.archive.snapshot.usable = false
      ∧ ∀ k < 4, (hub.stk k).running = [])
    ∧ (let s : State := { hub with settings := { live := [(.powerMainsbo, some 2)] }, mains := { low := 2 }, archive := { snapshot := saved9 } }
       s.awake = true ∧ s.stamp.started = true ∧ s.steward.bDown = none ∧ s.get .powerMainsbo = some 2 ∧ (2 : Int).toNat ≤ s.mains.low
        ∧ s.archive.snapshot.usable = true)
    ∧ (let s : State := { hub with streams := [{ sid := 9, place := .resident, slot := 1 }] }
       (s.stream 9).slot = 1 ∧ (s.stream 9).place = .resident ∧ (s.streams.map (·.sid)).Nodup ∧ s.archive.snapshot.usable = false) := by decide +kernel
set_option maxRecDepth 100000 in
theorem witness_RestoreForms_seal :
    (browned.sound = true ∧ browned.port.hrdy = true ∧ browned.power.brownAt = some 0 ∧ 0 + msTicks ≤ browned.at ms1)
    ∧ (browned.power.brownAt.isSome = true ∧ browned.power.stopped = true ∧ browned.power.written = false ∧ browned.steward.snap = some saved9)
    ∧ (let s : State := { browned with power := { browned.power with written := true } }
       s.power.brownAt.isSome = true ∧ s.power.written = true)
    ∧ (let s : State := { browned with steward := {}, port := { hub.port with hrdy := false }, power := { browned.power with quiet := true } }
       s.power.written = false ∧ s.steward.snap = none ∧ s.port.hrdy = false ∧ s.power.quiet = true) := by decide +kernel
set_option maxRecDepth 100000 in
theorem witness_RestoreForms :
    (∀ x ∈ [saved9, { saved9 with records := [] }],
     let s : State := { hub with power := { hub.power with start := .restore }, acc := { phase := .ended, first := 5 }, archive := { snapshot := x } }
     s.up = true ∧ s.leads = true ∧ s.archive.snapshot.usable = true ∧ s.acc.phase = .ended ∧ s.acc.first = s.stamp.number ∧ s.sense.marked = false
      ∧ s.restoring = none ∧ s.restored = false)
    ∧ (let s : State := { hub with restoring := some [(9, {})], archive := { snapshot := { saved9 with cells := [(9, 1, 1)], roster := [(1, 5)] }, roster := [(1, 5)] } }
       s.up = true ∧ s.restoring = some [(9, {})] ∧ ([(9, ({} : Image))].map (·.1)).Nodup ∧ s.restoreFrom + (s.restoredCount + s.skipped) / 16 * msTicks ≤ s.at 0
        ∧ (∀ a ∈ s.archive.snapshot.cells, a.1 = 9 → s.sameNode a.2.1 = true) ∧ ∀ r ∈ s.archive.snapshot.records, r.crc = r.check)
    ∧ (let s : State := { hub with restoring := some [(9, {})], archive := { snapshot := { cells := [(9, 1, 1)], roster := [(1, 5)] }, roster := [(1, 6)] } }
       ∃ a ∈ s.archive.snapshot.cells, a.1 = 9 ∧ s.sameNode a.2.1 = false)
    ∧ (∃ r ∈ [{ (snapRec { sid := 9 }) with crc := 0 }], r.sid = 9 ∧ (r : SnapRec).crc ≠ r.check)
    ∧ (let rs : List (Nat × Image) := (List.range 17).map fun x => (x, {})
       16 < rs.length ∧ (rs.map (·.1)).Nodup ∧ ({ hub with restoring := some rs } : State).restoring = some rs) := by decide +kernel
theorem test_seal : leaves (.snapshotSeal 9) { browned with power := { browned.power with written := true } }
    (fun n => n.archive.snapshot.valid && n.power.shutdowns == 1 && n.power.waiting == .busRestart && !n.stamp.started) = true := by decide +kernel

/-! ## Boundaries, instants of the stamp, and events -/

theorem witness_BoundaryRaisesStamp :
    (hub.ticking = true ∧ hub.nextBoundary ≤ hub.at (10 * ms1) ∧ hub.roleSt.takeoverAt = none ∧ hub.roleSt.target = none ∧ hub.test.lifeDue = [])
    ∧ (let s : State := { hub with test := { fuses := 7, lifeEvent := none, lifeDue := [(4, 7)] } }
       s.nextBoundary ≤ s.at (10 * ms1) ∧ ¬ (7 : BitVec 48) ≤ s.stamp.number + 1)
    ∧ (let s : State := { stand with roleSt := { stand.roleSt with target := some (9, 40) } }
       s.ticking = true ∧ s.nextBoundary ≤ s.at (10 * ms1) ∧ s.roleSt.takeoverAt = none ∧ s.roleSt.target = some (9, 40) ∧ s.test.lifeDue = [])
    ∧ (let s : State := { stand with roleSt := { stand.roleSt with takeoverAt := some (3 * ms1) } }
       s.ticking = true ∧ s.roleSt.takeoverAt = some (3 * ms1) ∧ 3 * ms1 ≤ s.at (3 * ms1) ∧ s.roleSt.target = none ∧ s.roleSt.yieldAt = none
        ∧ s.roleSt.silentFrom = none ∧ s.test.lifeDue = []) := by decide +kernel
theorem test_boundary : leaves (.stampBoundary (10 * ms1)) hub
    (fun n => n.stamp.number == 6 && n.stamp.run == 7 && n.stamp.t0 == 10 * ms1 && !n.stamp.framed) = true := by decide +kernel

theorem witness_StampPointForms :
    (∀ k < 4, let s : State := { hub with stackList := hub.stackList.map fun x => { x with passDone := false } }
       s.stackList.length = 4 ∧ s.up = true ∧ s.steward.aDown = none ∧ s.steward.holdTo ≤ s.stamp.number ∧ (s.stk k).passDone = false
        ∧ (s.stk k).running = [] ∧ (s.stk k).usable = true)
    ∧ (hub.sound = true ∧ hub.ticking = true ∧ hub.isStandby = false ∧ hub.sense.marked = false ∧ hub.stamp.t0 + 100 * usTicks ≤ hub.at (100 * us1))
    ∧ (let s : State := { hub with sense := { msA := List.replicate 64 1, msB := List.replicate 64 2 } }
       s.ticking = true ∧ 64 ≤ s.sense.msA.length)
    ∧ (hub.stamp.t0 ≤ hub.at (10 * ms1 - 1) ∧ hub.at (10 * ms1 - 1) < hub.stamp.t0 + hub.stamp.period * msTicks)
    ∧ (lead.leads = true ∧ lead.spine.partner = true)
    ∧ (lead.ticking = true ∧ lead.spine.state = .up ∧ lead.roleSt.decided = true ∧ lead.spine.nextBeat ≤ lead.at 0) := by decide +kernel
theorem test_conversion : leaves (.conversion 75000 0xFFFFFF 3 none) hub (fun n => n.sense.sumA == -1 && n.sense.sumB == 3 && n.sense.count == 1) = true := by
  decide +kernel
theorem test_heartbeat_send : leaves (.heartbeatSend (250 * us1)) lead (fun n => n.spine.nextBeat == 500 * us1 && n.out.length == 1) = true := by decide +kernel

/-- A cell with three divergences open. -/
def rift (n : Nat) : CellSt := { shelf := n / 16 + 1, cell := n % 16 + 1, divs := [{ isOpen := true }, { isOpen := true }, { isOpen := true }] }
theorem witness_OnceASecondEvents :
    (let s : State := { hub with rota := { starving := true }, events := { lastStarved := some 0 } }
     s.up = true ∧ s.leads = true ∧ s.rota.starving = true ∧ 0 + 1000 * msTicks ≤ s.at (1000 * ms1))
    ∧ (∀ p < 2, let s : State := { hub with patrons := hub.patrons.map fun x => if x.slot = p then { x with folio := some 9 } else x }
       s.leads = true ∧ s.unserved p = true ∧ s.unserved (1 - p) = false ∧ s.events.lastUnserved = none)
    ∧ (let s : State := { hub with cells := (List.range 22).map rift, events := { divRolled := true, lastDivsum := some 0 } }
       s.up = true ∧ s.events.divRolled = true ∧ 64 < s.openDivs ∧ 0 + 1000 * msTicks ≤ s.at (1000 * ms1)) := by decide +kernel
theorem test_starved : leaves (.starvedEvent 0) { hub with rota := { starving := true }, cells := [rift 0] }
    (fun n => (n.events.fresh.map fun e => (e.code, e.a0)) == [(0x30, 1)]) = true := by decide +kernel

/-! ## Engines -/

/-- A descriptor of an opcode with fields: place and value. -/
def desc (op : Nat) (fs : List (Nat × Nat)) : BitVec 512 := BitVec.ofNat 512 (fs.foldl (fun a f => a + f.2 * 2 ^ f.1) op)
/-- The word of a row that names a stream at a HOME. -/
def rowWord (sid home : Nat) : BitVec 64 := BitVec.ofNat 64 (sid + 2 ^ 13 + home * 65536)
/-- A charge that runs on stack 0 for slot 4. -/
def errand : ChargeSt := { id := 0, slot := 4, stack := 0, kind := .mains, descs := [], rows := [rowWord 3 16], started := true, phase := .admitted }
/-- A stack with one descriptor at the head of its queue. -/
def working (d : BitVec 512) : StackSt := { plainStack with gated := false, valid := 0xFFFFFFFFFFFF, queue := [{ charge := 0, index := 0, bits := d }] }
/-- A hub on whose stack 0 a descriptor of a charge waits. -/
def busyWith (d : BitVec 512) (c : ChargeSt) : State := { hub with stackList := [working d, plainStack, plainStack, plainStack], charges := [c] }
/-- Stack 0, no storage of which an error strikes. -/
def at0 : StackAt := { k := 0 }
/-- What `busyWith` queues. -/
def first (d : BitVec 512) : QDesc := { charge := 0, index := 0, bits := d }
theorem nextUp {s : State} {o : Op} {d : BitVec 512} {c : ChargeSt} (h : s.stackList.length = 4 ∧ (s.advance 0).starts 0 o = true
    ∧ (s.stk 0).nextOf o.engine = some ([], first d) ∧ s.charge? 0 = some c ∧ c.stack = 0) : s.NextUp 0 at0 o 0 (first d) c :=
  { four := h.1, stack := by decide, can := h.2.1, next := ⟨[], h.2.2.1, rfl⟩, charge := h.2.2.2.1, here := h.2.2.2.2 }
theorem works {s : State} {o : Op} {d : BitVec 512} {c : ChargeSt} (h : s.stackList.length = 4 ∧ (s.advance 0).starts 0 o = true
    ∧ (s.stk 0).nextOf o.engine = some ([], first d) ∧ s.charge? 0 = some c ∧ c.stack = 0) (g : emptyDesc o d = false
    ∧ badCarrelRead ((s.opening 0 at0 o 0 c).stk 0) (carrelReads (s.opening 0 at0 o 0 c) (s.opened 0 at0 o 0 c).rows d) = none) :
    s.Works 0 at0 o 0 (first d) c := { nextUp h with work := g.1, intact := g.2 }

/-- The stream of the errand's row, parked and resident. -/
def parked3 : StreamSt := { sid := 3, place := .parked, slot := 4, pages := 1 }
def resident3 : StreamSt := { parked3 with place := .resident, stack := 0, home := 16 }
def dSync := desc 0x3C []
def dRecall := desc 0x28 [(72, 1)]
def dPark := desc 0x29 [(72, 1)]
def dXfer := desc 0x30 [(66, 3), (68, 0x20000), (128, 0), (144, 0)]
def dDigest := desc 0x38 [(72, 64), (94, 1)]
def dColophon := desc 0x39 [(128, 64), (144, 0)]
def dStreamin := desc 0x01 [(88, 64), (108, 47)]
def dMatmul := desc 0x10 [(72, 1), (104, 1), (88, 32), (66, 0)]
def dScan := desc 0x18 [(64, 1), (72, 1), (96, 1), (112, 1)]
def dBind := desc 0x20 [(68, 0x1FFFFF)]
def dShadow := desc 0x34 []
def dCommit := desc 0x2C [(72, 1), (82, 1)]
/-- The hub of `busyWith` with a stream, and with a share of slot 4 on stack 3. -/
def withStream (x : StreamSt) (s : State) : State := { s with streams := [x] }
def withShare (s : State) : State := { s with stackList := s.stackList.modify 3 fun k => { k with
  shares := [{ slot := 4, st := .lent, regions := [], blocks := [0, 1] }] } }
/-- An empty descriptor, before another of its charge. -/
def hollow : State := { busyWith (desc 0x10 []) { errand with started := false } with stackList :=
  [{ working (desc 0x10 []) with queue := [first (desc 0x10 []), { charge := 0, index := 1, bits := dSync }] }, plainStack, plainStack, plainStack] }
theorem witness_EnginesMove :
    (hollow.NextUp 0 at0 .matmul 0 (first (desc 0x10 [])) { errand with started := false } ∧ emptyDesc .matmul (desc 0x10 []) = true
        ∧ (dropAt 0 (hollow.stk 0).queue).any (fun x => x.charge == errand.id) = true)
    ∧ (busyWith dSync errand).Works 0 at0 .sync 0 (first dSync) errand
    ∧ (withStream parked3 (busyWith dRecall errand)).Works 0 at0 .recall 0 (first dRecall) errand
    ∧ (withStream resident3 (busyWith dPark errand)).Works 0 at0 .park 0 (first dPark) errand
    ∧ (withStream resident3 (busyWith dCommit errand)).Works 0 at0 .commit 0 (first dCommit) errand
    ∧ (busyWith dXfer errand).Works 0 at0 .xfer 0 (first dXfer) errand ∧ (withShare (busyWith dXfer errand)).Works 0 at0 .xfer 0 (first dXfer) errand
    ∧ (busyWith dDigest errand).Works 0 at0 .digest 0 (first dDigest) errand
    ∧ (busyWith dColophon errand).Works 0 at0 .colophon 0 (first dColophon) errand := by
  refine ⟨⟨nextUp ?_, ?_⟩, works ?_ ?_, works ?_ ?_, works ?_ ?_, works ?_ ?_, works ?_ ?_, works ?_ ?_, works ?_ ?_, works ?_ ?_⟩ <;> decide +kernel
theorem witness_EnginesMove_fed :
    (busyWith dSync { errand with fed := true }).NextUp 0 at0 .sync 0 (first dSync) { errand with fed := true }
    ∧ (busyWith dSync { errand with started := false, fed := true }).NextUp 0 at0 .sync 0 (first dSync) { errand with started := false, fed := true }
    ∧ (busyWith dRecall { errand with started := false }).NextUp 0 at0 .recall 0 (first dRecall) { errand with started := false } ∧ Op.recall.engine ≠ .main
    ∧ (busyWith dSync errand).NextUp 0 at0 .sync 0 (first dSync) errand ∧ errand.fed = false ∧ Op.sync.engine = .main := by
  refine ⟨nextUp ?_, nextUp ?_, nextUp ?_, ?_, nextUp ?_, ?_, ?_⟩ <;> decide +kernel
theorem witness_EnginesMove_rows :
    (let s := withStream parked3 (busyWith dRecall errand)
     (s.opening 0 at0 .recall 0 errand).streams = [parked3] ∧ (liveRows s errand 0 1).length = 1
        ∧ ∀ p ∈ liveRows s errand 0 1, p.2.place = .parked ∧ p.2.damaged = none)
    ∧ (let s := withStream resident3 (busyWith dPark errand)
       (s.opening 0 at0 .park 0 errand).streams = [resident3] ∧ (liveRows s errand 0 1).length = 1
        ∧ ∀ p ∈ liveRows s errand 0 1, p.2.place = .resident ∧ p.2.stack = 0 ∧ p.2.home = (rowAt errand.rows p.1).home)
    ∧ ((busyWith dXfer errand).opening 0 at0 .xfer 0 errand).xferOk 4 (XferBody.of dXfer) = false
    ∧ ((withShare (busyWith dXfer errand)).opening 0 at0 .xfer 0 errand).xferOk 4 (XferBody.of dXfer) = true := by decide +kernel
/-- A folio of one line. -/
def leaflet : FolioInfo := { fid := 9, kind := .host, parent := 0, layout := 0, layers := [], stateLayers := [], shifts := [], nring := 0, tensors := [], weightLines := [(List.replicate 64 5, 3)], wdigest := [], decodeCost := 0, slackNominal := 0, slackEconomy := 0, replayCost := 0, stepCost := 0, headAt := 0, inputAt := 0, rollout := false, taps := [], resultAt := 0, resultLen := 0, rsZero := true }
/-- The same hub with the leaflet bound to slot 4. -/
def shelved (s : State) : State := { s with
  archive := { s.archive with folios := [{ info := leaflet }] }
  patrons := s.patrons.map fun p => if p.slot = 4 then { p with folio := some 9 } else p }
theorem witness_EnginesMove_streamin :
    (shelved (busyWith dStreamin errand)).Works 0 at0 .streamin 0 (first dStreamin) errand
    ∧ ((shelved (busyWith dStreamin errand)).opening 0 at0 .streamin 0 errand).fillFolio errand = some { info := leaflet }
    ∧ (FillBody.of dStreamin).region = 47 := ⟨works (by decide +kernel) (by decide +kernel), by decide +kernel, by decide +kernel⟩
theorem test_streamin : leaves (.streamin 0 at0) (shelved (busyWith dStreamin errand))
    (fun n => memRead (n.stk 0).store 0 2 == [5, 5] && !(n.stk 0).valid.getLsbD 47 && (n.stk 0).valid.getLsbD 46
      && ((n.stk 0).running.map (·.cost)) == [2]) = true := by decide +kernel
/-- The same hub with an uncorrectable error in the first word of block 1, or with no valid region. -/
def torn (s : State) : State := { s with stackList := s.stackList.modify 0 fun k => { k with badCarrel := [8192] } }
/-- The same with the tag of its first weight-store line wrong. -/
def skewed (s : State) : State := { s with stackList := s.stackList.modify 0 fun k => { k with tags := [(0, 3)] } }
def unread (s : State) : State := { s with stackList := s.stackList.modify 0 fun k => { k with valid := 0 } }
theorem witness_EnginesCompute :
    ((busyWith dMatmul errand).Works 0 at0 .matmul 0 (first dMatmul) errand ∧ (unread (busyWith dMatmul errand)).Works 0 at0 .matmul 0 (first dMatmul) errand
      ∧ (skewed (busyWith dMatmul errand)).Works 0 at0 .matmul 0 (first dMatmul) errand)
    ∧ ((withStream resident3 (busyWith dScan errand)).Works 0 at0 .scan 0 (first dScan) errand
        ∧ (unread (withStream resident3 (busyWith dScan errand))).Works 0 at0 .scan 0 (first dScan) errand
        ∧ (withStream parked3 (busyWith dScan errand)).Works 0 at0 .scan 0 (first dScan) errand)
    ∧ (busyWith dBind errand).Works 0 at0 .bind 0 (first dBind) errand ∧ (busyWith dShadow errand).Works 0 at0 .shadow 0 (first dShadow) errand
    ∧ ((torn (busyWith dXfer errand)).NextUp 0 at0 .xfer 0 (first dXfer) errand ∧ emptyDesc .xfer dXfer = false
        ∧ badCarrelRead (((torn (busyWith dXfer errand)).opening 0 at0 .xfer 0 errand).stk 0)
            (carrelReads ((torn (busyWith dXfer errand)).opening 0 at0 .xfer 0 errand) errand.rows dXfer) = some 8192) := by
  refine ⟨⟨works ?_ ?_, works ?_ ?_, works ?_ ?_⟩, ⟨works ?_ ?_, works ?_ ?_, works ?_ ?_⟩, works ?_ ?_, works ?_ ?_, nextUp ?_, ?_⟩ <;> decide +kernel
theorem witness_EnginesCompute_status :
    (runMatmul ((busyWith dMatmul errand).opening 0 at0 .matmul 0 errand |>.under errand) errand dMatmul).status = stDone
    ∧ (runMatmul ((unread (busyWith dMatmul errand)).opening 0 at0 .matmul 0 errand |>.under errand) errand dMatmul).status = stInvalidReg
    ∧ (let o := runMatmul ((skewed (busyWith dMatmul errand)).opening 0 at0 .matmul 0 errand |>.under errand) errand dMatmul
       abandons o.status = true ∧ 0 < o.after)
    ∧ (let s := withStream resident3 (busyWith dScan errand)
       (runScan (s.opening 0 at0 .scan 0 errand |>.under errand) errand dScan).status = stDone ∧ notResident errand (liveRows s errand 0 1) = none)
    ∧ (runScan ((unread (withStream resident3 (busyWith dScan errand))).opening 0 at0 .scan 0 errand |>.under errand) errand dScan).status = stInvalidReg
    ∧ notResident errand (liveRows (withStream parked3 (busyWith dScan errand)) errand 0 1) = some 3 := by decide +kernel

/-- A descriptor of the errand that has run for all its cycles at instant 3072, and a hub on whose stack 0 it does, another waiting behind it. -/
def runs (o : Op) (d : BitVec 512) : RunSt := { eng := o.engine, charge := 0, index := 0, bits := d, start := 0, cost := 256, left := 256 }
def runningOn (o : Op) (d : BitVec 512) : State := { hub with
  stackList := [{ plainStack with gated := false, running := [runs o d], queue := [{ charge := 0, index := 1, bits := dSync }] },
    plainStack, plainStack, plainStack]
  charges := [errand]
  streams := [if o = .recall then parked3 else resident3] }
def dFinal := desc 0x01 [(88, 64), (107, 1), (108, 47)]
def dRecorded := desc 0x28 [(72, 1), (21, 1)]
theorem endsNow {s : State} {t : Tick} {o : Op} {d : BitVec 512} {c : ChargeSt} (h : s.stackList.length = 4 ∧ (s.stk 0).usable = true
    ∧ (s.stk 0).runOn o.engine = some (runs o d) ∧ (s.advance t).dueBy 0 (runs o d) = true ∧ (s.advance t).completionTurn 0 (runs o d) = true
    ∧ s.charge? 0 = some c ∧ c.stack = 0 ∧ Op.ofCode (dOp d) = some o ∧ (s.stk 0).queue.any (fun q => q.charge == c.id) = true) :
    s.EndsNow t 0 o.engine (runs o d) c o :=
  { four := h.1, stack := by decide, usable := h.2.1, run := h.2.2.1, due := h.2.2.2.1, turn := h.2.2.2.2.1, charge := h.2.2.2.2.2.1
    here := h.2.2.2.2.2.2.1, opcode := h.2.2.2.2.2.2.2.1, more := h.2.2.2.2.2.2.2.2 }
/-- The errand as a chunk of a job, its COMMIT due. -/
def chunk1 : ChargeSt := { errand with kind := .chunk 1 3 0 true }
def committing : State := { runningOn .commit dCommit with charges := [chunk1], requests := [{ num := 1, slot := 4, kind := .job, begins := 0 }] }
/-- A STREAMIN of a region that a share of the errand's slot holds. -/
def lending : State := { runningOn .streamin dFinal with stackList := (runningOn .streamin dFinal).stackList.modify 0 fun k => { k with
  shares := [{ slot := 4, st := .filling, regions := [47], blocks := [] }] } }
theorem witness_DescriptorEnds :
    (runningOn .sync dSync).EndsNow 3072 0 Op.sync.engine (runs .sync dSync) errand .sync
    ∧ (runningOn .recall dRecall).EndsNow 3072 0 Op.recall.engine (runs .recall dRecall) errand .recall
    ∧ (runningOn .park dPark).EndsNow 3072 0 Op.park.engine (runs .park dPark) errand .park
    ∧ (runningOn .shadow dShadow).EndsNow 3072 0 Op.shadow.engine (runs .shadow dShadow) errand .shadow
    ∧ (runningOn .scan dScan).EndsNow 3072 0 Op.scan.engine (runs .scan dScan) errand .scan
    ∧ (runningOn .digest dDigest).EndsNow 3072 0 Op.digest.engine (runs .digest dDigest) errand .digest
    ∧ (runningOn .colophon dColophon).EndsNow 3072 0 Op.colophon.engine (runs .colophon dColophon) errand .colophon
    ∧ (runningOn .streamin dFinal).EndsNow 3072 0 Op.streamin.engine (runs .streamin dFinal) errand .streamin
    ∧ lending.EndsNow 3072 0 Op.streamin.engine (runs .streamin dFinal) errand .streamin
    ∧ committing.EndsNow 3072 0 Op.commit.engine (runs .commit dCommit) chunk1 .commit := by
  refine ⟨endsNow ?_, endsNow ?_, endsNow ?_, endsNow ?_, endsNow ?_, endsNow ?_, endsNow ?_, endsNow ?_, endsNow ?_, endsNow ?_⟩ <;> decide +kernel
theorem witness_DescriptorEnds_rows :
    ((FillBody.of dFinal).final = true ∧ (FillBody.of dFinal).region = 47 ∧ ∀ sh ∈ (lending.stk 0).shares, sh.atReady = false)
    ∧ liveRows (runningOn .recall dRecall) errand 0 1 = [(0, parked3)] ∧ liveRows (runningOn .park dPark) errand 0 1 = [(0, resident3)]
    ∧ liveRows committing chunk1 0 1 = [(0, resident3)] ∧ (committing.req? 1).map (·.kind) = some .job ∧ dRec dRecorded = true ∧ dRec dRecall = false := by
  decide +kernel
/-- The same hub with the leaflet bound to slot 4, its layer 0 in region 0, and a descriptor that a fault has stopped. -/
def faulted (st : BitVec 8) : State := { shelved (runningOn .matmul dMatmul) with stackList := (runningOn .matmul dMatmul).stackList.modify 0 fun k => { k with
  shares := [{ slot := 4, st := .lent, regions := [0], blocks := [], layers := [(0, [0])] }]
  running := k.running.map fun r => { r with status := st, detail := 0x21 } } }
theorem witness_DescriptorEnds_faults :
    abandons (runs .sync dSync).status.toNat = false ∧ chunk1.abandoned = false ∧ chunk1.redo = []
    ∧ ∀ st ∈ [0x0A#8, 0x08#8], let s := faulted st
      let r := { runs .matmul dMatmul with status := st, detail := 0x21 }
      s.stackList.length = 4 ∧ (s.stk 0).usable = true ∧ (s.stk 0).runOn .main = some r ∧ (s.advance 3072).dueBy 0 r = true
        ∧ (s.advance 3072).completionTurn 0 r = true ∧ s.charge? 0 = some errand ∧ (s.stk 0).queue.any (fun q => q.charge == errand.id) = true
        ∧ Op.ofCode (dOp dMatmul) = some .matmul ∧ Op.matmul.engine = .main ∧ (s.stk 0).skews = [] ∧ (s.folio? 4).isSome = true ∧ (s.layerIn errand dMatmul).isSome = true := by decide +kernel
theorem test_skew_ends : leaves (.descriptorComplete 3072 0 .main) (faulted 0x08)
    (fun n => (n.events.fresh.map fun e => (e.code, e.a0, e.a2, e.a3)) == [(0x20, 9, 1, 2)] && n.charges.any (·.kind == .reread)) = true := by decide +kernel
theorem test_recall_ends : leaves (.descriptorComplete 3072 0 Op.recall.engine) (runningOn .recall dRecall)
    (fun n => (n.stream 3).place == .resident && (n.stream 3).home == 16 && (n.stk 0).running.isEmpty) = true := by decide +kernel
theorem test_streamin_ends : leaves (.descriptorComplete 3072 0 Op.streamin.engine) lending (fun n => (n.stk 0).valid == 0x800000000000) = true := by
  decide +kernel
theorem test_commit : leaves (.descriptorComplete 3072 0 .main) committing (fun n => (n.stream 3).committed.step == 1 && (n.stream 3).committed.pos == 1
    && (n.stream 3).committed.live == (n.stream 3).work.live) = true := by decide +kernel

/-- Two charges on stack 0: one of slot 4 runs a matrix layer, one of slot 0 waits behind it. -/
def contested : State := { hub with
  stackList := [{ plainStack with
    gated := false
    passDone := false
    running := [runs .matmul dMatmul]
    queue := [{ charge := 1, index := 0, bits := dMatmul }] }, plainStack, plainStack, plainStack]
  charges := [errand, { errand with id := 1, slot := 0 }] }
/-- The same with the charge of slot 4 stopped, before and after it has halted, and the preempting charge ended. -/
def stopping : State := { contested with stackList := contested.stackList.modify 0 fun k => { k with
  stops := [{ slot := 0, charge := 1 }], running := k.running.map fun r => { r with stoppedBy := some 0, stopAt := some 255 } } }
def resuming : State := { contested with
  charges := [errand]
  stackList := contested.stackList.modify 0 fun k => { k with
    stops := [{ slot := 0, charge := 1, saved := true }], halted := k.running.map (fun r => { r with stoppedBy := some 0 }), running := []
    saved := [{ slot := 4, block := 47, cause := 0, spill := false, data := [1, 2] }] } }
/-- The saved block of a slot that has no charge any longer holds an uncorrectable error. -/
def scorched : State := { resuming with stackList := resuming.stackList.modify 0 fun k => { k with
  saved := k.saved.map fun b => { b with slot := 5, bad := true, place := 15 } } }
/-- The slice of slot 4 used up, slot 15 waiting. -/
def turned : State := { hub with
  stackList := [{ plainStack with
    gated := false, slices := [{ cls := classOf 4, slot := 4, used := 100000000 }], queue := [{ charge := 1, index := 0, bits := dMatmul }] },
    plainStack, plainStack, plainStack]
  charges := [errand, { errand with id := 1, slot := 15 }] }
/-- A mains charge for stack 0 of a pass that has not been made, refused for its region where slot 2 holds none. -/
def mainsCmd (d : BitVec 512) : ChargeSpec := { slot := 2, stack := 0, kind := .mains, descs := [d], rows := [], prereqs := [], inputs := [] }
def unpassed : State := { hub with
  stackList := [{ plainStack with passDone := false, shares := [{ slot := 2, st := .lent, regions := [0], blocks := [] }] },
    plainStack, plainStack, plainStack]
  archive := { folios := [{ info := { leaflet with programs := [(.mains, [dSync]), (.mains, [desc 0x3D []])] } }] }
  patrons := hub.patrons.map fun p => if p.slot = 2 then { p with folio := some 9 } else p }
theorem witness_ChargesAndTurns :
    (unpassed.up = true ∧ unpassed.steward.aDown = none ∧ (unpassed.stk 0).passDone = false ∧ unpassed.maySubmit (mainsCmd dSync) = true
      ∧ unpassed.submitStatus (mainsCmd dSync) = none ∧ unpassed.maySubmit (mainsCmd (desc 0x3D [])) = true
      ∧ unpassed.submitStatus (mainsCmd (desc 0x3D [])) ≠ none ∧ unpassed.charge? unpassed.nextCharge = none
      ∧ (let z := (unpassed.queueCharge (unpassed.buildCharge (mainsCmd dSync)) false).markSubmitted (unpassed.buildCharge (mainsCmd dSync))
         z.charges.length = 1 ∧ ∀ x ∈ z.charges, z.homeOf x = none))
    ∧ ((contested.advance 600).preemptDue 0 0 = true ∧ (contested.advance 600).turnAt 0 (.preempt 0) ≤ contested.at 600
      ∧ (contested.advance 600).quietBefore ((contested.advance 600).turnAt 0 (.preempt 0)) = true)
    ∧ ((stopping.stk 0).stops = [{ slot := 0, charge := 1 }] ∧ (stopping.stk 0).usable = true ∧ (stopping.advance 3072).stopDue 0 = true ∧ stopping.liveClaims 0 0 = []
      ∧ ∀ r ∈ (stopping.stk 0).running, r.stoppedBy = some 0 → writesTo 0 r.bits = 0)
    ∧ ((resuming.stk 0).stops = [{ slot := 0, charge := 1, saved := true }] ∧ (resuming.advance 0).resumeDue 0 = true
      ∧ (resuming.advance 0).turnAt 0 .resume ≤ resuming.at 0 ∧ (resuming.advance 0).quietBefore ((resuming.advance 0).turnAt 0 .resume) = true
      ∧ ∀ b ∈ (resuming.stk 0).saved, b.cause = 0 → b.bad = false)
    ∧ ((scorched.stk 0).stops = [{ slot := 0, charge := 1, saved := true }] ∧ (scorched.advance 0).resumeDue 0 = true
      ∧ (scorched.advance 0).quietBefore ((scorched.advance 0).turnAt 0 .resume) = true
      ∧ (((scorched.stk 0).saved.filter fun b => b.cause == 0).filter (·.bad)).length = 1
      ∧ ∀ x ∈ scorched.charges, ¬ (x.stack = 0 ∧ x.phase = .admitted ∧ x.slot = 5))
    ∧ ((turned.advance ms1).sliceDue 0 = some ({ cls := classOf 4, slot := 4, used := 100000000 }, 15, ms1) ∧ (turned.advance ms1).quietBefore ms1 = true
      ∧ ∀ r ∈ (turned.stk 0).running, r.eng = .main → turned.slotOf r.charge = 4) := by decide +kernel
theorem test_preemption : leaves (.preemption 600 0 0) contested
    (fun n => (n.stk 0).stops == [{ slot := 0, charge := 1, at0 := 600 }] && (n.stk 0).running.map (·.stoppedBy) == [some 0]) = true := by decide +kernel
theorem test_saved_lost : leaves (.resume 0 0) scorched
    (fun n => (n.events.fresh.map fun e => (e.code, e.a0, e.a1)) == [(0x21, 1, 63)] && (n.stk 0).carrel.isEmpty && (n.stk 0).saved.isEmpty) = true := by
  decide +kernel
theorem test_slice_end : leaves (.sliceEnd ms1 0) turned (fun n => (n.stk 0).slices.map (·.slot) == [15]) = true := by decide +kernel

/-- A hub with a draft of no group on a parent, its first step made. -/
def drafted : State := { hub with
  draft := some { parent := 9, step := 64 }
  settings := { live := [(.refitPublish, some 64)] }
  archive := { folios := [{ info := leaflet }] }
  patrons := hub.patrons.map fun p => if p.slot = 3 then { p with folio := some 9 } else p }
/-- A folio with one trainable row of a bias above the bound. -/
def steep : FolioInfo := { leaflet with layers := [{
  wide := 0, paired := false, trainable := true, inputMax := 1, codeMax := 1, stateTables := [], tables := []
  rows := [{ bias := 8796093022208, zw := 0, y := 0, groups := [] }] }] }
theorem witness_RefitForms :
    (∀ d ∈ drafted.draft, d.step = 64 ∧ drafted.up = true ∧ drafted.steward.aDown = none ∧ drafted.publishDue = true ∧ drafted.isStandby = false
      ∧ drafted.refitFolios d = some (leaflet, leaflet) ∧ draftFault d leaflet leaflet (d.groups.map (·.codes)) = none)
    ∧ draftFault { parent := 9 } steep steep [] = some (0, 0)
    ∧ (let s : State := { drafted with draft := some { parent := 9, step := 64, pendingUpdate := true } }
       s.up = true ∧ s.steward.aDown = none ∧ s.draft = some { parent := 9, step := 64, pendingUpdate := true }
        ∧ s.steward.retiredPages.contains 1023 = false ∧ ∀ x ∈ s.steward.corrected, x.1 ≠ 1023) := by decide +kernel
theorem test_publish : leaves (.publish 0) drafted (fun n => (n.draft.map fun d => (d.pub, d.fillDue)) == some (1, true)) = true := by decide +kernel

/-! ## Faults and inventories -/

theorem witness_StackFaultForms :
    (let s := runningOn .matmul dMatmul
     s.stackList.length = 4 ∧ (s.stk 0).usable = true ∧ s.changes = [] ∧ (∀ sh ∈ (s.stk 0).shares, 2 ≤ sh.slot) ∧ (s.stk 0).faultTimes = []
      ∧ s.invRunning = false ∧ (s.stk 0).inv = none
      ∧ ∃ r ∈ (s.stk 0).runOn Op.matmul.engine, r.halts = false ∧ r.start + (r.left + 40000) * r.cyc < s.at ((256 + 40000) * 12 + 1))
    ∧ (∀ k < 4, hub.up = true ∧ (hub.stk k).usable = true ∧ (hub.stk k).shares = [] ∧ (hub.stk k).faultTimes = [] ∧ (hub.stk k).inv = none) := by
  decide +kernel
theorem test_isolation : leaves (.isolationReport 5 3) hub
    (fun n => (n.stk 3).faulty && (n.stk 3).inv == some { start := 5, startup := false } && !(n.stk 2).faulty) = true := by decide +kernel

/-- A finding of nothing, and one of a bindery that fails. -/
def clean : InvFinding := { failedShelves := 0, annexFails := false, binderyFails := false }
def surveyed : State := { hub with stackList := [{ plainStack with inv := some { start := 0, startup := false } }, plainStack, plainStack, plainStack] }
theorem witness_InventoryForms :
    (surveyed.awake = true ∧ (surveyed.stk 0).inv = some { start := 0, startup := false } ∧ 0 + 30 * msTicks ≤ surveyed.at (30 * ms1)
      ∧ surveyed.changes = [] ∧ (surveyed.stk 0).shelves ≠ 0 ∧ (surveyed.stk 0).shelves &&& clean.failedShelves = 0 ∧ lifeIndex surveyed.life = 3)
    ∧ (∀ k < 4, let s : State := { hub with steward := { invAt := [(k, 0)] } }
       s.up = true ∧ s.invBusy = false ∧ (s.advance 0).invTurn = some k ∧ s.freeStack k = true)
    ∧ (let s : State := { hub with steward := { invAt := [(3, 0)] }, stackList := hub.stackList.map fun x => { x with shares := [{ slot := 4, st := .lent, regions := [], blocks := [] }] } }
       (s.advance 0).invTurn = some 3 ∧ s.freeStack 3 = false)
    ∧ (let s : State := { hub with steward := { corrected := [(1023, 0)] } }
       s.up = true ∧ s.steward.retiredPages.contains 1023 = false ∧ (∃ p ∈ s.steward.corrected, p.1 = 1023 ∧ s.at (86400000 * ms1 - 1) < p.2 + 86400000 * msTicks)
        ∧ ∀ p ∈ s.steward.corrected, p.2 + 86400000 * msTicks ≤ s.at (86400000 * ms1))
    ∧ (let s : State := { hub with stackList := hub.stackList.map fun x => { x with shares := [{ slot := 4, st := .draining, regions := [], blocks := [], doneAt := 7 }] } }
       ∃ sh ∈ (s.stk 3).shares, sh.slot = 4 ∧ sh.st = .draining ∧ sh.doneAt ≤ s.at 7 ∧ (s.stk 3).running = [] ∧ s.changes = []) := by decide +kernel
theorem test_inventory_end : leaves (.inventoryEnd (30 * ms1) 0 { clean with binderyFails := true }) surveyed
    (fun n => (n.stk 0).weeded && (n.stk 0).inv.isNone) = true := by decide +kernel
theorem test_ledger_scrub : leaves (.ledgerScrub 9 [1023]) { hub with steward := { corrected := [(1023, 0)] } }
    (fun n => n.steward.retiredPages == [1023] && (n.events.fresh.map (·.code)) == [0x86]) = true := by decide +kernel

/-- A primary whose standby is aligned. -/
def backed : State := { lead with spine := { lead.spine with partnerUnaligned := 0 } }
theorem witness_StewardForms :
    (hub.awake = true ∧ hub.blank = false ∧ hub.steward.aDown = none ∧ hub.steward.bDown = none ∧ hub.hasAligned = false)
    ∧ (backed.awake = true ∧ backed.blank = false ∧ backed.hasAligned = true)
    ∧ (let s : State := { hub with steward := { bDown := some 0 } }
       s.awake = true ∧ s.steward.bDown = some 0 ∧ s.steward.heldProtect = [])
    ∧ (let s : State := { hub with steward := { aDown := some 0 } }
       s.awake = true ∧ s.steward.aDown = some 0) := by decide +kernel
theorem test_lockstep : leaves (.lockstepA 3) backed (fun n => !n.port.hrdy && n.roleSt.yieldAt == some 6 && n.steward.failedOver) = true := by decide +kernel

/-! ## The air interface -/

/-- The first and the last node that two logical channels serve in 64 uplink slots, with one cell. -/
def onAir : State := { hub with
  air := { running := true, beacons := true, nch := 2, nu := 64, nrt := 2, nd := 1, serving := [0, 1] }
  nodes := [{ shelf := 1, nid := 1, due := true, outcome := 4 }, { shelf := 127, nid := 2, due := true, outcome := 4 }]
  cells := [{ shelf := 127, cell := 16 }] }
/-- The same as the standby of a pair. -/
def aside : State := { onAir with roleSt := stand.roleSt, spine := stand.spine }
/-- A report burst of node 127 in stamp 5, and its payload. -/
def hdr127 : BitVec 48 := withHcrc (2 + 2 * 16 + 127 * 256 + 5 * 2 ^ 18)
def rep127 (x : Nat) : Bytes := leBytes 4 (0x40 + 64 * 256 + 127 * 65536) ++ List.replicate 63 0 ++ [BitVec.ofNat 8 x]
/-- Certain LLRs of the report's codeword, and factors of 1. -/
def soft127 (p : Bytes) : List Int :=
  let cw := (burstWords hdr127 p).headD 0
  (List.range 1296).map fun i => if cw.getLsbD i then -100 else 100
def heard127 : BurstSt := { lch := 0, slot := .uplink 63, hdr := hdr127, at0 := 6800 * us1, submitted := true, fin := true }
theorem witness_BurstForms :
    (onAir.airUp = true ∧ onAir.awaits 0 (.uplink 63) = true ∧ onAir.slotAt (.uplink 63) ≤ onAir.at (6800 * us1) ∧ onAir.air.ports.length = 4 ∧ onAir.rxLat 0 = 0
      ∧ (-(4 * us1 : Nat) : Int).natAbs ≤ 4 * usTicks ∧ headerOk (.uplink 63) hdr127 = true ∧ headerOk (.uplink 63) 0 = false)
    ∧ (let s : State := { onAir with air := { onAir.air with bursts := [{ heard127 with fin := false }] } }
       s.burst? 0 (.uplink 63) = some { heard127 with fin := false }
        ∧ heard127.at0 + 484 * symbolTicks + 14 * usTicks ≤ s.at (heard127.at0 + 484 * symbolTicks + 14 * usTicks)) := by decide +kernel
theorem test_burst_receive : leaves (.burstReceive (6800 * us1) 0 (.uplink 63) hdr127 0) onAir
    (fun n => n.air.bursts.map (fun b => (b.at0, b.done)) == [(6804 * us1, false)] && (n.port? 0).heard && !(n.port? 1).heard) = true := by decide +kernel

def answered : State := { onAir with air := { onAir.air with bursts := [heard127] } }
theorem witness_OutcomeForms :
    (answered.airUp = true ∧ answered.burst? 0 (.uplink 63) = some heard127 ∧ heard127.at0 + 484 * symbolTicks ≤ answered.at (6900 * us1) ∧ answered.at (6900 * us1) ≤ heard127.at0 + 484 * symbolTicks + 20 * usTicks
      ∧ answered.slotShelf 0 (.uplink 63) = some 127 ∧ (answered.node? 127).isSome = true ∧ answered.headerFits 127 heard127.hdr = true
      ∧ answered.leads = true)
    ∧ (rep127 0 ≠ rep127 1 ∧ reportFirst 127 (rep127 0) = true ∧ heard127.submitted = true ∧ heard127.late = false ∧ heard127.fin = true
      ∧ heard127.learned = none ∧ heard127.twin [] = none ∧ heard127.learnedLate true = false)
    ∧ (aside.leads = false ∧ aside.roleSt.lostAt = none ∧ aside.airUp = true)
    ∧ (let s : State := { hub with air := { running := true, acc := true }, acc := { phase := .running, offer := 256, attempt := 2, slotJ := 1, slotG := 1 } }
       let h := withHcrc (6 + 2 * 16 + 256 * 256 + 2 * 2 ^ 17)
       0 < s.acc.offer ∧ s.acc.endDue = false ∧ s.acc.confirmed = [] ∧ s.leads = true ∧ bitsOf h.toNat 24 17 = s.acc.attempt ∧ bitsOf h.toNat 16 8 = s.acc.offer) := by
  decide +kernel
set_option maxRecDepth 100000 in
theorem witness_OutcomeForms_words : ({ heard127 with soft := soft127 (rep127 0) ++ List.replicate 12 64 }).learned = some (rep127 0) := by
  decide +kernel
set_option maxRecDepth 100000 in
theorem witness_OutcomeForms_other : heard127.twin (soft127 (rep127 1)) = some (rep127 1) := by decide +kernel
theorem test_outcome_fail : leaves (.burstOutcome (6900 * us1) 0 (.uplink 63) true [] { snr := 0, cfo := 0, toff := 0 }) answered
    (fun n => n.nodes.map (·.outcome) == [4, 4] && n.events.fresh.isEmpty && n.air.acks.isEmpty && n.air.bursts.map (·.done) == [true]) = true := by
  decide +kernel

theorem witness_LossForms :
    (onAir.airUp = true ∧ onAir.air.acc = false ∧ onAir.stackList.length = 4 ∧ onAir.leads = true ∧ onAir.air.lossDone = false ∧ 0 < onAir.air.nu
      ∧ onAir.lossAt ≤ onAir.at onAir.lossAt)
    ∧ (aside.airUp = true ∧ aside.leads = false ∧ aside.air.lossDone = false
      ∧ (let s : State := { aside with air := { aside.air with bursts := [{ heard127 with slot := .retry 0, payload := some (rep127 0) }], named := [(0, [127])] } }
         s.heldRetry 127 = true) ∧ aside.heldRetry 127 = false)
    ∧ (∀ k < 4, (({ onAir with stackList := onAir.stackList.map fun x => { x with passDone := false } } : State).stk k).passDone = false)
    ∧ (onAir.air.released = false ∧ 0 < onAir.air.nd ∧ onAir.frameEnd ≤ onAir.at onAir.frameEnd) := by decide +kernel
theorem test_loss : leaves (.lossInstant (9 * ms1)) onAir (fun n => n.nodes.map (·.lost) == [true, true] && n.cells.map (·.isStale) == [true]) = true := by decide +kernel
theorem witness_CallForms :
    (onAir.sends = true ∧ onAir.air.acc = false ∧ (∀ c < 2, c < onAir.air.nch ∧ (onAir.txPort c).isSome = true) ∧ onAir.callAt ≤ onAir.at (6900 * us1)
      ∧ onAir.at (6900 * us1 + 22 * us1) < onAir.callAt + 23 * usTicks ∧ (onAir.advance (6900 * us1)).uplinkFinal 0 = true ∧ onAir.air.named = [])
    ∧ (let s : State := { onAir with nodes := [{ shelf := 127, nid := 2, queue := [{ shelf := 127, mtype := 4, rest := [] }] }] }
       s.steward.bDown = none ∧ 0 < s.air.nd ∧ s.downAt 0 ≤ s.at (s.downAt 0) ∧ s.at (s.downAt 0 + 4 * us1) ≤ s.downAt 0 + 4 * usTicks
        ∧ (0, 0) ∉ s.air.ordered ∧ (s.advance (s.downAt 0)).ordersFor 0 0 ≠ []) := by decide +kernel
/-- TXEN rises the default lead of 10 µs before a call whose first sample leaves at 6,904 µs (10 R269). -/
theorem test_txen_lead : ∀ x ∈ onAir.txPort 0, (onAir.advance (6894 * us1 - 1)).txen x = false ∧ (onAir.advance (6894 * us1)).txen x = true := by
  decide +kernel
theorem test_call : leaves (.callSend (6900 * us1) 0) onAir (fun n => lookupD [] 0 n.air.named == [1, 127] && n.out.length == 1) = true := by decide +kernel
theorem witness_PortForms :
    (onAir.air.ports.length = 4 ∧ onAir.airUp = true ∧ onAir.air.tuned = false ∧ onAir.air.acc = false ∧ onAir.acc.phase = .idle ∧ onAir.air.modeAt = []
      ∧ onAir.frameEnd ≤ onAir.at onAir.frameEnd ∧ onAir.at onAir.frameEnd + 100 * usTicks ≤ onAir.stamp.t0 + onAir.stamp.period * msTicks
      ∧ ∀ c < 4, ∀ d < 4, ∀ x ∈ ((onAir.advance onAir.frameEnd).nextAir).portsOf c, x ∈ ((onAir.advance onAir.frameEnd).nextAir).portsOf d → c = d)
    ∧ (onAir.power.porter = true ∧ onAir.power.booted = true ∧ onAir.stamp.started = true ∧ onAir.power.rstLow = none ∧ ∀ x < 4, onAir.healthy x = true)
    ∧ (let s : State := { onAir with air := { onAir.air with pairs := true, ports := List.replicate 4 { silent := 16 } } }
       s.healthy 3 = true ∧ 16 ≤ (s.port? 3).silent ∧ s.healthy (3 / 2 * 2 + (1 - 3 % 2)) = true) := by decide +kernel
theorem test_portfault : leaves (.portfault 0 3 .rfr) onAir (fun n => (n.port? 3).fault == some .rfr && (n.port? 2).fault.isNone) = true := by decide +kernel

/-- A hub in its first accession slot of the stamp. -/
def offering : State := { hub with air := { running := true, beacons := true, acc := true }, acc := { phase := .running } }
theorem witness_AccessionForms :
    (let s : State := { offering with acc := { pulse := some 0 } }
     s.airUp = true ∧ s.acc.pulse = some 0 ∧ s.at (2 * ms1) ≤ 0 + 2 * msTicks ∧ 0 + 2 * msTicks ≤ s.at (2 * ms1))
    ∧ (offering.airUp = true ∧ offering.acc.phase = .running ∧ offering.acc.endDue = false ∧ offering.sends = true ∧ offering.air.acc = true
      ∧ offering.chainBroken = false ∧ offering.acc.slotJ < offering.accSlots ∧ offering.accAt 0 ≤ offering.at (300 * us1) ∧ offering.acc.slotG = 0
      ∧ (offering.txPort 0).isSome = true)
    ∧ (let s : State := { offering with acc := { phase := .running, slotG := 1, slotJ := 8, offer := 1, attempt := 1 } }
       s.chainBroken = false ∧ s.acc.slotJ < s.accSlots ∧ s.accAt 8 ≤ s.at (s.accAt 8) ∧ 0 < s.acc.slotG ∧ s.acc.offer ≠ 0 ∧ s.acc.reply = none ∧ s.acc.attempt < 255)
    ∧ (let s : State := { offering with acc := { phase := .running, slotG := 1, slotJ := 1, offer := 256, attempt := 1, reply := some 5 } }
       s.chainBroken = false ∧ 0 < s.acc.slotG ∧ 0 < s.acc.offer ∧ s.acc.reply = some 5)
    ∧ (let s : State := { offering with acc := { phase := .running, slotG := 2, slotJ := 2, offer := 2, confirm := 1, confirmed := [(1, 5)] } }
       s.acc.sampled = false ∧ 0 < s.acc.slotJ ∧ s.accAt (s.acc.slotJ - 1) + 250 * usTicks ≤ s.at (1550 * us1) ∧ 0 < s.acc.confirm
        ∧ s.acc.confirmed.length ≠ s.accLimit)
    ∧ (let s : State := { offering with acc := { phase := .running, slotG := 2, slotJ := 2, confirm := 256, confirmed := List.replicate offering.accLimit (1, 5) } }
       s.acc.confirmed.length = s.accLimit ∧ 0 < s.acc.confirm)
    ∧ (let s : State := { offering with acc := { phase := .running, slotG := 255, slotJ := 1, offer := 1, attempt := 255 } }
       s.chainBroken = true ∧ s.accAt (s.acc.slotJ - 1) + 500 * usTicks + 4 * symbolTicks ≤ s.at ms1) := by decide +kernel
theorem test_offer : leaves (.accofferSend (300 * us1)) offering (fun n => n.acc.offer == 1 && n.acc.attempt == 1 && n.out.length == 1) = true := by decide +kernel
theorem test_confirm : leaves (.accofferSend (2300 * us1)) { offering with acc := { phase := .running, slotG := 1, slotJ := 2, offer := 256, attempt := 1, reply := some 5 } }
    (fun n => n.acc.confirm == 256 && n.acc.offer == 0 && n.nodes.map (·.shelf) == [256] && n.cells.length == 16) = true := by decide +kernel

/-! ## The spine and the partner -/

/-- A frame as the hub takes it: TYPE, SEC, SEQ, STAMP. -/
def frame (ty sec seq stamp : Nat) : SpineRx :=
  let hdr := BitVec.ofNat 128 (ty + sec * 32 + seq * 2 ^ 32 + stamp * 2 ^ 64)
  { hdr := hdr, crc := crc32 (leBytes 16 hdr.toNat), count := 1 }
theorem passes_of {s : State} {rx : SpineRx} {ty : Nat} (h : (crcHolds rx && rxType rx == ty && s.getN .spineSecure == 0 && s.spine.sent.isEmpty) = true) :
    s.Passes rx ty := by
  simp only [Bool.and_eq_true, beq_iff_eq, List.isEmpty_iff] at h
  exact { crc := h.1.1.1, type := h.1.1.2, secured := fun e => absurd (h.1.2.symm.trans e) (by decide), ack := by rw [h.2]; simp }
def training (ph : Nat) : State := { lead with spine := { partner := true, state := .training, phase := ph } }
def secured : State := { lead with settings := { live := [(.spineSecure, some 1)] }, spine := { lead.spine with rxCount := some 1 } }
theorem witness_DiscardForms :
    (∀ ty ∈ [2, 3, 4, 5, 6, 7], lead.hears ty) ∧ (training 6).hears 1
    ∧ (frameOf (.heartbeat 0 (frame 2 0 0 5) 0) = some (frame 2 0 0 5, .heartbeat 0) ∧ crcHolds { frame 2 0 0 5 with crc := 0 } = false)
    ∧ (secured.hears 2 ∧ secured.getN .spineSecure = 1 ∧ rxSec (frame 2 0 0 5) = false ∧ rxSec (frame 2 1 0 5) = true
      ∧ secured.spine.rxCount = some 1 ∧ (frame 2 1 0 5).count ≤ 1)
    ∧ (lead.Passes (frame 3 0 2 5) 3 ∧ rxSeqOf (frame 3 0 2 5) ≠ lead.spine.rxSeq + BitVec.ofNat 16 (SpineMsg.frames (.role .claim))) := by
  refine ⟨by simp only [State.hears]; decide +kernel, by simp only [State.hears]; decide +kernel, ⟨rfl, by decide +kernel⟩,
    ⟨by simp only [State.hears]; decide +kernel, by decide +kernel⟩, passes_of (by decide +kernel), by decide +kernel⟩
theorem test_discard : leaves (.role 4 (frame 3 0 2 5) .claim) stand (fun n => n.spine.discarded == 1 && n.spine.rxSeq == 0) = true := by decide +kernel

theorem witness_TrainingForms :
    ((training 0).awake = true ∧ (training 0).spine.silentTo ≤ (training 0).at 0
      ∧ (let s : State := { training 0 with spine := { (training 0).spine with sideB := true, detects := 62 } }
         s.spine.sideB = true ∧ s.spine.detects + 1 < 64 ∧ (training 0).spine.sideB = false))
    ∧ (∀ p, 2 ≤ p → p ≤ 6 →
        let s : State := { training (p - 1) with spine := { (training (p - 1)).spine with rounds := List.replicate 16 3 } }
        p = s.spine.phase + 1 ∧ s.spine.phaseAt + [0, 0, 1, 2, 3, 5, 6].getD p 0 * msTicks ≤ s.at (6 * ms1) ∧ 16 ≤ s.spine.rounds.length)
    ∧ ((training 3).phaseBegan + 20 * msTicks ≤ (training 3).at (22 * ms1) ∧ (training 3).spine.fails ≠ 2
      ∧ ({ training 3 with spine := { (training 3).spine with fails := 2 } } : State).spine.fails = 2)
    ∧ ((training 5).Passes (frame 1 0 0 5) 1 ∧ (training 5).spine.phase = 5)
    ∧ (let s : State := { training 6 with spine := { (training 6).spine with goodRx := 15, goodTx := 15 } }
       s.Passes (frame 1 0 0 5) 1 ∧ s.spine.phase = 6 ∧ 15 ≤ s.spine.goodRx ∧ 15 ≤ s.spine.goodTx)
    ∧ (let s : State := { lead with spine := { lead.spine with discards := List.replicate 16 0, sent := [{ seq := 1, stamp := 5, msg := .role .claim }] } }
       s.spine.state = .up ∧ 16 ≤ (s.spine.discards.filter fun x => decide (s.at (1000 * ms1 - 1) < x + 1000 * msTicks)).length
        ∧ s.spine.sent ≠ [] ∧ s.spine.ackAt + 50 * usTicks ≤ s.at (50 * us1)) := by
  refine ⟨by decide +kernel, ?_, by decide +kernel, ⟨passes_of (by decide +kernel), rfl⟩, ⟨passes_of (by decide +kernel), by decide +kernel⟩, by decide +kernel⟩
  intro p h2 h6; interval_cases p <;> decide +kernel
theorem test_train_up : leaves (.train 0 (frame 1 0 0 5) { role := none, run := 0, stamp := 0, session := 0, roundTrip := 9, turnaround := 1 })
    { training 6 with spine := { (training 6).spine with goodRx := 15, goodTx := 15 } } (fun n => n.spine.state == .up) = true := by decide +kernel

/-- A standby that has adopted its primary's stamp, and a hub that has not decided. -/
def waiting : State := { stand with roleSt := {} }
theorem witness_HeartbeatForms :
    (lead.awake = true ∧ lead.stamp.started = true ∧ lead.spine.state = .up ∧ lead.Passes (frame 2 0 0 5) 2 ∧ lead.leads = true
      ∧ (6 : BitVec 128).toNat % 4 = 2 ∧ lead.spine.reseal = false)
    ∧ (waiting.spine.state = .up ∧ waiting.Passes (frame 2 0 0 5) 2 ∧ waiting.roleSt.decided = false ∧ (1 : BitVec 128).toNat % 4 ≤ 1)
    ∧ (stand.Passes (frame 2 0 0 5) 2 ∧ stand.isStandby = true ∧ stand.roleSt.adopted = true ∧ stand.roleSt.lostAt = none
      ∧ (1 : BitVec 128).getLsbD 2 = false ∧ rxStamp (frame 2 0 0 5) = stand.stamp.number ∧ (5 : BitVec 128).getLsbD 2 = true ∧ (5 : BitVec 128).toNat % 4 ≤ 1)
    ∧ (∀ i ∈ [true, false], let s : State := { stand with roleSt := { role := .standby, decided := true, informed := i } }
        s.isStandby = true ∧ s.roleSt.adopted = false ∧ s.roleSt.lostAt = none ∧ s.roleSt.informed = i ∧ s.spine.sent = [] ∧ s.getN .spineSecure = 0)
    ∧ (stand.power.porter = true ∧ stand.power.rstLow = none ∧ stand.following = true ∧ stand.spine.lastRx + msTicks ≤ stand.at ms1)
    ∧ (lead.Next (frame 3 0 1 5) (.role .claim) ∧ stand.Next (frame 3 0 1 5) (.role .yield)) := by
  refine ⟨⟨by decide +kernel, by decide +kernel, by decide +kernel, passes_of (by decide +kernel), by decide +kernel⟩,
    ⟨by decide +kernel, passes_of (by decide +kernel), by decide +kernel⟩, ⟨passes_of (by decide +kernel), by decide +kernel⟩, by decide +kernel, by decide +kernel,
    ⟨passes_of (by decide +kernel), by decide +kernel⟩, passes_of (by decide +kernel), by decide +kernel⟩
theorem test_heartbeat_failing : leaves (.heartbeat 7 (frame 2 0 0 5) 5) stand (fun n => n.roleSt.lostAt == some 7 && n.roleSt.takeoverAt.isSome) = true := by
  decide +kernel
theorem test_primary_lost : leaves (.primaryLost ms1) stand (fun n => n.roleSt.takeoverAt == some (10 * ms1) && n.isStandby) = true := by decide +kernel

theorem witness_SealForms :
    (∀ m ∈ [SpineMsg.config (.roster []) 6, .sense 5 0 [] [] [], .seal [], .card 0 [] []],
        stand.hears m.ftype ∧ stand.Next (frame m.ftype 0 1 5) m ∧ stand.isStandby = true)
    ∧ (∀ m ∈ [SpineMsg.config (.roster []) 6, .sense 5 0 [] [] []],
        lead.hears m.ftype ∧ lead.Next (frame m.ftype 0 1 5) m ∧ lead.isStandby = false ∧ lead.promotion = none)
    ∧ (stand.acc.phase ≠ .running ∧ stand.awaitsDigest 0 = false)
    ∧ (let s : State := { stand with
          streams := [{ sid := 0, aligned := true }]
          spine := { stand.spine with pendingSeals := [{ stamp := 0, recs := [], cards := [0] }] } }
       s.isStandby = true ∧ s.awaitsDigest 0 = true)
    ∧ (let h : BitVec 128 := BitVec.ofNat 128 (2 ^ 127 + 511)
       h.getLsbD 127 = true ∧ (0 : BitVec 128).getLsbD 127 = false)
    ∧ (let s : State := { stand with spine := { stand.spine with digests := [(cardSid 511, cardStamp 511, List.replicate 32 7)] } }
       s.isStandby = true ∧ (s.spine.digests.find? fun d => d.1 == cardSid 511 && d.2.1 == cardStamp 511)
          = some (cardSid 511, cardStamp 511, (List.replicate 64 7 : Bytes).drop 32))
    ∧ (lead.up = true ∧ lead.leads = true ∧ lead.spine.partner = true ∧ lead.spine.pendingSeals = [] ∧ lead.spine.seals = [] ∧ lead.nextBoundary ≤ lead.at (9500 * us1) + 500 * usTicks) := by
  refine ⟨?_, ?_, by decide +kernel, by decide +kernel, by decide +kernel, by decide +kernel, by decide +kernel⟩
  · intro m h
    simp only [List.mem_cons, List.not_mem_nil, or_false] at h
    rcases h with rfl | rfl | rfl | rfl <;>
      exact ⟨by simp only [State.hears]; decide +kernel, ⟨passes_of (by decide +kernel), by decide +kernel⟩, by decide +kernel⟩
  · intro m h
    simp only [List.mem_cons, List.not_mem_nil, or_false] at h
    rcases h with rfl | rfl <;>
      exact ⟨by simp only [State.hears]; decide +kernel, ⟨passes_of (by decide +kernel), by decide +kernel⟩, by decide +kernel⟩
theorem test_config : leaves (.config 0 (frame 4 0 1 5) (.setting .stampPeriod (some 20)) 9) stand
    (fun n => n.settings.commits == [(9, [(.stampPeriod, some 20)])] && n.spine.rxSeq == 1) = true := by decide +kernel

theorem witness_PartnerForms :
    ({ lead with air := { running := true } }.airUp = true ∧ lead.leads = true ∧ (true : Bool) ≠ lead.spine.sideB)
    ∧ (let s : State := { stand with roleSt := { listenTo := some 1 } }
       s.awake = true ∧ s.stamp.started = true ∧ s.spine.partner = true ∧ s.sends = false ∧ s.power.brownAt = none ∧ s.roleSt.decided = false
        ∧ s.roleSt.listenTo.isSome = true ∧ (false : Bool) ≠ s.spine.sideB)
    ∧ (stand.sends = false ∧ stand.isStandby = true ∧ stand.sound = true ∧ stand.roleSt.unaligned = false ∧ stand.acc.phase ≠ .running
      ∧ ({ stand with acc := { phase := .running } } : State).acc.confirmed = [])
    ∧ (let s : State := { hub with promotion := some { pub := 1, slot := 1, since := 0, ses := .line, lineNo := 0 }
                                   lineSes := { notice := false, lines := 1, waiting := [{ lineNo := 0, tag := none, ready := none }] } }
       s.up = true ∧ 0 + 60000 * msTicks ≤ s.at (60000 * ms1) ∧ (s.ses .line).waiting = [{ lineNo := 0, tag := none, ready := none }]) := by decide +kernel
theorem test_partner_beacon : leaves (.partnerBurstReceive 9 (.beacon 3 false)) { stand with roleSt := { listenTo := some 100 } }
    (fun n => n.isStandby && n.roleSt.unaligned && (n.events.fresh.map (·.code)) == [0x64]) = true := by decide +kernel

/-! ## The host port -/

/-- A hub with one live cell, whose estimate frame is due at the end of the stamp. -/
def framing : State := { hub with
  streams := [{ parked3 with committed := { live := true } }]
  cells := [{ shelf := 1, cell := 1, sid := some 3 }] }
/-- The same hub with a ring that has no room left. -/
def full (r : Nat) (s : State) : State := { s with port := { s.port with rings := s.port.rings.modify r fun q => { q with prod := { off := 0, lap := true } } } }
/-- A PROTECT event, and a hub that holds it behind another event. -/
def tripEvent : Event := { code := 1, patron := none, stack := none, stamp := 5, seq := 1, a0 := 3, a1 := 0, a2 := 0, a3 := 0 }
def tripping : State := { hub with events := { fresh := [{ tripEvent with code := 0x80, seq := 0 }, tripEvent] } }
theorem witness_FrameForms :
    (let s := framing
     let n := ((s.advance (10 * ms1 - 1)).estimateFrame s.roleSt.lostAt.isSome false).payload.length
     s.port.rings.length = 6 ∧ Memory.wf s.port.ringMem = true ∧ s.up = true ∧ (s.ring 0).held = [] ∧ s.spine.frames = [] ∧ (s.ring 0).dropped = 0
      ∧ (s.advance (10 * ms1 - 1)).frameDue = true ∧ s.hasRoom 0 n = true ∧ (s.ring 0).prod.off + frameSize n ≤ 589824)
    ∧ (let s := full 0 framing
       s.port.rings.length = 6 ∧ (s.ring 0).held = [] ∧ s.hasRoom 0 1 = false ∧ s.port.regs.drops ≠ 0xFFFFFFFF#32)
    ∧ (let s : State := { hub with port := { hub.port with rings := hub.port.rings.set 3 { held := [{ ftype := 5, stamp := 5, nrec := 0, payload := [1] }] } } }
       s.port.rings.length = 6 ∧ (s.ring 3).held.length = 1 ∧ s.hasRoom 3 1 = true ∧ (full 3 s).hasRoom 3 1 = false ∧ (full 3 s).sound = true)
    ∧ (let s : State := { hub with events := { fresh := [{ code := 0x80, patron := none, stack := none, stamp := 5, seq := 0, a0 := 0, a1 := 0, a2 := 0, a3 := 0 }] } }
       s.awake = true ∧ s.steward.aDown = none ∧ s.events.fresh ≠ [] ∧ s.hasRoom 1 (32 * s.events.fresh.length) = true ∧ (s.ring 1).dropped = 0
        ∧ (s.ring 1).prod.off + frameSize (32 * s.events.fresh.length) ≤ 65536 ∧ ∀ e ∈ s.events.fresh, e.code ≠ 1)
    ∧ (tripping.awake = true ∧ tripping.steward.aDown = none ∧ tripping.events.fresh = tripping.events.fresh.take 1 ++ [tripEvent]
        ∧ (tripping.events.fresh.take 1 ≠ [] ∧ ∀ x ∈ tripping.events.fresh.take 1, x.code ≠ 1) ∧ tripEvent.code = 1 ∧ (tripping.ring 1).dropped = 0
        ∧ inUse 65536 (tripping.ring 1).prod (tripping.ring 1).cons + frameSize 32 + 64 ≤ 65536 ∧ (tripping.ring 1).prod.off + frameSize 32 + 64 < 65536) := by
  decide +kernel
theorem test_estimate_drop : leaves (.estimateFrameWrite (10 * ms1 - 1)) (full 0 framing)
    (fun n => n.port.regs.drops == 1 && n.port.regs.irq.getLsbD 9 && n.stamp.framed) = true := by decide +kernel
theorem test_event_frame : leaves (.eventFrameWrite 3) { hub with
      events := { fresh := [{ code := 0x80, patron := none, stack := none, stamp := 5, seq := 0, a0 := 0, a1 := 0, a2 := 0, a3 := 0 }] } }
    (fun n => n.events.fresh.isEmpty && n.port.regs.irq.getLsbD 1 && (n.ring 1).prod.off == 64) = true := by decide +kernel
theorem test_protect_frame : leaves (.eventFrameWrite 3) tripping
    (fun n => n.events.fresh.isEmpty && n.port.regs.irq.getLsbD 2 && (n.ring 1).prod.off == 128 && (n.ring 1).seq == 2) = true := by decide +kernel
theorem witness_PortTickForms : hub.port.csLow = false ∧ ({ hub with port := { hub.port with csLow := true } } : State).port.csLow = true ∧ hub.sound = true ∧ hub.awake = true ∧ ({ hub with port := { hub.port with regs := { irqen := 0x404 } } } : State).port.regs.irqen.getLsbD 10 = true := by
  decide +kernel
theorem test_status_block : leaves (.statusBlockUpdate 0) hub (fun n => n.port.shown.run == 7 && n.port.shown.stamp == 5) = true := by decide +kernel
theorem witness_HostWriteForms :
    (hub.sound = true ∧ hub.port.rings.length = 6 ∧ hub.port.readyAt 0 = true ∧ hub.port.csLow = false ∧ hub.port.deferred = false
      ∧ dark.sound = true ∧ dark.port.rings.length = 6 ∧ dark.port.readyAt (dark.at 5) = false
      ∧ ({ hub with port := { hub.port with lows := [{ first := 3, past := 9, before := hub.port.shown }] } } : State).port.readyAt 8 = false)
    ∧ hub.port.mailQueue = []
    ∧ (let s : State := { hub with port := { hub.port with mailQueue := [List.replicate 1024 65], regs := { hub.port.regs with m2hlen := 9 } } }
       ∀ l ∈ s.port.mailQueue, 0 < l.length ∧ l.length ≤ 8192 ∧ Memory.wf s.port.mailOut = true)
    ∧ (∀ r < 5, Pos.ofWord 0 = (hub.ring r).prod)
    ∧ (∀ r < 5, Pos.ofWord 32 ≠ (hub.ring r).prod ∧ Pos.ofWord 32 ∉ (hub.ring r).starts)
    ∧ legalProd 131072 (Pos.ofWord 131040) (hub.ring 5).cons = true ∧ legalProd 131072 (Pos.ofWord 1) (hub.ring 5).cons = false := by decide +kernel
theorem test_cons_range : leaves (.consWrite 0 4 32) hub (fun n => n.port.regs.err == 4 && n.port.regs.irq.getLsbD 10) = true := by decide +kernel
theorem test_irq_write : leaves (.irqWrite 0 0x5) { hub with port := { hub.port with regs := { hub.port.regs with irq := 0xF } } }
    (fun n => n.port.regs.irq == 0xA) = true := by decide +kernel
theorem witness_RegisterWriteForms :
    (hub.sound = true ∧ hub.awake = true ∧ hub.port.readyAt 0 = true ∧ hub.port.csLow = false ∧ hub.port.deferred = false
      ∧ dark.port.readyAt 0 = false ∧ Memory.wf hub.port.mailIn = true ∧ Memory.wf hub.port.ringMem = true ∧ hub.port.regs.h2mlen = 0)
    ∧ (mapRange 0).isSome = true ∧ (mapRange 0x27FFFF).isSome = true ∧ (mapRange 0x0FFF).isNone = true ∧ (mapRange 0x280000).isNone = true
    ∧ 0x1000 ≤ 0x1FFC ∧ 0x1FFC + (List.replicate 4 (7 : BitVec 8)).length ≤ 0x2000
    ∧ ({ hub with port := { hub.port with regs := { hub.port.regs with h2mlen := 3 } } } : State).port.regs.h2mlen ≠ 0 := by decide +kernel
theorem test_register_write : leaves (.registerWrite 0 { addr := 0x1FFE } [7, 8]) hub (fun n => memRead n.port.mailIn 0x1FFE 2 == [7, 8] && n.port.regs.err == 0) = true := by
  decide +kernel

/-! ## Usith lines -/

/-- A command line of the line session is heard, has no flaw and can be answered at once. -/
def ok (s : State) (c : Instr) : Prop := s.sound = true ∧ clearB s c = true
theorem ok_clear {s : State} {c : Instr} (h : ok s c) : s.sound = true ∧ s.Clear c := ⟨h.1, clear_of h.2⟩

theorem witness_LineErrors :
    (hub.sound = true ∧ hub.listens .line = true ∧ (hub.ses .line).waiting = [] ∧ hub.steward.aDown = none
      ∧ ({ hub with steward := { aDown := some 0 } } : State).listens .line = true ∧ dark.listens .line = false)
    ∧ (let s : State := { hub with lineSes := { notice := false, generated := true } }
       s.listens .line = true ∧ (s.ses .line).generated = true)
    ∧ (∀ p ∈ [(7, Instr.stamp 0 (ln [(.slot, .int 0)])), (7, .cancel 0 (ln [(.req, .int 1), (.req, .int 1)])), (8, .cancel 0 (ln [])),
          (10, .twinsetLoad 0 (ln [(.set, .int 15), (.tag, .int 0)])), (9, .streamList 0 (ln [(.slot, .int 16)])), (11, .life 0 (ln [(.dest, .kw .other), (.confirm, .int 7)]))],
        ∃ l, lineOf p.2 = some l ∧ hub.listens l.line.ses = true) := by
  refine ⟨by decide +kernel, by decide +kernel, ?_⟩
  intro p h
  simp only [List.mem_cons, List.not_mem_nil, or_false] at h
  rcases h with rfl | rfl | rfl | rfl | rfl | rfl <;> exact ⟨_, rfl, by decide +kernel⟩
theorem witness_LineErrors_tag : (let u : Line := { ses := .line, tag := some 65536, args := [] }
    (lineOf (.stamp 0 u)).map (·.line) = some u) ∧ hub.listens .line = true ∧ hub.steward.aDown = none := by
  exact ⟨rfl, by decide +kernel⟩
theorem test_line_arg : leaves (.stamp 0 (ln [(.slot, .int 0)])) hub (fun n => n.out == [.usith .line none (.err 7 [])]) = true := by decide +kernel
theorem test_line_role : leaves (.accession 0 (ln [])) stand (fun n => n.out == []) = false ∧
    leaves (.accession 0 (ln [])) { stand with lineSes := { notice := false } } (fun n => n.out == [.usith .line none (.err 12 [])]) = true := by decide +kernel

theorem witness_BrokenLines :
    (hub.sound = true ∧ hub.listens .line = true ∧ hub.steward.aDown = none ∧ (hub.ses .line).waiting = [])
    ∧ lineError false true [] = some (5, none) ∧ lineError false false [] = none ∧ lineError false false [0x7F] = some (2, none)
    ∧ lineError true false [0x41] = some (1, none) := by decide +kernel
theorem test_line_long : leaves (.lineError 0 .line (List.replicate 1025 0x41) false) hub (fun n => n.out == [.usith .line none (.err 3 [])]) = true := by
  decide +kernel

/-- Folio 9 of slot 4 with one state layer, its slot with pages, and a tenant of stack 3. -/
def booklet : FolioInfo := { leaflet with stateLayers := [(1, 1)], shifts := [1] }
def tenant : State := { hub with
  archive := { folios := [{ info := booklet }] }
  patrons := hub.patrons.map fun p => if p.slot = 4 then { p with folio := some 9, pages := 8 } else p
  stackList := [plainStack, plainStack, plainStack, { plainStack with shares := [{ slot := 4, st := .lent, regions := [0], blocks := [] }] }]
  streams := [{ parked3 with committed := { portable := true } }] }
/-- One line of each read command. -/
def reads : List Instr := [.ident 0 (ln []), .stamp 0 (ln []), .showSetting 0 (ln [(.name, .name .stampPeriod false)]), .nodeShow 0 (ln [(.node, .int 256)]),
  .streamShow 0 (ln [(.sid, .int 8191)]), .streamList 0 (ln [(.slot, .int 15)]), .folioList 0 (ln []), .draftShow 0 (ln []), .requestShow 0 (ln [(.req, .int 1)]),
  .reportService 0 (ln [(.slot, .int 15)]), .reportLink 0 (ln [(.node, .int 256)]), .eventList 0 (ln [(.since, .int 0), (.count, .int 64)]),
  .portShow 0 (ln [(.port, .kw .d)]), .spineShow 0 (ln []), .powerShow 0 (ln []), .inventoryShow 0 (ln [])]
theorem witness_ReadsOnlyAnswer : hub.sound = true ∧ ∀ c ∈ reads, (readLine c).isSome = true ∧ clearB hub c = true := by decide +kernel
theorem witness_ReadReplies :
    (∀ c ∈ reads, ok hub c) ∧ SName.stampPeriod.unsettable = false ∧ hub.hasObject .stampPeriod = true ∧ hub.hasObject (.nodeTfit 1) = false
    ∧ hub.node? 256 = none ∧ hub.draft = none ∧ drafted.draft.isSome = true ∧ hub.req? 1 = none ∧ (onAir.node? 127).isSome = true
    ∧ ok onAir (.nodeShow 0 (ln [(.node, .int 127)])) ∧ (hub.patron 15).latest = none ∧ (hub.patron 15).folio = none ∧ (drafted.patron 3).folio ≠ none
    ∧ ok hub (.showSetting 0 (ln [(.name, .name (.unknown [0x58]) false)])) ∧ SName.unsettable (.unknown [0x58]) = true
    ∧ ((hub.stream 8191).place = .free ∧ (hub.stream 8191).gen = 0 ∧ (tenant.stream 3).place = .parked ∧ ok tenant (.streamShow 0 (ln [(.sid, .int 3)])))
    ∧ (let s : State := { hub with stackList := hub.stackList.map fun x => { x with lastInv := some (5, .pass) } }
       (s.stk 3).lastInv = some (5, .pass) ∧ ok s (.inventoryShow 0 (ln [])))
    ∧ ok hub (.showSetting 0 (ln [(.name, .name (.nodeTfit 0) true)])) ∧ (familyOf (.nodeTfit 0)).isSome = true
    ∧ ok onAir (.nodeShow 0 (ln [(.node, .kw .all)]))
    ∧ (let r : Request := { num := 1, slot := 4, kind := .regenerate, begins := 6, copy := some 8191 }
       let s : State := { tenant with requests := [r] }
       ok s (.streamList 0 (ln [(.slot, .int 4)])) ∧ r.slot = 4 ∧ r.ahead s.stamp.number = true ∧ 8191 ∈ r.chosen
        ∧ ∀ x ∈ tenant.requests, x.slot = 4 → x.ahead tenant.stamp.number = false)
    ∧ (let s : State := { hub with patrons := hub.patrons.map fun p => { p with latest := some (List.replicate 64 1) } }
       (s.patron 15).latest = some (List.replicate 64 1) ∧ ok s (.reportService 0 (ln [(.slot, .int 15)])))
    ∧ (let s : State := { onAir with nodes := onAir.nodes.map fun x => { x with latest := some (List.replicate 16 1) } }
       (s.node? 127).bind (·.latest) = some (List.replicate 16 1) ∧ ok s (.reportLink 0 (ln [(.node, .int 127)]))) := by
  refine ⟨fun c h => ⟨witness_ReadsOnlyAnswer.1, (witness_ReadsOnlyAnswer.2 c h).2⟩, ?_⟩
  simp only [ok]
  decide +kernel
theorem test_stamp : leaves (.stamp (3 * us1) (ln [])) hub (fun n => n.out == [.usith .line none (.ok [("stamp", .nat 5), ("run", .hex 7 8),
    ("period", .setting .stampPeriod (some 10)), ("econ", .word "OFF"), ("phase", .nat 3)])]) = true := by decide +kernel

theorem witness_SessionForms :
    (ok hub (.session 0 (ln [(.mode, .kw .generated), (.baud, .int 3000000)])) ∧ ok hub (.session 0 (ln [(.baud, .int 115200)])) ∧ ok hub (.session 0 (ln [])))
    ∧ (let s : State := { hub with portSes := { notice := false } }
       ok s (.session 0 { ses := .port, tag := none, args := [(.baud, .int 115200)] })
        ∧ ok s (.session 0 { ses := .port, tag := none, args := [(.expert, .kw .on)] })) := by
  simp only [ok]; decide +kernel
theorem test_session : leaves (.session 0 (ln [(.mode, .kw .generated)])) hub (fun n => n.lineSes.generated && n.lineSes.lines == 1) = true := by decide +kernel

def someSet : List (SName × Val) := [(.refitPublish, .int 100), (.stampPeriod, .qty 20 0 .ms)]
theorem witness_SetForms :
    (ok hub (.set 0 (ln []) someSet) ∧ (someSet.map (·.1)).Nodup ∧ someSet ≠ []
      ∧ hub.setPair false .refitPublish (.int 100) = .ok (some 100) ∧ hub.setPair false .stampPeriod (.qty 20 0 .ms) = .ok (some 20))
    ∧ hub.setPair false .stampPeriod (.int 1) = .error 9
    ∧ (SName.unsettable (.patronBalance 16) = false ∧ hub.tensor? 0 0 = none ∧ hub.folio? 0 = none ∧ hub.hasStream 0 = false ∧ hub.node? 1 = none
      ∧ SName.unsettable (.portTxlat 4) = false) := by
  simp only [ok]; decide +kernel
theorem test_set : leaves (.set 0 (ln []) [(.stampPeriod, .qty 20 0 .ms)]) hub (fun n => n.settings.staged == [(.stampPeriod, some 20)] && n.stamp.period == 10) = true := by
  decide +kernel
theorem witness_SetChecks :
    (hub.sound = true ∧ SName.stampPeriod.unsettable = false ∧ hub.hasObject .stampPeriod = true ∧ SName.stampPeriod.expert = false
      ∧ SName.stampPeriod.primaryOnly = true ∧ stand.isStandby = true ∧ SName.stampPeriod.form.read (.int 1) = none
      ∧ SName.stampPeriod.form.read (.qty 20 0 .ms) = some (some 20) ∧ currentLimit .stampPeriod = false)
    ∧ (ok hub (.set 0 (ln []) []) ∧ ok hub (.set 0 (ln []) (someSet ++ someSet)) ∧ ¬ ((someSet ++ someSet).map (·.1)).Nodup ∧ ok hub (.discard 0 (ln []))) := by
  simp only [ok]; decide +kernel

/-- A hub with one setting staged, alone and as the primary of a pair. -/
def staged : State := { hub with settings := { staged := [(.refitPublish, some 100)] } }
def stagedPair : State := { lead with settings := { staged := [(.refitPublish, some 100)] } }
theorem witness_ApplyForms :
    (ok hub (.apply 0 (ln [])) ∧ hub.settings.staged = [] ∧ hub.settings.stagedScripts = [] ∧ hub.settings.stagedSets = []) ∧
    (ok staged (.apply 0 (ln [])) ∧ staged.conflictRule = none ∧ staged.spine.partner = false)
    ∧ (ok stagedPair (.apply 0 (ln [])) ∧ stagedPair.conflictRule = none ∧ stagedPair.spine.partner = true ∧ stagedPair.leads = true ∧ stagedPair.spine.state = .up
      ∧ stagedPair.settings.staged = [(.refitPublish, some 100)] ∧ SName.refitPublish ≠ .stampPeriod) := by
  simp only [ok]; decide +kernel
theorem test_apply : leaves (.apply 0 (ln [])) staged (fun n => n.settings.commits == [(6, [(.refitPublish, some 100)])] && n.settings.staged.isEmpty) = true := by
  decide +kernel
theorem witness_SaveForms :
    (ok hub (.save 0 (ln [])) ∧ dark.sound = true ∧ dark.power.porter = false)
    ∧ (booting.sound = true ∧ booting.railsGood = true ∧ booting.power.origin + 12 * msTicks ≤ booting.at (12 * ms1) ∧ booting.power.bootRead = false
      ∧ booting.test.fuses.getLsbD 4 = false)
    ∧ (let s : State := { booting with power := { booting.power with bootRead := true } }
       s.railsGood = true ∧ s.power.bootRead = true ∧ s.stamp.started = false ∧ s.blank = false) := by
  simp only [ok]; decide +kernel
/-- A layer shift of a stream that has ended is not saved, that of a stream not yet made is. -/
theorem test_save_shift : (let s : State := { hub with
      streams := [{ sid := 3 }], settings := { live := [(.streamShift 3 0, some 1), (.streamShift 4 0, some 2)] } }
    s.liveSettings = [(.streamShift 4 0, some 2)]) := by decide +kernel
theorem test_save : leaves (.save 0 (ln [])) { hub with settings := { live := [(.refitPublish, some 100)], staged := [(.stampPeriod, some 20)] } }
    (fun n => n.archive.saved == [(.refitPublish, some 100)]) = true := by decide +kernel
theorem witness_PairForms :
    ok hub (.pair 0 (ln [(.side, .kw .b), (.partner, .kw .on)])) ∧ ok hub (.showSetting 0 (ln [(.name, .name .pairSide false)]))
    ∧ ({ hub with power := { hub.power with rstLow := some 0 } } : State).power.rstLow ≠ none ∧ hub.power.waiting = .none := by
  simp only [ok]; decide +kernel
theorem test_pair : leaves (.pair 0 (ln [(.side, .kw .b), (.partner, .kw .on)])) hub (fun n => n.archive.sideB && n.archive.partner && !n.spine.sideB) = true := by
  decide +kernel
theorem witness_StampFigures : 0 < onAir.air.nch ∧ onAir.node? 127 ≠ none ∧ onAir.upSlot 127 < onAir.air.nu ∧ onAir.slotShelf 0 (.uplink 63) = some 127
    ∧ (let s : State := { hub with stamp := { period := 2, economy := true } }
       s.stamp.period = 2 ∧ s.admissible = 1520000)
    ∧ (let s : State := { hub with stamp := { period := 50 } }
       s.stamp.economy = false ∧ s.admissible = 47500000) := by decide +kernel

/-! ## Nodes, limits, streams -/

/-- Node 127 with a broken wire. -/
def broken : State := { onAir with nodes := [{ shelf := 127, nid := 2, breaks := [{ wire := 16, confirmed := true }] }] }
theorem witness_NodeForms :
    (ok hub (.accession 0 (ln [])) ∧ hub.acc.busy = false ∧ ok offering (.accession 0 (ln [])) ∧ offering.acc.busy = true)
    ∧ (∀ h ∈ [Val.int 127, .int 1, .int 256, .kw .all],
        ok onAir (.balance 0 (ln [(.node, h), (.cells, .kw .all), (.dur, .qty 65535 0 .s)])) ∧ ok onAir (.nodeSleep 0 (ln [(.node, h)])))
    ∧ (∀ h ∈ [Val.int 127, .int 256], ok onAir (.nodeQuery 0 (ln [(.node, h)])) ∧ ok onAir (.owtest 0 (ln [(.node, h), (.wire, .int 16), (.dir, .kw .both)])))
    ∧ (onAir.node? 256 = none ∧ (onAir.node? 127).any (·.owt.isEmpty) = true ∧ onAir.acc.busy = false)
    ∧ (let s : State := { onAir with nodes := [{ shelf := 127, nid := 2, owt := [{ wire := 0, left := 1 }] }] }
       ok s (.owtest 0 (ln [(.node, .int 127), (.wire, .int 0)])) ∧ (s.node? 127).any (fun x => !x.owt.isEmpty) = true)
    ∧ (ok broken (.breakClear 0 (ln [(.node, .int 127), (.wire, .int 16)])) ∧ (broken.node? 127).any (·.broken 16) = true
      ∧ (broken.node? 127).any (·.broken 0) = false) := by
  simp only [ok]; decide +kernel
theorem test_node_sleep : leaves (.nodeSleep 0 (ln [(.node, .kw .all)])) onAir (fun n => n.air.bqueue.map (·.mtype) == [5] && n.out.isEmpty) = true := by decide +kernel

/-- A tripped limit whose condition has been clear for a while. -/
def tripped (clear : Nat) : State := { hub with limits := [{ lim := .ov, key := 256 * 127 + 16, tripped := true, seq := 9, clear := clear }] }
theorem witness_AckAndTwinset :
    (∀ c ∈ [0, 100000], ok (tripped c) (.protectAck 0 (ln [(.seq, .int 9)])))
    ∧ (∀ x ∈ (tripped 0).limits, x.seq ≠ 10 ∧ x.clear < (tripped 0).clearTests x) ∧ (∀ x ∈ (tripped 100000).limits, (tripped 100000).clearTests x ≤ x.clear)
    ∧ (let s : State := { hub with lineSes := { notice := false, expert := true } }
       ok s (.twinsetLoad 0 (ln [(.set, .int 15), (.tag, .int 3)])) ∧ (s.takeInput 0x21 3).1.isNone = true) := by
  simp only [ok]; decide +kernel
theorem witness_AckAndTwinset_down : (let s : State := { (tripped 100000) with steward := { bDown := some 0 } }
    ok s (.protectAck 0 (ln [(.seq, .int 9)])) ∧ s.steward.bDown ≠ none) := by simp only [ok]; decide +kernel
theorem test_protect_ack : leaves (.protectAck 0 (ln [(.seq, .int 9)])) (tripped 0) (fun n => n.limits.map (·.acked) == [true]) = true := by decide +kernel

/-- A frame of ring 5 with a tag and a body, of a type. -/
def fed (ty tag : Nat) (body : Bytes) (s : State) : State :=
  let p := leBytes 16 tag ++ body
  let h := leBytes 32 (ty + 2 ^ 8 + p.length * 2 ^ 32 + (crc32 p).toNat * 2 ^ 192)
  { s with port := { s.port with
      ringMem := memWrite s.port.ringMem 0x260000 (h ++ p)
      rings := s.port.rings.modify 5 fun q => { q with prod := { off := frameSize p.length } } } }
theorem witness_takeInput : ((fed 0x21 3 [1, 2] hub).takeInput 0x21 3).1.map (·.body) = some [1, 2] := by decide +kernel

/-- The same with a charge of slot 4 on the stream. -/
def engaged : State := { tenant with charges := [errand] }
def lCreate := ln [(.sid, .int 8191), (.slot, .int 4), (.mode, .kw .portable), (.seed, .int 7)]
def lStream := ln [(.sid, .int 3)]
def lCard := ln [(.sid, .int 3), (.tag, .int 9)]
theorem witness_StreamForms :
    (engaged.waits = [] ∧ engaged.streamBusy 3 = true ∧ engaged.hasStream 3 = true ∧ (engaged.stream 3).committed.portable = true
      ∧ ok engaged (.streamFree 0 lStream) ∧ ok engaged (.streamExport 0 lCard) ∧ ok engaged (.streamCopy 0 lCard)
      ∧ ok engaged (.streamCreate 0 (ln [(.sid, .int 3), (.slot, .int 4), (.mode, .kw .reset), (.seed, .int 7)])))
    ∧ (tenant.waits = [] ∧ tenant.streamBusy 3 = false ∧ tenant.streamBusy 8191 = false ∧ ok tenant (.streamCreate 0 lCreate)
      ∧ tenant.noImage 4 false = false ∧ tenant.noImage 4 true = true ∧ tenant.folio? 4 = some booklet ∧ tenant.createFault booklet 8191 4 false = none
      ∧ tenant.createFault booklet 3 4 false = some 11)
    ∧ (ok tenant (.streamFree 0 lStream) ∧ tenant.hasStream 3 = true ∧ tenant.sidTaken 3 = false ∧ tenant.hasStream 0 = false
      ∧ ({ tenant with streams := tenant.streams.map fun x => { x with held := true } } : State).sidTaken 3 = true)
    ∧ (ok tenant (.streamExport 0 lCard) ∧ ok tenant (.streamCopy 0 lCard) ∧ tenant.port.rings.length = 6 ∧ (tenant.ring 4).held = []
      ∧ tenant.hasRoom 4 (tenant.cardFrame false 9 { tenant.stream 3 with sid := 3 }).payload.length = true
      ∧ (full 4 tenant).hasRoom 4 (tenant.cardFrame false 9 { tenant.stream 3 with sid := 3 }).payload.length = false)
    ∧ (let u := ln [(.sid, .int 0), (.slot, .int 4), (.tag, .int 9)]
       ok tenant (.streamImport 0 u) ∧ (tenant.takeInput 0x20 9).1.isNone = true ∧ ((fed 0x20 9 [1] tenant).takeInput 0x20 9).1.map (·.body) = some [1]
        ∧ tenant.importFault booklet 0 4 false [1] = some (.err 22 [("check", .word "magic")])) := by
  simp only [ok]; decide +kernel
/-- A stream whose record waits to be restored. -/
def awaiting : State := { tenant with streams := [{ sid := 3, held := true }] }
theorem witness_StreamForms_restore : (∀ c ∈ [Instr.streamFree 0 lStream, .streamExport 0 lCard, .streamCopy 0 lCard, .streamShow 0 lStream,
      .showSetting 0 (ln [(.name, .name (.streamShift 3 0) false)])], ok awaiting c)
    ∧ awaiting.waits = [] ∧ awaiting.streamBusy 3 = false ∧ awaiting.awaitsRestore 3 = true ∧ tenant.awaitsRestore 3 = false
    ∧ awaiting.nameWaits (.streamShift 3 0) = true ∧ SName.unsettable (.streamShift 3 0) = false := by
  simp only [ok]; decide +kernel
theorem test_stream_create : leaves (.streamCreate 0 lCreate) tenant (fun n => (n.stream 8191).place == .parked && (n.stream 8191).gen == 1) = true := by decide +kernel
theorem test_stream_free : leaves (.streamFree 0 lStream) tenant (fun n => (n.stream 3).place == .free) = true := by decide +kernel

/-- The hub with its folio bound and nothing lent. -/
def bound4 : State := { tenant with stackList := hub.stackList, streams := [] }
/-- With an open job of slot 4. -/
def working4 : State := { bound4 with requests := [{ num := 1, slot := 4, kind := .job, begins := 0 }] }
theorem witness_FolioForms :
    (∀ o ∈ [0, 64, 50331584], ok hub (.folioWrite 0 (ln [(.offset, .int o), (.tag, .int 3)])))
    ∧ (ok hub (.folioWrite 0 (ln [(.offset, .int 1), (.tag, .int 3)])) ∧ ((fed 0x21 3 [1, 2] hub).takeInput 0x21 3).1.map (·.body.length) = some 2
      ∧ 64 + 2 ≤ 50331648)
    ∧ (let u := ln [(.length, .int 127)]
       ok hub (.folioInstall 0 u leaflet) ∧ (memRead hub.archive.staging 0 127).length < 128)
    ∧ (ok bound4 (.folioDelete 0 (ln [(.folio, .int 9)])) ∧ bound4.folioSt? 9 ≠ none ∧ (∃ p ∈ bound4.patrons, p.folio = some 9) ∧ bound4.folioSt? 8 = none)
    ∧ (let s : State := { hub with archive := { folios := [{ info := booklet }] } }
       s.patrons.length = 16 ∧ ok s (.folioDelete 0 (ln [(.folio, .int 9)])) ∧ (∀ p ∈ s.patrons, p.folio ≠ some 9) ∧ s.draft = none ∧ s.changes = []
        ∧ ok s (.bindFolio 0 (ln [(.slot, .int 15), (.folio, .int 9)])) ∧ s.openReq? 15 = none ∧ booklet.kind = slotKind 15 ∧ s.slotLent 15 = false
        ∧ ok s (.bindFolio 0 (ln [(.slot, .int 0), (.folio, .int 9)])) ∧ booklet.kind ≠ slotKind 0)
    ∧ (ok bound4 (.unbind 0 (ln [(.slot, .int 4)])) ∧ (bound4.patron 4).folio ≠ none ∧ bound4.openReq? 4 = none ∧ bound4.slotLent 4 = false ∧ bound4.streams = []
      ∧ tenant.slotLent 4 = true ∧ (working4.openReq? 4).isSome = true ∧ (bound4.patron 15).folio = none) := by
  simp only [ok]; decide +kernel
theorem test_unbind : leaves (.unbind 0 (ln [(.slot, .int 4)])) bound4 (fun n => (n.patron 4).folio.isNone && (n.patron 4).pages == 0) = true := by decide +kernel
theorem test_bind_kind : leaves (.bindFolio 0 (ln [(.slot, .int 0), (.folio, .int 9)])) bound4 (fun n => n.out == [.usith .line none (.err 11 [])]) = true := by decide +kernel

/-- An envelope of no body for key slot 0, signed with the key pair of RFC 8032's first test, in the staging area of a hub whose key slot 0 holds the
public key, and a folio of no weight line. -/
def envelope : Bytes := leBytes 64 (0x4C4F4647 + 2 ^ 32) ++ leBytes 64
  0xb35737c7dd9789ee1c5cb269bc51d63f203c32b02effaec79f30294beccbe51063ed41df29dcdfd9e0840b78d3f5cb9a9a7961b0956e177e5fdef2e7c4d332
def signer : State := { hub with
  test := { fuses := 7 + 2 ^ 12 + 0x1a5107f7681a02af2523a6daf372e10e3a0764c9d3fe4bd5b70ab18201985ad7 * 2 ^ 64 }
  archive := { staging := memWrite [] 0 envelope } }
def signed : FolioInfo := { leaflet with weightLines := [], wdigest := weightDigest [] }
theorem witness_FolioForms_install :
    ok signer (.folioInstall 0 (ln [(.length, .int 128)]) signed) ∧ memRead signer.archive.staging 0 128 = envelope
      ∧ signer.installFault envelope signed = none ∧ signer.folioSt? signed.fid = none ∧ hub.installFault envelope signed = some 25 := by
  simp only [ok]; decide +kernel
-- RFC 8032, 7.1, the first test: the empty message.
theorem test_ed25519 : ed25519Verifies (leBytes 32 0x1a5107f7681a02af2523a6daf372e10e3a0764c9d3fe4bd5b70ab18201985ad7) []
    (leBytes 64 0xb107a8e4341516524be5b59f0f55bd26bb4f91c70391ec6ac3ba3901582b85f5501492265e073d874d9e5b81e7f87848a826e80cce2869072ac60c3004356e5) = true := by
  decide +kernel

def lLoan := ln [(.slot, .int 4), (.stackCount, .int 4), (.pages, .int 11768)]
def lShare := ln [(.slot, .int 4), (.stack, .int 3), (.regions, .int 47)]
theorem witness_LoanForms :
    (ok bound4 (.loan 0 lLoan) ∧ (∀ a ∈ [Arg.stack, .regions, .blocks, .claim], lineHas lLoan a = false) ∧ bound4.folio? 4 = some booklet
      ∧ 11768 ≤ bound4.pagesUnlent ∧ bound4.wholeStacks booklet 6 4 = some [0, 1, 2, 3] ∧ bound4.folioFits 4 booklet [(0, 48), (1, 48), (2, 48), (3, 48)] = true
      ∧ tenant.wholeStacks booklet 6 4 = none)
    ∧ (let s : State := { bound4 with lineSes := { notice := false, expert := true } }
       ok s (.loan 0 lShare) ∧ lineHas lShare .stackCount = false ∧ lineNat lShare .regions 48 < 48 ∧ s.shareFits 4 3 47 48 0 = true ∧ s.mirrors 4 3 = false
        ∧ (s.stk 3).annexOk = true ∧ s.slackFault 3 4 booklet = none ∧ s.folioFits 4 booklet [(3, 47)] = true
        ∧ ok s (.loan 0 (ln [(.slot, .int 4), (.claim, .int 0)])) ∧ 2 ≤ classOf 4)
    ∧ (ok tenant (.release 0 (ln [(.slot, .int 4)])) ∧ (List.range 4).filter (tenant.heldBy 4) = [3] ∧ (List.range 4).filter (hub.heldBy 4) = [])
    ∧ (let s : State := { hub with
          archive := { folios := [{ info := booklet }] }
          patrons := hub.patrons.map fun p => if p.slot = 1 then { p with folio := some 9 } else p
          stackList := [plainStack, plainStack, plainStack, { plainStack with shares := [{ slot := 1, st := .lent, regions := [0], blocks := [] }] }] }
       ok s (.move 0 (ln [(.slot, .int 1), (.fromStack, .int 3)])) ∧ (s.stk 3).lentTo 1 = true ∧ s.heldBy 1 3 = true ∧ s.changes = []
        ∧ s.folio? 1 = some booklet ∧ s.freeAt booklet 6 0 = true ∧ s.spine.partner = false
        ∧ s.movable 1 3 booklet = true)
    ∧ (ok hub (.promote 0 (ln [(.pub, .int 1), (.slot, .int 3)])) ∧ ok hub (.promote 0 (ln [(.pub, .int 1), (.slot, .int 1)])) ∧ hub.promotion = none
      ∧ (hub.advance 0).promoteFault 1 1 = some 20
      ∧ (let s : State := { drafted with draft := some { parent := 9, step := 64, pub := 1 } }
         ok s (.promote 0 (ln [(.pub, .int 1), (.slot, .int 15)]))))
    ∧ (ok hub (.draftDiscard 0 (ln [])) ∧ hub.draft = none ∧ ok drafted (.draftDiscard 0 (ln [])) ∧ drafted.draft ≠ none) := by
  simp only [ok]; decide +kernel
theorem witness_LoanForms_paired : (let f : FolioInfo := { booklet with layers := [{ paired := true, trainable := false, inputMax := 1, codeMax := 1, rows := [], stateTables := [], tables := [] }] }
    let s : State := { bound4 with lineSes := { notice := false, expert := true }, archive := { folios := [{ info := f }] } }
    ok s (.loan 0 lShare) ∧ folioPaired f = true ∧ s.folio? 4 = some f ∧ s.shareFits 4 3 47 48 0 = true ∧ s.slackFault 3 4 f = none ∧ folioPaired booklet = false) := by
  simp only [ok]; decide +kernel
theorem test_loan : leaves (.loan 0 lLoan) bound4 (fun n => n.changes.map (fun c => (c.stack, c.begins)) == [(0, 6), (1, 6), (2, 6), (3, 6)]
    && (n.changes.map (·.pages)).sum == 11768) = true := by decide +kernel
theorem test_release : leaves (.release 0 (ln [(.slot, .int 4)])) tenant (fun n => n.changes.map (fun c => (c.stack, c.lend)) == [(3, false)]) = true := by decide +kernel

theorem witness_RequestForms :
    (tenant.folio? 4 = some booklet ∧ tenant.holdsStack 4 = true ∧ tenant.openReq? 4 = none ∧ bound4.holdsStack 4 = false ∧ booklet.rollout = false
      ∧ tenant.requestFault 4 (fun f => !f.rollout) = none ∧ bound4.requestFault 4 (fun f => !f.rollout) = some (.err 11 []))
    ∧ (ok tenant (.rollout 0 (ln [(.slot, .int 4), (.seg, .segs [{ steps := 1440000, power := false, value := 1 }]), (.plan, .int 0), (.seed, .int 1)])) ∧ ok tenant (.rollout 0 (ln [(.slot, .int 4), (.seed, .int 1)])))
    ∧ (ok tenant (.regenerate 0 (ln [(.slot, .int 4), (.card, .int 1), (.input, .int 2)])) ∧ (tenant.takeInput 0x20 1).1.isNone = true
      ∧ tenant.requestFault 4 (fun f => !f.rollout && !f.stateLayers.isEmpty) = none)
    ∧ (ok tenant (.job 0 (ln [(.slot, .int 4)])) ∧ ok tenant (.job 0 (ln [(.slot, .int 4), (.input, .kw .none)]))
      ∧ ok (fed 0x21 3 [1] tenant) (.job 0 (ln [(.slot, .int 4), (.input, .int 3)])) ∧ ((fed 0x21 3 [1] tenant).takeInput 0x21 3).1.map (·.body) = some [1])
    ∧ (ok working4 (.cancel 0 (ln [(.req, .int 1)])) ∧ (working4.req? 1).any (·.isOpen) = true ∧ working4.req? 2 = none
      ∧ ({ hub with requests := [{ num := 1, slot := 4, kind := .job, begins := 0, state := .done }] } : State).requests.map (·.isOpen) = [false]) := by
  simp only [ok]; decide +kernel
-- The published vectors of AES-256-GCM for a key and a nonce of zeros: no text, and one block of zeros.
theorem test_gcm_empty : gcmTag (List.replicate 32 0) (List.replicate 12 0) [] [] =
    [0x53, 0x0F, 0x8A, 0xFB, 0xC7, 0x45, 0x36, 0xB9, 0xA9, 0x63, 0xB4, 0xF1, 0xC4, 0xCB, 0x73, 0x8B] := by decide +kernel
theorem test_gcm_block : gcmText (List.replicate 32 0) (List.replicate 12 0) (List.replicate 16 0) =
      [0xCE, 0xA7, 0x40, 0x3D, 0x4D, 0x60, 0x6B, 0x6E, 0x07, 0x4E, 0xC5, 0xD3, 0xBA, 0xF3, 0x9D, 0x18]
    ∧ gcmTag (List.replicate 32 0) (List.replicate 12 0) [] (gcmText (List.replicate 32 0) (List.replicate 12 0) (List.replicate 16 0)) =
      [0xD0, 0xD1, 0xC8, 0xA7, 0x99, 0x99, 0x6B, 0xF0, 0x26, 0x5B, 0x98, 0xB5, 0xD4, 0x8A, 0xB9, 0x19] := by decide +kernel
/-- The digest of the three letters abc, from FIPS 180-4's published examples. -/
theorem test_sha256 : sha256 [0x61, 0x62, 0x63] = ([0xBA, 0x78, 0x16, 0xBF, 0x8F, 0x01, 0xCF, 0xEA, 0x41, 0x41, 0x40, 0xDE, 0x5D, 0xAE, 0x22, 0x23,
     0xB0, 0x03, 0x61, 0xA3, 0x96, 0x17, 0x7A, 0x9C, 0xB4, 0x10, 0xFF, 0x61, 0xF2, 0x00, 0x15, 0xAD] : Bytes) := by decide +kernel
/-- A card of folio 9, and an input stream of one step for a regeneration. -/
def card9 : Bytes := (newImage booklet 5 4 1 true false 7).card
def steps1 : Bytes := leBytes 8 1 ++ List.replicate 72 0
theorem witness_card9 : cardFault booklet card9 = none ∧ card9.length = 1058 := by decide +kernel
set_option maxRecDepth 100000 in
theorem witness_RequestForms_regenerate : regenOk steps1 = true ∧ regenOk [] = false ∧ tenant.freeIds.head? = some 8191
    ∧ (tenant.regenStream booklet 8191 4 card9).pages ≤ tenant.pagesFree 4 ∧ ((fed 0x20 9 card9 tenant).takeInput 0x20 9).1.map (·.body) = some card9 := by
  decide +kernel
theorem witness_StreamForms_import : tenant.importFault booklet 0 4 false card9 = none := by decide +kernel
/-- A rollout folio and a live stream of slot 1 under the same layout. -/
def rolling : State := { tenant with
  archive := { folios := [{ info := { booklet with rollout := true } }] }
  streams := [{ sid := 3, place := .parked, slot := 1, pages := 1, committed := { live := true, portable := true } }]
  cells := [{ shelf := 1, cell := 1, sid := some 3 }] }
def lRoll := ln [(.slot, .int 4), (.seg, .segs [{ steps := 100, power := false, value := 1 }]), (.cells, .kw .all), (.seed, .int 1)]
theorem witness_RequestForms_rollout : ok rolling (.rollout 0 lRoll) ∧ rolling.requestFault 4 (·.rollout) = none
    ∧ ((rolling.advance 0).rollRequest lRoll { booklet with rollout := true } [{ steps := 100, power := false, value := 1 }]).toBool = true
    ∧ ((rolling.advance 0).rollRequest lRoll { booklet with rollout := true } [{ steps := 1440001, power := false, value := 1 }]).toBool = false
    ∧ planSegs 65 [] = some [] := by
  simp only [ok]; decide +kernel
theorem test_job : leaves (.job 0 (ln [(.slot, .int 4), (.seed, .int 9)])) tenant (fun n => n.requests.map (fun r => (r.num, r.begins, r.seed)) == [(tenant.nextReq, 6, 9)]) = true := by
  decide +kernel
/-- A TENSOR frame of one row of four A8 codes is whole, one that names no row is not. -/
theorem witness_RequestForms_tensor :
    ∀ x ∈ [(2 ^ 80, true), (0, false)], let s := fed 0x22 (3 + x.1) [1, 2, 3, 4] tenant
     ok s (.job 0 (ln [(.slot, .int 4), (.input, .int 3)]))
      ∧ (s.takeInputOf [0x21, 0x22] 3).1.map (fun f => (f.ftype, f.whole)) = some (0x22, x.2) := by
  simp only [ok]; decide +kernel
theorem test_cancel : leaves (.cancel 0 (ln [(.req, .int 1)])) working4 (fun n => n.requests.map (·.state) == [.cancelled]) = true := by decide +kernel

/-! ## The hub, the pair and the test port -/

theorem witness_HubForms :
    (ok hub (.portRestore 0 (ln [(.port, .kw .d)])) ∧ (hub.port? 3).fault = none
      ∧ (let s : State := { hub with air := { ports := List.replicate 4 { fault := some .rck } } }
         ok s (.portRestore 0 (ln [(.port, .kw .d)])) ∧ (s.port? 3).fault ≠ none))
    ∧ (ok hub (.scriptLoad 0 (ln [(.port, .kw .a), (.kind, .kw .tune), (.tag, .int 3)]))
      ∧ ok hub (.scriptLoad 0 (ln [(.port, .kw .a), (.kind, .kw .init), (.centre, .int 8), (.tag, .int 3)]))
      ∧ ok (fed 0x21 3 [] hub) (.scriptLoad 0 (ln [(.port, .kw .a), (.kind, .kw .tune), (.centre, .int 8), (.tag, .int 3)]))
      ∧ ((fed 0x21 3 [] hub).takeInput 0x21 3).1.map (·.body) = some [] ∧ scriptEnds 0 [] = true)
    ∧ (hub.getN .spineSecure ≠ 1 ∧ secured.getN .spineSecure = 1)
    ∧ (ok hub (.roleYield 0 (ln [])) ∧ hub.roleSt.role ≠ .primary ∧ ok lead (.roleYield 0 (ln [])) ∧ lead.roleSt.role = .primary ∧ lead.roleSt.decided = true
      ∧ lead.spine.state = .up ∧ lead.spine.partnerRole = some .standby ∧ lead.spine.partnerUnaligned = 0)
    ∧ (ok hub (.inventory 0 (ln [(.stack, .int 3)])) ∧ lifeIndex hub.life = 3 ∧ (hub.ses .line).expert = false
      ∧ (let s : State := { hub with lineSes := { notice := false, expert := true } }
         ok s (.inventory 0 (ln [(.stack, .int 3)])) ∧ (s.ses .line).expert = true ∧ s.mayInventory 3 = true ∧ s.invBusy = false))
    ∧ (∀ x ∈ [0, 5, 6], ok hub (.lectern 0 (ln [(.sel0, .sel x), (.sel1, .sel 5)])))
    ∧ (ok hub (.life 0 (ln [(.dest, .kw .returned), (.confirm, .int 7)])) ∧ hub.stamp.run.toNat = 7 ∧ lifeIndex hub.life + 1 = 4 ∧ hub.nodes = [] ∧ hub.blank = false
      ∧ ok hub (.life 0 (ln [(.dest, .kw .deployed), (.confirm, .int 7)]))) := by
  simp only [ok]; decide +kernel
theorem test_role_yield : leaves (.roleYield 0 (ln [])) lead (fun n => n.roleSt.yieldAt == some 6 && n.roleSt.role == .yielding) = true := by decide +kernel
theorem test_life : leaves (.life 0 (ln [(.dest, .kw .returned), (.confirm, .int 7)])) hub (fun n => n.test.lifeDue == [(4, 6)] && n.test.fuses == 7) = true := by
  decide +kernel

/-- A part in MANUFACTURE. -/
def made : State := { hub with test := { fuses := 1 } }
theorem witness_ScanForms : hub.sound = true ∧ dark.tapOn = false ∧ (hub.tapOn = true ∧ hub.tapOpen = false) ∧ (made.tapOn = true ∧ made.tapOpen = true)
    ∧ ({ hub with test := { fuses := 15 } } : State).tapOpen = true := by decide +kernel
theorem test_fuseprog : leaves (.fuseprog 0 (2 ^ 1343)) made (fun n => n.test.fuses == 1 + 2 ^ 1343) = true := by decide +kernel
/-- A scan shifts through the register's cells: what comes in leaves it after as many bits. -/
theorem test_boundary_cells : leaves (.extest 0 [true, false]) made (fun n => n.test.shiftOut.length == 2 && n.test.boundary.length == 81
    && n.test.boundary.drop 79 == [true, false] && n.drive == .boundary) = true := by decide +kernel
/-- RST_N low, by Table 15.7. -/
theorem witness_ScanForms_pins : (let s : State := { hub with power := { hub.power with rstLow := some 0 } }
    s.power.rstLow ≠ none ∧ s.drive = .hub ∧ s.bankOn .io33 = true ∧ s.bankOn .io18 = true ∧ s.power.porter = true)
    ∧ (Pin.hirqN ≠ .spn ∧ dark.bankOn Pin.hirqN.bank = false) := by decide +kernel
theorem test_pin_reset : ({ hub with power := { hub.power with rstLow := some 0 } } : State).pin .utx = .highZ ∧ hub.pin .utx = .signal
    ∧ dark.pin .spn = .terminated ∧ dark.pin .hrdy = .highZ := by decide +kernel
theorem test_bypass : leaves (.bypass 0 [true, true, false]) hub (fun n => n.test.shiftOut == [false, true, true]) = true := by decide +kernel
end Sys2Proof.Machine
end

namespace Sys2Proof.Machine

/-- A step takes the front of the queue off and runs it. -/
theorem step_cons (c : Instr) (rest : List Instr) (s : State) :
    step { s with pending := c :: rest } = exec c { s with pending := rest } := rfl

/-- With an empty queue the hub idles. -/
theorem step_idle {s : State} (h : s.pending = []) : step s = .next s := by
  unfold step
  rw [h]

/-- Settles O1: both cases of `step`, as the queue has a front or not. -/
theorem stepRunsFront : Obligations.StepRunsFront :=
  ⟨step_cons, fun _ => step_idle⟩

/-! ## The cycle budget (02 R37) -/

/-- Each of the two clocks is a whole number of margins and of microseconds: the margin and what is left are exact. -/
theorem State.budget_exact (s : State) : 20 * s.margin = s.budget ∧ s.admissible + s.margin = s.budget := by
  have h : 20 ∣ s.budget := Dvd.dvd.mul_left (by unfold State.clock; split <;> decide) _
  have hm : 20 * s.margin = s.budget := Nat.mul_div_cancel' h
  exact ⟨hm, by unfold State.admissible; omega⟩

/-- From 2 ms on the margin covers an overrun of 40 µs and a pass of 10 µs. -/
theorem State.margin_covers (s : State) (h : 2 ≤ s.stamp.period) : 40 * (s.clock / 1000) + 10 * (s.clock / 1000) ≤ s.margin := by
  have hb : 2 * s.clock ≤ s.budget := Nat.mul_le_mul_right _ h
  have hm := s.budget_exact.1
  omega

/-! ## Channels and uplink slots (10 R286) -/

/-- Channel and uplink slot are the remainder and the quotient of h - 1 by NCH, and together give h back. -/
theorem State.shelf_of_place (s : State) {h : Nat} (h1 : 1 ≤ h) : s.air.nch * s.upSlot h + s.lchOf h + 1 = h := by
  have := Nat.div_add_mod (h - 1) s.air.nch
  simp only [State.upSlot, State.lchOf]
  omega

/-- The converse: a channel and a slot are those of the shelfmark that they give. -/
theorem State.place_of_shelf (s : State) {lch i : Nat} (hl : lch < s.air.nch) :
    s.lchOf (s.air.nch * i + lch + 1) = lch ∧ s.upSlot (s.air.nch * i + lch + 1) = i := by
  constructor
  · simp [State.lchOf, Nat.mod_eq_of_lt hl]
  · simp [State.upSlot, Nat.mul_add_div (Nat.zero_lt_of_lt hl), Nat.div_eq_of_lt hl]

/-- A node found by its shelfmark has it. -/
theorem State.node?_shelf {s : State} {h : Nat} {x : NodeSt} (hx : s.node? h = some x) : x.shelf = h := by
  simpa using List.find?_some hx

/-- An uplink slot serves the node that its channel and number give. -/
theorem State.slotShelf_uplink (s : State) (lch i h : Nat) :
    s.slotShelf lch (.uplink i) = some h ↔
      i < s.air.nu ∧ lch < s.air.nch ∧ s.air.nch * i + lch + 1 = h ∧ ∃ x, s.node? h = some x := by
  simp only [State.slotShelf]
  constructor
  · intro e
    split at e
    · next hi =>
      obtain ⟨x, hx, rfl⟩ := Option.map_eq_some_iff.1 e
      have := State.node?_shelf hx
      exact ⟨hi.1, hi.2, this.symm, x, this ▸ hx⟩
    · cases e
  · rintro ⟨hi, hl, rfl, x, hx⟩
    rw [if_pos ⟨hi, hl⟩, hx, Option.map_some, State.node?_shelf hx]

/-- Every shelfmark up to NCH × NU has an uplink slot of the frame. -/
theorem State.upSlot_lt (s : State) {h : Nat} (h1 : 1 ≤ h) (hh : h ≤ s.air.nch * s.air.nu) : s.upSlot h < s.air.nu :=
  Nat.div_lt_of_lt_mul (by omega)

/-- Settles O51: the figures from the exact budget, the slots from quotient and remainder. -/
theorem stampFigures : Obligations.StampFigures := by
  intro s
  refine ⟨⟨rfl, rfl, s.budget_exact.1, s.budget_exact.2, s.margin_covers, ?_, ?_⟩, fun hn => ⟨fun h h1 => ?_, ?_, ?_⟩⟩
  · intro he
    refine ⟨?_, ?_, ?_⟩ <;> intro hp <;> simp [State.admissible, State.margin, State.budget, State.clock, he, hp]
  · intro he
    refine ⟨?_, ?_, ?_⟩ <;> intro hp <;> simp [State.admissible, State.margin, State.budget, State.clock, he, hp]
  · have hl : s.lchOf h < s.air.nch := Nat.mod_lt _ hn
    exact ⟨rfl, rfl, hl, s.upSlot_lt h1, fun x hx hu =>
      (s.slotShelf_uplink _ _ _).2 ⟨hu, hl, s.shelf_of_place h1, x, hx⟩⟩
  · intro lch i h e
    obtain ⟨_, hl, rfl, hx⟩ := (s.slotShelf_uplink _ _ _).1 e
    exact ⟨(s.place_of_shelf hl).1, (s.place_of_shelf hl).2, hx⟩
  · intro h h' h1 h1' hl hu
    rw [← s.shelf_of_place h1, ← s.shelf_of_place h1', hl, hu]

end Sys2Proof.Machine

namespace Sys2Proof.Machine

/-! ## What an admission leaves alone -/

/-- A stack changed under its number. -/
theorem State.modStk_stk_same (s : State) {k : Nat} (f : StackSt → StackSt) (h : k < s.stackList.length) :
    (s.modStk k f).stk k = f (s.stk k) := by
  simp [State.stk, State.modStk, h]

theorem State.modStk_stk_other (s : State) {k j : Nat} (f : StackSt → StackSt) (h : k ≠ j) : (s.modStk k f).stk j = s.stk j := by
  simp [State.stk, State.modStk, h]

/-- The stack of a number is changed as a change of every stack allows. -/
theorem State.modStk_stk_cases (s : State) (k j : Nat) (f : StackSt → StackSt) :
    (s.modStk k f).stk j = s.stk j ∨ (s.modStk k f).stk j = f (s.stk j) := by
  by_cases h : k = j
  · subst h
    by_cases hk : k < s.stackList.length
    · exact .inr (s.modStk_stk_same f hk)
    · exact .inl (by simp [State.stk, State.modStk, List.getElem?_eq_none (Nat.le_of_not_lt hk)])
  · exact .inl (s.modStk_stk_other f h)

/-- A stack without what an admission changes: S, the reservations and what is taken of them, the pages used, the queue, and what can start. -/
def StackSt.idle (k : StackSt) : StackSt :=
  { k with sum := 0, reserved0 := 0, reserved1 := 0, taken01 := 0, ledgerUse := [], queue := [], ready := [], turns := [] }

/-- From one state to another at most admissions have come: nodes, cells, the air interface and the stamp are as they were, so is the rest of every
stack, and no class 0 reservation has grown. -/
structure Admits (s n : State) : Prop where
  nodes : n.nodes = s.nodes
  cells : n.cells = s.cells
  air : n.air = s.air
  stamp : n.stamp = s.stamp
  rest : ∀ k, (n.stk k).idle = (s.stk k).idle
  reserved0 : ∀ k, (n.stk k).reserved0 ≤ (s.stk k).reserved0

theorem Admits.refl (s : State) : Admits s s := ⟨rfl, rfl, rfl, rfl, fun _ => rfl, fun _ => Nat.le_refl _⟩

theorem Admits.trans {a b c : State} (h : Admits a b) (h' : Admits b c) : Admits a c :=
  ⟨h'.nodes.trans h.nodes, h'.cells.trans h.cells, h'.air.trans h.air, h'.stamp.trans h.stamp, fun k => (h'.rest k).trans (h.rest k),
    fun k => (h'.reserved0 k).trans (h.reserved0 k)⟩

/-- A change of nothing that it speaks of. -/
theorem Admits.of_eq {s n : State} (hn : n.nodes = s.nodes) (hc : n.cells = s.cells) (ha : n.air = s.air) (ht : n.stamp = s.stamp)
    (hs : n.stackList = s.stackList) : Admits s n :=
  have e : ∀ k, n.stk k = s.stk k := fun k => by rw [State.stk, State.stk, hs]
  ⟨hn, hc, ha, ht, fun k => by rw [e k], fun k => by rw [e k]⟩

theorem Admits.modStk (s : State) (k : Nat) {f : StackSt → StackSt} (hi : ∀ x, (f x).idle = x.idle) (hr : ∀ x, (f x).reserved0 ≤ x.reserved0) :
    Admits s (s.modStk k f) :=
  ⟨rfl, rfl, rfl, rfl, fun j => by rcases s.modStk_stk_cases k j f with h | h <;> rw [h]; exact hi _,
    fun j => by rcases s.modStk_stk_cases k j f with h | h <;> rw [h]; exact hr _⟩

theorem Admits.foldl {α : Type} {f : State → α → State} (h : ∀ s x, Admits s (f s x)) (xs : List α) (s : State) : Admits s (xs.foldl f s) := by
  induction xs generalizing s with
  | nil => exact .refl s
  | cons x xs ih => exact (h s x).trans (ih _)

theorem State.moveCharge_admits (s : State) (c : ChargeSt) (dst : Nat × Nat) : Admits s (s.moveCharge c dst) := by
  unfold State.moveCharge
  split
  · exact .refl s
  · exact .of_eq rfl rfl rfl rfl rfl

theorem State.rehome_admits (s : State) : Admits s s.rehome := by
  refine .foldl (fun s c => ?_) _ _
  split
  · exact s.moveCharge_admits c _
  · exact .refl s

theorem State.placePark_admits (paid : Bool) (s : State) (x : StreamSt) : Admits s (s.placePark paid x) := by
  unfold State.placePark
  split
  · exact .refl s
  · exact .of_eq rfl rfl rfl rfl rfl

theorem State.placeParks_admits (s : State) (k slot : Nat) : Admits s (s.placeParks k slot) := by
  unfold State.placeParks
  split
  · exact .foldl (State.placePark_admits _) _ _
  · exact .refl s

theorem State.noteReady_admits (s : State) (t : Tick) : Admits s (s.noteReady t) := by
  refine .foldl (fun s i => ?_) _ _
  exact .modStk s i (fun _ => rfl) fun _ => Nat.le_refl _

theorem State.joinSlice_admits (s : State) (stack slot id : Nat) : Admits s (s.joinSlice stack slot id) :=
  .modStk s stack (fun x => by split <;> rfl) fun x => by split <;> exact Nat.le_refl _

theorem State.modCharge_admits (s : State) (id : Nat) (f : ChargeSt → ChargeSt) : Admits s (s.modCharge id f) := .of_eq rfl rfl rfl rfl rfl
theorem State.modCtr_admits (s : State) (p : Nat) (f : ServiceCtr → ServiceCtr) : Admits s (s.modCtr p f) := .of_eq rfl rfl rfl rfl rfl

theorem State.admitCharge_admits (s : State) (id : Nat) (res : Option Nat) (at0 : Tick) : Admits s (s.admitCharge id res at0) := by
  have ends : ∀ (x : State) (c : ChargeSt), Admits x (if c.descs.isEmpty then (x.record c 0 0 true stDone 0 0 0).noteEnd id else x) := by
    intro x c
    split
    · exact .of_eq rfl rfl rfl rfl rfl
    · exact .refl x
  unfold State.admitCharge
  split
  · exact .refl s
  · refine .trans ?_ (ends _ _)
    refine .trans ?_ (State.modCtr_admits _ _ _)
    refine .trans ?_ (State.joinSlice_admits _ _ _ _)
    refine (State.modCharge_admits s id _).trans (.modStk _ _ (fun _ => rfl) fun x => ?_)
    dsimp only
    split <;> omega

theorem admitRun_admits (k slot : Nat) (atPass : Bool) (at0 : Tick) (n : Nat) (s : State) : Admits s (admitRun k slot atPass at0 n s) := by
  induction n generalizing s with
  | zero => exact .refl s
  | succ n ih =>
    have h : Admits s (s.rehome.placeParks k slot) := s.rehome_admits.trans (State.placeParks_admits _ _ _)
    unfold admitRun
    dsimp only
    split
    · exact h
    · split
      · exact (h.trans (State.admitCharge_admits _ _ _ _)).trans (ih _)
      · exact h

theorem State.reconsider_admits (s : State) (k : Nat) (at0 : Tick) : Admits s (s.reconsider k at0) := by
  unfold State.reconsider
  split
  · exact .refl s
  · exact (Admits.foldl (fun s p => admitRun_admits k p false at0 _ s) _ _).trans (State.noteReady_admits _ _)


/-! ## All stacks changed one after the other -/

/-- Changing stacks one after the other changes the list of stacks alone. -/
theorem foldl_modStk (f : Nat → StackSt → StackSt) (xs : List Nat) (s : State) :
    xs.foldl (fun s k => s.modStk k (f k)) s = { s with stackList := xs.foldl (fun l k => l.modify k (f k)) s.stackList } := by
  induction xs generalizing s with
  | nil => rfl
  | cons x xs ih => rw [List.foldl_cons, ih]; rfl

theorem foldl_modify_range (f : Nat → StackSt → StackSt) (n j : Nat) (l : List StackSt) :
    ((List.range n).foldl (fun l k => l.modify k (f k)) l)[j]? = (l[j]?).map fun x => if j < n then f j x else x := by
  induction n with
  | zero => simp
  | succ n ih =>
    rw [List.range_succ, List.foldl_append, List.foldl_cons, List.foldl_nil, List.getElem?_modify, ih]
    rcases Nat.lt_trichotomy j n with h | rfl | h
    · simp [h, Nat.lt_succ_of_lt h, Nat.ne_of_gt h]
    · simp
    · simp [Nat.not_lt_of_gt h, Nat.ne_of_lt h, Nat.not_lt.2 h]

/-- Each of the four stacks is changed by its own change. -/
theorem State.foldl_modStk_stk {s : State} (f : Nat → StackSt → StackSt) (h : s.stackList.length = 4) {k : Nat} (hk : k < 4) :
    ((List.range 4).foldl (fun s k => s.modStk k (f k)) s).stk k = f k (s.stk k) := by
  have hl : k < s.stackList.length := h ▸ hk
  simp only [State.stk, foldl_modStk, List.getD_eq_getElem?_getD, foldl_modify_range, List.getElem?_eq_getElem hl, Option.map_some, if_pos hk,
    Option.getD_some]

/-! ## Reports that are lost (02 R41) -/

/-- A stack whose admission pass is still to come is not reconsidered. -/
theorem State.reconsider_before {s : State} {k : Nat} (at0 : Tick) (h : (s.stk k).passDone = false) : s.reconsider k at0 = s := by
  unfold State.reconsider
  rw [h]
  rfl

/-- Nor is any stack, where the pass of each is still to come. -/
theorem State.reconsiders_before {s : State} (xs : List Nat) (h : ∀ k ∈ xs, (s.stk k).passDone = false) :
    xs.foldl (fun s k => s.reconsider k s.now) s = s := by
  induction xs with
  | nil => rfl
  | cons x xs ih =>
    rw [List.foldl_cons, State.reconsider_before _ (h x (List.mem_cons_self ..))]
    exact ih fun k hk => h k (List.mem_cons_of_mem _ hk)

/-- All four stacks, reconsidered after one another. -/
theorem State.reconsiders_admits (s : State) : Admits s ((List.range 4).foldl (fun s k => s.reconsider k s.now) s) :=
  .foldl (fun s k => s.reconsider_admits k s.now) _ _

/-- A twin that runs changes its cell's twin, and marks that it has run. -/
theorem State.runTwin_keeps (s : State) (c : CellSt) (v : Option Nat) :
    (s.runTwin c v).1.ran = true ∧ (s.runTwin c v).1.shelf = c.shelf ∧ (s.runTwin c v).1.learned = c.learned
      ∧ (s.runTwin c v).1.isStale = c.isStale := by
  unfold State.runTwin
  dsimp only
  split <;> exact ⟨rfl, rfl, rfl, rfl⟩

/-- After the late twins every cell's twin has run, and its node, its learned values and its mark are as they were. -/
theorem State.runLateTwins_cells (s : State) {i : Nat} (h : i < s.cells.length) : ∃ c, s.runLateTwins.cells[i]? = some c ∧ c.ran = true
    ∧ c.shelf = s.cells[i].shelf ∧ c.learned = s.cells[i].learned ∧ c.isStale = s.cells[i].isStale := by
  refine ⟨if s.cells[i].ran then s.cells[i] else (s.runTwin s.cells[i] none).1, by simp [State.runLateTwins, h], ?_⟩
  split
  · next hr => exact ⟨hr, rfl, rfl, rfl⟩
  · exact s.runTwin_keeps _ none

/-- A shelfmark has a node that was due, has not reported, and whose retry no standby holds. -/
def State.isLost (s : State) (h : Nat) : Bool := s.nodes.any fun y => y.due && !y.reported && !s.heldRetry y.shelf && y.shelf == h

/-- The list of shelfmarks by which the loss instant marks is the test of them. -/
theorem State.lost_contains (s : State) (h : Nat) :
    ((s.nodes.filter fun y => y.due && !y.reported && !s.heldRetry y.shelf).map (·.shelf)).contains h = s.isLost h := by
  rw [Bool.eq_iff_iff]
  simp only [State.isLost, List.contains_iff_mem, List.mem_map, List.mem_filter, List.any_eq_true, Bool.and_eq_true, beq_iff_eq]
  exact ⟨fun ⟨y, ⟨hy, hd⟩, he⟩ => ⟨y, hy, hd, he⟩, fun ⟨y, hy, hd, he⟩ => ⟨y, ⟨hy, hd⟩, he⟩⟩

/-- The share of a stack's class 1 reservation that the lost nodes give back (log 41). -/
def State.lostShare (s : State) (k : Nat) : Nat :=
  min (s.stk k).reserved1 (s.stepNeed s.dueShelves k - s.stepNeed (s.dueShelves.filter fun h => !s.isLost h) k)

/-- The hub as the loss instant marks its nodes and cells and gives the reservations back, before twins and admissions. -/
def State.markLost (s : State) : State :=
  { s with
    stackList := (List.range 4).foldl (fun l k => l.modify k fun x => { x with
      reserved1 := x.reserved1 - s.lostShare k
      sum := x.sum - s.lostShare k
      taken01 := x.taken01 - s.lostShare k }) s.stackList
    air := { s.air with lossDone := true }
    nodes := s.nodes.map fun n => if s.isLost n.shelf then { n with lost := true } else n
    cells := s.cells.map fun c => if s.isLost c.shelf then { c with isStale := true } else c }

/-- The loss instant marks, runs the late twins, and reconsiders every stack. -/
theorem State.loseReports_eq (s : State) :
    s.loseReports = (List.range 4).foldl (fun s k => s.reconsider k s.now) s.markLost.runLateTwins := by
  unfold State.loseReports State.markLost State.lostShare
  simp only [s.lost_contains, foldl_modStk]

theorem State.markLost_stk {s : State} (h : s.stackList.length = 4) {k : Nat} (hk : k < 4) :
    s.markLost.runLateTwins.stk k = { s.stk k with
      reserved1 := (s.stk k).reserved1 - s.lostShare k
      sum := (s.stk k).sum - s.lostShare k
      taken01 := (s.stk k).taken01 - s.lostShare k } := by
  have e := State.foldl_modStk_stk (s := s) (fun k x => { x with
      reserved1 := x.reserved1 - s.lostShare k
      sum := x.sum - s.lostShare k
      taken01 := x.taken01 - s.lostShare k }) h hk
  rw [foldl_modStk] at e
  exact e

/-- Lost reports leave the roster, but for the marks of the lost nodes. -/
theorem State.loseReports_marks (s : State) :
    s.loseReports.air.lossDone = true ∧ s.loseReports.nodes = s.nodes.map (fun x => if s.isLost x.shelf then { x with lost := true } else x)
      ∧ s.loseReports.cells = s.markLost.runLateTwins.cells := by
  have ha := s.markLost.runLateTwins.reconsiders_admits
  rw [s.loseReports_eq]
  exact ⟨by rw [ha.air]; rfl, by rw [ha.nodes]; rfl, ha.cells⟩

/-- A cell after the loss instant: its twin has run, and it is stale if it was or if its node is lost. -/
theorem State.loseReports_cell (s : State) {i : Nat} (h : i < s.cells.length) : ∃ c, s.loseReports.cells[i]? = some c ∧ c.ran = true
    ∧ c.shelf = s.cells[i].shelf ∧ c.learned = s.cells[i].learned ∧ c.isStale = (s.cells[i].isStale || s.isLost c.shelf) := by
  have hm : i < s.markLost.cells.length := by simpa [State.markLost] using h
  obtain ⟨c, hc, hr, hs, hl, ht⟩ := s.markLost.runLateTwins_cells hm
  have he : s.markLost.cells[i] = if s.isLost s.cells[i].shelf then { s.cells[i] with isStale := true } else s.cells[i] := by
    simp [State.markLost]
  rw [he] at hs hl ht
  have hs' : c.shelf = s.cells[i].shelf := by rw [hs]; split <;> rfl
  refine ⟨c, by rw [s.loseReports_marks.2.2, hc], hr, hs', by rw [hl]; split <;> rfl, ?_⟩
  rw [ht, hs']
  split
  · next h => simp [h]
  · next h => simp [h]

/-- Where the passes are still to come the stacks get back what the lost nodes no longer need, and nothing else is done with them. -/
theorem State.loseReports_shares {s : State} (h4 : s.stackList.length = 4) (hp : ∀ k, k < 4 → (s.stk k).passDone = false) {k : Nat} (hk : k < 4) :
    (s.loseReports.stk k).reserved1 = (s.stk k).reserved1 - s.lostShare k ∧ (s.loseReports.stk k).sum = (s.stk k).sum - s.lostShare k := by
  have e : s.loseReports = s.markLost.runLateTwins := by
    rw [s.loseReports_eq]
    exact State.reconsiders_before _ fun j hj => by
      rw [State.markLost_stk h4 (List.mem_range.1 hj)]
      exact hp j (List.mem_range.1 hj)
  rw [e, State.markLost_stk h4 hk]
  exact ⟨rfl, rfl⟩

/-- The receiver's release gives back the class 0 reservation of every stack, and leaves nodes and cells. -/
theorem State.releaseReceiver_keeps {s : State} (h4 : s.stackList.length = 4) :
    s.releaseReceiver.air.released = true ∧ (∀ k, k < 4 → (s.releaseReceiver.stk k).reserved0 = 0) ∧ s.releaseReceiver.nodes = s.nodes
      ∧ s.releaseReceiver.cells = s.cells := by
  unfold State.releaseReceiver
  dsimp only
  have hz := fun k (hk : k < 4) => State.foldl_modStk_stk (s := s) (fun _ x => { x with
    reserved0 := 0
    sum := x.sum - x.reserved0
    taken01 := x.taken01 - x.reserved0 }) h4 hk
  rw [foldl_modStk (fun _ x => { x with
    reserved0 := 0
    sum := x.sum - x.reserved0
    taken01 := x.taken01 - x.reserved0 })] at hz ⊢
  generalize (List.range 4).foldl _ s.stackList = l at hz ⊢
  have ha := State.reconsiders_admits { s with stackList := l, air := { s.air with released := true } }
  refine ⟨by rw [ha.air], fun k hk => ?_, ha.nodes, ha.cells⟩
  have h0 : (({ s with stackList := l } : State).stk k).reserved0 = 0 := by rw [hz k hk]
  exact Nat.le_zero.1 (h0 ▸ ha.reserved0 k)

/-- LOSS_INSTANT, once in a stamp (02 R41). -/
theorem exec_lossInstant {t : Tick} {s : State} (hup : s.airUp = true) (hacc : s.air.acc = false) (hd : s.air.lossDone = false)
    (hnu : 0 < s.air.nu) (ht : s.lossAt ≤ s.at t) :
    exec (.lossInstant t) s = .next ((s.advance t).settle (s.advance t).loseReports) := by
  show execLossInstant t s = _
  refine occurs_of ?_
  simp only [Bool.and_eq_true, Bool.not_eq_true', decide_eq_true_eq]
  exact ⟨⟨⟨hup, hacc⟩, hd⟩, hnu, ht⟩

/-- RECEIVER_RELEASE, once in a stamp (02 R41). -/
theorem exec_receiverRelease {t : Tick} {s : State} (hup : s.airUp = true) (hacc : s.air.acc = false) (hr : s.air.released = false)
    (hnd : 0 < s.air.nd) (ht : s.frameEnd ≤ s.at t) :
    exec (.receiverRelease t) s = .next ((s.advance t).settle (s.advance t).releaseReceiver) := by
  show execReceiverRelease t s = _
  refine occurs_of ?_
  simp only [Bool.and_eq_true, Bool.not_eq_true', decide_eq_true_eq]
  exact ⟨⟨⟨hup, hacc⟩, hr⟩, hnd, ht⟩

/-- Settles O25, from what the loss instant marks and gives back, and what admissions leave alone. -/
theorem lossForms : Obligations.LossForms := by
  intro t s hup hacc h4
  refine ⟨fun hd hnu ht => ?_, fun hr hnd ht => ?_⟩
  · obtain ⟨hdone, hnodes, hcells⟩ := (s.advance t).loseReports_marks
    refine ⟨_, exec_lossInstant hup hacc hd hnu ht, ?_⟩
    have hset : (s.advance t).loseReports.settings = s.settings := congrArg Base.settings (s.advance t).loseReports_base
    have hcell := fun i hi => (s.advance t).loseReports_cell (i := i) hi
    have hshare := fun hp k hk => State.loseReports_shares (s := s.advance t) h4 hp (k := k) hk
    have hlen : (s.advance t).loseReports.cells.length = s.cells.length := by
      rw [hcells]
      simp [State.runLateTwins, State.markLost]
    generalize (s.advance t).loseReports = n at *
    exact ⟨hdone, hnodes, hlen, hcell, hshare, hset⟩
  · obtain ⟨hdone, hzero, hnodes, hcells⟩ := State.releaseReceiver_keeps (s := s.advance t) h4
    refine ⟨_, exec_receiverRelease hup hacc hr hnd ht, ?_⟩
    have hset : (s.advance t).releaseReceiver.settings = s.settings := congrArg Base.settings (s.advance t).releaseReceiver_base
    generalize (s.advance t).releaseReceiver = n at *
    exact ⟨hdone, hzero, hnodes, hcells, hset⟩

end Sys2Proof.Machine

namespace Sys2Proof.Machine

/-! ## Operations that keep the role: one lemma each, in the model's order, as `_base` lemmas for `Base` -/

/-- A fold of steps that keep the role keeps it. -/
theorem roleSt_foldl {α : Type} {f : State → α → State} (h : ∀ s x, (f s x).roleSt = s.roleSt) (xs : List α) (s : State) :
    (xs.foldl f s).roleSt = s.roleSt := by
  induction xs generalizing s with
  | nil => rfl
  | cons x xs ih => rw [List.foldl_cons, ih, h]
@[simp] theorem ite_roleSt (c : Prop) [Decidable c] (a b : State) : (if c then a else b).roleSt = if c then a.roleSt else b.roleSt :=
  apply_ite _ _ _ _
@[simp] theorem State.modStream_roleSt (s : State) (sid : Nat) (f : StreamSt → StreamSt) : (State.modStream s sid f).roleSt = s.roleSt := by
  rfl
@[simp] theorem State.flushMail_roleSt (s : State) : (State.flushMail s).roleSt = s.roleSt := by
  unfold State.flushMail
  dsimp only
  repeat' split
  all_goals simp
@[simp] theorem State.sendLine_roleSt (s : State) (u : Sess) (tag : Option Nat) (l : HubLine) :
    (State.sendLine s u tag l).roleSt = s.roleSt := by
  unfold State.sendLine
  split <;> simp
@[simp] theorem State.notify_roleSt (s : State) (w : String) (fs : List (String × RVal)) : (State.notify s w fs).roleSt = s.roleSt := by
  simp [State.notify]
@[simp] theorem State.raise_roleSt (s : State) (code : Nat) (patron stack : Option Nat) (a0 a1 a2 a3 : Nat) :
    (State.raise s code patron stack a0 a1 a2 a3).roleSt = s.roleSt := by
  simp [State.raise]
@[simp] theorem flushReplies_roleSt (u : Sess) (k : Nat) (s : State) : (flushReplies u k s).roleSt = s.roleSt := by
  induction k generalizing s with
  | zero => rfl
  | succ k ih =>
    simp only [flushReplies]
    split
    · rfl
    · split
      · rfl
      · rw [ih]
        split
        · rw [State.modSes_roleSt, roleSt_foldl (fun s l => State.sendLine_roleSt s u _ l), State.modSes_roleSt]
        · rw [roleSt_foldl (fun s l => State.sendLine_roleSt s u _ l), State.modSes_roleSt]
@[simp] theorem State.flushSes_roleSt (s : State) (u : Sess) : (State.flushSes s u).roleSt = s.roleSt := by simp [State.flushSes]
@[simp] theorem State.answer_roleSt (s : State) (u : Sess) (lineNo : Nat) (ls : List HubLine) :
    (State.answer s u lineNo ls).roleSt = s.roleSt := by
  simp [State.answer]
@[simp] theorem State.freeNat_roleSt (s : State) : (State.freeNat s).2.roleSt = s.roleSt := by rfl
@[simp] theorem State.parkAll_roleSt (s : State) (f : StreamSt → Bool) : (State.parkAll s f).roleSt = s.roleSt := by rfl
@[simp] theorem State.remapCells_roleSt (s : State) : (State.remapCells s).roleSt = s.roleSt := by rfl
@[simp] theorem State.modRing_roleSt (s : State) (r : Nat) (f : Ring → Ring) : (State.modRing s r f).roleSt = s.roleSt := by rfl
@[simp] theorem State.writeRing_roleSt (s : State) (a : Nat) (b : Bytes) : (State.writeRing s a b).roleSt = s.roleSt := by rfl
@[simp] theorem State.announce_roleSt (s : State) (r : Nat) (f : HeldFrame) : (State.announce s r f).roleSt = s.roleSt := by
  simp [State.announce]
@[simp] theorem State.dropFrame_roleSt (s : State) (r : Nat) : (State.dropFrame s r).roleSt = s.roleSt := by rfl
@[simp] theorem State.sendFrame_roleSt (s : State) (r ftype : Nat) (stamp : BitVec 48) (nrec : Nat) (payload : Bytes) :
    (State.sendFrame s r ftype stamp nrec payload).roleSt = s.roleSt := by
  simp [State.sendFrame]
@[simp] theorem discardEvents_roleSt (k : Nat) (s : State) : (discardEvents k s).roleSt = s.roleSt := by
  induction k generalizing s with
  | zero => rfl
  | succ k ih => simp only [discardEvents]; repeat' split
                 all_goals simp [ih]
@[simp] theorem State.writeRun_roleSt (s : State) (evs : List Event) : (s.writeRun evs).roleSt = s.roleSt := by simp [State.writeRun]
@[simp] theorem writeRuns_roleSt (w : Bool) (rs : List (List Event)) (s : State) : (writeRuns w rs s).roleSt = s.roleSt := by
  induction rs generalizing w s with
  | nil => rfl
  | cons r rs ih => simp only [writeRuns]; split <;> simp [ih]
@[simp] theorem State.writeEvents_roleSt (s : State) : (State.writeEvents s).roleSt = s.roleSt := by simp [State.writeEvents]
@[simp] theorem State.holdProtect_roleSt (s : State) (code lim key value set : Nat) :
    (s.holdProtect code lim key value set).roleSt = s.roleSt := by
  rfl
@[simp] theorem State.raiseProtect_roleSt (s : State) (lim key value set : Nat) :
    (State.raiseProtect s lim key value set).roleSt = s.roleSt := by
  simp [State.raiseProtect]
@[simp] theorem State.reqEnd_roleSt (s : State) (r : Request) (kind : Nat) : (State.reqEnd s r kind).roleSt = s.roleSt := by
  simp [State.reqEnd]
@[simp] theorem State.modBurst_roleSt (s : State) (lch pos : Nat) (f : BurstSt → BurstSt) :
    (State.modBurst s lch pos f).roleSt = s.roleSt := by
  rfl
@[simp] theorem State.logAct_roleSt (s : State) (e : LogEntry) : (State.logAct s e).roleSt = s.roleSt := by rfl
@[simp] theorem State.freeCopy_roleSt (s : State) (slot sid : Nat) : (s.freeCopy slot sid).roleSt = s.roleSt := by simp [State.freeCopy]
@[simp] theorem State.endRequest_roleSt (s : State) (r : Request) (st : ReqState) (kind : Nat) :
    (State.endRequest s r st kind).roleSt = s.roleSt := by
  unfold State.endRequest
  dsimp only
  rw [State.reqEnd_roleSt, roleSt_foldl (fun s sid => by split <;> simp)]
  rfl
@[simp] theorem State.record_roleSt (s : State) (c : ChargeSt) (op index : Nat) (fin : Bool) (status cycles drift detail : Nat) :
    (State.record s c op index fin status cycles drift detail).roleSt = s.roleSt := by
  rfl
@[simp] theorem State.moveCharge_roleSt (s : State) (c : ChargeSt) (dst : Nat × Nat) : (State.moveCharge s c dst).roleSt = s.roleSt := by
  unfold State.moveCharge
  split <;> simp
@[simp] theorem State.rehome_roleSt (s : State) : (State.rehome s).roleSt = s.roleSt := by
  unfold State.rehome
  refine roleSt_foldl (fun s x => ?_) _ _
  repeat' split
  all_goals simp
@[simp] theorem State.joinSlice_roleSt (s : State) (stack slot id : Nat) : (State.joinSlice s stack slot id).roleSt = s.roleSt := by rfl
@[simp] theorem State.noteEnd_roleSt (s : State) (id : Nat) : (s.noteEnd id).roleSt = s.roleSt := by rfl
@[simp] theorem State.noteReady_roleSt (s : State) (t : Tick) : (s.noteReady t).roleSt = s.roleSt := by rfl
@[simp] theorem State.admitCharge_roleSt (s : State) (id : Nat) (res : Option Nat) (at0 : Tick) :
    (State.admitCharge s id res at0).roleSt = s.roleSt := by
  unfold State.admitCharge
  split <;> simp
@[simp] theorem State.placePark_roleSt (paid : Bool) (s : State) (x : StreamSt) : (State.placePark paid s x).roleSt = s.roleSt := by
  simp [State.placePark]
@[simp] theorem State.placeParks_roleSt (s : State) (k slot : Nat) : (State.placeParks s k slot).roleSt = s.roleSt := by
  unfold State.placeParks
  split <;> simp [roleSt_foldl]
@[simp] theorem admitRun_roleSt (k slot : Nat) (atPass : Bool) (at0 : Tick) (n : Nat) (s : State) :
    (admitRun k slot atPass at0 n s).roleSt = s.roleSt := by
  induction n generalizing s with
  | zero => rfl
  | succ n ih =>
    unfold admitRun
    dsimp only
    repeat' split
    all_goals simp only [ih, State.admitCharge_roleSt, State.placeParks_roleSt, State.rehome_roleSt]
@[simp] theorem State.reconsider_roleSt (s : State) (k : Nat) (at0 : Tick) : (State.reconsider s k at0).roleSt = s.roleSt := by
  simp [State.reconsider, roleSt_foldl]
@[simp] theorem State.reconsiderAll_roleSt (s : State) (due : Tick) : (s.reconsiderAll due).roleSt = s.roleSt := by
  simp [State.reconsiderAll, roleSt_foldl]
@[simp] theorem State.releaseOverlap_roleSt (s : State) (stack slot : Nat) : (State.releaseOverlap s stack slot).roleSt = s.roleSt := by rfl
@[simp] theorem State.requeueFirst_roleSt (s : State) (c : ChargeSt) (eligible : BitVec 48) :
    (State.requeueFirst s c eligible).roleSt = s.roleSt := by
  rfl
@[simp] theorem State.writeHome_roleSt (s : State) (sid : Nat) : (State.writeHome s sid).roleSt = s.roleSt := by simp [State.writeHome]
@[simp] theorem State.resetWork_roleSt (s : State) (c : ChargeSt) : (State.resetWork s c).roleSt = s.roleSt := by
  simp [State.resetWork, roleSt_foldl]
@[simp] theorem State.abandon_roleSt (s : State) (at0 : Tick) (id : Nat) (index op status cycles detail : Nat) (again : Option (BitVec 48)) :
    (State.abandon s at0 id index op status cycles detail again).roleSt = s.roleSt := by
  unfold State.abandon
  dsimp only
  split
  · rfl
  · next c _ =>
    rw [State.reconsiderAll_roleSt, State.releaseOverlap_roleSt, State.noteReady_roleSt]
    refine Eq.trans ?_ ((State.resetWork_roleSt ?reset c).trans ?_)
    · split
      · exact State.requeueFirst_roleSt _ _ _
      · rfl
    · rw [roleSt_foldl (fun s q => by simp), roleSt_foldl (fun s r => by simp), State.record_roleSt]
@[simp] theorem State.rebase_roleSt (s : State) (stack : Nat) (r : RunSt) (served : Nat) (t : Tick) :
    (State.rebase s stack r served t).roleSt = s.roleSt := by
  rfl
@[simp] theorem State.joinPort_roleSt (s : State) (stack : Nat) (t : Tick) : (State.joinPort s stack t).roleSt = s.roleSt := by
  unfold State.joinPort
  split <;> simp
@[simp] theorem State.leavePort_roleSt (s : State) (stack : Nat) (t : Tick) : (State.leavePort s stack t).roleSt = s.roleSt := by
  unfold State.leavePort
  repeat' split
  all_goals simp
@[simp] theorem State.compareQuant_roleSt (s : State) (sid q learned twin : Nat) :
    (State.compareQuant s sid q learned twin).roleSt = s.roleSt := by
  unfold State.compareQuant
  split <;> simp
@[simp] theorem State.compareCell_roleSt (s : State) (sid : Nat) (l : Learned) : (State.compareCell s sid l).roleSt = s.roleSt := by
  unfold State.compareCell
  split <;> simp
@[simp] theorem State.advise_roleSt (s : State) (sid : Nat) (l : Learned) : (State.advise s sid l).roleSt = s.roleSt := by
  simp [State.advise, roleSt_foldl]
@[simp] theorem State.remember_roleSt (s : State) (sid : Nat) (row : List Int) (forecast : Int) :
    (State.remember s sid row forecast).roleSt = s.roleSt := by
  rfl
@[simp] theorem State.act_roleSt (s : State) (r : SealRec) (xs : Bits) : (State.act s r xs).roleSt = s.roleSt := by simp [State.act]
@[simp] theorem State.actOn_roleSt (s : State) (live : Bool) (r : SealRec) (xs : Bits) : (State.actOn s live r xs).roleSt = s.roleSt := by
  simp [State.actOn]
@[simp] theorem State.shiftActs_roleSt (s : State) (live : Bool) (sid : Nat) (old new : List Nat) :
    (State.shiftActs s live sid old new).roleSt = s.roleSt := by
  simp [State.shiftActs, roleSt_foldl]
@[simp] theorem State.logCommitted_roleSt (s : State) (sid : Nat) (sample : BitVec 48) (shifts : List Nat) :
    (State.logCommitted s sid sample shifts).roleSt = s.roleSt := by
  rfl
@[simp] theorem State.dropRecord_roleSt (s : State) (p : SealRec → Bool) : (State.dropRecord s p).roleSt = s.roleSt := by rfl
@[simp] theorem State.takeClips_roleSt (s : State) (slot : Nat) (clips : List ClipCount) :
    (State.takeClips s slot clips).roleSt = s.roleSt := by
  rfl
@[simp] theorem State.commitLive_roleSt (s : State) (sid : Nat) (u : Unsealed) : (State.commitLive s sid u).roleSt = s.roleSt := by
  simp [State.commitLive]
@[simp] theorem State.driftCheck_roleSt (s : State) (slot sid drift : Nat) (shadow : List Int) :
    (State.driftCheck s slot sid drift shadow).roleSt = s.roleSt := by
  simp [State.driftCheck]
@[simp] theorem State.mainsCommit_roleSt (s : State) (features : List Int) : (State.mainsCommit s features).roleSt = s.roleSt := by
  simp [State.mainsCommit]
@[simp] theorem State.rollChunk_roleSt (s : State) (r : Request) (sid index : Nat) (heads : List (List Int)) :
    (State.rollChunk s r sid index heads).roleSt = s.roleSt := by
  rfl
@[simp] theorem State.rollFrames_roleSt (s : State) (r : Request) (c : RollCell) (colophon : Bytes) :
    (State.rollFrames s r c colophon).roleSt = s.roleSt := by
  simp [State.rollFrames, roleSt_foldl]
@[simp] theorem State.rollCellEnd_roleSt (s : State) (num sid : Nat) (colophon : Bytes) :
    (State.rollCellEnd s num sid colophon).roleSt = s.roleSt := by
  unfold State.rollCellEnd
  dsimp only
  repeat' split
  all_goals simp
@[simp] theorem State.jobChunkEnd_roleSt (s : State) (c : ChargeSt) (num sid : Nat) (last : Bool) :
    (State.jobChunkEnd s c num sid last).roleSt = s.roleSt := by
  unfold State.jobChunkEnd
  split <;> simp
@[simp] theorem State.queueMsg_roleSt (s : State) (m : Msg) : (State.queueMsg s m).roleSt = s.roleSt := by rfl
@[simp] theorem State.queueBroadcast_roleSt (s : State) (m : Msg) : (State.queueBroadcast s m).roleSt = s.roleSt := by rfl
@[simp] theorem State.putLim_roleSt (s : State) (x : LimSt) : (State.putLim s x).roleSt = s.roleSt := by rfl
@[simp] theorem State.clearLim_roleSt (s : State) (x : LimSt) (a1 : Nat) : (State.clearLim s x a1).roleSt = s.roleSt := by
  simp [State.clearLim]
@[simp] theorem State.testLimit_roleSt (s : State) (l : Lim) (key a1 set : Nat) (value : Int) (trip clears : Bool) (debounce clearN : Nat) :
    (State.testLimit s l key a1 set value trip clears debounce clearN).roleSt = s.roleSt := by
  simp [State.testLimit]
@[simp] theorem State.testSilent_roleSt (s : State) (n : NodeSt) : (State.testSilent s n).roleSt = s.roleSt := by simp [State.testSilent]
@[simp] theorem State.runLateTwins_roleSt (s : State) : (State.runLateTwins s).roleSt = s.roleSt := by rfl
@[simp] theorem State.numberBatches_roleSt (s : State) : (State.numberBatches s).roleSt = s.roleSt := by
  unfold State.numberBatches
  refine roleSt_foldl (fun s x => ?_) _ _
  repeat' split
  all_goals simp
@[simp] theorem State.endRota_roleSt (s : State) : (State.endRota s).roleSt = s.roleSt := by rfl
@[simp] theorem State.applyMode_roleSt (s : State) : (State.applyMode s).roleSt = s.roleSt := by rfl
@[simp] theorem State.planFrame_roleSt (s : State) : (State.planFrame s).roleSt = s.roleSt := by simp [State.planFrame]
@[simp] theorem State.transmit_roleSt (s : State) (lch : Nat) (at0 : Tick) (low : Nat) (payload : Bytes) (symbols : Nat) (clear : Tick) :
    (State.transmit s lch at0 low payload symbols clear).roleSt = s.roleSt := by
  unfold State.transmit
  split <;> simp
@[simp] theorem State.endBroadcast_roleSt (s : State) : (State.endBroadcast s).roleSt = s.roleSt := by
  unfold State.endBroadcast
  split <;> simp
@[simp] theorem State.syncConfigs_roleSt (s : State) (broadcast : Bool) : (State.syncConfigs s broadcast).roleSt = s.roleSt := by
  simp [State.syncConfigs, roleSt_foldl]
@[simp] theorem freeBytes_roleSt (n : Nat) (s : State) : (freeBytes n s).2.roleSt = s.roleSt := by
  induction n generalizing s with
  | zero => rfl
  | succ n ih => simp [freeBytes, ih]
@[simp] theorem State.runScriptOf_roleSt (s : State) (scripts : List (Nat × Option Nat × Bytes)) (x : Nat) (centre : Option Nat) :
    (s.runScriptOf scripts x centre).roleSt = s.roleSt := by
  unfold State.runScriptOf
  split <;> simp
@[simp] theorem State.runScript_roleSt (s : State) (x : Nat) (centre : Option Nat) : (State.runScript s x centre).roleSt = s.roleSt := by
  simp [State.runScript]
@[simp] theorem State.dropNodes_roleSt (s : State) : (State.dropNodes s).roleSt = s.roleSt := by simp [State.dropNodes, roleSt_foldl]
@[simp] theorem State.accBoundary_roleSt (s : State) : (State.accBoundary s).roleSt = s.roleSt := by
  unfold State.accBoundary
  dsimp only
  split <;> simp
@[simp] theorem State.countRelease_roleSt (s : State) : (State.countRelease s).roleSt = s.roleSt := by
  unfold State.countRelease
  split <;> simp
@[simp] theorem State.queueRelease_roleSt (s : State) : (State.queueRelease s).roleSt = s.roleSt := by
  unfold State.queueRelease
  split <;> simp
@[simp] theorem State.countSilence_roleSt (s : State) : (State.countSilence s).roleSt = s.roleSt := by rfl
@[simp] theorem State.countRxdiv_roleSt (s : State) : (State.countRxdiv s).roleSt = s.roleSt := by simp [State.countRxdiv, roleSt_foldl]
@[simp] theorem State.countSilentNodes_roleSt (s : State) : (s.countSilentNodes).roleSt = s.roleSt := by
  unfold State.countSilentNodes
  split
  · rfl
  · refine roleSt_foldl (fun s n => ?_) _ _
    dsimp only
    split <;> simp
@[simp] theorem State.airBoundary_roleSt (s : State) : (State.airBoundary s).roleSt = s.roleSt := by simp [State.airBoundary]
@[simp] theorem State.queueCharge_roleSt (s : State) (c : ChargeSt) (first : Bool) : (State.queueCharge s c first).roleSt = s.roleSt := by
  rfl
@[simp] theorem State.queueFills_roleSt (s : State) (f : FolioInfo) (slot stack : Nat) (layers : List (Nat × List Nat)) :
    (State.queueFills s f slot stack layers).roleSt = s.roleSt := by
  simp [State.queueFills, roleSt_foldl]
@[simp] theorem State.keepLoans_roleSt (s : State) : (State.keepLoans s).roleSt = s.roleSt := by simp [State.keepLoans]
@[simp] theorem State.clearTensors_roleSt (s : State) (p : Nat) : (State.clearTensors s p).roleSt = s.roleSt := by rfl
@[simp] theorem State.dropUnlent_roleSt (s : State) (slot stack : Nat) : (State.dropUnlent s slot stack).roleSt = s.roleSt := by
  simp [State.dropUnlent, roleSt_foldl]
@[simp] theorem State.beginDrain_roleSt (s : State) (slot stack : Nat) (fid : Option (BitVec 32)) :
    (State.beginDrain s slot stack fid).roleSt = s.roleSt := by
  simp [State.beginDrain]
@[simp] theorem State.mergeShares_roleSt (s : State) (stack slot : Nat) : (State.mergeShares s stack slot).roleSt = s.roleSt := by
  unfold State.mergeShares
  split <;> simp
@[simp] theorem State.lendShare_roleSt (s : State) (stack slot : Nat) (fid : Option (BitVec 32)) :
    (s.lendShare stack slot fid).roleSt = s.roleSt := by
  unfold State.lendShare
  dsimp only
  rw [roleSt_foldl (fun s c => by split <;> simp)]
  split
  · rw [roleSt_foldl (fun s k => by split <;> simp)]; simp
  · simp
@[simp] theorem State.checkReady_roleSt (s : State) (stack : Nat) : (State.checkReady s stack).roleSt = s.roleSt := by
  simp [State.checkReady, roleSt_foldl]
@[simp] theorem State.beginLend_roleSt (s : State) (c : LoanChange) : (State.beginLend s c).roleSt = s.roleSt := by
  unfold State.beginLend
  split <;> simp
@[simp] theorem beginIn_roleSt (bd : Bool) (a b : List LoanChange) (s : State) : (beginIn bd a b s).2.roleSt = s.roleSt := by
  induction b generalizing a s with
  | nil => rfl
  | cons c b ih => simp only [beginIn]; repeat' split
                   all_goals simp [ih]
@[simp] theorem State.beginChanges_roleSt (s : State) (bd : Bool) : (State.beginChanges s bd).roleSt = s.roleSt := by
  unfold State.beginChanges
  dsimp only
  rw [State.keepLoans_roleSt, beginIn_roleSt]
  exact roleSt_foldl (fun s c => by simp) _ _
@[simp] theorem State.stagger_roleSt (s old : State) : (s.stagger old).roleSt = s.roleSt :=
  roleSt_foldl (fun s _ => State.modStk_roleSt s _ _) _ _
@[simp] theorem State.lendReady_roleSt (s : State) : (State.lendReady s).roleSt = s.roleSt := by simp [State.lendReady, roleSt_foldl]
@[simp] theorem State.lapseOf_roleSt (s : State) (stack cause : Nat) (pick : LoanChange → Bool) :
    (s.lapseOf stack cause pick).roleSt = s.roleSt := by
  simp [State.lapseOf, roleSt_foldl]
@[simp] theorem State.lapse_roleSt (s : State) (stack cause : Nat) : (State.lapse s stack cause).roleSt = s.roleSt := by simp [State.lapse]
@[simp] theorem State.keepGrads_roleSt (s : State) (c : ChargeSt) : (State.keepGrads s c).roleSt = s.roleSt := by
  unfold State.keepGrads
  split <;> simp
@[simp] theorem State.draftFills_roleSt (s : State) : (s.draftFills).roleSt = s.roleSt := by
  unfold State.draftFills
  dsimp only
  split
  · rfl
  · split
    · rfl
    · split
      · rfl
      · exact roleSt_foldl (fun s w => by simp) _ _
@[simp] theorem State.decodeLost_roleSt (s : State) (c : ChargeSt) : (State.decodeLost s c).roleSt = s.roleSt := by
  unfold State.decodeLost
  split <;> simp
@[simp] theorem State.dropAdmitted_roleSt (s : State) (stack : Nat) (lost : List Nat) (pick : ChargeSt → Bool) :
    (s.dropAdmitted stack lost pick).roleSt = s.roleSt := by
  unfold State.dropAdmitted
  dsimp only
  rw [roleSt_foldl (fun s c => by simp), State.modStk_roleSt]
  refine Eq.trans (b := (List.foldl State.resetWork _ _).roleSt) rfl ?_
  rw [roleSt_foldl (fun s c => by simp), roleSt_foldl (fun s c => by simp)]
  split <;> simp
@[simp] theorem State.keepWeeding_roleSt (s : State) (stack : Nat) : (State.keepWeeding s stack).roleSt = s.roleSt := by rfl
@[simp] theorem State.weedStack_roleSt (s : State) (stack : Nat) : (State.weedStack s stack).roleSt = s.roleSt := by
  simp [State.weedStack, roleSt_foldl]
@[simp] theorem State.startInventory_roleSt (s : State) (stack : Nat) : (State.startInventory s stack).roleSt = s.roleSt := by rfl
@[simp] theorem State.abortInventory_roleSt (s : State) (stack : Nat) : (State.abortInventory s stack).roleSt = s.roleSt := by
  unfold State.abortInventory
  split <;> simp
@[simp] theorem State.rescue_roleSt (s : State) (slot : Nat) : (State.rescue s slot).1.roleSt = s.roleSt := by
  unfold State.rescue
  split <;> simp [roleSt_foldl]
@[simp] theorem State.failStack_roleSt (s : State) (stack : Nat) (tenants : List Nat) (live : List ChargeSt) (times : List Tick) :
    (State.failStack s stack tenants live times).roleSt = s.roleSt := by
  unfold State.failStack
  dsimp only
  rw [State.lapse_roleSt, roleSt_foldl (fun s c => by simp), State.modStk_roleSt, State.dropAdmitted_roleSt, roleSt_foldl (fun s c => by simp)]
@[simp] theorem State.rescueTenant_roleSt (s : State) (tenants : List Nat) (slot : Nat) :
    (s.rescueTenant tenants slot).1.roleSt = s.roleSt := by
  unfold State.rescueTenant
  split <;> simp
@[simp] theorem State.checkFaulty_roleSt (s : State) (stack faults : Nat) : (State.checkFaulty s stack faults).roleSt = s.roleSt := by
  simp [State.checkFaulty]
@[simp] theorem State.stackFault_roleSt (s : State) (stack cause : Nat) : (s.stackFault stack cause).roleSt = s.roleSt := by
  simp [State.stackFault]
@[simp] theorem State.clipPatron_roleSt (s : State) (p : Nat) : (State.clipPatron s p).roleSt = s.roleSt := by
  simp [State.clipPatron, roleSt_foldl]
@[simp] theorem State.clipFrames_roleSt (s : State) : (s.clipFrames).roleSt = s.roleSt := by simp [State.clipFrames, roleSt_foldl]
@[simp] theorem State.driftFrame_roleSt (s : State) (p : Nat) : (State.driftFrame s p).roleSt = s.roleSt := by simp [State.driftFrame]
@[simp] theorem State.driftFrames_roleSt (s : State) : (s.driftFrames).roleSt = s.roleSt := by simp [State.driftFrames, roleSt_foldl]
@[simp] theorem State.lapseRebuild_roleSt (s : State) (p : Nat) : (State.lapseRebuild s p).roleSt = s.roleSt := by simp [State.lapseRebuild]
@[simp] theorem State.moveMonitor_roleSt (s : State) (p : Nat) : (State.moveMonitor s p).roleSt = s.roleSt := by simp [State.moveMonitor]
@[simp] theorem State.takeMonitor_roleSt (s : State) (p : Nat) : (State.takeMonitor s p).roleSt = s.roleSt := by simp [State.takeMonitor]
@[simp] theorem State.monitors_roleSt (s : State) : (State.monitors s).roleSt = s.roleSt := by simp [State.monitors, roleSt_foldl]
@[simp] theorem State.serviceFrames_roleSt (s : State) (links : List Bytes) : (s.serviceFrames links).roleSt = s.roleSt := by
  unfold State.serviceFrames
  dsimp only
  split
  · rfl
  · rw [State.sendFrame_roleSt, roleSt_foldl (fun s r => by simp), State.sendFrame_roleSt]
@[simp] theorem State.countStamps_roleSt (s : State) : (State.countStamps s).roleSt = s.roleSt := by rfl
@[simp] theorem State.wakeChain_roleSt (s : State) : (State.wakeChain s).roleSt = s.roleSt := by simp [State.wakeChain]
@[simp] theorem State.sendPart_roleSt (s : State) (m : SpineMsg) (part : Nat) : (s.sendPart m part).roleSt = s.roleSt := by rfl
@[simp] theorem State.sendSeq_roleSt (s : State) (m : SpineMsg) : (State.sendSeq s m).roleSt = s.roleSt := by
  simp [State.sendSeq, roleSt_foldl]
@[simp] theorem State.forward_roleSt (s : State) (item : ConfigItem) (live : BitVec 48) :
    (State.forward s item live).roleSt = s.roleSt := by
  unfold State.forward
  dsimp only
  repeat' split
  all_goals simp
@[simp] theorem State.scheduleInventory_roleSt (s : State) : (State.scheduleInventory s).roleSt = s.roleSt := by rfl
@[simp] theorem State.dropRebuild_roleSt (s : State) (sid : Nat) : (State.dropRebuild s sid).roleSt = s.roleSt := by rfl
@[simp] theorem State.parkNow_roleSt (s : State) (sid : Nat) : (State.parkNow s sid).roleSt = s.roleSt := by rfl
@[simp] theorem State.freeStream_roleSt (s : State) (sid : Nat) : (State.freeStream s sid).roleSt = s.roleSt := by simp [State.freeStream]
@[simp] theorem State.cardDone_roleSt (s : State) (w : StreamWait) (copy : Bool) (gen step : Nat) :
    (State.cardDone s w copy gen step).roleSt = s.roleSt := by
  simp [State.cardDone]
@[simp] theorem State.renewCell_roleSt (s : State) (sid : Nat) (i : Image) : (s.renewCell sid i).roleSt = s.roleSt := by
  simp [State.renewCell]
@[simp] theorem State.importStream_roleSt (s : State) (sid slot : Nat) (live : Bool) (img : Image) :
    (State.importStream s sid slot live img).roleSt = s.roleSt := by
  simp [State.importStream]
@[simp] theorem State.createStream_roleSt (s : State) (f : FolioInfo) (sid slot : Nat) (portable live : Bool) (seed : BitVec 64) :
    (State.createStream s f sid slot portable live seed).roleSt = s.roleSt := by
  simp [State.createStream]
@[simp] theorem State.serveWait_roleSt (s : State) (w : StreamWait) : (State.serveWait s w).roleSt = s.roleSt := by
  unfold State.serveWait
  dsimp only
  repeat' split
  all_goals simp
@[simp] theorem serveFrom_roleSt (n : Nat) (a b : List StreamWait) (s : State) : (serveFrom n a b s).roleSt = s.roleSt := by
  induction n generalizing a b s with
  | zero => rfl
  | succ n ih => cases b <;> (simp only [serveFrom]; repeat' split) <;> simp [ih]
theorem State.heldCard_roleSt {s z : State} {f f' : HeldFrame} {w w' : StreamWait} (h : s.heldCard f w = some (z, f', w')) : z.roleSt = s.roleSt := by
  unfold State.heldCard at h
  split at h
  · split at h
    · cases h
    · simp only [Option.some.injEq, Prod.mk.injEq] at h
      rw [← h.1, State.parkNow_roleSt]
  · simp only [Option.some.injEq, Prod.mk.injEq] at h
    rw [← h.1]
@[simp] theorem sendHeldCards_roleSt (n : Nat) (s : State) : (sendHeldCards n s).roleSt = s.roleSt := by
  induction n generalizing s with
  | zero => rfl
  | succ n ih =>
    simp only [sendHeldCards]
    split
    · rfl
    · split
      · rfl
      · split
        · rfl
        · rename_i h
          have hz := State.heldCard_roleSt h
          split
          · rfl
          · rw [ih]
            split <;> simp [hz]
@[simp] theorem State.serveWaits_roleSt (s : State) : (State.serveWaits s).roleSt = s.roleSt := by simp [State.serveWaits]
@[simp] theorem State.tallyStk_roleSt (s : State) (stack : Nat) (t : Tick) : (State.tallyStk s stack t).roleSt = s.roleSt := by rfl
@[simp] theorem State.writeRows_roleSt (s : State) (c : ChargeSt) (f : FolioInfo) : (s.writeRows c f).roleSt = s.roleSt := by
  unfold State.writeRows
  split
  · refine roleSt_foldl (fun s x => ?_) _ _
    dsimp only
    split <;> rfl
  · rfl
@[simp] theorem State.putInputs_roleSt (s : State) (c : ChargeSt) (xs : List (Nat × Bytes)) : (s.putInputs c xs).roleSt = s.roleSt := by rfl
@[simp] theorem State.keepInputs_roleSt (s : State) (c : ChargeSt) (f : FolioInfo) (xs : List (Nat × Bytes)) :
    (s.keepInputs c f xs).roleSt = s.roleSt := by
  rfl
@[simp] theorem State.feed_roleSt (s : State) (c : ChargeSt) : (s.feed c).roleSt = s.roleSt := by
  unfold State.feed
  dsimp only
  split <;> simp
@[simp] theorem State.openRebuild_roleSt (s : State) (c : ChargeSt) (sid : Nat) : (State.openRebuild s c sid).roleSt = s.roleSt := by
  unfold State.openRebuild
  split <;> simp
@[simp] theorem State.startRebuild_roleSt (s : State) (c : ChargeSt) : (State.startRebuild s c).roleSt = s.roleSt := by
  unfold State.startRebuild
  split <;> simp
@[simp] theorem State.openRedo_roleSt (s : State) (c : ChargeSt) (row : Nat) : (s.openRedo c row).roleSt = s.roleSt := by
  unfold State.openRedo
  split <;> simp
@[simp] theorem State.startCharge_roleSt (s : State) (c : ChargeSt) : (State.startCharge s c).roleSt = s.roleSt := by
  simp [State.startCharge, roleSt_foldl]
@[simp] theorem State.leaveQueue_roleSt (s : State) (at0 : Tick) (stack : Nat) (o : Op) (i : Nat) (c : ChargeSt) :
    (s.leaveQueue at0 stack o i c).roleSt = s.roleSt := by
  simp [State.leaveQueue]
@[simp] theorem State.countSkew_roleSt (s : State) (stack slot layer : Nat) : (State.countSkew s stack slot layer).1.roleSt = s.roleSt := by
  rfl
@[simp] theorem State.loseCopies_roleSt (s : State) (lost : List Nat) : (s.loseCopies lost).roleSt = s.roleSt := by rfl
@[simp] theorem State.failDesc_roleSt (s : State) (at0 : Tick) (c : ChargeSt) (q : QDesc) (status detail cycles : Nat) :
    (State.failDesc s at0 c q status detail cycles).roleSt = s.roleSt := by
  unfold State.failDesc
  dsimp only
  repeat' split
  all_goals simp
@[simp] theorem State.keepHeads_roleSt (s : State) (c : ChargeSt) (d : BitVec 512) : (State.keepHeads s c d).roleSt = s.roleSt := by
  unfold State.keepHeads
  split <;> simp
@[simp] theorem State.commitStepRow_roleSt (s : State) (c : ChargeSt) (f : FolioInfo) (p : Nat × StreamSt) (l : Nat) :
    (State.commitStepRow s c f p l).roleSt = s.roleSt := by
  unfold State.commitStepRow
  dsimp only
  repeat' split
  all_goals simp
@[simp] theorem State.commitState_roleSt (s : State) (sid : Nat) (state : List (List Int)) :
    (State.commitState s sid state).roleSt = s.roleSt := by
  simp [State.commitState]
@[simp] theorem State.commitRebuild_roleSt (s : State) (sid : Nat) (needs : List (Nat × Nat)) (last : Bool) :
    (State.commitRebuild s sid needs last).roleSt = s.roleSt := by
  simp [State.commitRebuild]
@[simp] theorem State.rolloutEnd_roleSt (s : State) (id : Nat) : (State.rolloutEnd s id).roleSt = s.roleSt := by
  unfold State.rolloutEnd
  dsimp only
  repeat' split
  all_goals simp
@[simp] theorem State.restoreRow_roleSt (s : State) (c : ChargeSt) (row : Nat) (x : StreamSt) (l : Nat) :
    (s.restoreRow c row x l).roleSt = s.roleSt := by
  simp [State.restoreRow]
@[simp] theorem State.commitRow_roleSt (s : State) (c : ChargeSt) (more : Bool) (lsteps : Nat) (p : Nat × Nat) :
    (State.commitRow s c more lsteps p).roleSt = s.roleSt := by
  unfold State.commitRow
  dsimp only
  repeat' split
  all_goals simp
@[simp] theorem State.countElements_roleSt (s : State) (c : ChargeSt) (pick : ClipCount → Bool) :
    (s.countElements c pick).roleSt = s.roleSt := by
  simp [State.countElements]
@[simp] theorem endCommit_roleSt (s : State) (c : ChargeSt) (d : BitVec 512) : (endCommit s c d).roleSt = s.roleSt := by
  unfold endCommit
  split
  · rfl
  · dsimp only
    have h : ∀ (s : State) (l : List (Nat × Nat)) m k, (l.foldl (fun s p => s.commitRow c m k p) s).roleSt = s.roleSt :=
      fun s l m k => roleSt_foldl (fun s p => by simp) l s
    repeat' split
    all_goals simp [h]
@[simp] theorem endDigest_roleSt (s : State) (c : ChargeSt) (d : BitVec 512) : (endDigest s c d).roleSt = s.roleSt := by rfl
@[simp] theorem endColophon_roleSt (s : State) (c : ChargeSt) (d : BitVec 512) : (endColophon s c d).roleSt = s.roleSt := by
  simp [endColophon]
@[simp] theorem State.fillDone_roleSt (s : State) (slot stack region : Nat) : (State.fillDone s slot stack region).roleSt = s.roleSt := by
  simp [State.fillDone]
@[simp] theorem State.putUnits_roleSt (s : State) (stack : Nat) (units : List (List (Nat × Bytes))) :
    (State.putUnits s stack units).roleSt = s.roleSt := by
  simp [State.putUnits]
@[simp] theorem State.putEnd_roleSt (s : State) (c : ChargeSt) (x : RunEnd) : (State.putEnd s c x).roleSt = s.roleSt := by
  simp [State.putEnd, roleSt_foldl]
@[simp] theorem State.lateDrift_roleSt (s : State) (c : ChargeSt) (row : Nat) : (s.lateDrift c row).roleSt = s.roleSt := by
  unfold State.lateDrift
  split <;> simp
@[simp] theorem State.endEffect_roleSt (s : State) (c : ChargeSt) (d : BitVec 512) : (State.endEffect s c d).roleSt = s.roleSt := by
  unfold State.endEffect
  dsimp only
  split
  · split <;> simp
  · simp
  · exact roleSt_foldl (fun s p => by split <;> simp) _ _
  · exact roleSt_foldl (fun s p => by simp) _ _
  all_goals simp
@[simp] theorem State.trimLog_roleSt (s : State) : (State.trimLog s).roleSt = s.roleSt := by rfl
@[simp] theorem State.endKind_roleSt (s : State) (c : ChargeSt) : (State.endKind s c).roleSt = s.roleSt := by
  unfold State.endKind
  dsimp only
  repeat' split
  all_goals simp
@[simp] theorem State.chargeEnd_roleSt (s : State) (id : Nat) (at0 : Tick) : (State.chargeEnd s id at0).roleSt = s.roleSt := by
  unfold State.chargeEnd
  split <;> simp
@[simp] theorem State.recordDesc_roleSt (s : State) (c : ChargeSt) (bits : BitVec 512) (index : Nat) (status cycles drift detail : Nat) :
    (State.recordDesc s c bits index status cycles drift detail).roleSt = s.roleSt := by
  simp [State.recordDesc]
@[simp] theorem State.streamLost_roleSt (s : State) (sid page : Nat) : (State.streamLost s sid page).roleSt = s.roleSt := by
  unfold State.streamLost
  dsimp only
  repeat' split
  all_goals simp
@[simp] theorem State.takeRun_roleSt (s : State) (c : ChargeSt) (d : BitVec 512) (o : RunOut) :
    (State.takeRun s c d o).s.roleSt = s.roleSt := by
  simp [State.takeRun]
@[simp] theorem effMatmul_roleSt (s : State) (c : ChargeSt) (d : BitVec 512) : (effMatmul s c d).s.roleSt = s.roleSt := by simp [effMatmul]
@[simp] theorem effScan_roleSt (s : State) (c : ChargeSt) (d : BitVec 512) : (effScan s c d).s.roleSt = s.roleSt := by
  unfold effScan
  dsimp only
  split <;> simp
@[simp] theorem effBind_roleSt (s : State) (c : ChargeSt) (d : BitVec 512) : (effBind s c d).s.roleSt = s.roleSt := by rfl
@[simp] theorem effStreamin_roleSt (s : State) (c : ChargeSt) (d : BitVec 512) : (effStreamin s c d).s.roleSt = s.roleSt := by
  unfold effStreamin
  dsimp only
  repeat' split
  all_goals simp
@[simp] theorem effRecall_roleSt (s : State) (c : ChargeSt) (d : BitVec 512) : (effRecall s c d).s.roleSt = s.roleSt := by
  unfold effRecall
  dsimp only
  repeat' split
  all_goals simp [roleSt_foldl]
@[simp] theorem effPark_roleSt (s : State) (c : ChargeSt) (d : BitVec 512) : (effPark s c d).s.roleSt = s.roleSt := by
  unfold effPark
  dsimp only
  split <;> simp
@[simp] theorem effCommit_roleSt (s : State) (c : ChargeSt) (d : BitVec 512) : (effCommit s c d).s.roleSt = s.roleSt := by
  unfold effCommit
  dsimp only
  split <;> simp
@[simp] theorem effXfer_roleSt (s : State) (c : ChargeSt) (d : BitVec 512) : (effXfer s c d).s.roleSt = s.roleSt := by
  unfold effXfer
  dsimp only
  split <;> simp
@[simp] theorem effShadow_roleSt (s : State) (c : ChargeSt) (d : BitVec 512) : (effShadow s c d).s.roleSt = s.roleSt := by rfl
@[simp] theorem effectOf_roleSt (o : Op) (s : State) (c : ChargeSt) (q : QDesc) : (effectOf o s c q).s.roleSt = s.roleSt := by
  unfold effectOf
  split <;> simp
@[simp] theorem Effect.begin_roleSt (e : Effect) (at0 : Tick) (stack : Nat) (c : ChargeSt) (o : Op) (pre : List QDesc) (q : QDesc) :
    (e.begin at0 stack c o pre q).roleSt = e.s.roleSt := by
  simp [Effect.begin]
@[simp] theorem State.startDesc_roleSt (s : State) (stack : Nat) (o : Op) : (State.startDesc s stack o).roleSt = s.roleSt := by
  unfold State.startDesc
  dsimp only
  repeat' split
  all_goals simp
@[simp] theorem State.oweDebt_roleSt (s : State) (stack slot : Nat) (r : RunSt) (due : Tick) :
    (State.oweDebt s stack slot r due).roleSt = s.roleSt := by
  simp [State.oweDebt]
@[simp] theorem State.leaveEngine_roleSt (s : State) (stack : Nat) (r : RunSt) (due : Tick) :
    (State.leaveEngine s stack r due).roleSt = s.roleSt := by
  simp [State.leaveEngine]
@[simp] theorem State.takeOuts_roleSt (s : State) (id : Nat) : (s.takeOuts id).roleSt = s.roleSt := by
  unfold State.takeOuts
  split <;> simp
@[simp] theorem State.completeDesc_roleSt (s : State) (stack : Nat) (e : Engine) : (State.completeDesc s stack e).roleSt = s.roleSt := by
  unfold State.completeDesc
  dsimp only
  repeat' split
  all_goals simp
@[simp] theorem State.preempt_roleSt (s : State) (stack slot : Nat) : (State.preempt s stack slot).roleSt = s.roleSt := by
  unfold State.preempt
  dsimp only
  rw [State.noteReady_roleSt, State.modStk_roleSt, roleSt_foldl (fun s p => by simp)]
@[simp] theorem State.preemptLost_roleSt (s : State) (at0 : Tick) (stack owner : Nat) :
    (s.preemptLost at0 stack owner).roleSt = s.roleSt := by
  unfold State.preemptLost
  dsimp only
  rw [roleSt_foldl (fun s c => by simp), State.dropAdmitted_roleSt]
@[simp] theorem State.saveBlock_roleSt (s : State) (at0 : Tick) (stack slot : Nat) (b : Nat × Nat) :
    (State.saveBlock s at0 stack slot b).roleSt = s.roleSt := by
  unfold State.saveBlock
  split <;> simp
@[simp] theorem State.haltAll_roleSt (s : State) (at0 : Tick) (stack : Nat) (pick : RunSt → Bool) :
    (State.haltAll s at0 stack pick).roleSt = s.roleSt := by
  simp [State.haltAll, roleSt_foldl]
@[simp] theorem State.stopPoint_roleSt (s : State) (stack : Nat) : (State.stopPoint s stack).roleSt = s.roleSt := by
  unfold State.stopPoint
  split <;> simp [roleSt_foldl]
@[simp] theorem State.loseSaved_roleSt (at0 : Tick) (stack : Nat) (s : State) (b : SavedBlock) :
    (State.loseSaved at0 stack s b).roleSt = s.roleSt := by
  simp [State.loseSaved, roleSt_foldl]
@[simp] theorem State.resumeStops_roleSt (s : State) (stack : Nat) : (State.resumeStops s stack).roleSt = s.roleSt := by
  unfold State.resumeStops
  split <;> simp [roleSt_foldl]
@[simp] theorem State.endSlice_roleSt (s : State) (stack : Nat) : (State.endSlice s stack).roleSt = s.roleSt := by
  unfold State.endSlice
  split <;> simp
@[simp] theorem State.stopCharge_roleSt (early : Bool) (at0 : Tick) (stack : Nat) (s : State) (c : ChargeSt) :
    (State.stopCharge early at0 stack s c).roleSt = s.roleSt := by
  simp [State.stopCharge]
@[simp] theorem State.endStack_roleSt (early : Bool) (at0 : Tick) (s : State) (stack : Nat) :
    (State.endStack early at0 s stack).roleSt = s.roleSt := by
  unfold State.endStack
  dsimp only
  split
  · rfl
  · split
    · rw [roleSt_foldl (fun s c => State.stopCharge_roleSt early at0 stack s c), State.dropAdmitted_roleSt]
    · rw [State.stackFault_roleSt, roleSt_foldl (fun s c => State.stopCharge_roleSt early at0 stack s c), State.dropAdmitted_roleSt]
@[simp] theorem State.keepRows_roleSt (s : State) : (State.keepRows s).roleSt = s.roleSt := by simp [State.keepRows]
@[simp] theorem State.doAct_roleSt (s : State) (a : StackAct) : (s.doAct a).roleSt = s.roleSt := by
  unfold State.doAct
  split
  · simp
  · simp
  · simp
  · simp
  · simp
  · simp
  · split <;> simp
@[simp] theorem runBy_roleSt (t : Tick) (n : Nat) (s : State) : (runBy t n s).roleSt = s.roleSt := by
  induction n generalizing s with
  | zero => rfl
  | succ n ih =>
    simp only [runBy]
    split
    · rfl
    · rw [ih, State.doAct_roleSt]
@[simp] theorem State.keepFrame_roleSt (s : State) : s.keepFrame.roleSt = s.roleSt := by simp [State.keepFrame]
@[simp] theorem State.compareBehind_roleSt (s : State) : s.compareBehind.roleSt = s.roleSt := by
  unfold State.compareBehind
  refine roleSt_foldl (fun s c => ?_) _ _
  split
  · dsimp only; split <;> simp
  · rfl
@[simp] theorem State.beginCell_roleSt (s : State) (r : Request) (c : RollCell) : (State.beginCell s r c).1.roleSt = s.roleSt := by rfl
@[simp] theorem beginCells_roleSt (r : Request) (cs : List RollCell) (s : State) : (beginCells r cs s).1.roleSt = s.roleSt := by
  induction cs generalizing s with
  | nil => rfl
  | cons c cs ih => simp [beginCells, ih]
@[simp] theorem State.beginRequests_roleSt (s : State) (n : BitVec 48) : (s.beginRequests n).roleSt = s.roleSt := by
  unfold State.beginRequests
  refine roleSt_foldl (fun s r => ?_) _ _
  dsimp only
  split <;> simp
@[simp] theorem State.settingActs_roleSt (s : State) : s.settingActs.roleSt = s.roleSt := by simp [State.settingActs, roleSt_foldl]
@[simp] theorem State.acceptLoan_roleSt (s : State) (slot : Nat) (ks : List Nat) (regions blocks claim pages : Nat) (begins : BitVec 48) (moveFrom : Option Nat) :
    (State.acceptLoan s slot ks regions blocks claim pages begins moveFrom).roleSt = s.roleSt := by
  rfl
@[simp] theorem State.forwardLoan_roleSt (s : State) (slot : Nat) (a : LoanAct) (b : BitVec 48) :
    (State.forwardLoan s slot a b).roleSt = s.roleSt := by
  simp [State.forwardLoan]
@[simp] theorem State.placeKeptLoan_roleSt (s : State) (l : KeptLoan) : (s.placeKeptLoan l).roleSt = s.roleSt := by
  unfold State.placeKeptLoan
  dsimp only
  repeat' split
  all_goals simp [roleSt_foldl]
@[simp] theorem State.placeKept_roleSt (s : State) : (State.placeKept s).roleSt = s.roleSt := by simp [State.placeKept, roleSt_foldl]
@[simp] theorem State.dueInventories_roleSt (s : State) : (State.dueInventories s).roleSt = s.roleSt := by
  simp [State.dueInventories, roleSt_foldl]
@[simp] theorem State.loansAtBoundary_roleSt (s : State) : s.loansAtBoundary.roleSt = s.roleSt := by simp [State.loansAtBoundary]
@[simp] theorem State.writeKept_roleSt (s : State) : s.writeKept.roleSt = s.roleSt := by simp [State.writeKept, roleSt_foldl]
theorem State.driveTck_roleSt (s : State) : s.driveTck.roleSt = s.roleSt := by rfl
end Sys2Proof.Machine

namespace Sys2Proof.Machine

/-! ## The role over a boundary (12 R356, R359) -/

theorem State.missFrame_roleSt (s : State) : s.missFrame.roleSt = s.roleSt := by
  unfold State.missFrame
  split <;> rfl

theorem State.closeStamp_roleSt (s : State) (early : Bool) (at0 : Tick) : (s.closeStamp early at0).roleSt = s.roleSt := by
  have late : ∀ x : State, (if x.power.quiet then x else x.runLateTwins).roleSt = x.roleSt := fun x => by
    split <;> simp
  unfold State.closeStamp
  dsimp only
  rw [roleSt_foldl (State.endStack_roleSt early at0), State.missFrame_roleSt, State.endRota_roleSt, State.countSilence_roleSt,
    State.countRxdiv_roleSt, State.countSilentNodes_roleSt, State.keepFrame_roleSt, State.keepRows_roleSt, State.compareBehind_roleSt, late,
    runBy_roleSt]

theorem State.hold_roleSt (s : State) (p : SName × Option Int) : (s.hold p).roleSt = s.roleSt := by
  unfold State.hold
  dsimp only
  split <;> rfl

theorem State.setLive_roleSt (s : State) (p : SName × Option Int) : (s.setLive p).roleSt = s.roleSt := by
  unfold State.setLive
  dsimp only
  split <;> exact s.hold_roleSt p

theorem State.scriptsLive_roleSt (s : State) : s.scriptsLive.roleSt = s.roleSt :=
  roleSt_foldl (fun s _ => s.runScript_roleSt _ _) _ _

theorem State.settingsLive_roleSt (s : State) (new : List (SName × Option Int)) : (s.settingsLive new).roleSt = s.roleSt := by
  unfold State.settingsLive
  rw [State.scriptsLive_roleSt, roleSt_foldl State.setLive_roleSt]

theorem State.goLive_roleSt (s : State) : s.goLive.roleSt = s.roleSt := by
  unfold State.goLive
  dsimp only
  generalize s.dueSettings = new
  have told : ∀ x : State, (if new.isEmpty || !x.leads then x else x.syncConfigs true).roleSt = x.roleSt := fun x => by simp
  have mode : ∀ x : State, (if new.any fun p => modeSetting p.1 then x.driveTck.applyMode else x).roleSt = x.roleSt := fun x => by
    simp [State.driveTck_roleSt]
  have inv : ∀ x : State, (if new.any fun p => p.1 == .inventorySchedule then x.scheduleInventory else x).roleSt = x.roleSt := fun x => by simp
  have drops : ∀ x : State, (if (new.any fun p => p.1 == .driftMonitor) && x.getN .driftMonitor = 0 then x.dropRebuilds else x).roleSt
      = x.roleSt := fun x => by split <;> rfl
  rw [told, mode, inv, State.settingActs_roleSt]
  exact (drops _).trans (s.settingsLive_roleSt new)

theorem State.nameRailFault_roleSt (s : State) : s.nameRailFault.roleSt = s.roleSt := by
  unfold State.nameRailFault
  split
  · split
    · exact State.raise_roleSt _ _ _ _ _ _ _ _
    · rfl
  · rfl

theorem State.nextBroadcast_roleSt (s : State) : s.nextBroadcast.roleSt = s.roleSt := by
  unfold State.nextBroadcast
  dsimp only
  repeat' split
  all_goals simp

/-- The role but for the mark of the next beacon. -/
def RoleSt.unmarked (r : RoleSt) : RoleSt := { r with takeoverBeacon := false }

/-- Beacons take the takeover mark with them, and leave the role. -/
theorem State.sendBeacons_roleSt (s : State) : s.sendBeacons.roleSt.unmarked = s.roleSt.unmarked := by
  unfold State.sendBeacons
  split
  · split <;> rfl
  · dsimp only
    have next : (if s.steward.bDown.isSome then s else s.nextBroadcast).roleSt = s.roleSt := by
      split
      · rfl
      · exact s.nextBroadcast_roleSt
    refine congrArg RoleSt.unmarked (a₁ := (List.foldl _ (if s.steward.bDown.isSome then s else s.nextBroadcast) _).roleSt) ?_
    exact (roleSt_foldl (fun s c => by simp) _ _).trans next

/-- The air interface at a boundary leaves the role, but for that mark. -/
theorem State.airAtBoundary_roleSt (s : State) : s.airAtBoundary.roleSt.unmarked = s.roleSt.unmarked := by
  have quiet : (if s.power.brownAt.isSome then { s with power := { s.power with quiet := true }, acc := { s.acc with btnOut := false } }
      else s : State).roleSt = s.roleSt := by split <;> rfl
  rw [← quiet]
  unfold State.airAtBoundary
  dsimp only
  generalize (if s.power.brownAt.isSome then { s with power := { s.power with quiet := true }, acc := { s.acc with btnOut := false } }
    else s : State) = x
  have runs : x.airBoundary.sendBeacons.countRelease.roleSt.unmarked = x.roleSt.unmarked := by
    rw [State.countRelease_roleSt, State.sendBeacons_roleSt, State.airBoundary_roleSt]
  split
  · rfl
  · split
    · rw [State.forward_roleSt, runs]
    · exact runs

/-- No yield and no silence of side B falls due: no role ends. -/
theorem State.endRoles_of_none {s : State} (hy : s.roleSt.yieldAt = none) (hs : s.roleSt.silentFrom = none) : s.endRoles = s := by
  unfold State.endRoles
  rw [hy, hs]
  rfl

theorem State.newStamp_roleSt (s : State) : s.newStamp.roleSt = s.roleSt := rfl
@[simp] theorem State.keepLog_roleSt (s : State) : s.keepLog.roleSt = s.roleSt := rfl

/-- What begins with a stamp before a life-cycle move. -/
def State.begun (s : State) : State :=
  (((((s.goLive).serviceFrames (s.nodes.map s.linkRecord)).newStamp).nameRailFault).endRoles).airAtBoundary.clipFrames.monitors.placeKept
    |>.loansAtBoundary.countStamps.keepLog

/-- With no life-cycle move due nothing else begins. -/
theorem State.openStamp_eq {s : State} (h : ∀ m ∈ s.test.lifeDue, ¬ m.2 ≤ s.stamp.number) : s.openStamp = s.begun := by
  have later : ∀ x : State, x.clipFrames.monitors.placeKept.loansAtBoundary.countStamps.keepLog.base = x.base := fun x => by simp
  have hc : s.begun.clk = s.clk := by
    unfold State.begun
    rw [clk_of_base (later _), State.airAtBoundary_clk, clk_of_base (State.endRoles_base _), State.nameRailFault_clk, State.newStamp_clk,
      clk_of_base (State.serviceFrames_base _ _), State.goLive_clk]
  simp only [State.clk, Prod.mk.injEq] at hc
  obtain ⟨-, hn, -, -, ht⟩ := hc
  have none_due : (s.begun.test.lifeDue.find? fun m => decide (m.2 ≤ s.begun.stamp.number)) = none := by
    rw [hn, ht]
    exact List.find?_eq_none.2 fun m hm => by simpa using h m hm
  unfold State.openStamp
  dsimp only
  split
  · next m hm => exact absurd (hm.symm.trans none_due) (Option.some_ne_none m)
  · rfl

/-- What begins with a stamp leaves the role of a hub whose role does not end and for which no life-cycle move is due. -/
theorem State.openStamp_roleSt {s : State} (hy : s.roleSt.yieldAt = none) (hs : s.roleSt.silentFrom = none)
    (h : ∀ m ∈ s.test.lifeDue, ¬ m.2 ≤ s.stamp.number) : s.openStamp.roleSt.unmarked = s.roleSt.unmarked := by
  have later : ∀ x : State, x.clipFrames.monitors.placeKept.loansAtBoundary.countStamps.keepLog.roleSt = x.roleSt := fun x => by simp
  have named : ((s.goLive.serviceFrames (s.nodes.map s.linkRecord)).newStamp.nameRailFault).roleSt = s.roleSt := by
    rw [State.nameRailFault_roleSt, State.newStamp_roleSt, State.serviceFrames_roleSt, State.goLive_roleSt]
  rw [State.openStamp_eq h, State.begun, later, State.airAtBoundary_roleSt, State.endRoles_of_none (by rw [named]; exact hy) (by rw [named]; exact hs), named]

theorem State.nextStamp_roleSt (s : State) (at0 : Tick) : (s.nextStamp none at0).roleSt = s.roleSt := rfl

/-- A boundary of a hub that adopts no other's numbering, whose role does not end and for which no life-cycle move is due, leaves its role. -/
theorem State.boundary_roleSt {s : State} (at0 : Tick) (early : Bool) (hr : s.roleSt.target = none) (hy : s.roleSt.yieldAt = none)
    (hs : s.roleSt.silentFrom = none) (h : ∀ m ∈ s.test.lifeDue, ¬ m.2 ≤ s.stamp.number + 1) :
    (s.boundary at0 early).roleSt.unmarked = s.roleSt.unmarked := by
  have role : ((s.closeStamp early at0).beginRequests (s.stamp.number + 1)).roleSt = s.roleSt := by
    rw [State.beginRequests_roleSt, State.closeStamp_roleSt]
  have base : ((s.closeStamp early at0).beginRequests (s.stamp.number + 1)).base = s.base := by simp
  have hn := congrArg Base.number base
  have ht := congrArg Base.test base
  simp only [State.base] at hn ht
  unfold State.boundary
  rw [hr]
  rw [State.openStamp_roleSt (by rw [State.nextStamp_roleSt, role]; exact hy) (by rw [State.nextStamp_roleSt, role]; exact hs),
    State.nextStamp_roleSt, role]
  simp only [State.nextStamp, hn, ht]
  exact h

/-! ## The takeover (12 R356 to R358) -/

theorem State.setRole_roleSt (s : State) (r : Role) : (s.setRole r).roleSt = { s.roleSt with role := r, decided := true, listenTo := none } := by
  unfold State.setRole
  dsimp only
  split <;> rfl

/-- Taking the lead sets the role and decides it. -/
theorem State.becomePrimary_roleSt (s : State) : s.becomePrimary.roleSt =
    { s.roleSt with role := if s.spine.partner then .primary else .alone, decided := true, listenTo := none, unaligned := false } := by
  unfold State.becomePrimary
  dsimp only
  rw [State.syncConfigs_roleSt, State.wakeChain_roleSt]
  simp only [State.setRole_roleSt]

theorem State.keepFrame_partner (s : State) : s.keepFrame.spine.partner = s.spine.partner := congrArg Base.partner s.keepFrame_base

/-- What the takeover makes of the role. -/
theorem State.takeOver_roleSt (s : State) : s.takeOver.roleSt = { s.roleSt with
    role := if s.spine.partner then .primary else .alone
    decided := true, listenTo := none, unaligned := false, takeoverAt := none, lostAt := none, early := false, takeoverBeacon := true
    adopted := false } := by
  have kept : (if s.stamp.framed then s else s.keepFrame).roleSt = s.roleSt := by
    split
    · rfl
    · exact s.keepFrame_roleSt
  have side : (if s.stamp.framed then s else s.keepFrame).spine.partner = s.spine.partner := by
    split
    · rfl
    · exact s.keepFrame_partner
  have written := State.writeKept_roleSt (if s.stamp.framed then s else s.keepFrame).becomePrimary
  rw [State.becomePrimary_roleSt, kept, side] at written
  unfold State.takeOver
  dsimp only
  rw [State.raise_roleSt, State.sendSeq_roleSt, written]

/-! ## The two boundaries (02 R25, R31, R33, 12 R356) -/

/-- STAMP_BOUNDARY, at the instant of the next boundary and with no takeover boundary before it. -/
theorem exec_stampBoundary {t : Tick} {s : State} (ht : s.ticking = true) (hb : s.nextBoundary ≤ s.at t)
    (hx : ∀ x, s.roleSt.takeoverAt = some x → s.nextBoundary < x) :
    exec (.stampBoundary t) s = .next ((s.advance t).settle ((s.advance t).boundary s.nextBoundary false)) := by
  have first : s.roleSt.takeoverAt.all (fun x => decide (s.nextBoundary < x)) = true := by
    simpa [Option.all_eq_true] using hx
  show execStampBoundary t s = _
  refine occurs_of ?_
  simp only [Bool.and_eq_true, decide_eq_true_eq]
  exact ⟨⟨ht, hb⟩, first⟩

/-- TAKEOVER_BOUNDARY, once its instant has come. -/
theorem exec_takeoverBoundary {t x : Tick} {s : State} (ht : s.ticking = true) (hx : s.roleSt.takeoverAt = some x) (hb : x ≤ s.at t) :
    exec (.takeoverBoundary t) s = .next ((s.advance t).settle ((s.advance t).takeOver.boundary x s.roleSt.early)) := by
  have e : ((s.advance t).roleSt.takeoverAt.getD (s.advance t).now) = x := by simp [hx]
  have due : (s.advance t).roleSt.takeoverAt.any (fun y => decide (y ≤ (s.advance t).now)) = true := by
    rw [State.advance_roleSt, hx]
    exact decide_eq_true hb
  rw [← e]
  show execTakeoverBoundary t s = _
  refine occurs_of ?_
  simp only [Bool.and_eq_true]
  exact ⟨ht, due⟩

/-- The instant of the next boundary, as the period and the standby's correction give it. -/
theorem State.nextBoundary_eq (s : State) : (s.nextBoundary : Int) = max 0 (s.stamp.t0 + s.stamp.period * 25000 * 480 + s.stamp.adjust) := by
  have ms : msTicks = 25000 * 480 := rfl
  unfold State.nextBoundary State.stampTicks
  rw [ms]
  omega

/-- A hub whose stamps run has begun them. -/
theorem State.started_of_ticking {s : State} (h : s.ticking = true) : s.stamp.started = true := by
  simp only [State.ticking, Bool.and_eq_true] at h
  exact h.1.2

/-- Settles O12, from the clock and the role over a boundary. -/
theorem boundaryRaisesStamp : Obligations.BoundaryRaisesStamp := by
  intro t s ht
  have started := State.started_of_ticking ht
  refine ⟨fun hb hx => ⟨fun hr hl => ?_, fun run m hr hl => ?_⟩, fun x hx hb hr hy hs hl => ?_⟩
  · have clk := (s.advance t).boundary_clk s.nextBoundary false hr hl
    refine ⟨_, exec_stampBoundary ht hb hx, ?_⟩
    generalize (s.advance t).boundary s.nextBoundary false = n at clk
    simp only [State.clk, Prod.mk.injEq] at clk
    obtain ⟨h1, h2, h3, h4, -⟩ := clk
    exact ⟨h1.trans started, h2, h3, by rw [← s.nextBoundary_eq, ← h4]; rfl, rfl⟩
  · have clk := (s.advance t).boundary_clk_adopts s.nextBoundary false hr hl
    refine ⟨_, exec_stampBoundary ht hb hx, ?_⟩
    generalize (s.advance t).boundary s.nextBoundary false = n at clk
    simp only [State.clk, Prod.mk.injEq] at clk
    obtain ⟨h1, h2, h3, h4, -⟩ := clk
    exact ⟨h1.trans started, h2, h3, h4⟩
  · have base := (s.advance t).takeOver_base
    have role := (s.advance t).takeOver_roleSt
    have test : (s.advance t).takeOver.test = s.test := congrArg Base.test base
    have number : (s.advance t).takeOver.stamp.number = s.stamp.number := congrArg Base.number base
    have run : (s.advance t).takeOver.stamp.run = s.stamp.run := congrArg Base.run base
    refine ⟨_, exec_takeoverBoundary ht hx hb, ?_⟩
    generalize (s.advance t).takeOver = z at *
    have hr' : z.roleSt.target = none := by rw [role]; exact hr
    have hl' : ∀ m ∈ z.test.lifeDue, ¬ m.2 ≤ z.stamp.number + 1 := by rw [test, number]; exact hl
    have clk := z.boundary_clk x s.roleSt.early hr' hl'
    have kept := State.boundary_roleSt x s.roleSt.early hr' (by rw [role]; exact hy) (by rw [role]; exact hs) hl'
    generalize z.boundary x s.roleSt.early = n at *
    simp only [State.clk, Prod.mk.injEq] at clk
    obtain ⟨-, h2, h3, h4, -⟩ := clk
    rw [role] at kept
    exact ⟨h2.trans (by rw [number]), h3.trans run, h4, congrArg RoleSt.takeoverAt kept, congrArg RoleSt.decided kept, congrArg RoleSt.role kept⟩

end Sys2Proof.Machine

namespace Sys2Proof.Machine

/-! ## What the pass does beside admitting -/

/-- A fold of steps that keep the stacks and the stamp keeps them. -/
theorem foldl_work {α : Type} {f : State → α → State} (h : ∀ s x, (f s x).stackList = s.stackList ∧ (f s x).stamp = s.stamp) (xs : List α)
    (s : State) : (xs.foldl f s).stackList = s.stackList ∧ (xs.foldl f s).stamp = s.stamp := by
  induction xs generalizing s with
  | nil => exact ⟨rfl, rfl⟩
  | cons x xs ih =>
    obtain ⟨hk, ht⟩ := ih (f s x)
    exact ⟨hk.trans (h s x).1, ht.trans (h s x).2⟩

@[simp] theorem State.raise_work (s : State) (code : Nat) (patron stack : Option Nat) (a0 a1 a2 a3 : Nat) :
    (s.raise code patron stack a0 a1 a2 a3).stackList = s.stackList ∧ (s.raise code patron stack a0 a1 a2 a3).stamp = s.stamp := by
  obtain ⟨o, p, h⟩ := raise_shape s code patron stack a0 a1 a2 a3
  rw [h]
  exact ⟨rfl, rfl⟩

@[simp] theorem State.announce_work (s : State) (r : Nat) (f : HeldFrame) :
    (s.announce r f).stackList = s.stackList ∧ (s.announce r f).stamp = s.stamp := by
  unfold State.announce
  dsimp only
  split <;> split <;> simp [State.modRing, State.writeRing]

@[simp] theorem State.sendFrame_work (s : State) (r ftype : Nat) (stamp : BitVec 48) (nrec : Nat) (payload : Bytes) :
    (s.sendFrame r ftype stamp nrec payload).stackList = s.stackList ∧ (s.sendFrame r ftype stamp nrec payload).stamp = s.stamp := by
  unfold State.sendFrame
  dsimp only
  split
  · exact s.announce_work r _
  · split
    · simp [State.dropFrame, State.modRing]
    · exact ⟨rfl, rfl⟩

@[simp] theorem State.freeCopy_work (s : State) (slot sid : Nat) :
    (s.freeCopy slot sid).stackList = s.stackList ∧ (s.freeCopy slot sid).stamp = s.stamp := by
  unfold State.freeCopy
  dsimp only
  split
  · exact ⟨rfl, rfl⟩
  · split <;> exact ⟨rfl, rfl⟩

@[simp] theorem State.endRequest_work (s : State) (r : Request) (st : ReqState) (kind : Nat) :
    (s.endRequest r st kind).stackList = s.stackList ∧ (s.endRequest r st kind).stamp = s.stamp := by
  have frees : ∀ (xs : List Nat) (x : State), (xs.foldl (fun s sid => if s.streamBusy sid then s else s.freeCopy r.slot sid) x).stackList
      = x.stackList ∧ (xs.foldl (fun s sid => if s.streamBusy sid then s else s.freeCopy r.slot sid) x).stamp = x.stamp := by
    refine foldl_work fun s sid => ?_
    split
    · exact ⟨rfl, rfl⟩
    · exact s.freeCopy_work _ _
  unfold State.endRequest State.reqEnd
  dsimp only
  constructor
  · rw [(State.sendFrame_work _ _ _ _ _ _).1, (frees _ _).1]; rfl
  · rw [(State.sendFrame_work _ _ _ _ _ _).2, (frees _ _).2]; rfl

@[simp] theorem State.folioRef_work (s : State) (slot stack status index req : Nat) :
    (s.folioRef slot stack status index req).stackList = s.stackList ∧ (s.folioRef slot stack status index req).stamp = s.stamp :=
  s.raise_work _ _ _ _ _ _ _

@[simp] theorem State.refusedSteps_work (s : State) (slot stack : Nat) (sids : List Nat) (status index : Nat) :
    (s.refusedSteps slot stack sids status index).stackList = s.stackList ∧ (s.refusedSteps slot stack sids status index).stamp = s.stamp := by
  have stale := foldl_work (f := fun s sid => s.modCell sid fun c => { c with isStale := true, stepped := false }) (fun _ _ => ⟨rfl, rfl⟩) sids s
  unfold State.refusedSteps
  dsimp only
  split
  all_goals split
  all_goals simp [stale]

/-- A refusal leaves the stacks and the stamp. -/
@[simp] theorem State.refused_work (s : State) (slot stack : Nat) (kind : ChargeKind) (status index : Nat) :
    (s.refused slot stack kind status index).stackList = s.stackList ∧ (s.refused slot stack kind status index).stamp = s.stamp := by
  unfold State.refused
  split
  · simp [State.modBurst]
  · simp
  · split <;> simp
  · split <;> simp
  · simp

theorem State.dropOversize_work (s : State) (stack : Nat) :
    (s.dropOversize stack).stackList = s.stackList ∧ (s.dropOversize stack).stamp = s.stamp := by
  refine foldl_work (fun s c => ?_) _ _
  split
  · exact ⟨rfl, rfl⟩
  · exact State.refused_work _ _ _ _ _ _

@[simp] theorem State.setRota_work (s : State) (shelf : Nat) (on : Bool) :
    (s.setRota shelf on).stackList = s.stackList ∧ (s.setRota shelf on).stamp = s.stamp := State.raise_work _ _ _ _ _ _ _ _

@[simp] theorem enterRota_work (n : Nat) (s : State) : (enterRota n s).stackList = s.stackList ∧ (enterRota n s).stamp = s.stamp := by
  induction n generalizing s with
  | zero => exact ⟨rfl, rfl⟩
  | succ n ih =>
    unfold enterRota
    split
    · exact ⟨rfl, rfl⟩
    · split
      · exact ⟨rfl, rfl⟩
      · simp [ih]

@[simp] theorem State.leaveRota_work (s : State) : s.leaveRota.stackList = s.stackList ∧ s.leaveRota.stamp = s.stamp := by
  unfold State.leaveRota
  split
  · exact ⟨rfl, rfl⟩
  · split <;> simp

theorem State.decideRota_work (s : State) : s.decideRota.stackList = s.stackList ∧ s.decideRota.stamp = s.stamp := by
  unfold State.decideRota
  split
  · exact ⟨rfl, rfl⟩
  · simp

theorem State.countSolo_work (s : State) (stack : Nat) : (s.countSolo stack).stackList = s.stackList ∧ (s.countSolo stack).stamp = s.stamp := by
  refine foldl_work (fun s sh => ?_) _ _
  exact ⟨rfl, rfl⟩

/-! ## The admission pass (02 R39, R42, R44) -/

/-- The same list of stacks holds the same stacks. -/
theorem State.stk_of_list {a b : State} (h : a.stackList = b.stackList) (k : Nat) : a.stk k = b.stk k := by rw [State.stk, State.stk, h]

/-- A stack's pass has come: its overrun has ended, and the debts are what the stamp pays. -/
def StackSt.passed (k : StackSt) : StackSt := { k with overrun := false, passDone := true, paying := k.debts, debts := [] }

/-- On a stack out of service the pass ends the overrun and is done. -/
theorem State.pass_unusable {s : State} {k : Nat} (hk : k < s.stackList.length) (hu : (s.stk k).usable = false) :
    s.pass k = s.modStk k fun x => { x with overrun := false, passDone := true } := by
  unfold State.pass
  dsimp only
  rw [if_pos]
  rw [s.modStk_stk_same _ hk]
  exact congrArg (!·) hu

/-- On a stack in service it does no more to the stack beside what admissions do. -/
theorem State.pass_usable {s : State} {k : Nat} (hk : k < s.stackList.length) (hu : (s.stk k).usable = true) :
    ((s.pass k).stk k).idle = (s.stk k).passed.idle ∧ (s.pass k).stamp = s.stamp := by
  have marked := s.modStk_stk_same (fun x => { x with overrun := false, passDone := true }) hk
  have admits : ∀ (x : State) (at0 : Tick), Admits x ((passOrder.foldl (fun s p => admitRun k p true at0 s.charges.length s) x).noteReady at0) :=
    fun x at0 => (Admits.foldl (fun s p => admitRun_admits k p true at0 _ s) _ _).trans (State.noteReady_admits _ _)
  have reserves : ∀ (x : State) (r0 r1 : Nat), ((x.modStk k fun y => { y with
      reserved0 := r0, reserved1 := r1, sum := r0 + r1, taken01 := r0 + r1 }).stk k).idle = (x.stk k).idle := fun x r0 r1 => by
    rcases x.modStk_stk_cases k k (fun y => { y with reserved0 := r0, reserved1 := r1, sum := r0 + r1, taken01 := r0 + r1 }) with h | h <;> rw [h]
    rfl
  have owes : ∀ (ds : List (Nat × Nat)) (x : State),
      (ds.foldl (fun s d => s.modCtr d.1 fun t => { t with debt := natSat (t.debt + d.2) 32 }) x).stackList = x.stackList
        ∧ (ds.foldl (fun s d => s.modCtr d.1 fun t => { t with debt := natSat (t.debt + d.2) 32 }) x).stamp = x.stamp :=
    foldl_work fun _ _ => ⟨rfl, rfl⟩
  unfold State.pass
  dsimp only
  rw [if_neg (by rw [marked]; exact (by simpa using hu : ¬ (!(s.stk k).usable) = true))]
  constructor
  · rw [(admits _ _).rest, State.stk_of_list (State.countSolo_work _ _).1, reserves, State.stk_of_list (State.dropOversize_work _ _).1,
      (State.rehome_admits _).rest, State.stk_of_list (State.decideRota_work _).1, State.modStk_stk_same, State.stk_of_list (owes _ _).1, marked]
    · rfl
    · rw [(owes _ _).1]
      simpa [State.modStk] using hk
  · rw [(admits _ _).stamp, (State.countSolo_work _ _).2, State.modStk_stamp, (State.dropOversize_work _ _).2, (State.rehome_admits _).stamp,
      (State.decideRota_work _).2, State.modStk_stamp, (owes _ _).2, State.modStk_stamp]

/-- What a pass leaves of its stack and the stamp. -/
theorem State.pass_keeps {s : State} {k : Nat} (hk : k < s.stackList.length) :
    ((s.pass k).stk k).passDone = true ∧ ((s.pass k).stk k).overrun = false ∧ (s.pass k).stamp = s.stamp
      ∧ ((s.stk k).usable = true → ((s.pass k).stk k).paying = (s.stk k).debts ∧ ((s.pass k).stk k).debts = []) := by
  cases hu : (s.stk k).usable with
  | false =>
    rw [State.pass_unusable hk hu, s.modStk_stk_same _ hk]
    exact ⟨rfl, rfl, rfl, fun h => by cases h⟩
  | true =>
    obtain ⟨hi, ht⟩ := State.pass_usable hk hu
    exact ⟨congrArg StackSt.passDone hi, congrArg StackSt.overrun hi, ht, fun _ => ⟨congrArg StackSt.paying hi, congrArg StackSt.debts hi⟩⟩

/-- ADMISSION_PASS of a stack whose pass is still to come. -/
theorem exec_admissionPass {t : Tick} {k : Nat} {s : State} (hk : k < 4) (hup : s.up = true) (ha : s.steward.aDown = none)
    (hh : s.steward.holdTo ≤ s.stamp.number) (hp : (s.stk k).passDone = false) (hr : (s.stk k).running = []) :
    exec (.admissionPass t k) s = .next ((s.advance t).settle ((s.advance t).pass k)) := by
  have hp' : ((s.advance t).stk k).passDone = false := hp
  have hr' : ((s.advance t).stk k).running = [] := hr
  have hup' : (s.advance t).up = true := hup
  show execAdmissionPass t k s = _
  refine occurs_of ?_
  simp [hup', ha, hk, hh, hp', hr']

end Sys2Proof.Machine

namespace Sys2Proof.Machine

/-! ## The front end's codes (15 R424 to R426, 12 R350) -/

/-- Codes of the millisecond that is held, or with none held: they stay. -/
theorem Sense.atMs_same {q : Sense} {n : BitVec 48} {ms : Nat} (h : q.msA = [] ∨ (q.msStamp, q.msIndex) = (n, ms)) : q.atMs n ms = q := by
  have hc : (q.msA.isEmpty || (q.msStamp == n && q.msIndex == ms)) = true := by simpa using h
  rw [Sense.atMs, if_pos hc]

/-- Codes of another millisecond complete it. -/
theorem Sense.atMs_other {q : Sense} {n : BitVec 48} {ms : Nat} (h : q.msA ≠ []) (hn : ¬ (q.msStamp, q.msIndex) = (n, ms)) :
    q.atMs n ms = q.closeMs := by
  have hc : ¬ (q.msA.isEmpty || (q.msStamp == n && q.msIndex == ms)) = true := by simpa [h] using hn
  rw [Sense.atMs, if_neg hc]

/-- One code of each channel enters the sums, and is the last of its millisecond. -/
theorem Sense.take_sums (q : Sense) (a b : Int) (n : BitVec 48) (ms : Nat) :
    ((q.take a b n ms).msStamp, (q.take a b n ms).msIndex) = (n, ms) ∧ (q.take a b n ms).sumA = q.sumA + a
      ∧ (q.take a b n ms).sumB = q.sumB + b ∧ (q.take a b n ms).count = q.count + 1 ∧ (q.take a b n ms).cums = q.cums
      ∧ (q.take a b n ms).markA = q.markA ∧ (q.take a b n ms).markB = q.markB ∧ (q.take a b n ms).lastConv = q.lastConv := by
  unfold Sense.take Sense.atMs Sense.closeMs
  dsimp only
  split <;> exact ⟨rfl, rfl, rfl, rfl, rfl, rfl, rfl, rfl⟩

/-- Codes of the millisecond that is held join it. -/
theorem Sense.take_same {q : Sense} (a b : Int) {n : BitVec 48} {ms : Nat} (h : q.msA = [] ∨ (q.msStamp, q.msIndex) = (n, ms)) :
    (q.take a b n ms).msA = q.msA ++ [a] ∧ (q.take a b n ms).msB = q.msB ++ [b] ∧ (q.take a b n ms).fullMs = q.fullMs
      ∧ (q.take a b n ms).msMains = q.msMains := by
  unfold Sense.take
  rw [Sense.atMs_same h]
  exact ⟨rfl, rfl, rfl, rfl⟩

/-- Codes of another millisecond complete the one that is held, which waits for its means if it has its 64 codes. -/
theorem Sense.take_other {q : Sense} (a b : Int) {n : BitVec 48} {ms : Nat} (h : q.msA ≠ []) (hn : ¬ (q.msStamp, q.msIndex) = (n, ms)) :
    (q.take a b n ms).msA = [a] ∧ (q.take a b n ms).msB = [b] ∧ (q.take a b n ms).msMains = []
      ∧ (q.take a b n ms).fullMs = q.fullMs
          ++ (if q.msA.length = 64 then [{ stamp := q.msStamp, index := q.msIndex, a := q.msA, b := q.msB, mains := q.msMains }] else []) := by
  unfold Sense.take
  rw [Sense.atMs_other h hn]
  refine ⟨rfl, rfl, rfl, ?_⟩
  unfold Sense.closeMs
  dsimp only
  split
  · rfl
  · exact (List.append_nil _).symm

/-- The codes of the current instant (15 R424): the sums, the millisecond, and at the sample mark the span. -/
def State.taken (s : State) (a b : Int) : Sense :=
  let q := ({ s.sense with lastConv := some s.now } : Sense).take a b s.msNow.1 s.msNow.2
  if s.now = s.stamp.t0 + us 100 then q.mark s.stamp.number a b else q

/-- The sums, and the millisecond to which the codes belong. -/
theorem State.taken_sums (s : State) (a b : Int) :
    (s.taken a b).lastConv = some s.now ∧ ((s.taken a b).msStamp, (s.taken a b).msIndex) = s.msNow ∧ (s.taken a b).sumA = s.sense.sumA + a
      ∧ (s.taken a b).sumB = s.sense.sumB + b ∧ (s.taken a b).count = s.sense.count + 1 := by
  obtain ⟨hm, hA, hB, hN, -, -, -, hl⟩ := ({ s.sense with lastConv := some s.now } : Sense).take_sums a b s.msNow.1 s.msNow.2
  unfold State.taken
  dsimp only
  split <;> exact ⟨hl, hm, hA, hB, hN⟩

theorem State.taken_same {s : State} (a b : Int) (h : s.sense.msA = [] ∨ (s.sense.msStamp, s.sense.msIndex) = s.msNow) :
    (s.taken a b).msA = s.sense.msA ++ [a] ∧ (s.taken a b).msB = s.sense.msB ++ [b] ∧ (s.taken a b).fullMs = s.sense.fullMs
      ∧ (s.taken a b).msMains = s.sense.msMains := by
  have joins := Sense.take_same (q := { s.sense with lastConv := some s.now }) a b h
  unfold State.taken
  dsimp only
  split <;> exact joins

theorem State.taken_other {s : State} (a b : Int) (h : s.sense.msA ≠ []) (hn : ¬ (s.sense.msStamp, s.sense.msIndex) = s.msNow) :
    (s.taken a b).msA = [a] ∧ (s.taken a b).msB = [b] ∧ (s.taken a b).msMains = []
      ∧ (s.taken a b).fullMs = s.sense.fullMs ++ (if s.sense.msA.length = 64 then
          [{ stamp := s.sense.msStamp, index := s.sense.msIndex, a := s.sense.msA, b := s.sense.msB, mains := s.sense.msMains }] else []) := by
  have completes := Sense.take_other (q := { s.sense with lastConv := some s.now }) a b h hn
  unfold State.taken
  dsimp only
  split <;> exact completes

/-- At the sample mark the span since the mark before closes (02 R36). -/
theorem State.taken_mark {s : State} (a b : Int) (h : s.now = s.stamp.t0 + 100 * usTicks) :
    (s.taken a b).markA = a ∧ (s.taken a b).markB = b
      ∧ (s.taken a b).cums = (s.stamp.number, (s.taken a b).sumA, (s.taken a b).sumB, (s.taken a b).count) :: s.sense.cums
      ∧ (s.taken a b).stampA = (s.taken a b).sumA - ((s.sense.cums.head?.map fun c => c.2.1).getD 0)
      ∧ (s.taken a b).stampB = (s.taken a b).sumB - ((s.sense.cums.head?.map fun c => c.2.2.1).getD 0)
      ∧ (s.taken a b).stampN = (s.taken a b).count - ((s.sense.cums.head?.map fun c => c.2.2.2).getD 0) := by
  obtain ⟨-, -, -, -, hc, -⟩ := ({ s.sense with lastConv := some s.now } : Sense).take_sums a b s.msNow.1 s.msNow.2
  unfold State.taken
  rw [if_pos (show s.now = s.stamp.t0 + us 100 from h)]
  unfold Sense.mark
  dsimp only
  rw [hc]
  dsimp only
  cases s.sense.cums <;> exact ⟨rfl, rfl, rfl, rfl, rfl, rfl⟩

/-- At any other instant it goes on. -/
theorem State.taken_unmarked {s : State} (a b : Int) (h : s.now ≠ s.stamp.t0 + 100 * usTicks) :
    (s.taken a b).cums = s.sense.cums ∧ (s.taken a b).markA = s.sense.markA ∧ (s.taken a b).markB = s.sense.markB := by
  obtain ⟨-, -, -, -, hc, hA, hB, -⟩ := ({ s.sense with lastConv := some s.now } : Sense).take_sums a b s.msNow.1 s.msNow.2
  unfold State.taken
  rw [if_neg (show ¬ s.now = s.stamp.t0 + us 100 from h)]
  exact ⟨hc, hA, hB⟩

/-- The half-cycles of the brown-out detection leave the stamp's samples. -/
theorem MainsSt.half_samples (m : MainsSt) (nom limit hz : Nat) (row : List Int) : (m.half nom limit hz row).samples = m.samples := by
  unfold MainsSt.half
  dsimp only
  split <;> rfl

/-- The hub after the codes of an instant, with those of the mains where one falls on it. -/
def State.converted (s : State) (a b : Int) : Option (List Int) → State
  | none => s.takeCodes a b
  | some codes => (s.takeCodes a b).takeMains codes

/-- A standby notes the conversion, and takes no code. -/
theorem State.converted_standby {s : State} (a b : Int) (v : Option (List Int)) (h : s.isStandby = true) :
    (s.converted a b v).sense = { s.sense with lastConv := some s.now } ∧ (s.converted a b v).mains.samples = s.mains.samples := by
  have codes : s.takeCodes a b = { s with sense := { s.sense with lastConv := some s.now } } := if_pos h
  cases v with
  | none => rw [State.converted, codes]; exact ⟨rfl, rfl⟩
  | some xs =>
    rw [State.converted, codes, State.takeMains]
    dsimp only
    rw [if_pos (by exact h)]
    exact ⟨rfl, MainsSt.half_samples _ _ _ _ _⟩

/-- Any other hub takes them: the current's into its sums, the mains' into the millisecond and the stamp's samples. -/
theorem State.converted_taken {s : State} (a b : Int) (v : Option (List Int)) (h : s.isStandby = false) :
    (s.converted a b v).sense = { s.taken a b with msMains := (s.taken a b).msMains ++ v.toList }
      ∧ (s.converted a b v).mains.samples = s.mains.samples ++ v.toList.map s.mainsA16 := by
  have off : ¬ s.isStandby = true := by simp [h]
  have codes : s.takeCodes a b = { s with sense := s.taken a b } := if_neg off
  cases v with
  | none => rw [State.converted, codes]; simp
  | some xs =>
    rw [State.converted, codes, State.takeMains]
    dsimp only
    rw [if_neg (by exact off)]
    simp only [Option.toList_some, List.map_cons, List.map_nil, MainsSt.half_samples, true_and]
    rfl

/-- Nothing else changes: with no mains codes the mains' measures neither. -/
theorem State.converted_rest (s : State) (a b : Int) (v : Option (List Int)) :
    (v = none → (s.converted a b v).mains = s.mains) ∧ (s.converted a b v).stamp = s.stamp ∧ (s.converted a b v).nodes = s.nodes := by
  have codes : (s.takeCodes a b).mains = s.mains ∧ (s.takeCodes a b).stamp = s.stamp ∧ (s.takeCodes a b).nodes = s.nodes := by
    unfold State.takeCodes
    dsimp only
    split <;> exact ⟨rfl, rfl, rfl⟩
  obtain ⟨hm, ht, hn⟩ := codes
  cases v with
  | none => exact ⟨fun _ => hm, ht, hn⟩
  | some xs =>
    refine ⟨fun h => (by cases h), ?_⟩
    unfold State.converted State.takeMains
    dsimp only
    split <;> exact ⟨ht, hn⟩

end Sys2Proof.Machine

namespace Sys2Proof.Machine

/-! ## What the tests of a limit leave alone (09 R245 to R247) -/

/-- From one state to another at most limits have been tested and their events raised: the front end, the nodes, the cells and the spine are as they were. -/
structure Tests (s n : State) : Prop where
  sense : n.sense = s.sense
  nodes : n.nodes = s.nodes
  cells : n.cells = s.cells
  spine : n.spine = s.spine

theorem Tests.refl (s : State) : Tests s s := ⟨rfl, rfl, rfl, rfl⟩

theorem Tests.trans {a b c : State} (h : Tests a b) (h' : Tests b c) : Tests a c :=
  ⟨h'.sense.trans h.sense, h'.nodes.trans h.nodes, h'.cells.trans h.cells, h'.spine.trans h.spine⟩

theorem Tests.foldl {α : Type} {f : State → α → State} (h : ∀ s x, Tests s (f s x)) (xs : List α) (s : State) : Tests s (xs.foldl f s) := by
  induction xs generalizing s with
  | nil => exact .refl s
  | cons x xs ih => exact (h s x).trans (ih _)

theorem State.raise_tests (s : State) (code : Nat) (patron stack : Option Nat) (a0 a1 a2 a3 : Nat) :
    Tests s (s.raise code patron stack a0 a1 a2 a3) := by
  obtain ⟨o, p, h⟩ := raise_shape s code patron stack a0 a1 a2 a3
  rw [h]
  exact ⟨rfl, rfl, rfl, rfl⟩

theorem State.writeRing_tests (s : State) (a : Nat) (b : Bytes) : Tests s (s.writeRing a b) := ⟨rfl, rfl, rfl, rfl⟩
theorem State.modRing_tests (s : State) (r : Nat) (f : Ring → Ring) : Tests s (s.modRing r f) := ⟨rfl, rfl, rfl, rfl⟩
theorem State.irqSet_tests (s : State) (bit : Nat) : Tests s (s.irqSet bit) := ⟨rfl, rfl, rfl, rfl⟩

theorem State.announce_tests (s : State) (r : Nat) (f : HeldFrame) : Tests s (s.announce r f) := by
  have framed : ∀ (x : State) (a : Nat) (b : Bytes) (g : Ring → Ring) (i : Nat), Tests x (((x.writeRing a b).modRing r g).irqSet i) :=
    fun x a b g i => ((x.writeRing_tests a b).trans (State.modRing_tests _ r g)).trans (State.irqSet_tests _ i)
  unfold State.announce
  dsimp only
  split <;> split
  · exact framed _ _ _ _ _
  · exact (s.writeRing_tests _ _).trans (framed _ _ _ _ _)
  · exact (framed s _ _ _ _).trans (State.raise_tests _ _ _ _ _ _ _ _)
  · exact ((s.writeRing_tests _ _).trans (framed _ _ _ _ _)).trans (State.raise_tests _ _ _ _ _ _ _ _)

theorem State.writeRun_tests (s : State) (evs : List Event) : Tests s (s.writeRun evs) := by
  have frame : Tests s (({ s with events := { s.events with fresh := s.events.fresh.filter fun e => !evs.contains e } } : State).announce 1
      { ftype := 2, stamp := s.stamp.number, nrec := evs.length, payload := evs.flatMap Event.bytes }) := by
    refine .trans ?_ (State.announce_tests _ _ _)
    exact ⟨rfl, rfl, rfl, rfl⟩
  unfold State.writeRun
  dsimp only
  split
  · exact frame.trans ⟨rfl, rfl, rfl, rfl⟩
  · exact frame

theorem writeRuns_tests (waits : Bool) (rs : List (List Event)) (s : State) : Tests s (writeRuns waits rs s) := by
  induction rs generalizing waits s with
  | nil => exact .refl s
  | cons r rs ih =>
    unfold writeRuns
    split
    · exact (s.writeRun_tests r).trans (ih _ _)
    · exact ih _ _

theorem discardEvents_tests (k : Nat) (s : State) : Tests s (discardEvents k s) := by
  induction k generalizing s with
  | zero => exact .refl s
  | succ k ih =>
    unfold discardEvents
    split
    · exact .refl s
    · split
      · refine .trans ?_ (ih _)
        exact ⟨rfl, rfl, rfl, rfl⟩
      · exact .refl s

theorem State.writeEvents_tests (s : State) : Tests s s.writeEvents := (writeRuns_tests _ _ _).trans (discardEvents_tests _ _)

theorem State.raiseProtect_tests (s : State) (lim key value set : Nat) : Tests s (s.raiseProtect lim key value set) := by
  unfold State.raiseProtect
  split
  · exact ⟨rfl, rfl, rfl, rfl⟩
  · split
    · exact (s.raise_tests _ _ _ _ _ _ _).trans ⟨rfl, rfl, rfl, rfl⟩
    · exact (s.writeEvents_tests.trans (State.raise_tests _ _ _ _ _ _ _ _)).trans (State.writeEvents_tests _)

theorem State.putLim_tests (s : State) (x : LimSt) : Tests s (s.putLim x) := ⟨rfl, rfl, rfl, rfl⟩

theorem State.clearLim_tests (s : State) (x : LimSt) (a1 : Nat) : Tests s (s.clearLim x a1) := by
  unfold State.clearLim
  dsimp only
  split
  · exact ⟨rfl, rfl, rfl, rfl⟩
  · exact (s.putLim_tests _).trans (State.raise_tests _ _ _ _ _ _ _ _)

theorem State.testLimit_tests (s : State) (l : Lim) (key a1 set : Nat) (value : Int) (trip clears : Bool) (debounce clearN : Nat) :
    Tests s (s.testLimit l key a1 set value trip clears debounce clearN) := by
  have clears' : ∀ x : LimSt, Tests s (if clearN ≤ x.clear ∧ (x.acked ∨ !needsAck l) then s.clearLim x a1 else s.putLim x) := fun x => by
    split
    · exact s.clearLim_tests _ _
    · exact s.putLim_tests _
  unfold State.testLimit
  dsimp only
  by_cases ht : (s.lim l key).tripped = true
  · rw [if_pos ht]
    exact clears' { s.lim l key with clear := if clears then (s.lim l key).clear + 1 else 0 }
  · rw [if_neg ht]
    by_cases hn : trip = true ∧ debounce ≤ if trip = true then (s.lim l key).count + 1 else 0
    · rw [if_pos hn]
      exact (s.raiseProtect_tests _ _ _ _).trans (State.putLim_tests _ _)
    · rw [if_neg hn]
      exact s.putLim_tests _

theorem State.testCurrent_tests (s : State) (set : Nat) (l : Lim) (ch : Nat) (m : Int) : Tests s (s.testCurrent set l ch m) := by
  unfold State.testCurrent
  split
  · exact .refl s
  · exact s.testLimit_tests _ _ _ _ _ _ _ _ _

theorem State.testDisagree_tests (s : State) (set : Nat) (a b : Int) : Tests s (s.testDisagree set a b) := by
  unfold State.testDisagree
  split
  · exact .refl s
  · exact s.testLimit_tests _ _ _ _ _ _ _ _ _

/-- The tests of a millisecond's currents. -/
theorem State.testCurrents_tests (s : State) (a b : Int) : Tests s (s.testCurrents a b) := by
  refine .foldl (fun s set => ?_) _ _
  exact ((((s.testCurrent_tests _ _ _ _).trans (State.testCurrent_tests _ _ _ _ _)).trans (State.testCurrent_tests _ _ _ _ _)).trans
    (State.testCurrent_tests _ _ _ _ _)).trans (State.testDisagree_tests _ _ _ _)

/-! ## A sequenced message (12 R345) -/

/-- Frames of a message go out one after the other: each takes the next sequence, and the stamp, the front end, nodes and cells are as they were. -/
theorem State.sendParts_seq (m : SpineMsg) (s : State) (n : Nat) :
    let z := (List.range n).foldl (fun s i => s.sendPart m i) s
    z.spine.txSeq = s.spine.txSeq + BitVec.ofNat 16 n ∧ z.stamp = s.stamp ∧ z.sense = s.sense ∧ z.nodes = s.nodes ∧ z.cells = s.cells := by
  induction n with
  | zero => exact ⟨by simp, rfl, rfl, rfl, rfl⟩
  | succ n ih =>
    obtain ⟨hq, ht, hs, hn, hc⟩ := ih
    simp only [List.range_succ, List.foldl_append, List.foldl_cons, List.foldl_nil]
    generalize (List.range n).foldl (fun s i => s.sendPart m i) s = z at hq ht hs hn hc ⊢
    refine ⟨?_, ht, hs, hn, hc⟩
    show z.spine.txSeq + 1 = _
    rw [hq, BitVec.ofNat_add, BitVec.add_assoc]
    rfl

/-- Bytes that the first frames of a message hold of the spine buffers. -/
def SpineMsg.heldBy (m : SpineMsg) (n : Nat) : Nat := ((List.range n).map fun i => 16 + (m.part i).length).sum

theorem SpineMsg.heldBy_succ (m : SpineMsg) (n : Nat) : m.heldBy (n + 1) = m.heldBy n + (16 + (m.part n).length) := by
  simp [SpineMsg.heldBy, List.range_succ]

/-- The first frames hold a header each, and the bytes that they carry. -/
theorem SpineMsg.heldBy_eq (m : SpineMsg) (n : Nat) : m.heldBy n = 16 * n + min (1024 * n) m.bytes.length := by
  induction n with
  | zero => simp [SpineMsg.heldBy]
  | succ n ih =>
    rw [m.heldBy_succ, ih]
    simp only [SpineMsg.part, List.length_take, List.length_drop]
    omega

/-- All frames together hold what the message holds. -/
theorem SpineMsg.heldBy_frames (m : SpineMsg) : m.heldBy m.frames = m.held := by
  have room : m.bytes.length ≤ 1024 * m.frames := by
    rw [SpineMsg.frames, ceilDiv, if_neg (by decide)]
    omega
  rw [m.heldBy_eq, SpineMsg.held, Nat.min_eq_right room]

/-- While the buffers have room, every frame is kept. -/
theorem State.sendParts_sent (m : SpineMsg) (s : State) (n : Nat) (h : s.outstanding + m.heldBy n ≤ spineBuffer) :
    let z := (List.range n).foldl (fun s i => s.sendPart m i) s
    z.spine.sent = s.spine.sent ++ (List.range n).map (fun i =>
        { seq := s.spine.txSeq + BitVec.ofNat 16 (i + 1), stamp := s.stamp.number, msg := m, part := i })
      ∧ z.outstanding = s.outstanding + m.heldBy n := by
  induction n with
  | zero => exact ⟨by simp, by simp [SpineMsg.heldBy]⟩
  | succ n ih =>
    rw [m.heldBy_succ] at h
    obtain ⟨hsent, hout⟩ := ih (by omega)
    obtain ⟨hq, ht, -⟩ := State.sendParts_seq m s n
    simp only [List.range_succ, List.foldl_append, List.foldl_cons, List.foldl_nil, List.map_append, List.map_cons, List.map_nil]
    generalize (List.range n).foldl (fun s i => s.sendPart m i) s = z at hsent hout hq ht ⊢
    have seq : z.spine.txSeq + 1 = s.spine.txSeq + BitVec.ofNat 16 (n + 1) := by
      rw [hq, BitVec.ofNat_add, BitVec.add_assoc]
      rfl
    have keeps : (z.sendPart m n).spine.sent = z.spine.sent ++ [{ seq := z.spine.txSeq + 1, stamp := z.stamp.number, msg := m, part := n }] := by
      unfold State.sendPart
      exact if_pos (decide_eq_true (by omega))
    constructor
    · rw [keeps, hsent, seq, ht, List.append_assoc]
    · rw [State.outstanding, keeps, List.map_append, List.sum_append, m.heldBy_succ]
      show z.outstanding + _ = _
      rw [hout]
      simp
      omega

end Sys2Proof.Machine

namespace Sys2Proof.Machine

/-! ## Sample mark and conversions (02 R36, 15 R424) -/

/-- SAMPLE_MARK, once its instant has come. -/
theorem exec_sampleMark {t : Tick} {s : State} (hs : s.sound = true) (ht : s.ticking = true) (hm : s.sense.marked = false)
    (h : s.stamp.t0 + 100 * usTicks ≤ s.at t) :
    exec (.sampleMark t) s = .next { s with now := s.at t, sense := { s.sense with marked := true } } := by
  show execSampleMark t s = _
  refine (occurs_of ?_).trans ?_
  · simp only [Bool.and_eq_true, Bool.not_eq_true', decide_eq_true_eq]
    exact ⟨⟨ht, hm⟩, h⟩
  · rw [settle_eq]
    · rfl
    · exact hs
    · rfl

/-- Within a stamp the millisecond is counted from its boundary. -/
theorem State.msNow_within {s : State} (h : s.now < s.stamp.t0 + s.stamp.period * msTicks) (h0 : s.stamp.t0 ≤ s.now) :
    s.msNow = (s.stamp.number, (s.now - s.stamp.t0) / msTicks) :=
  if_pos (Nat.div_lt_of_lt_mul (by rw [Nat.mul_comm]; exact Nat.sub_lt_left_of_lt_add h0 h))

/-- CONVERSION at an instant of the current channels, with the mains codes exactly where one of theirs falls on it. -/
theorem exec_conversion {t : Tick} {s : State} (ia ib : BitVec 24) (v : Option (List (BitVec 24))) (ht : s.ticking = true)
    (h0 : s.stamp.t0 ≤ s.at t) (hc : (s.at t - s.stamp.t0) % (msTicks / 64) = 100 * usTicks % (msTicks / 64))
    (hv : v.isSome = true ↔ (s.at t - s.stamp.t0) % (msTicks / 16) = 100 * usTicks % (msTicks / 16))
    (hl : ∀ x, s.sense.lastConv = some x → x < s.at t) :
    exec (.conversion t ia ib v) s = .next ((s.advance t).settle
      ((s.advance t).converted (frontCode ia) (frontCode ib) (v.map fun xs => xs.map frontCode))) := by
  have mains : v.isSome = (s.advance t).mainsInstant := by
    rw [Bool.eq_iff_iff, hv, State.mainsInstant, beq_iff_eq]
    exact Iff.rfl
  have last : s.sense.lastConv.all (fun x => decide (x < s.at t)) = true := by
    simpa [Option.all_eq_true] using hl
  show execConversion t ia ib v s = _
  refine (occurs_of ?_).trans (by cases v <;> rfl)
  simp only [Bool.and_eq_true, beq_iff_eq, State.codeInstant, decide_eq_true_eq]
  exact ⟨⟨⟨ht, h0, hc⟩, mains⟩, last⟩

/-! ## The millisecond means (12 R350) -/

/-- The millisecond that comes first to its means: one that waits, or the one that the instant completes. -/
theorem Sense.atMs_full {q : Sense} {n : BitVec 48} {ms : Nat} {m : MsBlock} {rest : List MsBlock}
    (h : (q.fullMs = m :: rest ∧ (q.msA = [] ∨ (q.msStamp, q.msIndex) = (n, ms)))
      ∨ (q.fullMs = [] ∧ rest = [] ∧ q.msA.length = 64 ∧ ¬ (q.msStamp, q.msIndex) = (n, ms)
          ∧ m = { stamp := q.msStamp, index := q.msIndex, a := q.msA, b := q.msB, mains := q.msMains })) :
    (q.atMs n ms).fullMs = m :: rest := by
  rcases h with ⟨hf, hs⟩ | ⟨hf, rfl, h64, hn, rfl⟩
  · rw [Sense.atMs_same hs, hf]
  · have some_codes : q.msA ≠ [] := fun e => by simp [e] at h64
    rw [Sense.atMs_other some_codes hn, Sense.closeMs]
    dsimp only
    rw [if_pos h64, hf]
    rfl

/-- The sums do not depend on the millisecond. -/
theorem Sense.atMs_sums (q : Sense) (n : BitVec 48) (ms : Nat) : (q.atMs n ms).sumA = q.sumA ∧ (q.atMs n ms).count = q.count := by
  unfold Sense.atMs
  split <;> exact ⟨rfl, rfl⟩

/-- The SENSE frames of a millisecond. -/
def MsBlock.msg (m : MsBlock) : SpineMsg := .sense m.stamp m.index m.a m.b m.mains

/-- The hub after a millisecond's SENSE frames, where it leads a partner. -/
def State.sensed (s : State) (m : MsBlock) : State := if s.leads && s.spine.partner then s.sendSeq m.msg else s

/-- The hub after a millisecond is taken, before its means are tested. -/
def State.meansTaken (s : State) (m : MsBlock) (rest : List MsBlock) : State :=
  { s.sensed m with sense := { s.sense.atMs s.msNow.1 s.msNow.2 with fullMs := rest, lastMs := some (m.a, m.b) } }

/-- CURRENT_MEAN takes the first millisecond that has ended, and tests its means. -/
theorem exec_currentMean {t : Tick} {s : State} {m : MsBlock} {rest : List MsBlock} (ht : s.ticking = true)
    (hf : (s.sense.atMs (s.advance t).msNow.1 (s.advance t).msNow.2).fullMs = m :: rest) :
    exec (.currentMean t) s = .next ((s.advance t).settle
      (((s.advance t).meansTaken m rest).testCurrents (divr m.a.sum m.a.length) (divr m.b.sum m.b.length))) := by
  have hf' : ((s.advance t).sense.atMs (s.advance t).msNow.1 (s.advance t).msNow.2).fullMs = m :: rest := hf
  have some_full : (!((s.advance t).sense.atMs (s.advance t).msNow.1 (s.advance t).msNow.2).fullMs.isEmpty) = true := by rw [hf']; rfl
  show execCurrentMean t s = _
  refine (occurs_of ?_).trans ?_
  · simp only [Bool.and_eq_true]
    exact ⟨ht, some_full⟩
  · simp only [hf']
    rfl

/-- SENSE frames leave nodes and cells. -/
theorem State.sensed_keeps (s : State) (m : MsBlock) : (s.sensed m).nodes = s.nodes ∧ (s.sensed m).cells = s.cells := by
  obtain ⟨-, -, -, hn, hc⟩ := State.sendParts_seq m.msg s m.msg.frames
  unfold State.sensed State.sendSeq
  split
  · split
    · exact ⟨rfl, rfl⟩
    · exact ⟨hn, hc⟩
  · exact ⟨rfl, rfl⟩

/-- On an UP link the frames take their sequences, and while the buffers have room they are kept. -/
theorem State.sensed_sends {s : State} (m : MsBlock) (hl : s.leads = true) (hp : s.spine.partner = true) (hu : s.spine.state = .up) :
    (s.sensed m).spine.txSeq = s.spine.txSeq + BitVec.ofNat 16 m.msg.frames
      ∧ (s.outstanding + m.msg.held ≤ spineBuffer → (s.sensed m).spine.sent = s.spine.sent ++ (List.range m.msg.frames).map fun i =>
          { seq := s.spine.txSeq + BitVec.ofNat 16 (i + 1), stamp := s.stamp.number, msg := m.msg, part := i }) := by
  have sends : s.sensed m = (List.range m.msg.frames).foldl (fun s i => s.sendPart m.msg i) s := by
    rw [State.sensed, if_pos (by rw [hl, hp]; rfl), State.sendSeq, if_neg (by simp [hu])]
  rw [sends]
  refine ⟨(State.sendParts_seq m.msg s m.msg.frames).1, fun room => ?_⟩
  exact (State.sendParts_sent m.msg s m.msg.frames (by rw [SpineMsg.heldBy_frames]; exact room)).1

/-! ## Heartbeats (12 R346, R348) -/

theorem leBytes_length (n v : Nat) : (leBytes n v).length = n := by
  induction n generalizing v with
  | zero => rfl
  | succ n ih => rw [leBytes, List.length_cons, ih]

/-- What goes out for a frame's text, and its tag: in secured mode the text enciphered under the frame's header, else the text and no tag. -/
def State.lineText (s : State) (hdr : BitVec 128) (text : Bytes) : Bytes × Bytes :=
  let nonce := spineNonce s.spine.session s.spine.txCount s.spine.sideB
  if s.getN .spineSecure = 1 then
    (gcmText s.spineKeyBytes nonce text, (gcmTag s.spineKeyBytes nonce (leBytes 16 hdr.toNat) (gcmText s.spineKeyBytes nonce text)).take 8)
  else (text, [])

theorem State.lineText_clear {s : State} (hdr : BitVec 128) (text : Bytes) (h : s.getN .spineSecure ≠ 1) :
    (s.lineText hdr text).1 = text ∧ (s.lineText hdr text).2 = [] := by
  simp only [State.lineText, if_neg h, and_self]

theorem State.lineText_secured {s : State} (hdr : BitVec 128) (text : Bytes) (h : s.getN .spineSecure = 1) :
    let nonce := spineNonce s.spine.session s.spine.txCount s.spine.sideB
    (s.lineText hdr text).1 = gcmText s.spineKeyBytes nonce text
      ∧ (s.lineText hdr text).2 = (gcmTag s.spineKeyBytes nonce (leBytes 16 hdr.toNat) (s.lineText hdr text).1).take 8 := by
  simp only [State.lineText, if_pos h, and_self]

/-- An unsequenced frame that is not TRAIN leaves on the line. -/
theorem State.sendFree_eq (s : State) {m : SpineMsg} (h : m.ftype ≠ 1) :
    let hdr := s.headerOf m 0 s.spine.txSeq s.stamp.number
    let x := s.lineText hdr (m.part 0)
    s.sendFree m = { s with
      out := .spine m 0 hdr x.1 x.2 (crc32 (leBytes 16 hdr.toNat ++ x.1)) :: s.out
      spine := { s.spine with
        txCount := s.spine.txCount + if s.getN .spineSecure = 1 then 1 else 0
        scram := scramAfter (8 * (20 + x.1.length + x.2.length)) scramStart
        lineFree := max s.now s.spine.lineFree + symbolSpan (32 + 4 * (20 + x.1.length + x.2.length)) } } := by
  have plain : (m.ftype != 1) = true := bne_iff_ne.2 h
  by_cases hs : s.getN .spineSecure = 1
  · simp [State.sendFree, State.putSpine, State.headerOf, State.lineText, plain, hs]
  · simp [State.sendFree, State.putSpine, State.headerOf, State.lineText, hs]

/-- A heartbeat is one frame of 16 bytes. -/
theorem SpineMsg.heartbeat_part (p : BitVec 128) : (SpineMsg.heartbeat p).part 0 = leBytes 16 p.toNat := by
  simp [SpineMsg.part, SpineMsg.bytes, List.take_of_length_le, leBytes_length]

/-- HEARTBEAT_SEND, on an UP link of a hub whose role is decided. -/
theorem exec_heartbeatSend {t : Tick} {s : State} (hs : s.sound = true) (ht : s.ticking = true) (hu : s.spine.state = .up)
    (hd : s.roleSt.decided = true) (hb : s.spine.nextBeat ≤ s.at t) :
    let m : SpineMsg := .heartbeat (s.advance t).heartbeat
    let hdr := s.headerOf m 0 s.spine.txSeq s.stamp.number
    let x := s.lineText hdr (leBytes 16 (s.advance t).heartbeat.toNat)
    exec (.heartbeatSend t) s = .next { s with
      now := s.at t
      out := .spine m 0 hdr x.1 x.2 (crc32 (leBytes 16 hdr.toNat ++ x.1)) :: s.out
      spine := { s.spine with
        txCount := s.spine.txCount + if s.getN .spineSecure = 1 then 1 else 0
        scram := scramAfter (8 * (20 + x.1.length + x.2.length)) 0x7FFFFF#23
        lineFree := max (s.at t) s.spine.lineFree + symbolSpan (32 + 4 * (20 + x.1.length + x.2.length))
        beatAt := some (s.at t)
        nextBeat := s.stamp.t0 + ((s.at t - s.stamp.t0) / (250 * usTicks) + 1) * (250 * usTicks) } } := by
  have sent := (s.advance t).sendFree_eq (m := .heartbeat (s.advance t).heartbeat) (by simp [SpineMsg.ftype])
  rw [SpineMsg.heartbeat_part] at sent
  show execHeartbeatSend t s = _
  refine (occurs_of ?_).trans ?_
  · simp only [Bool.and_eq_true, beq_iff_eq, decide_eq_true_eq]
    exact ⟨⟨⟨ht, hu⟩, hd⟩, hb⟩
  · dsimp only at sent ⊢
    rw [sent, settle_eq]
    · rfl
    · exact hs
    · rfl

end Sys2Proof.Machine

namespace Sys2Proof.Machine

/-! ## The forms of the stamp point -/

/-- ADMISSION_PASS: what it leaves of its stack, the stamp and the settings. -/
theorem admissionPass_forms {t : Tick} {k : Nat} {s : State} (hk : k < 4) (h4 : s.stackList.length = 4) (hup : s.up = true)
    (ha : s.steward.aDown = none) (hh : s.steward.holdTo ≤ s.stamp.number) (hp : (s.stk k).passDone = false) (hr : (s.stk k).running = []) :
    Answers (.admissionPass t k) s fun n =>
      (n.stk k).passDone = true ∧ (n.stk k).overrun = false ∧ n.stamp = s.stamp ∧ n.settings = s.settings
        ∧ ((s.stk k).usable = true → (n.stk k).paying = (s.stk k).debts ∧ (n.stk k).debts = []) := by
  have keeps := State.pass_keeps (s := s.advance t) (k := k) (h4 ▸ hk)
  have settings : ((s.advance t).pass k).settings = s.settings := congrArg Base.settings ((s.advance t).pass_base k)
  refine ⟨_, exec_admissionPass hk hup ha hh hp hr, ?_⟩
  generalize (s.advance t).pass k = n at *
  obtain ⟨hd, ho, ht, hu⟩ := keeps
  exact ⟨hd, ho, ht, settings, hu⟩

/-- CONVERSION on a hub that takes its own codes: the sums, the millisecond, the sample mark and the mains samples. -/
theorem State.converted_forms {s : State} (a b : Int) (v : Option (List Int)) (h : s.isStandby = false) :
    let q := s.sense
    let n := s.converted a b v
    let same : Prop := (q.msStamp, q.msIndex) = s.msNow
    n.sense.lastConv = some s.now ∧ (n.sense.msStamp, n.sense.msIndex) = s.msNow
      ∧ n.sense.sumA = q.sumA + a ∧ n.sense.sumB = q.sumB + b ∧ n.sense.count = q.count + 1
      ∧ (q.msA = [] ∨ same → n.sense.msA = q.msA ++ [a] ∧ n.sense.msB = q.msB ++ [b] ∧ n.sense.fullMs = q.fullMs
          ∧ n.sense.msMains = q.msMains ++ v.toList)
      ∧ (q.msA ≠ [] → ¬ same → n.sense.msA = [a] ∧ n.sense.msB = [b] ∧ n.sense.msMains = v.toList
          ∧ n.sense.fullMs = q.fullMs
              ++ (if q.msA.length = 64 then [{ stamp := q.msStamp, index := q.msIndex, a := q.msA, b := q.msB, mains := q.msMains }] else []))
      ∧ (s.now = s.stamp.t0 + 100 * usTicks →
          n.sense.markA = a ∧ n.sense.markB = b
            ∧ n.sense.cums = (s.stamp.number, n.sense.sumA, n.sense.sumB, n.sense.count) :: q.cums
            ∧ n.sense.stampA = n.sense.sumA - ((q.cums.head?.map fun c => c.2.1).getD 0)
            ∧ n.sense.stampB = n.sense.sumB - ((q.cums.head?.map fun c => c.2.2.1).getD 0)
            ∧ n.sense.stampN = n.sense.count - ((q.cums.head?.map fun c => c.2.2.2).getD 0))
      ∧ (s.now ≠ s.stamp.t0 + 100 * usTicks → n.sense.cums = q.cums ∧ n.sense.markA = q.markA ∧ n.sense.markB = q.markB)
      ∧ n.mains.samples = s.mains.samples ++ v.toList.map s.mainsA16 := by
  obtain ⟨sense, samples⟩ := State.converted_taken a b v h
  obtain ⟨hl, hm, hA, hB, hN⟩ := s.taken_sums a b
  dsimp only
  rw [sense]
  refine ⟨hl, hm, hA, hB, hN, fun same => ?_, fun some_codes other => ?_, s.taken_mark a b, s.taken_unmarked a b, samples⟩
  · obtain ⟨h1, h2, h3, h4⟩ := State.taken_same a b same
    exact ⟨h1, h2, h3, congrArg (· ++ v.toList) h4⟩
  · obtain ⟨h1, h2, h3, h4⟩ := State.taken_other a b some_codes other
    exact ⟨h1, h2, by rw [h3, List.nil_append], h4⟩

/-- CURRENT_MEAN: the millisecond is taken, and sent to a partner on an UP link. -/
theorem currentMean_forms {t : Tick} {s : State} {m : MsBlock} {rest : List MsBlock} (ht : s.ticking = true)
    (hf : (s.sense.atMs (s.advance t).msNow.1 (s.advance t).msNow.2).fullMs = m :: rest) :
    Answers (.currentMean t) s fun n =>
      n.sense.lastMs = some (m.a, m.b) ∧ n.sense.fullMs = rest ∧ n.sense.sumA = s.sense.sumA ∧ n.sense.count = s.sense.count
        ∧ n.nodes = s.nodes ∧ n.cells = s.cells
        ∧ (s.leads = true → s.spine.partner = true → s.spine.state = .up →
            n.spine.txSeq = s.spine.txSeq + BitVec.ofNat 16 m.msg.frames
              ∧ (s.outstanding + m.msg.held ≤ 524288 → n.spine.sent = s.spine.sent ++ (List.range m.msg.frames).map fun i =>
                  { seq := s.spine.txSeq + BitVec.ofNat 16 (i + 1), stamp := s.stamp.number, msg := m.msg, part := i })) := by
  have tested := ((s.advance t).meansTaken m rest).testCurrents_tests (divr m.a.sum m.a.length) (divr m.b.sum m.b.length)
  obtain ⟨hA, hN⟩ := s.sense.atMs_sums (s.advance t).msNow.1 (s.advance t).msNow.2
  obtain ⟨nodes, cells⟩ := (s.advance t).sensed_keeps m
  have sends := State.sensed_sends (s := s.advance t) m
  have spine : ((s.advance t).meansTaken m rest).spine = ((s.advance t).sensed m).spine := rfl
  refine ⟨_, exec_currentMean ht hf, ?_⟩
  generalize ((s.advance t).meansTaken m rest).testCurrents _ _ = n at tested
  obtain ⟨hs, hn, hc, hsp⟩ := tested
  rw [spine] at hsp
  refine ⟨congrArg Sense.lastMs hs, congrArg Sense.fullMs hs, (congrArg Sense.sumA hs).trans hA, (congrArg Sense.count hs).trans hN,
    hn.trans nodes, hc.trans cells, fun hl hp hu => ?_⟩
  show n.spine.txSeq = _ ∧ (_ → n.spine.sent = _)
  rw [hsp]
  exact sends hl hp hu

/-- Settles O13: one form after the other. -/
theorem stampPointForms : Obligations.StampPointForms := by
  intro t s hs
  refine ⟨fun k hk h4 hup ha hh hp hr => admissionPass_forms hk h4 hup ha hh hp hr, exec_sampleMark hs,
    fun h0 h => State.msNow_within (s := s.advance t) h h0, fun ia ib v ht h0 hc hv hl => ?_, fun m rest ht h => ?_, fun ht hu hd hb => ?_⟩
  · have standby := State.converted_standby (s := s.advance t) (frontCode ia) (frontCode ib) (v.map fun xs => xs.map frontCode)
    have taken := State.converted_forms (s := s.advance t) (frontCode ia) (frontCode ib) (v.map fun xs => xs.map frontCode)
    obtain ⟨hm, hst, hn⟩ := (s.advance t).converted_rest (frontCode ia) (frontCode ib) (v.map fun xs => xs.map frontCode)
    refine ⟨_, exec_conversion ia ib v ht h0 hc hv hl, ?_⟩
    generalize (s.advance t).converted (frontCode ia) (frontCode ib) (v.map fun xs => xs.map frontCode) = n at *
    have codes : (v.map fun xs => xs.map frontCode).toList = v.toList.map fun xs => xs.map frontCode := by cases v <;> rfl
    have rows : (v.toList.map fun xs => xs.map frontCode).map (s.advance t).mainsA16
        = v.toList.map fun xs => xs.map fun x => sat (rnd (frontCode x) (s.getN .mainsShift)) 16 := by
      cases v with
      | none => rfl
      | some xs => simp only [Option.toList_some, List.map_cons, List.map_nil, State.mainsA16, List.map_map]; rfl
    rw [codes, rows] at taken
    exact ⟨standby, taken, fun hv => hm (by rw [hv]; rfl), hst, hn⟩
  · exact currentMean_forms ht (Sense.atMs_full h)
  · have sent := exec_heartbeatSend hs ht hu hd hb
    have clear := State.lineText_clear (s := s) (s.headerOf (.heartbeat (s.advance t).heartbeat) 0 s.spine.txSeq s.stamp.number)
      (leBytes 16 (s.advance t).heartbeat.toNat)
    have secured := State.lineText_secured (s := s) (s.headerOf (.heartbeat (s.advance t).heartbeat) 0 s.spine.txSeq s.stamp.number)
      (leBytes 16 (s.advance t).heartbeat.toNat)
    dsimp only at sent ⊢
    generalize s.lineText _ _ = x at sent clear secured
    exact ⟨x.1, x.2, sent, clear, secured⟩

end Sys2Proof.Machine

/-! # The stores of the stacks (O40)

Most operations of the hub leave the list of stacks alone, and most of the others change the bookkeeping of a stack and none of its bytes.
The two tables below say so, operation by operation in the order of the model, and `simp` carries them through the operations built of
others. What writes bytes is left: the reinitialisation of a stack, the weight store and tags at a fill, the carrel at the end of a
descriptor. Each is shown to keep the canonical form, and so is every command built of them. -/

namespace Sys2Proof.Machine

/-! ## What leaves the list of stacks as it is -/

theorem stackList_foldl {α : Type} {f : State → α → State} (h : ∀ s x, (f s x).stackList = s.stackList) (xs : List α) (s : State) :
    (xs.foldl f s).stackList = s.stackList := by
  induction xs generalizing s with
  | nil => rfl
  | cons x xs ih => rw [List.foldl_cons, ih, h]
@[simp] theorem ite_stackList (c : Prop) [Decidable c] (a b : State) : (if c then a else b).stackList = if c then a.stackList else b.stackList :=
  apply_ite _ _ _ _
@[simp] theorem State.countPowerUp_stackList (s : State) : s.countPowerUp.stackList = s.stackList := by rfl
@[simp] theorem State.enableRail_stackList (s : State) (k : Nat) : (s.enableRail k).stackList = s.stackList := by rfl
@[simp] theorem State.restartRails_stackList (s : State) : s.restartRails.stackList = s.stackList := by simp [State.restartRails]
@[simp] theorem State.blow_stackList (s : State) (bits : Nat) : (s.blow bits).stackList = s.stackList := by rfl
@[simp] theorem State.driveTck_stackList (s : State) : s.driveTck.stackList = s.stackList := by rfl
@[simp] theorem State.scheduleInventory_stackList (s : State) : s.scheduleInventory.stackList = s.stackList := by rfl
@[simp] theorem State.flushMail_stackList (s : State) : s.flushMail.stackList = s.stackList := by
  unfold State.flushMail
  repeat' split
  all_goals simp
@[simp] theorem State.sendLine_stackList (s : State) (u : Sess) (tag : Option Nat) (l : HubLine) : (s.sendLine u tag l).stackList = s.stackList := by
  unfold State.sendLine
  split <;> simp
@[simp] theorem State.notify_stackList (s : State) (w : String) (fs : List (String × RVal)) : (s.notify w fs).stackList = s.stackList := by
  simp [State.notify]
@[simp] theorem State.setSpine_stackList (s : State) (x : SpineState) : (s.setSpine x).stackList = s.stackList := by simp [State.setSpine]
@[simp] theorem State.freeNat_stackList (s : State) : s.freeNat.2.stackList = s.stackList := by rfl
@[simp] theorem State.startTraining_stackList (s : State) : s.startTraining.stackList = s.stackList := by simp [State.startTraining]
@[simp] theorem State.record_stackList (s : State) (c : ChargeSt) (op index : Nat) (fin : Bool) (status cycles drift detail : Nat) :
    (s.record c op index fin status cycles drift detail).stackList = s.stackList := by rfl
@[simp] theorem State.dropUnlent_stackList (s : State) (slot stack : Nat) : (s.dropUnlent slot stack).stackList = s.stackList := by
  simp [State.dropUnlent, stackList_foldl]
@[simp] theorem State.keepWeeding_stackList (s : State) (stack : Nat) : (s.keepWeeding stack).stackList = s.stackList := by rfl
@[simp] theorem State.lapseOf_stackList (s : State) (stack cause : Nat) (pick : LoanChange → Bool) :
    (s.lapseOf stack cause pick).stackList = s.stackList := by
  simp [State.lapseOf, stackList_foldl]
@[simp] theorem State.lapse_stackList (s : State) (stack cause : Nat) : (s.lapse stack cause).stackList = s.stackList := by simp [State.lapse]
@[simp] theorem State.setRole_stackList (s : State) (r : Role) : (s.setRole r).stackList = s.stackList := by simp [State.setRole]
@[simp] theorem State.queueBroadcast_stackList (s : State) (m : Msg) : (s.queueBroadcast m).stackList = s.stackList := by rfl
@[simp] theorem State.queueMsg_stackList (s : State) (m : Msg) : (s.queueMsg m).stackList = s.stackList := by rfl
@[simp] theorem State.syncConfigs_stackList (s : State) (broadcast : Bool) : (s.syncConfigs broadcast).stackList = s.stackList := by
  simp [State.syncConfigs, stackList_foldl]
@[simp] theorem State.wakeChain_stackList (s : State) : s.wakeChain.stackList = s.stackList := by simp [State.wakeChain]
@[simp] theorem State.becomePrimary_stackList (s : State) : s.becomePrimary.stackList = s.stackList := by simp [State.becomePrimary]
@[simp] theorem State.putSpine_stackList (s : State) (seq : BitVec 16) (stamp : BitVec 48) (m : SpineMsg) (part : Nat) :
    (s.putSpine seq stamp m part).stackList = s.stackList := by rfl
@[simp] theorem State.sendPart_stackList (s : State) (m : SpineMsg) (part : Nat) : (s.sendPart m part).stackList = s.stackList := by rfl
@[simp] theorem State.sendSeq_stackList (s : State) (m : SpineMsg) : (s.sendSeq m).stackList = s.stackList := by simp [State.sendSeq, stackList_foldl]
@[simp] theorem State.claim_stackList (s : State) : s.claim.stackList = s.stackList := by simp [State.claim]
@[simp] theorem freeBytes_stackList (n : Nat) (s : State) : (freeBytes n s).2.stackList = s.stackList := by
  induction n generalizing s with
  | zero => rfl
  | succ n ih => simp [freeBytes, ih]
@[simp] theorem State.runScriptOf_stackList (s : State) (scripts : List (Nat × Option Nat × Bytes)) (x : Nat) (centre : Option Nat) :
    (s.runScriptOf scripts x centre).stackList = s.stackList := by
  unfold State.runScriptOf
  split <;> simp
@[simp] theorem State.runScript_stackList (s : State) (x : Nat) (centre : Option Nat) : (s.runScript x centre).stackList = s.stackList := by
  simp [State.runScript]
@[simp] theorem State.startAir_stackList (s : State) : s.startAir.stackList = s.stackList := by simp [State.startAir, stackList_foldl]
@[simp] theorem State.remapCells_stackList (s : State) : s.remapCells.stackList = s.stackList := by rfl
@[simp] theorem State.endRestore_stackList (s : State) : s.endRestore.stackList = s.stackList := by simp [State.endRestore]
@[simp] theorem State.beginRestore_stackList (s : State) : s.beginRestore.stackList = s.stackList := by simp [State.beginRestore]
@[simp] theorem State.modStream_stackList (s : State) (sid : Nat) (f : StreamSt → StreamSt) : (s.modStream sid f).stackList = s.stackList := by rfl
@[simp] theorem State.restoreRecord_stackList (s : State) (r : Nat × Image) : (s.restoreRecord r).stackList = s.stackList := by
  simp [State.restoreRecord]
@[simp] theorem State.modBurst_stackList (s : State) (lch pos : Nat) (f : BurstSt → BurstSt) :
    (s.modBurst lch pos f).stackList = s.stackList := by rfl
@[simp] theorem State.decodeLost_stackList (s : State) (c : ChargeSt) : (s.decodeLost c).stackList = s.stackList := by
  unfold State.decodeLost
  split <;> simp
@[simp] theorem State.requeueFirst_stackList (s : State) (c : ChargeSt) (eligible : BitVec 48) :
    (s.requeueFirst c eligible).stackList = s.stackList := by rfl
@[simp] theorem State.placePark_stackList (paid : Bool) (s : State) (x : StreamSt) : (State.placePark paid s x).stackList = s.stackList := by
  simp [State.placePark]
@[simp] theorem State.placeParks_stackList (s : State) (k slot : Nat) : (s.placeParks k slot).stackList = s.stackList := by
  unfold State.placeParks
  split <;> simp [stackList_foldl]
@[simp] theorem State.moveCharge_stackList (s : State) (c : ChargeSt) (dst : Nat × Nat) : (s.moveCharge c dst).stackList = s.stackList := by
  unfold State.moveCharge
  split <;> simp
@[simp] theorem State.rehome_stackList (s : State) : s.rehome.stackList = s.stackList := by
  refine stackList_foldl (fun s c => ?_) _ _
  split <;> simp
@[simp] theorem State.noteEnd_stackList (s : State) (id : Nat) : (s.noteEnd id).stackList = s.stackList := by rfl
@[simp] theorem State.loseCopies_stackList (s : State) (lost : List Nat) : (s.loseCopies lost).stackList = s.stackList := by rfl
@[simp] theorem State.queueCharge_stackList (s : State) (c : ChargeSt) (first : Bool) : (s.queueCharge c first).stackList = s.stackList := by rfl
@[simp] theorem State.parkAll_stackList (s : State) (f : StreamSt → Bool) : (s.parkAll f).stackList = s.stackList := by rfl
@[simp] theorem State.clearTensors_stackList (s : State) (p : Nat) : (s.clearTensors p).stackList = s.stackList := by rfl
@[simp] theorem State.queueFills_stackList (s : State) (f : FolioInfo) (slot stack : Nat) (layers : List (Nat × List Nat)) :
    (s.queueFills f slot stack layers).stackList = s.stackList := by
  simp [State.queueFills, stackList_foldl]
@[simp] theorem State.keepLoans_stackList (s : State) : s.keepLoans.stackList = s.stackList := by simp [State.keepLoans]
@[simp] theorem State.keepHeads_stackList (s : State) (c : ChargeSt) (d : BitVec 512) : (s.keepHeads c d).stackList = s.stackList := by
  unfold State.keepHeads
  split <;> simp
@[simp] theorem State.restoreRow_stackList (s : State) (c : ChargeSt) (row : Nat) (x : StreamSt) (l : Nat) :
    (s.restoreRow c row x l).stackList = s.stackList := by
  simp [State.restoreRow]
@[simp] theorem State.driftCheck_stackList (s : State) (slot sid drift : Nat) (shadow : List Int) :
    (s.driftCheck slot sid drift shadow).stackList = s.stackList := by
  simp [State.driftCheck]
@[simp] theorem State.logAct_stackList (s : State) (e : LogEntry) : (s.logAct e).stackList = s.stackList := by rfl
@[simp] theorem State.act_stackList (s : State) (r : SealRec) (xs : Bits) : (s.act r xs).stackList = s.stackList := by simp [State.act]
@[simp] theorem State.actOn_stackList (s : State) (live : Bool) (r : SealRec) (xs : Bits) : (s.actOn live r xs).stackList = s.stackList := by
  simp [State.actOn]
@[simp] theorem State.shiftActs_stackList (s : State) (live : Bool) (sid : Nat) (old new : List Nat) :
    (s.shiftActs live sid old new).stackList = s.stackList := by
  simp [State.shiftActs, stackList_foldl]
@[simp] theorem State.takeClips_stackList (s : State) (slot : Nat) (clips : List ClipCount) :
    (s.takeClips slot clips).stackList = s.stackList := by rfl
@[simp] theorem State.dropRecord_stackList (s : State) (p : SealRec → Bool) : (s.dropRecord p).stackList = s.stackList := by rfl
@[simp] theorem State.logCommitted_stackList (s : State) (sid : Nat) (sample : BitVec 48) (shifts : List Nat) :
    (s.logCommitted sid sample shifts).stackList = s.stackList := by rfl
@[simp] theorem State.remember_stackList (s : State) (sid : Nat) (row : List Int) (forecast : Int) :
    (s.remember sid row forecast).stackList = s.stackList := by rfl
@[simp] theorem State.advise_stackList (s : State) (sid : Nat) (l : Learned) : (s.advise sid l).stackList = s.stackList := by
  simp [State.advise, stackList_foldl]
@[simp] theorem State.compareQuant_stackList (s : State) (sid q learned twin : Nat) :
    (s.compareQuant sid q learned twin).stackList = s.stackList := by
  unfold State.compareQuant
  split <;> simp
@[simp] theorem State.compareCell_stackList (s : State) (sid : Nat) (l : Learned) : (s.compareCell sid l).stackList = s.stackList := by
  unfold State.compareCell
  split <;> simp
@[simp] theorem State.commitLive_stackList (s : State) (sid : Nat) (u : Unsealed) : (s.commitLive sid u).stackList = s.stackList := by
  simp [State.commitLive]
@[simp] theorem State.commitStepRow_stackList (s : State) (c : ChargeSt) (f : FolioInfo) (p : Nat × StreamSt) (l : Nat) :
    (s.commitStepRow c f p l).stackList = s.stackList := by
  unfold State.commitStepRow
  dsimp only
  repeat' split
  all_goals simp
@[simp] theorem State.commitState_stackList (s : State) (sid : Nat) (state : List (List Int)) :
    (s.commitState sid state).stackList = s.stackList := by
  simp [State.commitState]
@[simp] theorem State.commitRebuild_stackList (s : State) (sid : Nat) (needs : List (Nat × Nat)) (last : Bool) :
    (s.commitRebuild sid needs last).stackList = s.stackList := by
  simp [State.commitRebuild]
@[simp] theorem State.countElements_stackList (s : State) (c : ChargeSt) (pick : ClipCount → Bool) :
    (s.countElements c pick).stackList = s.stackList := by
  simp [State.countElements]
@[simp] theorem State.modRing_stackList (s : State) (r : Nat) (f : Ring → Ring) : (s.modRing r f).stackList = s.stackList := by rfl
@[simp] theorem State.dropFrame_stackList (s : State) (r : Nat) : (s.dropFrame r).stackList = s.stackList := by rfl
@[simp] theorem State.rollFrames_stackList (s : State) (r : Request) (c : RollCell) (colophon : Bytes) :
    (s.rollFrames r c colophon).stackList = s.stackList := by
  simp [State.rollFrames, stackList_foldl]
@[simp] theorem State.rollCellEnd_stackList (s : State) (num sid : Nat) (colophon : Bytes) :
    (s.rollCellEnd num sid colophon).stackList = s.stackList := by
  unfold State.rollCellEnd
  dsimp only
  repeat' split
  all_goals simp
@[simp] theorem State.rolloutEnd_stackList (s : State) (id : Nat) : (s.rolloutEnd id).stackList = s.stackList := by
  unfold State.rolloutEnd
  repeat' split
  all_goals simp
@[simp] theorem State.rollChunk_stackList (s : State) (r : Request) (sid index : Nat) (heads : List (List Int)) :
    (s.rollChunk r sid index heads).stackList = s.stackList := by rfl
@[simp] theorem State.lateDrift_stackList (s : State) (c : ChargeSt) (row : Nat) : (s.lateDrift c row).stackList = s.stackList := by
  unfold State.lateDrift
  split <;> simp
@[simp] theorem State.takeOuts_stackList (s : State) (id : Nat) : (s.takeOuts id).stackList = s.stackList := by
  unfold State.takeOuts
  split <;> simp
@[simp] theorem State.trimLog_stackList (s : State) : s.trimLog.stackList = s.stackList := by rfl
@[simp] theorem State.mainsCommit_stackList (s : State) (features : List Int) : (s.mainsCommit features).stackList = s.stackList := by
  simp [State.mainsCommit]
@[simp] theorem State.keepGrads_stackList (s : State) (c : ChargeSt) : (s.keepGrads c).stackList = s.stackList := by
  unfold State.keepGrads
  split <;> simp
@[simp] theorem State.jobChunkEnd_stackList (s : State) (c : ChargeSt) (num sid : Nat) (last : Bool) :
    (s.jobChunkEnd c num sid last).stackList = s.stackList := by
  unfold State.jobChunkEnd
  split <;> simp
@[simp] theorem State.endKind_stackList (s : State) (c : ChargeSt) : (s.endKind c).stackList = s.stackList := by
  unfold State.endKind
  repeat' split
  all_goals simp
@[simp] theorem State.parkNow_stackList (s : State) (sid : Nat) : (s.parkNow sid).stackList = s.stackList := by rfl
theorem State.heldCard_stackList {s z : State} {f f' : HeldFrame} {w w' : StreamWait} (h : s.heldCard f w = some (z, f', w')) :
    z.stackList = s.stackList := by
  unfold State.heldCard at h
  split at h
  · split at h
    · cases h
    · simp only [Option.some.injEq, Prod.mk.injEq] at h
      simp [← h.1]
  · simp only [Option.some.injEq, Prod.mk.injEq] at h
    rw [← h.1]
@[simp] theorem flushReplies_stackList (u : Sess) (k : Nat) (s : State) : (flushReplies u k s).stackList = s.stackList := by
  obtain ⟨o, p, l, q, h⟩ := flushReplies_shape u k s
  rw [h]
@[simp] theorem State.flushSes_stackList (s : State) (u : Sess) : (s.flushSes u).stackList = s.stackList := by simp [State.flushSes]
@[simp] theorem State.answer_stackList (s : State) (u : Sess) (lineNo : Nat) (ls : List HubLine) :
    (s.answer u lineNo ls).stackList = s.stackList := by
  simp [State.answer]
@[simp] theorem State.dropRebuild_stackList (s : State) (sid : Nat) : (s.dropRebuild sid).stackList = s.stackList := by rfl
@[simp] theorem State.cardDone_stackList (s : State) (w : StreamWait) (copy : Bool) (gen step : Nat) :
    (s.cardDone w copy gen step).stackList = s.stackList := by
  simp [State.cardDone]
@[simp] theorem sendHeldCards_stackList (n : Nat) (s : State) : (sendHeldCards n s).stackList = s.stackList := by
  induction n generalizing s with
  | zero => rfl
  | succ n ih =>
    simp only [sendHeldCards]
    split
    · rfl
    · split
      · rfl
      · split
        · rfl
        · next h =>
          have hz := State.heldCard_stackList h
          split
          · rfl
          · rw [ih]
            split <;> simp [hz]
@[simp] theorem State.freeStream_stackList (s : State) (sid : Nat) : (s.freeStream sid).stackList = s.stackList := by simp [State.freeStream]
@[simp] theorem State.renewCell_stackList (s : State) (sid : Nat) (i : Image) : (s.renewCell sid i).stackList = s.stackList := by
  simp [State.renewCell]
@[simp] theorem State.createStream_stackList (s : State) (f : FolioInfo) (sid slot : Nat) (portable live : Bool) (seed : BitVec 64) :
    (s.createStream f sid slot portable live seed).stackList = s.stackList := by
  simp [State.createStream]
@[simp] theorem State.importStream_stackList (s : State) (sid slot : Nat) (live : Bool) (img : Image) :
    (s.importStream sid slot live img).stackList = s.stackList := by
  simp [State.importStream]
@[simp] theorem State.serveWait_stackList (s : State) (w : StreamWait) : (s.serveWait w).stackList = s.stackList := by
  unfold State.serveWait
  repeat' split
  all_goals simp
@[simp] theorem serveFrom_stackList (n : Nat) (a b : List StreamWait) (s : State) : (serveFrom n a b s).stackList = s.stackList := by
  induction n generalizing a b s with
  | zero => rfl
  | succ n ih =>
    cases b with
    | nil => rfl
    | cons w ws =>
      simp only [serveFrom]
      split <;> simp [ih]
@[simp] theorem State.serveWaits_stackList (s : State) : s.serveWaits.stackList = s.stackList := by simp [State.serveWaits]
@[simp] theorem State.recordDesc_stackList (s : State) (c : ChargeSt) (bits : BitVec 512) (index : Nat) (status cycles drift detail : Nat) :
    (s.recordDesc c bits index status cycles drift detail).stackList = s.stackList := by
  simp [State.recordDesc]
@[simp] theorem State.setHrdy_stackList (s : State) (b : Bool) : (s.setHrdy b).stackList = s.stackList := by rfl
@[simp] theorem State.countRelease_stackList (s : State) : s.countRelease.stackList = s.stackList := by
  unfold State.countRelease
  split <;> simp
@[simp] theorem State.nextBroadcast_stackList (s : State) : s.nextBroadcast.stackList = s.stackList := by
  unfold State.nextBroadcast
  dsimp only
  repeat' split
  all_goals simp
@[simp] theorem State.transmit_stackList (s : State) (lch : Nat) (at0 : Tick) (low : Nat) (payload : Bytes) (symbols : Nat) (clear : Tick) :
    (s.transmit lch at0 low payload symbols clear).stackList = s.stackList := by
  unfold State.transmit
  split <;> simp
@[simp] theorem State.sendBeacons_stackList (s : State) : s.sendBeacons.stackList = s.stackList := by simp [State.sendBeacons, stackList_foldl]
@[simp] theorem State.applyMode_stackList (s : State) : s.applyMode.stackList = s.stackList := by rfl
@[simp] theorem State.planFrame_stackList (s : State) : s.planFrame.stackList = s.stackList := by simp [State.planFrame]
@[simp] theorem State.queueRelease_stackList (s : State) : s.queueRelease.stackList = s.stackList := by
  unfold State.queueRelease
  split <;> simp
@[simp] theorem State.dropNodes_stackList (s : State) : s.dropNodes.stackList = s.stackList := by simp [State.dropNodes, stackList_foldl]
@[simp] theorem State.accBoundary_stackList (s : State) : s.accBoundary.stackList = s.stackList := by
  unfold State.accBoundary
  dsimp only
  split <;> simp
@[simp] theorem State.endBroadcast_stackList (s : State) : s.endBroadcast.stackList = s.stackList := by
  unfold State.endBroadcast
  split <;> simp
@[simp] theorem State.airBoundary_stackList (s : State) : s.airBoundary.stackList = s.stackList := by simp [State.airBoundary]
@[simp] theorem State.forward_stackList (s : State) (item : ConfigItem) (live : BitVec 48) : (s.forward item live).stackList = s.stackList := by
  unfold State.forward
  repeat' split
  all_goals simp
@[simp] theorem State.airAtBoundary_stackList (s : State) : s.airAtBoundary.stackList = s.stackList := by simp [State.airAtBoundary]
@[simp] theorem State.nameRailFault_stackList (s : State) : s.nameRailFault.stackList = s.stackList := by
  unfold State.nameRailFault
  split <;> simp
@[simp] theorem State.serviceFrames_stackList (s : State) (links : List Bytes) : (s.serviceFrames links).stackList = s.stackList := by
  unfold State.serviceFrames
  dsimp only
  split
  · rfl
  · exact ((State.sendFrame_work _ _ _ _ _ _).1.trans (stackList_foldl (fun s r => s.modPatron_stackList _ _) _ _)).trans
      (s.sendFrame_work _ _ _ _ _).1
@[simp] theorem State.scriptsLive_stackList (s : State) : s.scriptsLive.stackList = s.stackList := by simp [State.scriptsLive, stackList_foldl]
@[simp] theorem State.hold_stackList (s : State) (p : SName × Option Int) : (s.hold p).stackList = s.stackList := by
  unfold State.hold
  split <;> simp
@[simp] theorem State.setLive_stackList (s : State) (p : SName × Option Int) : (s.setLive p).stackList = s.stackList := by simp [State.setLive]
@[simp] theorem State.settingsLive_stackList (s : State) (new : List (SName × Option Int)) : (s.settingsLive new).stackList = s.stackList := by
  simp [State.settingsLive, stackList_foldl]
@[simp] theorem State.dropRebuilds_stackList (s : State) : s.dropRebuilds.stackList = s.stackList := by rfl
@[simp] theorem State.settingActs_stackList (s : State) : s.settingActs.stackList = s.stackList := by simp [State.settingActs, stackList_foldl]
@[simp] theorem State.goLive_stackList (s : State) : s.goLive.stackList = s.stackList := by simp [State.goLive]
@[simp] theorem State.takeMonitor_stackList (s : State) (p : Nat) : (s.takeMonitor p).stackList = s.stackList := by simp [State.takeMonitor]
@[simp] theorem State.driftFrame_stackList (s : State) (p : Nat) : (s.driftFrame p).stackList = s.stackList := by simp [State.driftFrame]
@[simp] theorem State.driftFrames_stackList (s : State) : s.driftFrames.stackList = s.stackList := by simp [State.driftFrames, stackList_foldl]
@[simp] theorem State.lapseRebuild_stackList (s : State) (p : Nat) : (s.lapseRebuild p).stackList = s.stackList := by simp [State.lapseRebuild]
@[simp] theorem State.moveMonitor_stackList (s : State) (p : Nat) : (s.moveMonitor p).stackList = s.stackList := by simp [State.moveMonitor]
@[simp] theorem State.monitors_stackList (s : State) : s.monitors.stackList = s.stackList := by simp [State.monitors, stackList_foldl]
@[simp] theorem State.clipPatron_stackList (s : State) (p : Nat) : (s.clipPatron p).stackList = s.stackList := by
  simp [State.clipPatron, stackList_foldl]
@[simp] theorem State.clipFrames_stackList (s : State) : s.clipFrames.stackList = s.stackList := by simp [State.clipFrames, stackList_foldl]
@[simp] theorem State.draftFills_stackList (s : State) : s.draftFills.stackList = s.stackList := by
  unfold State.draftFills
  dsimp only
  split
  · rfl
  · split
    · rfl
    · split
      · rfl
      · exact stackList_foldl (fun s w => by simp) _ _
@[simp] theorem State.numberBatches_stackList (s : State) : s.numberBatches.stackList = s.stackList := by
  refine stackList_foldl (fun s p => ?_) _ _
  split <;> simp
@[simp] theorem State.forwardLoan_stackList (s : State) (slot : Nat) (a : LoanAct) (b : BitVec 48) :
    (s.forwardLoan slot a b).stackList = s.stackList := by
  simp [State.forwardLoan]
@[simp] theorem State.acceptLoan_stackList (s : State) (slot : Nat) (ks : List Nat) (regions blocks claim pages : Nat) (begins : BitVec 48) (moveFrom : Option Nat) :
    (s.acceptLoan slot ks regions blocks claim pages begins moveFrom).stackList = s.stackList := by rfl
@[simp] theorem State.placeKeptLoan_stackList (s : State) (l : KeptLoan) : (s.placeKeptLoan l).stackList = s.stackList := by
  unfold State.placeKeptLoan
  repeat' split
  all_goals simp [stackList_foldl]
@[simp] theorem State.placeKept_stackList (s : State) : s.placeKept.stackList = s.stackList := by simp [State.placeKept, stackList_foldl]
@[simp] theorem State.keepLog_stackList (s : State) : s.keepLog.stackList = s.stackList := by rfl
@[simp] theorem State.countStamps_stackList (s : State) : s.countStamps.stackList = s.stackList := by rfl
@[simp] theorem State.resetLectern_stackList (s : State) : s.resetLectern.stackList = s.stackList := by rfl
@[simp] theorem State.nextStamp_stackList (s : State) (target : Option (BitVec 32 × BitVec 48)) (at0 : Tick) :
    (s.nextStamp target at0).stackList = s.stackList := by
  unfold State.nextStamp
  split <;> simp
@[simp] theorem State.beginCell_stackList (s : State) (r : Request) (c : RollCell) : (s.beginCell r c).1.stackList = s.stackList := by rfl
@[simp] theorem beginCells_stackList (r : Request) (cs : List RollCell) (s : State) : (beginCells r cs s).1.stackList = s.stackList := by
  induction cs generalizing s with
  | nil => rfl
  | cons c cs ih => simp [beginCells, ih]
@[simp] theorem State.beginRequests_stackList (s : State) (n : BitVec 48) : (s.beginRequests n).stackList = s.stackList := by
  refine stackList_foldl (fun s r => ?_) _ _
  dsimp only
  split <;> simp
@[simp] theorem State.keepInputs_stackList (s : State) (c : ChargeSt) (f : FolioInfo) (xs : List (Nat × Bytes)) :
    (s.keepInputs c f xs).stackList = s.stackList := by rfl
@[simp] theorem effBind_stackList (s : State) (c : ChargeSt) (d : BitVec 512) : (effBind s c d).s.stackList = s.stackList := by rfl
@[simp] theorem State.streamLost_stackList (s : State) (sid page : Nat) : (s.streamLost sid page).stackList = s.stackList := by
  unfold State.streamLost
  dsimp only
  repeat' split
  all_goals simp
@[simp] theorem effRecall_stackList (s : State) (c : ChargeSt) (d : BitVec 512) : (effRecall s c d).s.stackList = s.stackList := by
  unfold effRecall
  dsimp only
  repeat' split
  all_goals simp [stackList_foldl]
@[simp] theorem effPark_stackList (s : State) (c : ChargeSt) (d : BitVec 512) : (effPark s c d).s.stackList = s.stackList := by
  unfold effPark
  dsimp only
  split <;> simp
@[simp] theorem effCommit_stackList (s : State) (c : ChargeSt) (d : BitVec 512) : (effCommit s c d).s.stackList = s.stackList := by
  unfold effCommit
  dsimp only
  split <;> simp
@[simp] theorem effXfer_stackList (s : State) (c : ChargeSt) (d : BitVec 512) : (effXfer s c d).s.stackList = s.stackList := by
  unfold effXfer
  dsimp only
  split <;> simp
@[simp] theorem effShadow_stackList (s : State) (c : ChargeSt) (d : BitVec 512) : (effShadow s c d).s.stackList = s.stackList := by rfl
@[simp] theorem State.compareBehind_stackList (s : State) : s.compareBehind.stackList = s.stackList := by
  refine stackList_foldl (fun s c => ?_) _ _
  split <;> simp
@[simp] theorem State.runLateTwins_stackList (s : State) : s.runLateTwins.stackList = s.stackList := by rfl
@[simp] theorem State.endRota_stackList (s : State) : s.endRota.stackList = s.stackList := by rfl
@[simp] theorem State.countSilence_stackList (s : State) : s.countSilence.stackList = s.stackList := by rfl
@[simp] theorem State.countRxdiv_stackList (s : State) : s.countRxdiv.stackList = s.stackList := by simp [State.countRxdiv, stackList_foldl]
@[simp] theorem State.putLim_stackList (s : State) (x : LimSt) : (s.putLim x).stackList = s.stackList := by rfl
@[simp] theorem State.holdProtect_stackList (s : State) (code lim key value set : Nat) :
    (s.holdProtect code lim key value set).stackList = s.stackList := by rfl
@[simp] theorem State.clearLim_stackList (s : State) (x : LimSt) (a1 : Nat) : (s.clearLim x a1).stackList = s.stackList := by simp [State.clearLim]
@[simp] theorem State.writeRun_stackList (s : State) (evs : List Event) : (s.writeRun evs).stackList = s.stackList := by simp [State.writeRun]
@[simp] theorem writeRuns_stackList (w : Bool) (rs : List (List Event)) (s : State) : (writeRuns w rs s).stackList = s.stackList := by
  induction rs generalizing w s with
  | nil => rfl
  | cons r rs ih =>
    simp only [writeRuns]
    split <;> simp [ih]
@[simp] theorem discardEvents_stackList (k : Nat) (s : State) : (discardEvents k s).stackList = s.stackList := by
  induction k generalizing s with
  | zero => rfl
  | succ k ih =>
    simp only [discardEvents]
    repeat' split
    all_goals simp [ih]
@[simp] theorem State.writeEvents_stackList (s : State) : s.writeEvents.stackList = s.stackList := by simp [State.writeEvents]
@[simp] theorem State.raiseProtect_stackList (s : State) (lim key value set : Nat) : (s.raiseProtect lim key value set).stackList = s.stackList := by
  simp [State.raiseProtect]
@[simp] theorem State.testLimit_stackList (s : State) (l : Lim) (key a1 set : Nat) (value : Int) (trip clears : Bool) (debounce clearN : Nat) :
    (s.testLimit l key a1 set value trip clears debounce clearN).stackList = s.stackList := by
  simp [State.testLimit]
@[simp] theorem State.testSilent_stackList (s : State) (n : NodeSt) : (s.testSilent n).stackList = s.stackList := by simp [State.testSilent]
@[simp] theorem State.countSilentNodes_stackList (s : State) : s.countSilentNodes.stackList = s.stackList := by
  unfold State.countSilentNodes
  split
  · rfl
  · refine stackList_foldl (fun s n => ?_) _ _
    dsimp only
    split <;> simp
@[simp] theorem State.keepFrame_stackList (s : State) : s.keepFrame.stackList = s.stackList := by simp [State.keepFrame]
@[simp] theorem State.keepRows_stackList (s : State) : s.keepRows.stackList = s.stackList := by simp [State.keepRows]
@[simp] theorem State.countStale_stackList (s : State) (allStale : Bool) : (s.countStale allStale).stackList = s.stackList := by rfl
@[simp] theorem State.missFrame_stackList (s : State) : s.missFrame.stackList = s.stackList := by simp [State.missFrame]
@[simp] theorem State.writeKept_stackList (s : State) : s.writeKept.stackList = s.stackList := by simp [State.writeKept, stackList_foldl]
@[simp] theorem State.takeOver_stackList (s : State) : s.takeOver.stackList = s.stackList := by simp [State.takeOver]
@[simp] theorem State.takeCodes_stackList (s : State) (a b : Int) : (s.takeCodes a b).stackList = s.stackList := by simp [State.takeCodes]
@[simp] theorem State.takeMains_stackList (s : State) (codes : List Int) : (s.takeMains codes).stackList = s.stackList := by simp [State.takeMains]
@[simp] theorem State.testDisagree_stackList (s : State) (set : Nat) (a b : Int) : (s.testDisagree set a b).stackList = s.stackList := by
  unfold State.testDisagree
  split <;> simp
@[simp] theorem State.testCurrent_stackList (s : State) (set : Nat) (l : Lim) (ch : Nat) (m : Int) :
    (s.testCurrent set l ch m).stackList = s.stackList := by
  unfold State.testCurrent
  split <;> simp
@[simp] theorem State.testCurrents_stackList (s : State) (a b : Int) : (s.testCurrents a b).stackList = s.stackList := by
  simp [State.testCurrents, stackList_foldl]
@[simp] theorem State.sendFree_stackList (s : State) (m : SpineMsg) : (s.sendFree m).stackList = s.stackList := by rfl
@[simp] theorem State.logSteps_stackList (s : State) (c : ChargeSt) : (s.logSteps c).stackList = s.stackList := by
  unfold State.logSteps
  split <;> simp
@[simp] theorem State.takeShifts_stackList (s : State) (sid : Nat) : (s.takeShifts sid).stackList = s.stackList := by
  refine stackList_foldl (fun s r => ?_) _ _
  split <;> simp
@[simp] theorem State.markSubmitted_stackList (s : State) (c : ChargeSt) : (s.markSubmitted c).stackList = s.stackList := by
  unfold State.markSubmitted
  split <;> simp [stackList_foldl]
@[simp] theorem State.scrubPage_stackList (s : State) (page : Nat) : (s.scrubPage page).stackList = s.stackList := by simp [State.scrubPage]
@[simp] theorem State.countClips_stackList (s : State) (tensor produced clipped : Nat) :
    (s.countClips tensor produced clipped).stackList = s.stackList := by rfl
@[simp] theorem State.updateDraft_stackList (s : State) (d : Draft) : (s.updateDraft d).stackList = s.stackList := by
  unfold State.updateDraft
  dsimp only
  split <;> simp
@[simp] theorem State.publish_stackList (s : State) (d : Draft) : (s.publish d).stackList = s.stackList := by
  unfold State.publish
  repeat' split
  all_goals simp
@[simp] theorem State.reportPub_stackList (s : State) : s.reportPub.stackList = s.stackList := by
  unfold State.reportPub
  split <;> simp
@[simp] theorem State.resetTurn_stackList (s : State) (stack : Nat) : (s.resetTurn stack).stackList = s.stackList := by
  unfold State.resetTurn
  split <;> simp
@[simp] theorem State.failOver_stackList (s : State) : s.failOver.stackList = s.stackList := by simp [State.failOver]
@[simp] theorem State.restartB_stackList (s : State) (since : Tick) : (s.restartB since).stackList = s.stackList := by
  simp [State.restartB, stackList_foldl]
@[simp] theorem State.answerFaults_stackList (s : State) (u : Sess) : (s.answerFaults u).stackList = s.stackList := by
  simp [State.answerFaults, stackList_foldl]
@[simp] theorem State.restartA_stackList (s : State) (since : Tick) : (s.restartA since).stackList = s.stackList := by
  simp [State.restartA, stackList_foldl]
@[simp] theorem State.receiveBurst_stackList (s : State) (lch : Nat) (slot : Slot) (hdr : BitVec 48) (offset : Int) :
    (s.receiveBurst lch slot hdr offset).stackList = s.stackList := by
  have heard : ∀ (xs : List Nat) (s : State), (xs.foldl (fun s x => s.modPort x fun p => { p with heard := true }) s).stackList = s.stackList :=
    stackList_foldl fun s x => by simp
  unfold State.receiveBurst
  dsimp only
  repeat' split
  all_goals simp [heard]
@[simp] theorem State.modBurstAt_stackList (s : State) (lch : Nat) (slot : Slot) (f : BurstSt → BurstSt) :
    (s.modBurstAt lch slot f).stackList = s.stackList := by rfl
@[simp] theorem State.learnedDeadline_stackList (s : State) (lch : Nat) (slot : Slot) : (s.learnedDeadline lch slot).stackList = s.stackList := by rfl
@[simp] theorem State.takeReply_stackList (s : State) (hdr : BitVec 48) (p : Bytes) : (s.takeReply hdr p).stackList = s.stackList := by
  simp [State.takeReply]
@[simp] theorem State.countOutcome_stackList (s : State) (lch shelf code : Nat) (late : Bool) (m : RxMeas) :
    (s.countOutcome lch shelf code late m).stackList = s.stackList := by rfl
@[simp] theorem State.reissue_stackList (s : State) (n : NodeSt) : (s.reissue n).stackList = s.stackList := by simp [State.reissue, stackList_foldl]
@[simp] theorem State.owResult_stackList (s : State) (shelf wire : Nat) (dlo dhi dmod : Int) :
    (s.owResult shelf wire dlo dhi dmod).stackList = s.stackList := by
  unfold State.owResult
  repeat' split
  all_goals simp
@[simp] theorem State.takeMessage_stackList (s : State) (shelf : Nat) (m : Nat × Nat × Nat × Bytes) :
    (s.takeMessage shelf m).stackList = s.stackList := by
  simp [State.takeMessage]
@[simp] theorem State.autoTest_stackList (s : State) (shelf wire : Nat) : (s.autoTest shelf wire).stackList = s.stackList := by
  unfold State.autoTest
  split <;> simp
@[simp] theorem State.patternAt_stackList (s : State) (shelf k : Nat) (holds : Bool) : (s.patternAt shelf k holds).stackList = s.stackList := by
  unfold State.patternAt
  split <;> simp
@[simp] theorem State.endDeviation_stackList (s : State) (shelf wire : Nat) (holds : Bool) :
    (s.endDeviation shelf wire holds).stackList = s.stackList := by
  unfold State.endDeviation
  split <;> simp
@[simp] theorem State.patterns_stackList (s : State) (n : NodeSt) (d : Nat → Option Int) : (s.patterns n d).stackList = s.stackList := by
  simp [State.patterns, stackList_foldl]
@[simp] theorem State.testTemps_stackList (s : State) (n : NodeSt) (c : CellSt) : (s.testTemps n c).stackList = s.stackList := by
  unfold State.testTemps
  dsimp only
  repeat' split
  all_goals simp
@[simp] theorem State.testVolts_stackList (s : State) (n : NodeSt) (i : Nat) (twin : Option Nat) :
    (s.testVolts n i twin).stackList = s.stackList := by
  unfold State.testVolts
  dsimp only
  repeat' split
  all_goals simp
@[simp] theorem State.takeSample_stackList (s : State) (shelf : Nat) (raw : Report) : (s.takeSample shelf raw).stackList = s.stackList := by
  unfold State.takeSample
  dsimp only
  repeat' split
  all_goals simp [stackList_foldl]
@[simp] theorem State.takePayload_stackList (s : State) (shelf : Nat) (b : Bytes) : (s.takePayload shelf b).stackList = s.stackList := by
  unfold State.takePayload
  dsimp only
  repeat' split
  all_goals simp [stackList_foldl]
@[simp] theorem State.acceptReport_stackList (s : State) (shelf : Nat) (slot : Slot) (outcome : Nat) (b : Bytes) :
    (s.acceptReport shelf slot outcome b).stackList = s.stackList := by
  unfold State.acceptReport
  dsimp only
  split <;> simp
@[simp] theorem State.burstOutcome_stackList (s : State) (lch : Nat) (slot : Slot) (b : BurstSt) (learned : Bool) (twin : List Int) (m : RxMeas) :
    (s.burstOutcome lch slot b learned twin m).stackList = s.stackList := by
  unfold State.burstOutcome
  dsimp only
  repeat' split
  all_goals simp
@[simp] theorem State.giveUp_stackList (s : State) (n : NodeSt) : (s.giveUp n).stackList = s.stackList := by
  unfold State.giveUp
  dsimp only
  split <;> simp
@[simp] theorem State.giveUps_stackList (s : State) (lch : Nat) : (s.giveUps lch).stackList = s.stackList := by simp [State.giveUps, stackList_foldl]
@[simp] theorem State.placeMsg_stackList (s : State) (m : Msg) : (s.placeMsg m).1.stackList = s.stackList := by
  unfold State.placeMsg
  dsimp only
  repeat' split
  all_goals simp
@[simp] theorem placeAll_stackList (ms : List Msg) (s : State) : (placeAll ms s).1.stackList = s.stackList := by
  induction ms generalizing s with
  | nil => rfl
  | cons m ms ih => simp [placeAll, ih]
@[simp] theorem State.countRetry_stackList (s : State) (shelf : Nat) : (s.countRetry shelf).stackList = s.stackList := by rfl
@[simp] theorem State.sendSlotBurst_stackList (s : State) (lch : Nat) (at0 : Tick) (type ts : Nat) (payload : Bytes) (clear : Tick) :
    (s.sendSlotBurst lch at0 type ts payload clear).stackList = s.stackList := by
  simp [State.sendSlotBurst]
@[simp] theorem State.sendCall_stackList (s : State) (lch : Nat) : (s.sendCall lch).stackList = s.stackList := by
  simp [State.sendCall, stackList_foldl]
@[simp] theorem State.sendOrder_stackList (s : State) (lch d : Nat) : (s.sendOrder lch d).stackList = s.stackList := by simp [State.sendOrder]
@[simp] theorem State.tune_stackList (s : State) : s.tune.stackList = s.stackList := by simp [State.tune, stackList_foldl]
@[simp] theorem State.decideMode_stackList (s : State) : s.decideMode.stackList = s.stackList := by rfl
@[simp] theorem State.portFault_stackList (s : State) (port : Nat) (cause : PortCause) : (s.portFault port cause).stackList = s.stackList := by
  simp [State.portFault]
@[simp] theorem State.addNode_stackList (s : State) (shelf : Nat) (info : BitVec 256) : (s.addNode shelf info).stackList = s.stackList := by rfl
@[simp] theorem State.offerNext_stackList (s : State) : s.offerNext.stackList = s.stackList := by
  unfold State.offerNext
  dsimp only
  repeat' split
  all_goals simp
@[simp] theorem State.sendOffer_stackList (s : State) : s.sendOffer.stackList = s.stackList := by simp [State.sendOffer]
@[simp] theorem State.endAccession_stackList (s : State) : s.endAccession.stackList = s.stackList := by simp [State.endAccession]
@[simp] theorem State.sendTrain_stackList (s : State) (roundTrip turnaround : Nat) :
    (s.sendTrain roundTrip turnaround).stackList = s.stackList := by rfl
@[simp] theorem State.takeAck_stackList (s : State) (ack : BitVec 16) : (s.takeAck ack).stackList = s.stackList := by simp [State.takeAck]
@[simp] theorem State.takeFrame_stackList (s : State) (rx : SpineRx) (ftype : Nat) : (s.takeFrame rx ftype).1.stackList = s.stackList := by
  unfold State.takeFrame
  dsimp only
  repeat' split
  all_goals simp
@[simp] theorem State.linkUp_stackList (s : State) : s.linkUp.stackList = s.stackList := by simp [State.linkUp]
@[simp] theorem State.takeTrain_stackList (s : State) (i : TrainInfo) : (s.takeTrain i).stackList = s.stackList := by simp [State.takeTrain]
@[simp] theorem State.noteBeat_stackList (s : State) (p : BitVec 128) : (s.noteBeat p).stackList = s.stackList := by rfl
@[simp] theorem State.conflict_stackList (s : State) : s.conflict.stackList = s.stackList := by simp [State.conflict]
@[simp] theorem State.follow_stackList (s : State) (run : BitVec 32) (n : BitVec 48) (phase : Nat) :
    (s.follow run n phase).stackList = s.stackList := by
  simp [State.follow]
@[simp] theorem State.lateReport_stackList (s : State) (stamp : BitVec 48) (shelf : Nat) (p : Bytes) :
    (s.lateReport stamp shelf p).stackList = s.stackList := by
  unfold State.lateReport
  split <;> simp
@[simp] theorem State.sealReport_stackList (s : State) (stamp : BitVec 48) (shelf pos outcome : Nat) (p : Bytes) :
    (s.sealReport stamp shelf pos outcome p).stackList = s.stackList := by
  simp [State.sealReport]
@[simp] theorem State.takeBroadcast_stackList (s : State) (stamp : BitVec 48) (mtype seq : Nat) (body : Bytes) :
    (s.takeBroadcast stamp mtype seq body).stackList = s.stackList := by
  unfold State.takeBroadcast
  split <;> simp
@[simp] theorem State.takeOrder_stackList (s : State) (stamp : BitVec 48) (shelf mtype seq : Nat) (sync : Bool) (body : Bytes) :
    (s.takeOrder stamp shelf mtype seq sync body).stackList = s.stackList := by
  simp [State.takeOrder]
theorem State.applyRecord_stackList {s s' : State} {n : BitVec 48} {r : SealRec} (h : s.applyRecord n r = some s') : s'.stackList = s.stackList := by
  cases r <;> simp only [State.applyRecord] at h
  case step | rebuild =>
    repeat' split at h
    all_goals cases h
    all_goals simp
  case create | imported =>
    cases h
    repeat' split
    all_goals simp
  all_goals cases h; simp
@[simp] theorem applyRecs_stackList (n : BitVec 48) (rs : List SealRec) (b : List Nat) (l : List SealRec) (s : State) :
    (applyRecs n rs b l s).2.2.stackList = s.stackList := by
  induction rs generalizing b l s with
  | nil => rfl
  | cons r rs ih =>
    simp only [applyRecs]
    split
    · next h =>
      rw [ih]
      split at h
      · cases h
      · exact State.applyRecord_stackList h
    · exact ih _ _ _
@[simp] theorem State.formDigest_stackList (s : State) (stamp : BitVec 48) (sid : Nat) : (s.formDigest stamp sid).stackList = s.stackList := by
  simp [State.formDigest]
@[simp] theorem applyHeld_stackList (hs : List HeldSeal) (b : List Nat) (l : List HeldSeal) (s : State) :
    (applyHeld hs b l s).2.stackList = s.stackList := by
  induction hs generalizing b l s with
  | nil => rfl
  | cons h hs ih => simp [applyHeld, ih, stackList_foldl]
@[simp] theorem State.applyHeldSeals_stackList (s : State) : s.applyHeldSeals.stackList = s.stackList := by simp [State.applyHeldSeals]
@[simp] theorem State.reshadow_stackList (s : State) (slot sid : Nat) (stamp : BitVec 48) (i : Image) :
    (s.reshadow slot sid stamp i).stackList = s.stackList := by
  simp [State.reshadow]
@[simp] theorem State.replaceImage_stackList (s : State) (sid : Nat) (stamp : BitVec 48) (i : Image) (twin : Bytes) :
    (s.replaceImage sid stamp i twin).stackList = s.stackList := by
  simp [State.replaceImage]
@[simp] theorem State.compareCard_stackList (s : State) (head : BitVec 128) (body twin : Bytes) :
    (s.compareCard head body twin).stackList = s.stackList := by
  unfold State.compareCard
  dsimp only
  repeat' split
  all_goals simp
@[simp] theorem State.applySeals_stackList (s : State) : s.applySeals.stackList = s.stackList := by simp [State.applySeals, stackList_foldl]
@[simp] theorem State.decideUnsealed_stackList (s : State) : s.decideUnsealed.stackList = s.stackList := by
  simp [State.decideUnsealed, stackList_foldl]
@[simp] theorem State.acceptOwn_stackList (s : State) : s.acceptOwn.stackList = s.stackList := by
  refine stackList_foldl (fun s b => ?_) _ _
  split <;> simp
@[simp] theorem State.declareLost_stackList (s : State) : s.declareLost.stackList = s.stackList := by
  unfold State.declareLost
  dsimp only
  rw [stackList_foldl]
  · simp
  · intro s x
    split <;> simp
@[simp] theorem State.resendSeals_stackList (s : State) (after : BitVec 48) : (s.resendSeals after).stackList = s.stackList := by
  simp [State.resendSeals, stackList_foldl]
@[simp] theorem State.forwardShares_stackList (s : State) (slot : Nat) : (s.forwardShares slot).stackList = s.stackList := by
  simp [State.forwardShares, stackList_foldl]
@[simp] theorem State.forwardChange_stackList (s : State) (c : LoanChange) : (s.forwardChange c).stackList = s.stackList := by
  simp [State.forwardChange]
@[simp] theorem State.forwardLoans_stackList (s : State) : s.forwardLoans.stackList = s.stackList := by simp [State.forwardLoans, stackList_foldl]
@[simp] theorem State.forwardSettings_stackList (s : State) : s.forwardSettings.stackList = s.stackList := by
  have sets : ∀ (n : BitVec 48) (xs : List (SName × Option Int)) (s : State),
      (xs.foldl (fun s x => s.forward (.setting x.1 x.2) n) s).stackList = s.stackList := fun n => stackList_foldl fun s x => by simp
  have scripts : ∀ (n : BitVec 48) (xs : List (Nat × Option Nat × Bytes)) (s : State),
      (xs.foldl (fun s x => s.forward (.script x.1 x.2.1 x.2.2) n) s).stackList = s.stackList := fun n => stackList_foldl fun s x => by simp
  have twinsets : ∀ (n : BitVec 48) (xs : List (Nat × Bytes)) (s : State),
      (xs.foldl (fun s x => s.forward (.twinset x.1 x.2) n) s).stackList = s.stackList := fun n => stackList_foldl fun s x => by simp
  unfold State.forwardSettings
  dsimp only
  rw [stackList_foldl fun s c => twinsets _ _ _, ite_stackList, State.forward_stackList, ite_self, stackList_foldl fun s c => scripts _ _ _,
    stackList_foldl fun s c => sets _ _ _, twinsets, scripts, sets]
@[simp] theorem State.takeSeq_stackList (s : State) (rx : SpineRx) (m : SpineMsg) : (s.takeSeq rx m).1.stackList = s.stackList := by
  unfold State.takeSeq
  dsimp only
  repeat' split
  all_goals simp
@[simp] theorem State.promoteAt_stackList (s : State) (slot : Nat) (b : BitVec 48) (place : Option (Nat × Bool)) :
    (s.promoteAt slot b place).stackList = s.stackList := by
  unfold State.promoteAt
  split <;> simp
@[simp] theorem State.clearHostLoans_stackList (s : State) (ks : List Nat) (live : BitVec 48) :
    (s.clearHostLoans ks live).stackList = s.stackList := by rfl
@[simp] theorem State.takePromotion_stackList (s : State) (pub slot : Nat) (place : Option (Nat × Bool)) (live : BitVec 48) :
    (s.takePromotion pub slot place live).stackList = s.stackList := by
  unfold State.takePromotion
  repeat' split
  all_goals simp
@[simp] theorem State.acceptPromotion_stackList (s : State) (pub slot : Nat) (ses : Sess) (lineNo : Nat) :
    (s.acceptPromotion pub slot ses lineNo).stackList = s.stackList := by
  unfold State.acceptPromotion
  dsimp only
  split <;> simp
@[simp] theorem State.noteMirror_stackList (s : State) (slot : Nat) (ks : List Nat) : (s.noteMirror slot ks).stackList = s.stackList := by rfl
@[simp] theorem State.takeLoan_stackList (s : State) (a : LoanAct) (live : BitVec 48) : (s.takeLoan a live).stackList = s.stackList := by
  unfold State.takeLoan
  split <;> simp
@[simp] theorem State.takeRoster_stackList (s : State) (ids : List (Nat × BitVec 64)) : (s.takeRoster ids).stackList = s.stackList := by rfl
@[simp] theorem State.takeConfig_stackList (s : State) (item : ConfigItem) (live : BitVec 48) : (s.takeConfig item live).stackList = s.stackList := by
  unfold State.takeConfig
  dsimp only
  repeat' split
  all_goals simp
@[simp] theorem State.takeSense_stackList (s : State) (n : BitVec 48) (ms : Nat) (ca cb : List Int) (m : List (List Int)) :
    (s.takeSense n ms ca cb m).stackList = s.stackList := by
  simp [State.takeSense]
@[simp] theorem State.loseAlignment_stackList (s : State) : s.loseAlignment.stackList = s.stackList := by rfl
@[simp] theorem State.dropUnnamed_stackList (s : State) (stamp : BitVec 48) : (s.dropUnnamed stamp).stackList = s.stackList := by rfl
@[simp] theorem State.completeSeal_stackList (s : State) (stamp : BitVec 48) (recs : List SealRec) (fin : SealRec) (first last : Nat) :
    (s.completeSeal stamp recs fin first last).stackList = s.stackList := by
  simp [State.completeSeal]
@[simp] theorem State.takeSeal_stackList (s : State) (recs : List SealRec) : (s.takeSeal recs).stackList = s.stackList := by
  refine stackList_foldl (fun s r => ?_) _ _
  split <;> simp
@[simp] theorem State.takeCard_stackList (s : State) (head : BitVec 128) (body twin : Bytes) :
    (s.takeCard head body twin).stackList = s.stackList := by
  simp [State.takeCard]
@[simp] theorem State.sendSeal_stackList (s : State) : s.sendSeal.stackList = s.stackList := by simp [State.sendSeal, stackList_foldl]
@[simp] theorem State.writeEstimates_stackList (s : State) (rerun : Bool) : (s.writeEstimates rerun).stackList = s.stackList := by
  simp [State.writeEstimates]
@[simp] theorem sendHeld_stackList (r n : Nat) (s : State) : (sendHeld r n s).stackList = s.stackList := by
  induction n generalizing s with
  | zero => rfl
  | succ n ih =>
    simp only [sendHeld]
    repeat' split
    all_goals simp [ih]
@[simp] theorem State.updateBlock_stackList (s : State) : s.updateBlock.stackList = s.stackList := by rfl
@[simp] theorem State.putOff_stackList (s : State) (fell : Tick) : (s.putOff fell).stackList = s.stackList := by
  unfold State.putOff
  dsimp only
  split <;> simp
@[simp] theorem State.csRise_stackList (s : State) : s.csRise.stackList = s.stackList := by simp [State.csRise]
@[simp] theorem State.clearIrq_stackList (s : State) (v : BitVec 32) : (s.clearIrq v).stackList = s.stackList := by rfl
@[simp] theorem State.writeIrqen_stackList (s : State) (v : BitVec 32) : (s.writeIrqen v).stackList = s.stackList := by rfl
@[simp] theorem State.clearErr_stackList (s : State) (v : BitVec 16) : (s.clearErr v).stackList = s.stackList := by rfl
@[simp] theorem State.writeH2m_stackList (s : State) (v : BitVec 16) : (s.writeH2m v).stackList = s.stackList := by simp [State.writeH2m]
@[simp] theorem State.writeM2h_stackList (s : State) (v : BitVec 16) : (s.writeM2h v).stackList = s.stackList := by simp [State.writeM2h]
@[simp] theorem State.writeCons_stackList (s : State) (r : Nat) (v : BitVec 32) : (s.writeCons r v).stackList = s.stackList := by
  simp [State.writeCons]
@[simp] theorem State.writeProd_stackList (s : State) (r : Nat) (v : BitVec 32) : (s.writeProd r v).stackList = s.stackList := by
  simp [State.writeProd]
@[simp] theorem State.writeField_stackList (s : State) (addr : Nat) (data : Bytes) (f : Nat × Nat × PortField) :
    (s.writeField addr data f).stackList = s.stackList := by
  unfold State.writeField
  repeat' split
  all_goals simp
@[simp] theorem State.writePort_stackList (s : State) (addr : Nat) (data : Bytes) : (s.writePort addr data).stackList = s.stackList := by
  simp [State.writePort, stackList_foldl]
@[simp] theorem State.transact_stackList (s : State) (x : HostTxn) (data : Bytes) : (s.transact x data).stackList = s.stackList := by
  simp [State.transact]
@[simp] theorem State.openLine_stackList (s : State) (u : Sess) (tag : Option Nat) : (s.openLine u tag).stackList = s.stackList := by
  simp [State.openLine]
@[simp] theorem State.commitStaged_stackList (s : State) (b : BitVec 48) : (s.commitStaged b).stackList = s.stackList := by
  unfold State.commitStaged
  dsimp only
  rw [stackList_foldl fun s x => s.forward_stackList _ _, stackList_foldl fun s x => s.forward_stackList _ _,
    stackList_foldl fun s x => s.forward_stackList _ _]
@[simp] theorem State.orderAll_stackList (s : State) (u : Line) (n : Nat) (m : Msg) (f : NodeSt → NodeSt) :
    (s.orderAll u n m f).stackList = s.stackList := by rfl
@[simp] theorem State.orderNode_stackList (s : State) (u : Line) (n : Nat) (m : Msg) (f : NodeSt → NodeSt) :
    (s.orderNode u n m f).stackList = s.stackList := by
  unfold State.orderNode
  split <;> simp
@[simp] theorem State.consumeInput_stackList (s : State) (n : Nat) : (s.consumeInput n).stackList = s.stackList := by rfl
@[simp] theorem skipPads_stackList (k : Nat) (s : State) : (skipPads k s).stackList = s.stackList := by
  induction k generalizing s with
  | zero => rfl
  | succ k ih =>
    simp only [skipPads]
    split
    · rfl
    · simp [ih]
@[simp] theorem State.takeInputOf_stackList (s : State) (ftypes : List Nat) (tag : Nat) : (s.takeInputOf ftypes tag).2.stackList = s.stackList := by
  unfold State.takeInputOf
  dsimp only
  repeat' split
  all_goals simp
@[simp] theorem State.takeInput_stackList (s : State) (ftype tag : Nat) : (s.takeInput ftype tag).2.stackList = s.stackList := by
  simp [State.takeInput]
@[simp] theorem State.streamRequest_stackList (s : State) (sid : Nat) (act : StreamAct) (ses : Sess) (lineNo : Nat) :
    (s.streamRequest sid act ses lineNo).stackList = s.stackList := by
  simp [State.streamRequest]
@[simp] theorem State.cardRequest_stackList (s : State) (u : Line) (n : Nat) (copy : Bool) : (s.cardRequest u n copy).stackList = s.stackList := by
  simp [State.cardRequest]
@[simp] theorem State.bindRefit_stackList (s : State) (f : FolioInfo) : (s.bindRefit f).stackList = s.stackList := by
  unfold State.bindRefit
  repeat' split
  all_goals simp
@[simp] theorem State.refuseRequest_stackList (s : State) (u : Line) (n : Nat) (l : HubLine) : (s.refuseRequest u n l).stackList = s.stackList := by
  simp [State.refuseRequest]
@[simp] theorem State.planOf_stackList (s : State) (u : Line) : (s.planOf u).2.stackList = s.stackList := by
  have took := s.takeInput_stackList 0x21 (lineNat u .plan 0)
  unfold State.planOf
  split
  · rfl
  · split
    · next h => rw [h] at took; exact took
    · next h =>
      rw [h] at took
      repeat' split
      all_goals exact took
@[simp] theorem State.acceptRequest_stackList (s : State) (u : Line) (n : Nat) (r : Request) (more : List (String × RVal)) :
    (s.acceptRequest u n r more).stackList = s.stackList := by
  simp [State.acceptRequest]
@[simp] theorem State.regenerate_stackList (s : State) (u : Line) (n : Nat) (f : FolioInfo) (card input : Bytes) :
    (s.regenerate u n f card input).stackList = s.stackList := by
  unfold State.regenerate
  repeat' split
  all_goals simp
@[simp] theorem State.capture_stackList (s : State) (n : Nat) : (s.capture n).2.stackList = s.stackList := by rfl
@[simp] theorem State.scanBoundary_stackList (s : State) (ir : TapIr) (tdi : Bits) : (s.scanBoundary ir tdi).stackList = s.stackList := by rfl
@[simp] theorem State.scanBypass_stackList (s : State) (tdi : Bits) : (s.scanBypass tdi).stackList = s.stackList := by rfl
@[simp] theorem State.scanHold_stackList (s : State) (ir : TapIr) : (s.scanHold ir).stackList = s.stackList := by rfl
@[simp] theorem State.hearCall_stackList (s : State) (lch : Nat) (acks : BitVec 64) : (s.hearCall lch acks).stackList = s.stackList := by
  unfold State.hearCall
  dsimp only
  rw [stackList_foldl (fun s x => s.countRetry_stackList x), stackList_foldl (fun s i => by split <;> simp)]
  simp
@[simp] theorem State.hearOffer_stackList (s : State) (offer confirm : Nat) (cid : BitVec 64) :
    (s.hearOffer offer confirm cid).stackList = s.stackList := by
  simp [State.hearOffer]

/-! ## What leaves every byte of the stores as it is -/

/-- The byte stores of a stack: the weight store, its tags, and the carrel. -/
def StackSt.stores (k : StackSt) : Mem × Mem × Mem := (k.store, k.tags, k.carrel)

/-- A fold of steps that keep the stores keeps them. -/
theorem stores_foldl {α : Type} {f : State → α → State} (h : ∀ s x, (f s x).stackList.map StackSt.stores = s.stackList.map StackSt.stores)
    (xs : List α) (s : State) : (xs.foldl f s).stackList.map StackSt.stores = s.stackList.map StackSt.stores := by
  induction xs generalizing s with
  | nil => rfl
  | cons x xs ih => rw [List.foldl_cons, ih, h]

@[simp] theorem map_stores_ite (c : Prop) [Decidable c] (a b : List StackSt) :
    (if c then a else b).map StackSt.stores = if c then a.map StackSt.stores else b.map StackSt.stores := apply_ite _ _ _ _

/-- A change of every stack's bookkeeping alone keeps the stores. -/
theorem map_stores_mapIdx {f : Nat → StackSt → StackSt} (h : ∀ i x, (f i x).stores = x.stores) (l : List StackSt) :
    (l.mapIdx f).map StackSt.stores = l.map StackSt.stores := by
  refine List.ext_getElem? fun i => ?_
  simp only [List.getElem?_map, List.getElem?_mapIdx, Option.map_map]
  exact congrArg (Option.map · _) (funext (h i))

theorem map_stores_map {f : StackSt → StackSt} (h : ∀ x, (f x).stores = x.stores) (l : List StackSt) :
    (l.map f).map StackSt.stores = l.map StackSt.stores := by
  rw [List.map_map]
  exact congrArg (List.map · l) (funext h)

/-- A change of a stack's bookkeeping alone keeps the stores. -/
@[simp] theorem State.modStk_stores (s : State) (k : Nat) {f : StackSt → StackSt}
    (h : ∀ x, (f x).store = x.store ∧ (f x).tags = x.tags ∧ (f x).carrel = x.carrel) :
    (s.modStk k f).stackList.map StackSt.stores = s.stackList.map StackSt.stores := by
  refine List.ext_getElem? fun i => ?_
  simp only [State.modStk, List.getElem?_map, List.getElem?_modify]
  cases s.stackList[i]? with
  | none => rfl
  | some x =>
    have hx : (f x).stores = x.stores := by simp only [StackSt.stores, h]
    simp only [Option.map_some]
    split
    · exact congrArg some hx
    · rfl
@[simp] theorem StackSt.freeCycles_stores (k : StackSt) (n : Nat) :
    (k.freeCycles n).store = k.store ∧ (k.freeCycles n).tags = k.tags ∧ (k.freeCycles n).carrel = k.carrel := ⟨rfl, rfl, rfl⟩
@[simp] theorem StackSt.tally_stores (k : StackSt) (t : Tick) (cyc : Nat) :
    (k.tally t cyc).store = k.store ∧ (k.tally t cyc).tags = k.tags ∧ (k.tally t cyc).carrel = k.carrel := ⟨rfl, rfl, rfl⟩
@[simp] theorem StackSt.spend_stores (k : StackSt) (slot n : Nat) :
    (k.spend slot n).store = k.store ∧ (k.spend slot n).tags = k.tags ∧ (k.spend slot n).carrel = k.carrel := ⟨rfl, rfl, rfl⟩
@[simp] theorem StackSt.ranLayer_stores (k : StackSt) (slot layer : Nat) (n : BitVec 48) :
    (k.ranLayer slot layer n).store = k.store ∧ (k.ranLayer slot layer n).tags = k.tags ∧ (k.ranLayer slot layer n).carrel = k.carrel := ⟨rfl, rfl, rfl⟩
@[simp] theorem StackSt.strike_stores (k : StackSt) (hw : Strikes) :
    (k.strike hw).store = k.store ∧ (k.strike hw).tags = k.tags ∧ (k.strike hw).carrel = k.carrel := ⟨rfl, rfl, rfl⟩
@[simp] theorem StackSt.turn_stores (k : StackSt) (slot : Nat) :
    (k.turn slot).store = k.store ∧ (k.turn slot).tags = k.tags ∧ (k.turn slot).carrel = k.carrel := by
  unfold StackSt.turn
  split <;> exact ⟨rfl, rfl, rfl⟩
/-- The other stack of a slice that ends holds what the first held. -/
theorem State.switched_stores (s : State) (stack slot : Nat) : (s.switched stack slot).stores = (s.stk stack).stores := by
  unfold State.switched
  dsimp only
  split <;> rfl
@[simp] theorem State.bootSteward_stores (s : State) : s.bootSteward.stackList.map StackSt.stores = s.stackList.map StackSt.stores := by
  unfold State.bootSteward
  dsimp only
  simp only [ite_stackList, State.startTraining_stackList, ite_self]
  split
  · simp only [State.raise_work, State.scheduleInventory_stackList]
    exact map_stores_mapIdx (fun i k => by split <;> rfl) _
  · simp only [State.scheduleInventory_stackList]
    exact map_stores_mapIdx (fun i k => by split <;> rfl) _
@[simp] theorem State.weedStack_stores (s : State) (stack : Nat) :
    (s.weedStack stack).stackList.map StackSt.stores = s.stackList.map StackSt.stores := by
  simp [State.weedStack, stores_foldl]
@[simp] theorem State.weedShelves_stores (s : State) (stack : Nat) (failed : BitVec 32) :
    (s.weedShelves stack failed).stackList.map StackSt.stores = s.stackList.map StackSt.stores := by
  simp [State.weedShelves]
@[simp] theorem State.dropLoans_stores (s : State) : s.dropLoans.stackList.map StackSt.stores = s.stackList.map StackSt.stores :=
  map_stores_map (fun _ => by rfl) _
@[simp] theorem State.becomeStandby_stores (s : State) (startup : Bool) :
    (s.becomeStandby startup).stackList.map StackSt.stores = s.stackList.map StackSt.stores := by
  simp [State.becomeStandby]
@[simp] theorem State.decideRole_stores (s : State) : s.decideRole.stackList.map StackSt.stores = s.stackList.map StackSt.stores := by
  unfold State.decideRole
  split
  · simp
  · split
    · split
      · split <;> simp
      · split <;> simp
    · rfl
@[simp] theorem State.rebase_stores (s : State) (stack : Nat) (r : RunSt) (served : Nat) (t : Tick) :
    (s.rebase stack r served t).stackList.map StackSt.stores = s.stackList.map StackSt.stores := by
  simp [State.rebase]
@[simp] theorem State.leavePort_stores (s : State) (stack : Nat) (t : Tick) :
    (s.leavePort stack t).stackList.map StackSt.stores = s.stackList.map StackSt.stores := by
  unfold State.leavePort
  repeat' split
  all_goals simp
@[simp] theorem State.tallyStk_stores (s : State) (stack : Nat) (t : Tick) :
    (s.tallyStk stack t).stackList.map StackSt.stores = s.stackList.map StackSt.stores := by
  simp [State.tallyStk]
@[simp] theorem State.leaveEngine_stores (s : State) (stack : Nat) (r : RunSt) (due : Tick) :
    (s.leaveEngine stack r due).stackList.map StackSt.stores = s.stackList.map StackSt.stores := by
  simp [State.leaveEngine]
@[simp] theorem State.oweDebt_stores (s : State) (stack slot : Nat) (r : RunSt) (due : Tick) :
    (s.oweDebt stack slot r due).stackList.map StackSt.stores = s.stackList.map StackSt.stores := by
  simp [State.oweDebt]
@[simp] theorem State.putEnd_stores (s : State) (c : ChargeSt) (x : RunEnd) :
    (s.putEnd c x).stackList.map StackSt.stores = s.stackList.map StackSt.stores := by
  simp [State.putEnd, stores_foldl]
@[simp] theorem State.noteReady_stores (s : State) (t : Tick) : (s.noteReady t).stackList.map StackSt.stores = s.stackList.map StackSt.stores := by
  simp [State.noteReady, stores_foldl]
@[simp] theorem State.joinSlice_stores (s : State) (stack slot id : Nat) :
    (s.joinSlice stack slot id).stackList.map StackSt.stores = s.stackList.map StackSt.stores :=
  s.modStk_stores _ fun x => by split <;> exact ⟨rfl, rfl, rfl⟩
@[simp] theorem State.admitCharge_stores (s : State) (id : Nat) (res : Option Nat) (at0 : Tick) :
    (s.admitCharge id res at0).stackList.map StackSt.stores = s.stackList.map StackSt.stores := by
  unfold State.admitCharge
  split <;> simp
@[simp] theorem admitRun_stores (k slot : Nat) (atPass : Bool) (at0 : Tick) (n : Nat) (s : State) :
    (admitRun k slot atPass at0 n s).stackList.map StackSt.stores = s.stackList.map StackSt.stores := by
  induction n generalizing s with
  | zero => rfl
  | succ n ih =>
    unfold admitRun
    dsimp only
    repeat' split
    all_goals simp [ih]
@[simp] theorem State.reconsider_stores (s : State) (k : Nat) (at0 : Tick) :
    (s.reconsider k at0).stackList.map StackSt.stores = s.stackList.map StackSt.stores := by
  simp [State.reconsider, stores_foldl]
@[simp] theorem State.reconsiderAll_stores (s : State) (due : Tick) :
    (s.reconsiderAll due).stackList.map StackSt.stores = s.stackList.map StackSt.stores := by
  simp [State.reconsiderAll, stores_foldl]
@[simp] theorem State.releaseOverlap_stores (s : State) (stack slot : Nat) :
    (s.releaseOverlap stack slot).stackList.map StackSt.stores = s.stackList.map StackSt.stores := by
  simp [State.releaseOverlap]
@[simp] theorem State.countSkew_stores (s : State) (stack slot layer : Nat) :
    (s.countSkew stack slot layer).1.stackList.map StackSt.stores = s.stackList.map StackSt.stores := by
  simp [State.countSkew]
@[simp] theorem State.beginDrain_stores (s : State) (slot stack : Nat) (fid : Option (BitVec 32)) :
    (s.beginDrain slot stack fid).stackList.map StackSt.stores = s.stackList.map StackSt.stores := by
  simp [State.beginDrain]
@[simp] theorem State.mergeShares_stores (s : State) (stack slot : Nat) :
    (s.mergeShares stack slot).stackList.map StackSt.stores = s.stackList.map StackSt.stores := by
  unfold State.mergeShares
  split <;> simp
@[simp] theorem State.lendShare_stores (s : State) (stack slot : Nat) (fid : Option (BitVec 32)) :
    (s.lendShare stack slot fid).stackList.map StackSt.stores = s.stackList.map StackSt.stores := by
  unfold State.lendShare
  dsimp only
  rw [stores_foldl fun s c => by split <;> simp]
  split
  · rw [stores_foldl fun s k => by split <;> simp]
    simp
  · simp
@[simp] theorem State.checkReady_stores (s : State) (stack : Nat) :
    (s.checkReady stack).stackList.map StackSt.stores = s.stackList.map StackSt.stores := by
  simp [State.checkReady, stores_foldl]
@[simp] theorem State.stagger_stores (s old : State) : (s.stagger old).stackList.map StackSt.stores = s.stackList.map StackSt.stores := by
  simp [State.stagger, stores_foldl]
@[simp] theorem State.startInventory_stores (s : State) (stack : Nat) :
    (s.startInventory stack).stackList.map StackSt.stores = s.stackList.map StackSt.stores := by
  simp [State.startInventory]
@[simp] theorem State.checkFaulty_stores (s : State) (stack faults : Nat) :
    (s.checkFaulty stack faults).stackList.map StackSt.stores = s.stackList.map StackSt.stores := by
  simp [State.checkFaulty]
@[simp] theorem State.fillDone_stores (s : State) (slot stack region : Nat) :
    (s.fillDone slot stack region).stackList.map StackSt.stores = s.stackList.map StackSt.stores := by
  simp [State.fillDone]
@[simp] theorem endDigest_stores (s : State) (c : ChargeSt) (d : BitVec 512) :
    (endDigest s c d).stackList.map StackSt.stores = s.stackList.map StackSt.stores := by
  simp [endDigest]
@[simp] theorem State.endRoles_stores (s : State) : s.endRoles.stackList.map StackSt.stores = s.stackList.map StackSt.stores := by
  simp [State.endRoles]
@[simp] theorem State.newStamp_stores (s : State) : s.newStamp.stackList.map StackSt.stores = s.stackList.map StackSt.stores :=
  map_stores_map (fun _ => by rfl) _
@[simp] theorem State.lendReady_stores (s : State) : s.lendReady.stackList.map StackSt.stores = s.stackList.map StackSt.stores := by
  simp [State.lendReady, stores_foldl]
@[simp] theorem State.dueInventories_stores (s : State) : s.dueInventories.stackList.map StackSt.stores = s.stackList.map StackSt.stores := by
  simp [State.dueInventories, stores_foldl]
@[simp] theorem State.preempt_stores (s : State) (stack slot : Nat) :
    (s.preempt stack slot).stackList.map StackSt.stores = s.stackList.map StackSt.stores := by
  have counted : ∀ (ps : List Nat) (x : State),
      (ps.foldl (fun s p => s.modCtr p fun t => { t with preempt := natSat (t.preempt + 1) 16 }) x).stackList = x.stackList :=
    stackList_foldl fun s p => by simp
  simp [State.preempt, counted]
@[simp] theorem State.takeRun_stores (s : State) (c : ChargeSt) (d : BitVec 512) (o : RunOut) :
    (s.takeRun c d o).s.stackList.map StackSt.stores = s.stackList.map StackSt.stores := by
  unfold State.takeRun
  dsimp only
  split
  · simp
  · simp
@[simp] theorem effMatmul_stores (s : State) (c : ChargeSt) (d : BitVec 512) :
    (effMatmul s c d).s.stackList.map StackSt.stores = s.stackList.map StackSt.stores := by
  simp [effMatmul]
@[simp] theorem effScan_stores (s : State) (c : ChargeSt) (d : BitVec 512) :
    (effScan s c d).s.stackList.map StackSt.stores = s.stackList.map StackSt.stores := by
  unfold effScan
  dsimp only
  split <;> simp
@[simp] theorem State.joinPort_stores (s : State) (stack : Nat) (t : Tick) :
    (s.joinPort stack t).stackList.map StackSt.stores = s.stackList.map StackSt.stores := by
  unfold State.joinPort
  split <;> simp
@[simp] theorem Effect.begin_stores (e : Effect) (at0 : Tick) (stack : Nat) (c : ChargeSt) (o : Op) (pre : List QDesc) (q : QDesc) :
    (e.begin at0 stack c o pre q).stackList.map StackSt.stores = e.s.stackList.map StackSt.stores := by
  unfold Effect.begin
  repeat' split
  all_goals simp
@[simp] theorem State.pass_stores (s : State) (stack : Nat) : (s.pass stack).stackList.map StackSt.stores = s.stackList.map StackSt.stores := by
  have owes : ∀ (ds : List (Nat × Nat)) (x : State),
      (ds.foldl (fun s d => s.modCtr d.1 fun t => { t with debt := natSat (t.debt + d.2) 32 }) x).stackList = x.stackList :=
    stackList_foldl fun s d => by simp
  unfold State.pass
  dsimp only
  split
  · simp
  · rw [State.noteReady_stores, stores_foldl fun s p => admitRun_stores _ _ _ _ _ s]
    simp [owes, State.countSolo_work, State.dropOversize_work, State.decideRota_work]
@[simp] theorem State.submit_stores (s : State) (cmd : ChargeSpec) :
    (s.submit cmd).stackList.map StackSt.stores = s.stackList.map StackSt.stores := by
  unfold State.submit
  split <;> simp
@[simp] theorem State.strike_stores (s : State) (stack : Nat) (o : Op) (hw : Strikes) :
    (s.strike stack o hw).stackList.map StackSt.stores = s.stackList.map StackSt.stores := by
  simp [State.strike]
@[simp] theorem State.unweed_stores (s : State) (stack : Nat) : (s.unweed stack).stackList.map StackSt.stores = s.stackList.map StackSt.stores := by
  simp [State.unweed]
@[simp] theorem State.weedAnnex_stores (s : State) (stack : Nat) :
    (s.weedAnnex stack).stackList.map StackSt.stores = s.stackList.map StackSt.stores := by
  simp [State.weedAnnex]
@[simp] theorem State.loseReports_stores (s : State) : s.loseReports.stackList.map StackSt.stores = s.stackList.map StackSt.stores := by
  simp [State.loseReports, stores_foldl]
@[simp] theorem State.releaseReceiver_stores (s : State) : s.releaseReceiver.stackList.map StackSt.stores = s.stackList.map StackSt.stores := by
  simp [State.releaseReceiver, stores_foldl]
@[simp] theorem State.meetPrimary_stores (s : State) : s.meetPrimary.stackList.map StackSt.stores = s.stackList.map StackSt.stores := by
  unfold State.meetPrimary
  split
  · simp
  · split
    · simp
    · rfl
@[simp] theorem State.takeBeat_stores (s : State) (n : BitVec 48) (p : BitVec 128) :
    (s.takeBeat n p).stackList.map StackSt.stores = s.stackList.map StackSt.stores := by
  simp [State.takeBeat]
@[simp] theorem State.hearBeacon_stores (s : State) : s.hearBeacon.stackList.map StackSt.stores = s.stackList.map StackSt.stores := by
  unfold State.hearBeacon
  dsimp only
  split <;> simp

/-! ## The canonical form -/

/-- The three stores of a stack are in canonical form. -/
def Canonical (m : Mem × Mem × Mem) : Prop := Memory.wf m.1 = true ∧ Memory.wf m.2.1 = true ∧ Memory.wf m.2.2 = true

/-- Every stack's stores of a list are. -/
def StoresWf (l : List (Mem × Mem × Mem)) : Prop := ∀ m ∈ l, Canonical m

/-- The byte stores of every stack are in canonical form. -/
@[simp] abbrev State.Stored (s : State) : Prop := StoresWf (s.stackList.map StackSt.stores)

/-- It is the hypothesis and the conclusion of O40. -/
theorem State.stored_iff (s : State) :
    s.Stored ↔ ∀ k ∈ s.stackList, Memory.wf k.store = true ∧ Memory.wf k.tags = true ∧ Memory.wf k.carrel = true := List.forall_mem_map

/-! ## The rules of the stores -/

/-- A change of every stack's bookkeeping alone keeps the form. -/
theorem StoresWf.map {f : StackSt → StackSt} {l : List StackSt} (hf : ∀ k, (f k).stores = k.stores) (h : StoresWf (l.map StackSt.stores)) :
    StoresWf ((l.map f).map StackSt.stores) := by
  rw [map_stores_map hf]
  exact h

theorem canonical_nil : Canonical ([], [], []) := ⟨Memory.wf_nil, Memory.wf_nil, Memory.wf_nil⟩

theorem StackSt.reinit_canonical (k : StackSt) : Canonical k.reinit.stores := canonical_nil

theorem StackSt.writeCarrel_canonical {k : StackSt} (a : Nat) (data : Bytes) (h : Canonical k.stores) : Canonical (k.writeCarrel a data).stores :=
  ⟨h.1, h.2.1, memWrite_wf a data h.2.2⟩

theorem StackSt.turn_canonical {k : StackSt} {slot : Nat} (h : Canonical k.stores) : Canonical (k.turn slot).stores := by
  simpa [StackSt.stores] using h

/-- Writes to the carrel, one after the other. -/
theorem writeCarrels_canonical {α : Type} (a : α → Nat) (b : α → Bytes) (ws : List α) {k : StackSt} (h : Canonical k.stores) :
    Canonical (ws.foldl (fun k w => k.writeCarrel (a w) (b w)) k).stores := by
  induction ws generalizing k with
  | nil => exact h
  | cons w ws ih => exact ih (k.writeCarrel_canonical _ _ h)

/-- Blocks of a store cleared one after the other. -/
theorem memZeros_wf {α : Type} (lo hi : α → Nat) (bs : List α) {m : Mem} (h : Memory.wf m = true) :
    Memory.wf (bs.foldl (fun m b => memZero m (lo b) (hi b)) m) = true := by
  induction bs generalizing m with
  | nil => exact h
  | cons b bs ih => exact ih (memZero_wf _ _ h)

section
variable {s : State}

/-- A stack that the hub has is one of its list, and one that it does not have holds nothing. -/
theorem State.Stored.stk (h : s.Stored) (k : Nat) : Canonical (s.stk k).stores := by
  unfold State.stk
  rw [List.getD_eq_getElem?_getD]
  cases e : s.stackList[k]? with
  | none => exact canonical_nil
  | some x => exact h _ (List.mem_map_of_mem (List.mem_of_getElem? e))

theorem State.Stored.modStk (h : s.Stored) (k : Nat) {f : StackSt → StackSt} (hf : ∀ x : StackSt, Canonical x.stores → Canonical (f x).stores) :
    (s.modStk k f).Stored := by
  refine List.forall_mem_map.2 fun x hx => ?_
  obtain ⟨i, hi⟩ := List.mem_iff_getElem?.1 hx
  simp only [State.modStk, List.getElem?_modify, Option.map_eq_map, Option.map_eq_some_iff] at hi
  obtain ⟨y, hy, rfl⟩ := hi
  have hw : Canonical y.stores := h _ (List.mem_map_of_mem (List.mem_of_getElem? hy))
  split
  · exact hf y hw
  · exact hw

theorem State.Stored.foldl {α : Type} {f : State → α → State} (hf : ∀ s x, s.Stored → (f s x).Stored) (xs : List α) (h : s.Stored) :
    (xs.foldl f s).Stored := by
  induction xs generalizing s with
  | nil => exact h
  | cons x xs ih => exact ih (hf s x h)

theorem State.Stored.branch {c : Prop} [Decidable c] {a b : State} (ha : a.Stored) (hb : b.Stored) : (if c then a else b).Stored := by
  split
  · exact ha
  · exact hb

/-! ## Power -/

/-- After a reset every stack is empty. -/
theorem State.fresh_stored (s : State) : s.fresh.Stored := by
  refine List.forall_mem_map.2 fun k hk => ?_
  obtain ⟨i, -, rfl⟩ := List.mem_map.1 hk
  split <;> exact canonical_nil

theorem State.shutRails_stored (s : State) (fault : Option Nat) (counted : Bool) (wait : PorterWait) : (s.shutRails fault counted wait).Stored :=
  s.fresh_stored

theorem State.resumeAt12_stored (s : State) (start : StartKind) : (s.resumeAt12 start).Stored := s.fresh_stored

theorem State.finishReturn_stored (s : State) : s.finishReturn.Stored := State.resumeAt12_stored _ _

theorem State.Stored.readBoot (h : s.Stored) : s.readBoot.Stored := .branch s.finishReturn_stored h

theorem State.Stored.lifeMove (h : s.Stored) (dest : Nat) : (s.lifeMove dest).Stored := by
  unfold State.lifeMove
  dsimp only
  split
  · exact State.resumeAt12_stored _ _
  · exact State.finishReturn_stored _
  · simpa using h

/-! ## Inventories, and what leaves a stack -/

theorem State.Stored.abortInventory (h : s.Stored) (stack : Nat) : (s.abortInventory stack).Stored := by
  have hr : (s.modStk stack fun k => { k.reinit with lastInv := some (s.stamp.number, .aborted) }).Stored :=
    h.modStk _ fun x _ => x.reinit_canonical
  unfold State.abortInventory
  split
  · exact h
  · exact .branch hr (by simpa using hr)

theorem State.Stored.endInventory (h : s.Stored) (stack : Nat) (f : InvFinding) : (s.endInventory stack f).Stored := by
  have hr : (s.modStk stack fun k => { k.reinit with lastInv := some (s.stamp.number, s.invResultOf stack f) }).Stored :=
    h.modStk _ fun x _ => x.reinit_canonical
  unfold State.endInventory
  dsimp only
  split <;> simpa using hr

theorem State.Stored.writeHome (h : s.Stored) (sid : Nat) : (s.writeHome sid).Stored :=
  .branch (h.modStk _ fun _ hx => StackSt.writeCarrel_canonical _ _ hx) h

theorem State.Stored.resetWork (h : s.Stored) (c : ChargeSt) : (s.resetWork c).Stored :=
  .foldl (fun s x hs => .writeHome (by simpa using hs) _) _ h

theorem State.Stored.dropAdmitted (h : s.Stored) (stack : Nat) (lost : List Nat) (pick : ChargeSt → Bool) :
    (s.dropAdmitted stack lost pick).Stored := by
  have reset : ∀ (cs : List ChargeSt) (s : State), s.Stored → (cs.foldl State.resetWork s).Stored :=
    fun cs s hs => .foldl (fun s c hs => hs.resetWork c) cs hs
  unfold State.dropAdmitted
  dsimp only
  refine .foldl (fun s c hs => by simpa using hs) _ (.modStk ?_ _ fun _ hx => hx)
  refine reset _ _ (.foldl (fun s c hs => by simpa using hs) _ ?_)
  simpa using h

theorem State.Stored.abandon (h : s.Stored) (at0 : Tick) (id index op status cycles detail : Nat) (again : Option (BitVec 48)) :
    (s.abandon at0 id index op status cycles detail again).Stored := by
  unfold State.abandon
  dsimp only
  split
  · exact h
  · next c _ =>
    rw [State.Stored, State.reconsiderAll_stores, State.releaseOverlap_stores, State.noteReady_stores]
    have ended : ∀ {x : State}, x.Stored → (x.resetWork c).Stored := fun hx => hx.resetWork c
    split
    · rw [State.requeueFirst_stackList]
      refine State.Stored.modStk (ended ?_) _ fun _ hx => hx
      simpa [stackList_foldl] using h
    · refine State.Stored.modStk (ended ?_) _ fun _ hx => hx
      simpa [stackList_foldl] using h

/-! ## Loans, and stacks that fail -/

theorem State.Stored.failStack (h : s.Stored) (stack : Nat) (tenants : List Nat) (live : List ChargeSt) (times : List Tick) :
    (s.failStack stack tenants live times).Stored := by
  unfold State.failStack
  dsimp only
  rw [State.Stored, State.lapse_stackList, stackList_foldl fun s p => s.modPatron_stackList _ _]
  refine State.Stored.modStk (State.Stored.dropAdmitted ?_ _ _ _) _ fun _ hx => hx
  simpa [stackList_foldl] using h

theorem State.Stored.beginLend (h : s.Stored) (c : LoanChange) : (s.beginLend c).Stored := by
  unfold State.beginLend
  dsimp only
  split
  · exact h
  · rw [State.Stored, State.checkReady_stores, State.queueFills_stackList]
    have lent := fun (f : StackSt → StackSt) hf => h.modStk (f := f) c.stack hf
    split
    · rw [State.clearTensors_stackList, State.modPatron_stackList]
      exact lent _ fun x hx => ⟨hx.1, hx.2.1, memZeros_wf _ _ _ hx.2.2⟩
    · rw [State.modPatron_stackList]
      exact lent _ fun x hx => ⟨hx.1, hx.2.1, memZeros_wf _ _ _ hx.2.2⟩

theorem beginIn_stored (bd : Bool) (cs : List LoanChange) : ∀ {s : State} (done : List LoanChange), s.Stored → (beginIn bd done cs s).2.Stored := by
  induction cs with
  | nil => exact fun _ h => h
  | cons c cs ih =>
    intro s done h
    have drains : (s.beginDrain c.slot c.stack none).Stored := by simpa using h
    simp only [beginIn]
    repeat' split
    · exact ih _ h
    · exact ih _ h
    · exact ih _ drains
    · exact ih _ (h.beginLend c)
    · exact ih _ h

theorem State.Stored.beginChanges (h : s.Stored) (bd : Bool) : (s.beginChanges bd).Stored := by
  unfold State.beginChanges
  dsimp only
  rw [State.Stored, State.keepLoans_stackList]
  refine beginIn_stored _ _ _ ?_
  rw [State.Stored, stackList_foldl fun s c => s.modPatron_stackList _ _]
  exact h

theorem State.Stored.rescue (h : s.Stored) (slot : Nat) : (s.rescue slot).1.Stored := by
  unfold State.rescue
  split
  · exact h
  · next step k _ =>
    have freed : (if step = 1 then s.abortInventory k else s.lapse k 2).Stored := .branch (h.abortInventory k) (by simpa using h)
    refine State.Stored.beginChanges ?_ _
    dsimp only [State.Stored]
    refine State.Stored.branch ?_ freed
    refine .foldl (fun s sh hs => by simpa using hs) _ ?_
    exact .modStk (freed.dropAdmitted k [] _) _ fun _ hx => hx

theorem State.Stored.rescueTenant (h : s.Stored) (tenants : List Nat) (slot : Nat) : (s.rescueTenant tenants slot).1.Stored := by
  unfold State.rescueTenant
  split
  · exact h.rescue slot
  · exact h

theorem State.Stored.stackFault (h : s.Stored) (stack cause : Nat) : (s.stackFault stack cause).Stored := by
  unfold State.stackFault
  dsimp only
  split
  · exact h
  · simpa using ((h.failStack stack _ _ _).rescueTenant _ 0).rescueTenant _ 1

theorem State.Stored.failDesc (h : s.Stored) (at0 : Tick) (c : ChargeSt) (q : QDesc) (status detail cycles : Nat) :
    (s.failDesc at0 c q status detail cycles).Stored := by
  have marked : (if status = stSkew ∨ status = stEcc then
      s.modStk c.stack fun k => { k with invalid := k.invalid ++ carrelWrites s c.rows q.bits } else s).Stored := by simpa using h
  unfold State.failDesc
  dsimp only
  generalize (if status = stSkew ∨ status = stEcc then
      s.modStk c.stack fun k => { k with invalid := k.invalid ++ carrelWrites s c.rows q.bits } else s) = x at marked
  refine .branch (.abandon (by simpa using marked) _ _ _ _ _ _ _ _) (.branch ?_
    (.branch (.abandon (by simpa using marked) _ _ _ _ _ _ _ _) (.abandon (by simpa using marked) _ _ _ _ _ _ _ _)))
  generalize hy : State.abandon _ _ _ _ _ _ _ _ _ = y
  have ended : y.Stored := hy ▸ .abandon (by simpa using marked) _ _ _ _ _ _ _ _
  have skewed : ∀ {z : State}, z.Stored → (if (z.countSkew c.stack c.slot (s.layerOf c q.bits)).2
      then (z.countSkew c.stack c.slot (s.layerOf c q.bits)).1.stackFault c.stack 1
      else (z.countSkew c.stack c.slot (s.layerOf c q.bits)).1).Stored :=
    fun hz => .branch (.stackFault (by simpa using hz) _ _) (by simpa using hz)
  refine skewed ?_
  split <;> simpa using ended

/-! ## Descriptors that end -/

theorem State.Stored.putUnits (h : s.Stored) (stack : Nat) (units : List (List (Nat × Bytes))) : (s.putUnits stack units).Stored :=
  .branch h (h.modStk _ fun _ hx => writeCarrels_canonical _ _ _ hx)

theorem State.Stored.openRedo (h : s.Stored) (c : ChargeSt) (row : Nat) : (s.openRedo c row).Stored := by
  unfold State.openRedo
  dsimp only
  split
  · exact .branch (.writeHome (by simpa using h) _) h
  · exact h

theorem State.Stored.openRebuild (h : s.Stored) (c : ChargeSt) (sid : Nat) : (s.openRebuild c sid).Stored := by
  unfold State.openRebuild
  split
  · exact .branch (.modStk (.writeHome (by simpa using h) _) _ fun _ hx => StackSt.writeCarrel_canonical _ _ hx) h
  · exact h

theorem State.Stored.commitRow (h : s.Stored) (c : ChargeSt) (more : Bool) (lsteps : Nat) (p : Nat × Nat) : (s.commitRow c more lsteps p).Stored := by
  unfold State.commitRow
  dsimp only
  refine .writeHome ?_ _
  split
  · simpa using h
  · simpa using h
  · refine .branch (by simpa using h) ?_
    split <;> simpa using h

theorem endCommit_stored (h : s.Stored) (c : ChargeSt) (d : BitVec 512) : (endCommit s c d).Stored := by
  have rows : ∀ (more : Bool) (n : Nat) (ps : List (Nat × Nat)), (ps.foldl (fun s p => s.commitRow c more n p) s).Stored :=
    fun more n ps => .foldl (fun s p hs => hs.commitRow c more n p) ps h
  unfold endCommit
  dsimp only
  split
  · exact h
  · repeat' split
    all_goals simpa using rows _ _ _

theorem endColophon_stored (h : s.Stored) (c : ChargeSt) (d : BitVec 512) : (endColophon s c d).Stored := by
  have freed : ∀ f : List Ctx → List Ctx, (s.modStk c.stack fun k => { k with ctxs := f k.ctxs }).Stored := fun f => by simpa using h
  unfold endColophon
  dsimp only
  refine .branch (freed _) ?_
  rw [State.Stored, State.rolloutEnd_stackList]
  exact State.Stored.modStk (freed _) _ fun _ hx => StackSt.writeCarrel_canonical _ _ hx

theorem State.Stored.endEffect (h : s.Stored) (c : ChargeSt) (d : BitVec 512) : (s.endEffect c d).Stored := by
  unfold State.endEffect
  dsimp only
  split
  · split <;> simpa using h
  · simpa using h
  · refine .foldl (fun s p hs => ?_) _ h
    exact .branch (.openRedo (.openRebuild (by simpa using hs) _ _) _ _) hs
  · exact .foldl (fun s p hs => by simpa using hs) _ h
  · exact endCommit_stored h c d
  · simpa using h
  · simpa using h
  · exact endColophon_stored h c d
  · exact h

theorem State.Stored.chargeEnd (h : s.Stored) (id : Nat) (at0 : Tick) : (s.chargeEnd id at0).Stored := by
  unfold State.chargeEnd
  split
  · exact h
  · refine .branch h ?_
    dsimp only
    rw [State.Stored, State.reconsiderAll_stores, State.serveWaits_stackList]
    exact State.Stored.branch (.resetWork (by exact h) _) (by simpa using h)

theorem State.Stored.completeDesc (h : s.Stored) (stack : Nat) (e : Engine) : (s.completeDesc stack e).Stored := by
  unfold State.completeDesc
  dsimp only
  split
  · exact h
  · next r _ =>
    split
    · simpa using h
    · next c _ =>
      have put : ∀ {x : State}, x.Stored → ((x.putUnits (writesTo stack r.bits) r.units).putEnd c r.fx).Stored :=
        fun hx => by simpa using hx.putUnits _ _
      generalize hx : State.putEnd _ c r.fx = x
      have hx : x.Stored := hx ▸ put (by simpa using h)
      refine .branch (hx.failDesc _ _ _ _ _ _) ?_
      refine .chargeEnd ?_ _ _
      rw [State.Stored, State.noteReady_stores]
      simpa using hx.endEffect _ r.bits

/-! ## Stops and slices (06 R181 to R185) -/

theorem State.Stored.haltAll (h : s.Stored) (at0 : Tick) (stack : Nat) (pick : RunSt → Bool) : (s.haltAll at0 stack pick).Stored := by
  unfold State.haltAll
  dsimp only
  refine .modStk (.foldl (fun s r hs => ?_) _ (by simpa using h)) _ fun _ hx => hx
  exact .branch (.modStk (.putUnits (by simpa using hs) _ _) _ fun _ hx => hx) (.putUnits (by simpa using hs) _ _)

theorem State.Stored.preemptLost (h : s.Stored) (at0 : Tick) (stack owner : Nat) : (s.preemptLost at0 stack owner).Stored := by
  unfold State.preemptLost
  dsimp only
  exact .foldl (fun s c hs => .abandon (by simpa using hs) _ _ _ _ _ _ _ _) _ (h.dropAdmitted _ _ _)

theorem State.Stored.saveBlock (h : s.Stored) (at0 : Tick) (stack slot : Nat) (b : Nat × Nat) : (s.saveBlock at0 stack slot b).Stored := by
  unfold State.saveBlock
  split
  · exact h.preemptLost _ _ _
  · simpa using h

theorem State.Stored.stopPoint (h : s.Stored) (stack : Nat) : (s.stopPoint stack).Stored := by
  unfold State.stopPoint
  split
  · exact h
  · dsimp only
    rw [State.Stored, State.noteReady_stores]
    refine State.Stored.foldl (fun s b hs => .branch (hs.saveBlock _ _ _ _) hs) _ ?_
    exact .modStk (h.haltAll _ _ _) _ fun _ hx => hx

theorem State.Stored.loseSaved (h : s.Stored) (at0 : Tick) (stack : Nat) (b : SavedBlock) : (State.loseSaved at0 stack s b).Stored := by
  unfold State.loseSaved
  exact .foldl (fun s c hs => .abandon (by simpa using hs) _ _ _ _ _ _ _ _) _ (by simpa using h)

theorem State.Stored.resumeStops (h : s.Stored) (stack : Nat) : (s.resumeStops stack).Stored := by
  unfold State.resumeStops
  split
  · exact h
  · dsimp only
    rw [State.Stored, State.noteReady_stores]
    refine State.Stored.modStk ?_ _ fun _ hx => writeCarrels_canonical _ _ _ hx
    exact State.Stored.foldl (fun s b hs => hs.loseSaved _ _ b) _ (by simpa using h)

theorem State.Stored.endSlice (h : s.Stored) (stack : Nat) : (s.endSlice stack).Stored := by
  unfold State.endSlice
  split
  · exact h
  · next x q at0 _ =>
    dsimp only
    rw [State.Stored, State.noteReady_stores]
    generalize hy : State.haltAll _ at0 stack _ = y
    have hy : y.Stored := hy ▸ .haltAll (by simpa using h) _ _ _
    refine State.Stored.modStk hy _ fun _ _ => StackSt.turn_canonical (slot := q) ?_
    show Canonical (State.switched _ stack q).stores
    rw [State.switched_stores]
    exact hy.stk stack

/-! ## Descriptors that start -/

theorem State.Stored.startRebuild (h : s.Stored) (c : ChargeSt) : (s.startRebuild c).Stored := by
  unfold State.startRebuild
  split
  · exact .openRebuild (by simpa using h) _ _
  · exact h

theorem State.Stored.startCharge (h : s.Stored) (c : ChargeSt) : (s.startCharge c).Stored := by
  refine .branch h (.foldl (fun s i hs => hs.openRedo _ _) _ ?_)
  exact .startRebuild (by simpa using h) _

theorem State.Stored.putInputs (h : s.Stored) (c : ChargeSt) (xs : List (Nat × Bytes)) : (s.putInputs c xs).Stored :=
  h.modStk _ fun _ hx => writeCarrels_canonical _ _ _ hx

theorem State.Stored.writeRows (h : s.Stored) (c : ChargeSt) (f : FolioInfo) : (s.writeRows c f).Stored := by
  unfold State.writeRows
  split
  · refine .foldl (fun s p hs => ?_) _ h
    split
    · exact hs.modStk _ fun _ hx => StackSt.writeCarrel_canonical _ _ hx
    · exact hs
  · exact h

theorem State.Stored.feed (h : s.Stored) (c : ChargeSt) : (s.feed c).Stored := by
  have fed : (s.modCharge c.id fun x => { x with fed := true }).Stored := by simpa using h
  unfold State.feed
  dsimp only
  split
  · exact fed.putInputs _ _
  · refine .branch (fed.putInputs _ _) ?_
    rw [State.Stored, State.keepInputs_stackList]
    exact State.Stored.putInputs (State.Stored.writeRows (fed.putInputs _ _) _ _) _ _
  · exact fed.putInputs _ _

theorem State.Stored.leaveQueue (h : s.Stored) (at0 : Tick) (stack : Nat) (o : Op) (i : Nat) (c : ChargeSt) : (s.leaveQueue at0 stack o i c).Stored := by
  unfold State.leaveQueue
  dsimp only
  generalize hy : State.startCharge _ c = y
  have hy : y.Stored := hy ▸ .startCharge (by simpa using h) _
  exact .branch (hy.feed _) hy

theorem effStreamin_stored (h : s.Stored) (c : ChargeSt) (d : BitVec 512) : (effStreamin s c d).s.Stored := by
  unfold effStreamin
  dsimp only
  split
  · exact h
  · split
    · simpa using h
    · refine State.Stored.modStk ?_ _ fun _ hx => ⟨memWrite_wf _ _ hx.1, memWrite_wf _ _ hx.2.1, hx.2.2⟩
      simpa using h

theorem Effect.branch_stored {c : Prop} [Decidable c] {a b : Effect} (ha : a.s.Stored) (hb : b.s.Stored) : (if c then a else b).s.Stored := by
  split
  · exact ha
  · exact hb

theorem effectOf_stored (h : s.Stored) (o : Op) (c : ChargeSt) (q : QDesc) : (effectOf o s c q).s.Stored := by
  unfold effectOf
  split
  · exact effStreamin_stored h c q.bits
  all_goals simpa using h

theorem State.Stored.startDesc (h : s.Stored) (stack : Nat) (o : Op) : (s.startDesc stack o).Stored := by
  unfold State.startDesc
  dsimp only
  split
  · exact h
  · split
    · simpa using h
    · next pre q _ _ c0 _ =>
      generalize hy : State.leaveQueue s _ stack o pre.length c0 = y
      have hy : y.Stored := hy ▸ h.leaveQueue _ _ _ _ _
      split
      · exact .chargeEnd (by simpa using hy) _ _
      · refine .branch (.failDesc (Effect.branch_stored hy (effectOf_stored hy o _ q)) _ _ _ _ _ _) ?_
        rw [State.Stored, State.noteReady_stores, Effect.begin_stores]
        exact Effect.branch_stored hy (effectOf_stored hy o _ q)

theorem State.Stored.startOn (h : s.Stored) (a : StackAt) (o : Op) : (s.startOn a o).Stored := .startDesc (by simpa using h) _ _

/-! ## All that a stack does in time -/

theorem State.Stored.doAct (h : s.Stored) (a : StackAct) : (s.doAct a).Stored := by
  unfold State.doAct
  split
  · exact h.completeDesc _ _
  · exact h.stopPoint _
  · simpa using h
  · exact h.resumeStops _
  · exact h.endSlice _
  · exact h.endSlice _
  · split
    · exact h.startDesc _ _
    · exact h

theorem runBy_stored (t : Tick) (n : Nat) (h : s.Stored) : (runBy t n s).Stored := by
  induction n generalizing s with
  | zero => exact h
  | succ n ih =>
    simp only [runBy]
    split
    · exact h
    · exact ih (h.doAct _)

theorem State.Stored.stopCharge (h : s.Stored) (early : Bool) (at0 : Tick) (stack : Nat) (c : ChargeSt) :
    (State.stopCharge early at0 stack s c).Stored := .abandon (by simpa using h) _ _ _ _ _ _ _ _

theorem State.Stored.endStack (h : s.Stored) (early : Bool) (at0 : Tick) (stack : Nat) : (State.endStack early at0 s stack).Stored := by
  unfold State.endStack
  dsimp only
  refine .branch h ?_
  generalize hy : List.foldl (State.stopCharge early at0 stack) _ _ = y
  have hy : y.Stored := hy ▸ .foldl (fun s c hs => hs.stopCharge _ _ _ c) _ (h.dropAdmitted _ _ _)
  exact .branch hy (hy.stackFault _ _)

theorem State.Stored.closeStamp (h : s.Stored) (early : Bool) (at0 : Tick) : (s.closeStamp early at0).Stored := by
  unfold State.closeStamp
  refine .foldl (fun s k hs => hs.endStack _ _ k) _ ?_
  simpa using runBy_stored at0 4096 h

theorem State.Stored.loansAtBoundary (h : s.Stored) : s.loansAtBoundary.Stored := by
  refine .branch h ?_
  have lent : s.lendReady.Stored := by simpa using h
  simpa using lent.beginChanges true

theorem State.Stored.openStamp (h : s.Stored) : s.openStamp.Stored := by
  unfold State.openStamp
  dsimp only
  generalize hy : State.loansAtBoundary _ = y
  have hy : y.Stored := hy ▸ .loansAtBoundary (by simpa using h)
  split
  · exact .lifeMove (by simpa using hy) _
  · simpa using hy

theorem State.Stored.boundary (h : s.Stored) (at0 : Tick) (early : Bool) : (s.boundary at0 early).Stored :=
  .openStamp (by simpa using h.closeStamp early at0)

theorem State.Stored.finishFixed (h : s.Stored) (stack : Nat) : (s.finishFixed stack).Stored :=
  .foldl (fun _ _ hs => hs.completeDesc _ _) _ h

theorem State.Stored.declareBrownOut (h : s.Stored) : s.declareBrownOut.Stored := by
  have gated : ∀ {x : State}, x.Stored → ({ x with stackList := x.stackList.map fun k => { k with gated := true } } : State).Stored :=
    fun hx => StoresWf.map (fun _ => by rfl) hx
  have marked : StoresWf ((s.stackList.map fun k => { k with passDone := false }).map StackSt.stores) := .map (fun _ => by rfl) h
  unfold State.declareBrownOut
  refine gated ?_
  rw [State.Stored, State.parkAll_stackList]
  refine State.Stored.foldl (fun s k hs => .dropAdmitted (hs.finishFixed k) _ _ _) _ ?_
  exact State.Stored.foldl (fun s k hs => hs.abortInventory k) _ marked

theorem State.Stored.endDrain (h : s.Stored) (slot stack : Nat) : (s.endDrain slot stack).Stored := by
  unfold State.endDrain
  dsimp only
  rw [State.Stored, State.reconsiderAll_stores]
  refine State.Stored.modStk (State.Stored.beginChanges (by simpa using h) _) _ fun x hx => ?_
  split <;> exact hx
end

/-! ## Commands -/

/-- A command has been answered with a state whose stores are in canonical form. -/
def KeepsStores (o : Host.Outcome State Fault Refusal) : Prop := ∃ n, o = .next n ∧ n.Stored

section
variable {s : State} {t : Tick}

/-- A command keeps the canonical form where what it does keeps it. -/
theorem occurs_stored {ok : State → Bool} {act : State → State} (h : s.Stored) (ha : ∀ {s : State}, s.Stored → (act s).Stored) :
    KeepsStores (occurs t ok act s) := by
  have now : (s.advance t).Stored := h
  exact ⟨_, occurs_eq t ok act s, .branch (ha now) now⟩

/-- A command that leaves every byte of the stores. -/
theorem occurs_keeps {ok : State → Bool} {act : State → State} (h : s.Stored)
    (ha : ∀ s, (act s).stackList.map StackSt.stores = s.stackList.map StackSt.stores) : KeepsStores (occurs t ok act s) :=
  occurs_stored h fun {s} hs => by rw [State.Stored, ha s]; exact hs

variable {u : Line} {specs : List ArgSpec} {g : CmdGroup} {res : State → Bool} {act : State → Nat → State}

/-- A line keeps the canonical form where what its command does keeps it. -/
theorem usith_stored (h : s.Stored) (ha : ∀ {s : State} (n : Nat), s.Stored → (act s n).Stored) :
    KeepsStores (usith t u specs g res act s) := by
  refine occurs_stored h fun {s} hs => ?_
  have opened : (s.openLine u.ses (u.tag.filter fun n => decide (n ≤ 65535))).Stored := by simpa using hs
  dsimp only
  split
  · simpa using hs
  · split
    · simpa using hs
    · exact ha _ opened

theorem usith_keeps (h : s.Stored) (ha : ∀ s n, (act s n).stackList = s.stackList) : KeepsStores (usith t u specs g res act s) :=
  usith_stored h fun {s} n hs => by rw [State.Stored, ha s n]; exact hs

theorem usithRead_keeps {read : State → List HubLine} (h : s.Stored) : KeepsStores (usithRead t u specs read s) :=
  usith_keeps h fun s n => by simp

end

section
variable {s : State} {t : Tick}

theorem hostWrite_keeps {act : State → State} (h : s.Stored) (ha : ∀ s, (act s).stackList = s.stackList) : KeepsStores (hostWrite t act s) :=
  occurs_keeps h fun s => by simp [ha]

/-- A frame is taken, or counted and dropped. -/
theorem State.onFrame_stores {rx : SpineRx} {ftype : Nat} {f : State → State} (s : State)
    (hf : ∀ s, (f s).stackList.map StackSt.stores = s.stackList.map StackSt.stores) :
    (s.onFrame rx ftype f).stackList.map StackSt.stores = s.stackList.map StackSt.stores := by
  dsimp only [State.onFrame]
  split
  · rw [hf, s.takeFrame_stackList]
  · rw [s.takeFrame_stackList]

theorem State.onSeq_stores {rx : SpineRx} {m : SpineMsg} {f : State → State} (s : State)
    (hf : ∀ s, (f s).stackList.map StackSt.stores = s.stackList.map StackSt.stores) :
    (s.onSeq rx m f).stackList.map StackSt.stores = s.stackList.map StackSt.stores := by
  dsimp only [State.onSeq]
  split
  · rw [hf, s.takeSeq_stackList]
  · rw [s.takeSeq_stackList]

end

/-! ## What each command keeps -/

section
variable {s : State} (h : s.Stored)
include h

theorem execPowerUp_keeps (t : Tick) : KeepsStores (execPowerUp t s) := occurs_stored h fun {s} _ => s.fresh_stored
theorem execBusCheckEnd_keeps (t : Tick) : KeepsStores (execBusCheckEnd t s) := occurs_keeps h fun s => by simp
theorem execRailEnable_keeps (t : Tick) : KeepsStores (execRailEnable t s) := occurs_keeps h fun s => by simp
theorem execRailPowerGood_keeps (t : Tick) (rail : Nat) : KeepsStores (execRailPowerGood t rail s) := occurs_keeps h fun s => by simp
theorem execRailGoodTimeout_keeps (t : Tick) : KeepsStores (execRailGoodTimeout t s) := occurs_stored h fun {s} _ => s.shutRails_stored _ _ _
theorem execRailGoodLost_keeps (t : Tick) (rail : Nat) : KeepsStores (execRailGoodLost t rail s) :=
  occurs_stored h fun {s} _ => s.shutRails_stored _ _ _
theorem execRailRestart_keeps (t : Tick) : KeepsStores (execRailRestart t s) := occurs_keeps h fun s => by simp
theorem execBootRecordRead_keeps (t : Tick) : KeepsStores (execBootRecordRead t s) := occurs_stored h fun h => h.readBoot
theorem execPllLock_keeps (t : Tick) : KeepsStores (execPllLock t s) := occurs_keeps h fun s => by simp
theorem execStewardBoot_keeps (t : Tick) : KeepsStores (execStewardBoot t s) := occurs_keeps h fun s => by simp
theorem execStackWake_keeps (t : Tick) (stk : Nat) : KeepsStores (execStackWake t stk s) := occurs_keeps h fun s => by simp
theorem execStartupInventoryEnd_keeps (t : Tick) (stk : Nat) (failed : BitVec 32) : KeepsStores (execStartupInventoryEnd t stk failed s) :=
  occurs_stored h fun {s} h => by
    have blank : (s.modStk stk fun k => { k.reinit with tested := true }).Stored := h.modStk _ fun k _ => k.reinit_canonical
    simpa using blank
theorem execRoleDecision_keeps (t : Tick) : KeepsStores (execRoleDecision t s) := occurs_keeps h fun s => by simp
theorem execBeaconListenEnd_keeps (t : Tick) : KeepsStores (execBeaconListenEnd t s) := occurs_keeps h fun s => by simp
theorem execUnalignedPromotion_keeps (t : Tick) : KeepsStores (execUnalignedPromotion t s) := occurs_keeps h fun s => by simp
theorem execHrdyRise_keeps (t : Tick) : KeepsStores (execHrdyRise t s) := occurs_keeps h fun s => by simp
theorem execSnapshotRestore_keeps (t : Tick) : KeepsStores (execSnapshotRestore t s) := occurs_keeps h fun s => by simp
theorem execStreamRecordRestore_keeps (t : Tick) : KeepsStores (execStreamRecordRestore t s) := occurs_keeps h fun s => by simp [stackList_foldl]
theorem execBrownOut_keeps (t : Tick) (mains : Bool) : KeepsStores (execBrownOut t mains s) :=
  occurs_stored h fun {s} h => .branch h.declareBrownOut (s.shutRails_stored _ _ _)
theorem execBrownOutHrdyLow_keeps (t : Tick) : KeepsStores (execBrownOutHrdyLow t s) := occurs_keeps h fun s => by simp
theorem execSnapshotWrite_keeps (t : Tick) : KeepsStores (execSnapshotWrite t s) := occurs_keeps h fun s => by simp
theorem execSnapshotSeal_keeps (t : Tick) : KeepsStores (execSnapshotSeal t s) := occurs_stored h fun _ => State.shutRails_stored _ _ _ _
theorem execBusRestart_keeps (t : Tick) : KeepsStores (execBusRestart t s) := occurs_keeps h fun s => by simp
theorem execRstNLow_keeps (t : Tick) : KeepsStores (execRstNLow t s) := occurs_stored h fun {s} _ => s.fresh_stored
theorem execRstNRelease_keeps (t : Tick) : KeepsStores (execRstNRelease t s) := occurs_stored h fun {s} h => by
    have up : (if s.power.waiting = .none then s.resumeAt12 .reset else { s with power := { s.power with rstLow := none } }).Stored :=
      .branch (s.resumeAt12_stored _) h
    exact up
theorem execStampBoundary_keeps (t : Tick) : KeepsStores (execStampBoundary t s) := occurs_stored h fun h => h.boundary _ _
theorem execTakeoverBoundary_keeps (t : Tick) : KeepsStores (execTakeoverBoundary t s) := occurs_stored h fun {s} h => by
    have taken : s.takeOver.Stored := by simpa using h
    exact taken.boundary _ _
theorem execAdmissionPass_keeps (t : Tick) (stk : Nat) : KeepsStores (execAdmissionPass t stk s) := occurs_keeps h fun s => by simp
theorem execSampleMark_keeps (t : Tick) : KeepsStores (execSampleMark t s) := occurs_keeps h fun s => by simp
theorem execConversion_keeps (t : Tick) (ia ib : BitVec 24) (mains : Option (List (BitVec 24))) : KeepsStores (execConversion t ia ib mains s) :=
  occurs_keeps h fun s => by split <;> simp
theorem execCurrentMean_keeps (t : Tick) : KeepsStores (execCurrentMean t s) := occurs_keeps h fun s => by
    dsimp only
    split <;> simp
theorem execHeartbeatSend_keeps (t : Tick) : KeepsStores (execHeartbeatSend t s) := occurs_keeps h fun s => by simp
theorem execStarvedEvent_keeps (t : Tick) : KeepsStores (execStarvedEvent t s) := occurs_keeps h fun s => by simp
theorem execUnservedEvent_keeps (t : Tick) : KeepsStores (execUnservedEvent t s) := occurs_keeps h fun s => by simp
theorem execDivsum_keeps (t : Tick) : KeepsStores (execDivsum t s) := occurs_keeps h fun s => by simp
theorem execChargeSubmit_keeps (t : Tick) (cmd : ChargeSpec) : KeepsStores (execChargeSubmit t cmd s) := occurs_keeps h fun s => by simp
theorem execStreamin_keeps (t : Tick) (stk : StackAt) : KeepsStores (execStreamin t stk s) := occurs_stored h fun h => h.startOn _ _
theorem execMatmul_keeps (t : Tick) (stk : StackAt) : KeepsStores (execMatmul t stk s) := occurs_stored h fun h => h.startOn _ _
theorem execScan_keeps (t : Tick) (stk : StackAt) : KeepsStores (execScan t stk s) := occurs_stored h fun h => h.startOn _ _
theorem execBind_keeps (t : Tick) (stk : StackAt) : KeepsStores (execBind t stk s) := occurs_stored h fun h => h.startOn _ _
theorem execRecall_keeps (t : Tick) (stk : StackAt) : KeepsStores (execRecall t stk s) := occurs_stored h fun h => h.startOn _ _
theorem execPark_keeps (t : Tick) (stk : StackAt) : KeepsStores (execPark t stk s) := occurs_stored h fun h => h.startOn _ _
theorem execCommit_keeps (t : Tick) (stk : StackAt) : KeepsStores (execCommit t stk s) := occurs_stored h fun h => h.startOn _ _
theorem execXfer_keeps (t : Tick) (stk : StackAt) : KeepsStores (execXfer t stk s) := occurs_stored h fun h => h.startOn _ _
theorem execShadow_keeps (t : Tick) (stk : StackAt) : KeepsStores (execShadow t stk s) := occurs_stored h fun h => h.startOn _ _
theorem execDigest_keeps (t : Tick) (stk : StackAt) : KeepsStores (execDigest t stk s) := occurs_stored h fun h => h.startOn _ _
theorem execColophon_keeps (t : Tick) (stk : StackAt) : KeepsStores (execColophon t stk s) := occurs_stored h fun h => h.startOn _ _
theorem execSync_keeps (t : Tick) (stk : StackAt) : KeepsStores (execSync t stk s) := occurs_stored h fun h => h.startOn _ _
theorem execDescriptorComplete_keeps (t : Tick) (stk : Nat) (eng : Engine) : KeepsStores (execDescriptorComplete t stk eng s) :=
  occurs_stored h fun h => h.completeDesc _ _
theorem execRefitUpdate_keeps (t : Tick) (corrected : List Nat) : KeepsStores (execRefitUpdate t corrected s) :=
  occurs_keeps h fun s => by split <;> simp [stackList_foldl]
theorem execPublish_keeps (t : Tick) : KeepsStores (execPublish t s) := occurs_keeps h fun s => by split <;> simp
theorem execPreemption_keeps (t : Tick) (stk slot : Nat) : KeepsStores (execPreemption t stk slot s) := occurs_keeps h fun s => by simp
theorem execStopPoint_keeps (t : Tick) (stk : Nat) : KeepsStores (execStopPoint t stk s) := occurs_stored h fun h => h.stopPoint _
theorem execResume_keeps (t : Tick) (stk : Nat) : KeepsStores (execResume t stk s) := occurs_stored h fun h => h.resumeStops _
theorem execSliceEnd_keeps (t : Tick) (stk : Nat) : KeepsStores (execSliceEnd t stk s) := occurs_stored h fun h => h.endSlice _
theorem execHang_keeps (t : Tick) (stk : Nat) (eng : Engine) : KeepsStores (execHang t stk eng s) := occurs_stored h fun h => h.stackFault _ _
theorem execIsolationReport_keeps (t : Tick) (stk : Nat) : KeepsStores (execIsolationReport t stk s) := occurs_stored h fun h => h.stackFault _ _
theorem execInventoryEnd_keeps (t : Tick) (stk : Nat) (f : InvFinding) : KeepsStores (execInventoryEnd t stk f s) :=
  occurs_stored h fun h => h.endInventory _ _
theorem execScheduledInventory_keeps (t : Tick) : KeepsStores (execScheduledInventory t s) := occurs_keeps h fun s => by simp
theorem execLedgerScrub_keeps (t : Tick) (corrected : List Nat) : KeepsStores (execLedgerScrub t corrected s) :=
  occurs_keeps h fun s => by simp [stackList_foldl]
theorem execLockstepA_keeps (t : Tick) : KeepsStores (execLockstepA t s) := occurs_keeps h fun s => by simp
theorem execLockstepB_keeps (t : Tick) : KeepsStores (execLockstepB t s) := occurs_keeps h fun s => by simp
theorem execStewardRestart_keeps (t : Tick) (pairB : Bool) : KeepsStores (execStewardRestart t pairB s) := occurs_keeps h fun s => by simp
theorem execBurstReceive_keeps (t : Tick) (lch : Nat) (slot : Slot) (hdr : BitVec 48) (offset : Int) : KeepsStores (execBurstReceive t lch slot hdr offset s) :=
  occurs_keeps h fun s => by simp
theorem execLearnedDeadline_keeps (t : Tick) (lch : Nat) (slot : Slot) : KeepsStores (execLearnedDeadline t lch slot s) :=
  occurs_keeps h fun s => by simp
theorem execBurstOutcome_keeps (t : Tick) (lch : Nat) (slot : Slot) (learned : Bool) (twin : List Int) (m : RxMeas) : KeepsStores (execBurstOutcome t lch slot learned twin m s) :=
  occurs_keeps h fun s => by split <;> simp
theorem execLossInstant_keeps (t : Tick) : KeepsStores (execLossInstant t s) := occurs_keeps h fun s => by simp
theorem execReceiverRelease_keeps (t : Tick) : KeepsStores (execReceiverRelease t s) := occurs_keeps h fun s => by simp
theorem execCallSend_keeps (t : Tick) (lch : Nat) : KeepsStores (execCallSend t lch s) := occurs_keeps h fun s => by simp
theorem execOrderSend_keeps (t : Tick) (lch dslot : Nat) : KeepsStores (execOrderSend t lch dslot s) := occurs_keeps h fun s => by simp
theorem execTuneScript_keeps (t : Tick) : KeepsStores (execTuneScript t s) := occurs_keeps h fun s => by simp
theorem execPortfault_keeps (t : Tick) (port : Nat) (cause : PortCause) : KeepsStores (execPortfault t port cause s) :=
  occurs_keeps h fun s => by simp
theorem execBatonReturn_keeps (t : Tick) : KeepsStores (execBatonReturn t s) := occurs_keeps h fun s => by simp
theorem execBatonbreak_keeps (t : Tick) : KeepsStores (execBatonbreak t s) := occurs_keeps h fun s => by simp
theorem execAccofferSend_keeps (t : Tick) : KeepsStores (execAccofferSend t s) := occurs_keeps h fun s => by simp
theorem execBtnSenseSample_keeps (t : Tick) (high : Bool) : KeepsStores (execBtnSenseSample t high s) := occurs_keeps h fun s => by simp
theorem execChainbreak_keeps (t : Tick) : KeepsStores (execChainbreak t s) := occurs_keeps h fun s => by simp
theorem execTrainingPhase_keeps (t : Tick) (phase : Nat) : KeepsStores (execTrainingPhase t phase s) := occurs_keeps h fun s => by simp
theorem execTrainingTimeout_keeps (t : Tick) : KeepsStores (execTrainingTimeout t s) := occurs_keeps h fun s => by simp
theorem execTrain_keeps (t : Tick) (rx : SpineRx) (i : TrainInfo) : KeepsStores (execTrain t rx i s) :=
  occurs_keeps h fun s => s.onFrame_stores fun s => by simp
theorem execHeartbeat_keeps (t : Tick) (rx : SpineRx) (payload : BitVec 128) : KeepsStores (execHeartbeat t rx payload s) :=
  occurs_keeps h fun s => s.onFrame_stores fun s => by simp
theorem execRole_keeps (t : Tick) (rx : SpineRx) (n : RoleNote) : KeepsStores (execRole t rx n s) :=
  occurs_keeps h fun s => s.onSeq_stores fun s => by
    split
    · dsimp only
      split <;> simp
    · simp
theorem execConfig_keeps (t : Tick) (rx : SpineRx) (item : ConfigItem) (live : BitVec 48) : KeepsStores (execConfig t rx item live s) :=
  occurs_keeps h fun s => s.onSeq_stores fun s => by simp
theorem execSense_keeps (t : Tick) (rx : SpineRx) (stamp : BitVec 48) (ms : Nat) (ca cb : List (BitVec 24)) (mains : List (List (BitVec 24))) : KeepsStores (execSense t rx stamp ms ca cb mains s) :=
  occurs_keeps h fun s => s.onSeq_stores fun s => by split <;> simp
theorem execSeal_keeps (t : Tick) (rx : SpineRx) (recs : List SealRec) : KeepsStores (execSeal t rx recs s) :=
  occurs_keeps h fun s => s.onSeq_stores fun s => by split <;> simp
theorem execCard_keeps (t : Tick) (rx : SpineRx) (head : BitVec 128) (body twin : Bytes) : KeepsStores (execCard t rx head body twin s) :=
  occurs_keeps h fun s => s.onSeq_stores fun s => by split <;> simp
theorem execSpineResend_keeps (t : Tick) : KeepsStores (execSpineResend t s) := occurs_keeps h fun s => by simp [stackList_foldl]
theorem execSpinesec_keeps (t : Tick) : KeepsStores (execSpinesec t s) := occurs_keeps h fun s => by simp
theorem execSealSend_keeps (t : Tick) : KeepsStores (execSealSend t s) := occurs_keeps h fun s => by simp
theorem execPrimaryLost_keeps (t : Tick) : KeepsStores (execPrimaryLost t s) := occurs_keeps h fun s => by simp
theorem execPartnerBeacon_keeps (t : Tick) (run : BitVec 32) (side : Bool) : KeepsStores (execPartnerBeacon t run side s) :=
  occurs_keeps h fun s => by simp
theorem execEstimateFrameWrite_keeps (t : Tick) : KeepsStores (execEstimateFrameWrite t s) := occurs_keeps h fun s => by simp
theorem execEventFrameWrite_keeps (t : Tick) : KeepsStores (execEventFrameWrite t s) := occurs_keeps h fun s => by simp
theorem execHeldFrameWrite_keeps (t : Tick) (ring : Nat) : KeepsStores (execHeldFrameWrite t ring s) := occurs_keeps h fun s => by split <;> simp
theorem execStatusBlockUpdate_keeps (t : Tick) : KeepsStores (execStatusBlockUpdate t s) := occurs_keeps h fun s => by simp
theorem execTransactionTimeout_keeps (t : Tick) : KeepsStores (execTransactionTimeout t s) := occurs_keeps h fun s => by simp
theorem execIrqWrite_keeps (t : Tick) (v : BitVec 32) : KeepsStores (execIrqWrite t v s) := hostWrite_keeps h fun s => by simp
theorem execIrqenWrite_keeps (t : Tick) (v : BitVec 32) : KeepsStores (execIrqenWrite t v s) := hostWrite_keeps h fun s => by simp
theorem execErrWrite_keeps (t : Tick) (v : BitVec 16) : KeepsStores (execErrWrite t v s) := hostWrite_keeps h fun s => by simp
theorem execH2mlenWrite_keeps (t : Tick) (v : BitVec 16) : KeepsStores (execH2mlenWrite t v s) := hostWrite_keeps h fun s => by simp
theorem execM2hlenWrite_keeps (t : Tick) (v : BitVec 16) : KeepsStores (execM2hlenWrite t v s) := hostWrite_keeps h fun s => by simp
theorem execConsWrite_keeps (t : Tick) (ring : Nat) (v : BitVec 32) : KeepsStores (execConsWrite t ring v s) := hostWrite_keeps h fun s => by simp
theorem execProdWrite_keeps (t : Tick) (ring : Nat) (v : BitVec 32) : KeepsStores (execProdWrite t ring v s) := hostWrite_keeps h fun s => by simp
theorem execRegisterWrite_keeps (t : Tick) (addr : HostTxn) (data : Bytes) : KeepsStores (execRegisterWrite t addr data s) :=
  occurs_keeps h fun s => by simp
theorem execPartialLineTimeout_keeps (t : Tick) : KeepsStores (execPartialLineTimeout t s) := occurs_keeps h fun s => by simp
theorem execSession_keeps (t : Tick) (u : Line) : KeepsStores (execSession t u s) := usith_keeps h fun s n => by simp
theorem execIdent_keeps (t : Tick) (u : Line) : KeepsStores (execIdent t u s) := usithRead_keeps h
theorem execStamp_keeps (t : Tick) (u : Line) : KeepsStores (execStamp t u s) := usithRead_keeps h
theorem execSet_keeps (t : Tick) (u : Line) (pairs : List (SName × Val)) : KeepsStores (execSet t u pairs s) := usith_keeps h fun s n => by
    split
    · simp
    · split
      · simp
      · split <;> simp
theorem execShowSetting_keeps (t : Tick) (u : Line) : KeepsStores (execShowSetting t u s) := usithRead_keeps h
theorem execDiscard_keeps (t : Tick) (u : Line) : KeepsStores (execDiscard t u s) := usith_keeps h fun s n => by simp
theorem execApply_keeps (t : Tick) (u : Line) : KeepsStores (execApply t u s) := usith_keeps h fun s n => by
    split
    · simp
    · split <;> simp
theorem execSave_keeps (t : Tick) (u : Line) : KeepsStores (execSave t u s) := usith_keeps h fun s n => by simp
theorem execAccession_keeps (t : Tick) (u : Line) : KeepsStores (execAccession t u s) := usith_keeps h fun s n => by simp
theorem execNodeShow_keeps (t : Tick) (u : Line) : KeepsStores (execNodeShow t u s) := usithRead_keeps h
theorem execBalance_keeps (t : Tick) (u : Line) : KeepsStores (execBalance t u s) := usith_keeps h fun s n => by simp
theorem execOwtest_keeps (t : Tick) (u : Line) : KeepsStores (execOwtest t u s) := usith_keeps h fun s n => by simp
theorem execBreakClear_keeps (t : Tick) (u : Line) : KeepsStores (execBreakClear t u s) := usith_keeps h fun s n => by split <;> simp
theorem execNodeQuery_keeps (t : Tick) (u : Line) : KeepsStores (execNodeQuery t u s) := usith_keeps h fun s n => by simp
theorem execNodeSleep_keeps (t : Tick) (u : Line) : KeepsStores (execNodeSleep t u s) := usith_keeps h fun s n => by simp
theorem execProtectAck_keeps (t : Tick) (u : Line) : KeepsStores (execProtectAck t u s) := usith_keeps h fun s n => by
    split
    · simp
    · split <;> simp
theorem execTwinsetLoad_keeps (t : Tick) (u : Line) : KeepsStores (execTwinsetLoad t u s) := usith_keeps h fun s n => by
    have took := s.takeInput_stackList 0x21 (lineNat u .tag 0)
    split
    · next e => simpa [e] using took
    · next e =>
      rw [e] at took
      split <;> simpa using took
theorem execStreamCreate_keeps (t : Tick) (u : Line) : KeepsStores (execStreamCreate t u s) := usith_keeps h fun s n => by simp
theorem execStreamFree_keeps (t : Tick) (u : Line) : KeepsStores (execStreamFree t u s) := usith_keeps h fun s n => by simp
theorem execStreamExport_keeps (t : Tick) (u : Line) : KeepsStores (execStreamExport t u s) := usith_keeps h fun s n => by simp
theorem execStreamCopy_keeps (t : Tick) (u : Line) : KeepsStores (execStreamCopy t u s) := usith_keeps h fun s n => by simp
theorem execStreamImport_keeps (t : Tick) (u : Line) : KeepsStores (execStreamImport t u s) := usith_keeps h fun s n => by
    have took := s.takeInput_stackList 0x20 (lineNat u .tag 0)
    split
    · next e => simpa [e] using took
    · next e => simpa [e] using took
theorem execStreamShow_keeps (t : Tick) (u : Line) : KeepsStores (execStreamShow t u s) := usithRead_keeps h
theorem execStreamList_keeps (t : Tick) (u : Line) : KeepsStores (execStreamList t u s) := usithRead_keeps h
theorem execFolioWrite_keeps (t : Tick) (u : Line) : KeepsStores (execFolioWrite t u s) := usith_keeps h fun s n => by
    have took := s.takeInput_stackList 0x21 (lineNat u .tag 0)
    dsimp only
    split
    · simp
    · split
      · next e => simpa [e] using took
      · next e =>
        rw [e] at took
        split <;> simpa using took
theorem execFolioInstall_keeps (t : Tick) (u : Line) (f : FolioInfo) : KeepsStores (execFolioInstall t u f s) := usith_keeps h fun s n => by
    split
    · simp
    · split <;> simp
theorem execFolioList_keeps (t : Tick) (u : Line) : KeepsStores (execFolioList t u s) := usithRead_keeps h
theorem execFolioDelete_keeps (t : Tick) (u : Line) : KeepsStores (execFolioDelete t u s) := usith_keeps h fun s n => by simp
theorem execBindFolio_keeps (t : Tick) (u : Line) : KeepsStores (execBindFolio t u s) := usith_keeps h fun s n => by
    dsimp only
    split
    · simp
    · split <;> simp
theorem execUnbind_keeps (t : Tick) (u : Line) : KeepsStores (execUnbind t u s) := usith_keeps h fun s n => by
    dsimp only
    split
    · simp
    · split <;> simp
theorem execLoan_keeps (t : Tick) (u : Line) : KeepsStores (execLoan t u s) := usith_keeps h fun s n => by
    dsimp only
    repeat' split
    all_goals simp
theorem execRelease_keeps (t : Tick) (u : Line) : KeepsStores (execRelease t u s) := usith_keeps h fun s n => by simp
theorem execMove_keeps (t : Tick) (u : Line) : KeepsStores (execMove t u s) := usith_keeps h fun s n => by
    dsimp only
    repeat' split
    all_goals simp
theorem execPromote_keeps (t : Tick) (u : Line) : KeepsStores (execPromote t u s) := usith_keeps h fun s n => by
    dsimp only
    repeat' split
    all_goals simp
theorem execDraftDiscard_keeps (t : Tick) (u : Line) : KeepsStores (execDraftDiscard t u s) := usith_keeps h fun s n => by simp
theorem execDraftShow_keeps (t : Tick) (u : Line) : KeepsStores (execDraftShow t u s) := usithRead_keeps h
theorem execRollout_keeps (t : Tick) (u : Line) : KeepsStores (execRollout t u s) := usith_keeps h fun s n => by
    have took := s.planOf_stackList u
    dsimp only
    split
    · simp
    · split
      · simp
      · split
        · simp
        · simp
        · split
          · next e => simpa [e] using took
          · next e =>
            rw [e] at took
            split <;> simpa using took
theorem execRegenerate_keeps (t : Tick) (u : Line) : KeepsStores (execRegenerate t u s) := usith_keeps h fun s n => by
    have took := s.takeInput_stackList 0x20 (lineNat u .card 0)
    dsimp only
    split
    · simp
    · simp
    · split
      · next e => simpa [e] using took
      · next s' e =>
        have input := s'.takeInput_stackList 0x21 (lineNat u .input 0)
        rw [e] at took
        split
        · simpa using took
        · simpa using took
        · split
          · next e => simpa [e] using input.trans took
          · next e => simpa [e] using input.trans took
theorem execJob_keeps (t : Tick) (u : Line) : KeepsStores (execJob t u s) := usith_keeps h fun s n => by
    have took := s.takeInputOf_stackList [0x21, 0x22] (lineNat u .input 0)
    dsimp only
    split
    · simp
    · split
      · simp
      · split
        · next e => simpa [e] using took
        · next e =>
          rw [e] at took
          split <;> simpa using took
theorem execCancel_keeps (t : Tick) (u : Line) : KeepsStores (execCancel t u s) := usith_keeps h fun s n => by
    split
    · simp
    · split <;> simp
theorem execRequestShow_keeps (t : Tick) (u : Line) : KeepsStores (execRequestShow t u s) := usithRead_keeps h
theorem execReportService_keeps (t : Tick) (u : Line) : KeepsStores (execReportService t u s) := usithRead_keeps h
theorem execReportLink_keeps (t : Tick) (u : Line) : KeepsStores (execReportLink t u s) := usithRead_keeps h
theorem execEventList_keeps (t : Tick) (u : Line) : KeepsStores (execEventList t u s) := usithRead_keeps h
theorem execPortShow_keeps (t : Tick) (u : Line) : KeepsStores (execPortShow t u s) := usithRead_keeps h
theorem execPortRestore_keeps (t : Tick) (u : Line) : KeepsStores (execPortRestore t u s) := usith_keeps h fun s n => by simp
theorem execScriptLoad_keeps (t : Tick) (u : Line) : KeepsStores (execScriptLoad t u s) := usith_keeps h fun s n => by
    have took := s.takeInput_stackList 0x21 (lineNat u .tag 0)
    dsimp only
    split
    · simp
    · split
      · simp
      · split
        · next e => simpa [e] using took
        · next e =>
          rw [e] at took
          split <;> simpa using took
theorem execPair_keeps (t : Tick) (u : Line) : KeepsStores (execPair t u s) := usith_keeps h fun s n => by simp
theorem execSpineShow_keeps (t : Tick) (u : Line) : KeepsStores (execSpineShow t u s) := usithRead_keeps h
theorem execSpineKey_keeps (t : Tick) (u : Line) : KeepsStores (execSpineKey t u s) := usith_keeps h fun s n => by
    have took := s.takeInput_stackList 0x21 (lineNat u .tag 0)
    split
    · simp
    · split
      · next e => simpa [e] using took
      · next e =>
        rw [e] at took
        split <;> simpa using took
theorem execRoleYield_keeps (t : Tick) (u : Line) : KeepsStores (execRoleYield t u s) := usith_keeps h fun s n => by simp
theorem execPowerShow_keeps (t : Tick) (u : Line) : KeepsStores (execPowerShow t u s) := usithRead_keeps h
theorem execInventory_keeps (t : Tick) (u : Line) : KeepsStores (execInventory t u s) := usith_stored h fun {s} n hs => by
    dsimp only
    repeat' split
    all_goals simpa using hs
theorem execInventoryShow_keeps (t : Tick) (u : Line) : KeepsStores (execInventoryShow t u s) := usithRead_keeps h
theorem execLectern_keeps (t : Tick) (u : Line) : KeepsStores (execLectern t u s) := usith_keeps h fun s n => by simp
theorem execLife_keeps (t : Tick) (u : Line) : KeepsStores (execLife t u s) := usith_stored h fun {s} n hs => by
    extract_lets dest
    have refused : ∀ l, (s.answer u.ses n [l]).Stored := fun l => by simpa using hs
    exact .branch (refused _) (.branch (refused _) (.branch (refused _) (.branch (.lifeMove (refused _) _) (by simpa using hs))))
theorem execExtest_keeps (t : Tick) (tdi : Bits) : KeepsStores (execExtest t tdi s) := occurs_keeps h fun s => by simp
theorem execIdcode_keeps (t : Tick) : KeepsStores (execIdcode t s) := occurs_keeps h fun s => by simp
theorem execSamplePreload_keeps (t : Tick) (tdi : Bits) : KeepsStores (execSamplePreload t tdi s) := occurs_keeps h fun s => by simp
theorem execClamp_keeps (t : Tick) : KeepsStores (execClamp t s) := occurs_keeps h fun s => by simp
theorem execHighz_keeps (t : Tick) : KeepsStores (execHighz t s) := occurs_keeps h fun s => by simp
theorem execFuseread_keeps (t : Tick) : KeepsStores (execFuseread t s) := occurs_keeps h fun s => by simp
theorem execFuseprog_keeps (t : Tick) (v : BitVec 1344) : KeepsStores (execFuseprog t v s) := occurs_keeps h fun s => by simp
theorem execBypass_keeps (t : Tick) (tdi : Bits) : KeepsStores (execBypass t tdi s) := occurs_keeps h fun s => by simp
theorem execTrstNLow_keeps (t : Tick) : KeepsStores (execTrstNLow t s) := occurs_keeps h fun s => by simp
theorem execPowerLoss_keeps (t : Tick) : KeepsStores (execPowerLoss t s) := occurs_stored h fun {s} _ => s.fresh_stored
theorem execLineError_keeps (t : Tick) (ses : Sess) (bytes : Bytes) (overrun : Bool) : KeepsStores (execLineError t ses bytes overrun s) :=
  occurs_keeps h fun s => by split <;> simp
theorem execPartnerBurstReceive_keeps (t : Tick) (b : PartnerBurst) : KeepsStores (execPartnerBurstReceive t b s) := occurs_keeps h fun s => by
    split
    · repeat' split
      all_goals simp
    · split <;> simp
    · split <;> simp
theorem execDrainEnd_keeps (t : Tick) (stk slot : Nat) : KeepsStores (execDrainEnd t stk slot s) := occurs_stored h fun h => h.endDrain _ _
theorem execSpinePreamble_keeps (t : Tick) : KeepsStores (execSpinePreamble t s) := occurs_keeps h fun s => by simp
theorem execSpineDown_keeps (t : Tick) : KeepsStores (execSpineDown t s) := occurs_keeps h fun s => by simp
theorem execPromotionLagging_keeps (t : Tick) : KeepsStores (execPromotionLagging t s) := occurs_keeps h fun s => by split <;> simp

end

/-- Whatever command stands at the front of the queue. -/
theorem exec_keeps {s : State} (h : s.Stored) (c : Instr) : KeepsStores (exec c s) :=
  match c with
  | .powerUp t => execPowerUp_keeps h t
  | .busCheckEnd t => execBusCheckEnd_keeps h t
  | .railEnable t => execRailEnable_keeps h t
  | .railPowerGood t rail => execRailPowerGood_keeps h t rail
  | .railGoodTimeout t => execRailGoodTimeout_keeps h t
  | .railGoodLost t rail => execRailGoodLost_keeps h t rail
  | .railRestart t => execRailRestart_keeps h t
  | .bootRecordRead t => execBootRecordRead_keeps h t
  | .pllLock t => execPllLock_keeps h t
  | .stewardBoot t => execStewardBoot_keeps h t
  | .stackWake t stk => execStackWake_keeps h t stk
  | .startupInventoryEnd t stk failed => execStartupInventoryEnd_keeps h t stk failed
  | .roleDecision t => execRoleDecision_keeps h t
  | .beaconListenEnd t => execBeaconListenEnd_keeps h t
  | .unalignedPromotion t => execUnalignedPromotion_keeps h t
  | .hrdyRise t => execHrdyRise_keeps h t
  | .snapshotRestore t => execSnapshotRestore_keeps h t
  | .streamRecordRestore t => execStreamRecordRestore_keeps h t
  | .brownOut t mains => execBrownOut_keeps h t mains
  | .brownOutHrdyLow t => execBrownOutHrdyLow_keeps h t
  | .snapshotWrite t => execSnapshotWrite_keeps h t
  | .snapshotSeal t => execSnapshotSeal_keeps h t
  | .busRestart t => execBusRestart_keeps h t
  | .rstNLow t => execRstNLow_keeps h t
  | .rstNRelease t => execRstNRelease_keeps h t
  | .stampBoundary t => execStampBoundary_keeps h t
  | .takeoverBoundary t => execTakeoverBoundary_keeps h t
  | .admissionPass t stk => execAdmissionPass_keeps h t stk
  | .sampleMark t => execSampleMark_keeps h t
  | .conversion t ia ib mains => execConversion_keeps h t ia ib mains
  | .currentMean t => execCurrentMean_keeps h t
  | .heartbeatSend t => execHeartbeatSend_keeps h t
  | .starvedEvent t => execStarvedEvent_keeps h t
  | .unservedEvent t => execUnservedEvent_keeps h t
  | .divsum t => execDivsum_keeps h t
  | .chargeSubmit t cmd => execChargeSubmit_keeps h t cmd
  | .streamin t stk => execStreamin_keeps h t stk
  | .matmul t stk => execMatmul_keeps h t stk
  | .scan t stk => execScan_keeps h t stk
  | .bind t stk => execBind_keeps h t stk
  | .recall t stk => execRecall_keeps h t stk
  | .park t stk => execPark_keeps h t stk
  | .commit t stk => execCommit_keeps h t stk
  | .xfer t stk => execXfer_keeps h t stk
  | .shadow t stk => execShadow_keeps h t stk
  | .digest t stk => execDigest_keeps h t stk
  | .colophon t stk => execColophon_keeps h t stk
  | .sync t stk => execSync_keeps h t stk
  | .descriptorComplete t stk eng => execDescriptorComplete_keeps h t stk eng
  | .refitUpdate t corrected => execRefitUpdate_keeps h t corrected
  | .publish t => execPublish_keeps h t
  | .preemption t stk slot => execPreemption_keeps h t stk slot
  | .stopPoint t stk => execStopPoint_keeps h t stk
  | .resume t stk => execResume_keeps h t stk
  | .sliceEnd t stk => execSliceEnd_keeps h t stk
  | .hang t stk eng => execHang_keeps h t stk eng
  | .isolationReport t stk => execIsolationReport_keeps h t stk
  | .inventoryEnd t stk f => execInventoryEnd_keeps h t stk f
  | .scheduledInventory t => execScheduledInventory_keeps h t
  | .ledgerScrub t corrected => execLedgerScrub_keeps h t corrected
  | .lockstepA t => execLockstepA_keeps h t
  | .lockstepB t => execLockstepB_keeps h t
  | .stewardRestart t pairB => execStewardRestart_keeps h t pairB
  | .burstReceive t lch slot hdr offset => execBurstReceive_keeps h t lch slot hdr offset
  | .learnedDeadline t lch slot => execLearnedDeadline_keeps h t lch slot
  | .burstOutcome t lch slot learned twin m => execBurstOutcome_keeps h t lch slot learned twin m
  | .lossInstant t => execLossInstant_keeps h t
  | .receiverRelease t => execReceiverRelease_keeps h t
  | .callSend t lch => execCallSend_keeps h t lch
  | .orderSend t lch dslot => execOrderSend_keeps h t lch dslot
  | .tuneScript t => execTuneScript_keeps h t
  | .portfault t port cause => execPortfault_keeps h t port cause
  | .batonReturn t => execBatonReturn_keeps h t
  | .batonbreak t => execBatonbreak_keeps h t
  | .accofferSend t => execAccofferSend_keeps h t
  | .btnSenseSample t high => execBtnSenseSample_keeps h t high
  | .chainbreak t => execChainbreak_keeps h t
  | .trainingPhase t phase => execTrainingPhase_keeps h t phase
  | .trainingTimeout t => execTrainingTimeout_keeps h t
  | .train t rx info => execTrain_keeps h t rx info
  | .heartbeat t rx payload => execHeartbeat_keeps h t rx payload
  | .role t rx n => execRole_keeps h t rx n
  | .config t rx item live => execConfig_keeps h t rx item live
  | .sense t rx stamp ms ca cb mains => execSense_keeps h t rx stamp ms ca cb mains
  | .seal t rx recs => execSeal_keeps h t rx recs
  | .card t rx head body twin => execCard_keeps h t rx head body twin
  | .spineResend t => execSpineResend_keeps h t
  | .spinesec t => execSpinesec_keeps h t
  | .sealSend t => execSealSend_keeps h t
  | .primaryLost t => execPrimaryLost_keeps h t
  | .partnerBeacon t run side => execPartnerBeacon_keeps h t run side
  | .estimateFrameWrite t => execEstimateFrameWrite_keeps h t
  | .eventFrameWrite t => execEventFrameWrite_keeps h t
  | .heldFrameWrite t ring => execHeldFrameWrite_keeps h t ring
  | .statusBlockUpdate t => execStatusBlockUpdate_keeps h t
  | .transactionTimeout t => execTransactionTimeout_keeps h t
  | .irqWrite t v => execIrqWrite_keeps h t v
  | .irqenWrite t v => execIrqenWrite_keeps h t v
  | .errWrite t v => execErrWrite_keeps h t v
  | .h2mlenWrite t v => execH2mlenWrite_keeps h t v
  | .m2hlenWrite t v => execM2hlenWrite_keeps h t v
  | .consWrite t ring v => execConsWrite_keeps h t ring v
  | .prodWrite t ring v => execProdWrite_keeps h t ring v
  | .registerWrite t addr data => execRegisterWrite_keeps h t addr data
  | .partialLineTimeout t => execPartialLineTimeout_keeps h t
  | .session t u => execSession_keeps h t u
  | .ident t u => execIdent_keeps h t u
  | .stamp t u => execStamp_keeps h t u
  | .set t u pairs => execSet_keeps h t u pairs
  | .showSetting t u => execShowSetting_keeps h t u
  | .discard t u => execDiscard_keeps h t u
  | .apply t u => execApply_keeps h t u
  | .save t u => execSave_keeps h t u
  | .accession t u => execAccession_keeps h t u
  | .nodeShow t u => execNodeShow_keeps h t u
  | .balance t u => execBalance_keeps h t u
  | .owtest t u => execOwtest_keeps h t u
  | .breakClear t u => execBreakClear_keeps h t u
  | .nodeQuery t u => execNodeQuery_keeps h t u
  | .nodeSleep t u => execNodeSleep_keeps h t u
  | .protectAck t u => execProtectAck_keeps h t u
  | .twinsetLoad t u => execTwinsetLoad_keeps h t u
  | .streamCreate t u => execStreamCreate_keeps h t u
  | .streamFree t u => execStreamFree_keeps h t u
  | .streamExport t u => execStreamExport_keeps h t u
  | .streamCopy t u => execStreamCopy_keeps h t u
  | .streamImport t u => execStreamImport_keeps h t u
  | .streamShow t u => execStreamShow_keeps h t u
  | .streamList t u => execStreamList_keeps h t u
  | .folioWrite t u => execFolioWrite_keeps h t u
  | .folioInstall t u f => execFolioInstall_keeps h t u f
  | .folioList t u => execFolioList_keeps h t u
  | .folioDelete t u => execFolioDelete_keeps h t u
  | .bindFolio t u => execBindFolio_keeps h t u
  | .unbind t u => execUnbind_keeps h t u
  | .loan t u => execLoan_keeps h t u
  | .release t u => execRelease_keeps h t u
  | .move t u => execMove_keeps h t u
  | .promote t u => execPromote_keeps h t u
  | .draftDiscard t u => execDraftDiscard_keeps h t u
  | .draftShow t u => execDraftShow_keeps h t u
  | .rollout t u => execRollout_keeps h t u
  | .regenerate t u => execRegenerate_keeps h t u
  | .job t u => execJob_keeps h t u
  | .cancel t u => execCancel_keeps h t u
  | .requestShow t u => execRequestShow_keeps h t u
  | .reportService t u => execReportService_keeps h t u
  | .reportLink t u => execReportLink_keeps h t u
  | .eventList t u => execEventList_keeps h t u
  | .portShow t u => execPortShow_keeps h t u
  | .portRestore t u => execPortRestore_keeps h t u
  | .scriptLoad t u => execScriptLoad_keeps h t u
  | .pair t u => execPair_keeps h t u
  | .spineShow t u => execSpineShow_keeps h t u
  | .spineKey t u => execSpineKey_keeps h t u
  | .roleYield t u => execRoleYield_keeps h t u
  | .powerShow t u => execPowerShow_keeps h t u
  | .inventory t u => execInventory_keeps h t u
  | .inventoryShow t u => execInventoryShow_keeps h t u
  | .lectern t u => execLectern_keeps h t u
  | .life t u => execLife_keeps h t u
  | .extest t tdi => execExtest_keeps h t tdi
  | .idcode t => execIdcode_keeps h t
  | .samplePreload t tdi => execSamplePreload_keeps h t tdi
  | .clamp t => execClamp_keeps h t
  | .highz t => execHighz_keeps h t
  | .fuseread t => execFuseread_keeps h t
  | .fuseprog t v => execFuseprog_keeps h t v
  | .bypass t tdi => execBypass_keeps h t tdi
  | .trstNLow t => execTrstNLow_keeps h t
  | .powerLoss t => execPowerLoss_keeps h t
  | .lineError t ses bytes overrun => execLineError_keeps h t ses bytes overrun
  | .partnerBurstReceive t b => execPartnerBurstReceive_keeps h t b
  | .drainEnd t stk slot => execDrainEnd_keeps h t stk slot
  | .spinePreamble t => execSpinePreamble_keeps h t
  | .spineDown t => execSpineDown_keeps h t
  | .promotionLagging t => execPromotionLagging_keeps h t

/-- Settles O40: the front command is answered by `exec_keeps`, and what waits behind it is no part of the stores. -/
theorem stackStoresKept : Obligations.StackStoresKept := by
  intro s hs
  have h : s.Stored := s.stored_iff.mpr hs
  cases hp : s.pending with
  | nil => exact ⟨s, step_idle hp, hs⟩
  | cons c rest =>
    obtain ⟨n, hn, kept⟩ := exec_keeps (s := { s with pending := rest }) h c
    refine ⟨n, ?_, n.stored_iff.mp kept⟩
    rw [← hn, ← step_cons c rest s, ← hp]

end Sys2Proof.Machine

namespace Sys2Proof.Machine

/-! ## Streams by their identifier (05 R119) -/

/-- What is put into a keyed list is found there under its key. -/
theorem find?_putBy_same {α : Type} (key : α → Nat) (x : α) (xs : List α) :
    (putBy key x xs).find? (fun y => key y == key x) = some x := by
  induction xs with
  | nil => simp [putBy]
  | cons y ys ih =>
    simp only [putBy]
    split
    · simp
    · split
      · simp
      · next hne => simp [ih, Ne.symm hne]

/-- Under every other key the list gives what it gave. -/
theorem find?_putBy_other {α : Type} (key : α → Nat) {x : α} {j : Nat} (h : key x ≠ j) (xs : List α) :
    (putBy key x xs).find? (fun y => key y == j) = xs.find? fun y => key y == j := by
  induction xs with
  | nil => simp [putBy, h]
  | cons y ys ih =>
    simp only [putBy]
    split
    · simp [h]
    · split
      · next heq => simp [h, ← heq]
      · simp only [List.find?_cons, ih]

/-- The stream of an identifier bears it. -/
@[simp] theorem State.stream_sid (s : State) (k : Nat) : (s.stream k).sid = k := by
  unfold State.stream
  cases h : s.streams.find? fun x => x.sid == k with
  | none => rfl
  | some x => simpa using List.find?_some h

theorem State.stream_congr {s n : State} (h : n.streams = s.streams) (j : Nat) : n.stream j = s.stream j := by
  unfold State.stream
  rw [h]

@[simp] theorem State.stream_putStream_same (s : State) (x : StreamSt) : (s.putStream x).stream x.sid = x := by
  simp [State.stream, State.putStream, find?_putBy_same]

theorem State.stream_putStream_other (s : State) {x : StreamSt} {j : Nat} (h : j ≠ x.sid) : (s.putStream x).stream j = s.stream j := by
  simp [State.stream, State.putStream, find?_putBy_other StreamSt.sid h.symm]

theorem State.stream_modStream_same {s : State} {k : Nat} {f : StreamSt → StreamSt} (h : (f (s.stream k)).sid = k) :
    (s.modStream k f).stream k = f (s.stream k) := by
  have := s.stream_putStream_same (f (s.stream k))
  rwa [h] at this

theorem State.stream_modStream_other {s : State} {k j : Nat} {f : StreamSt → StreamSt} (h : (f (s.stream k)).sid = k) (hj : j ≠ k) :
    (s.modStream k f).stream j = s.stream j :=
  s.stream_putStream_other (h.symm ▸ hj)

@[simp] theorem StreamSt.park_sid (x : StreamSt) : x.park.sid = x.sid := by unfold StreamSt.park; split <;> rfl
@[simp] theorem StreamSt.park_gen (x : StreamSt) : x.park.gen = x.gen := by unfold StreamSt.park; split <;> rfl
@[simp] theorem StreamSt.park_committed (x : StreamSt) : x.park.committed = x.committed := by unfold StreamSt.park; split <;> rfl

/-- A stream that exists is parked when it has been parked. -/
theorem State.hasStream_park {s : State} {k : Nat} (h : s.hasStream k = true) : (s.stream k).park.place = .parked := by
  unfold StreamSt.park
  split
  · rfl
  · next hr => simpa [State.hasStream, hr] using h

@[simp] theorem State.parkNow_stream_same (s : State) (k : Nat) : (s.parkNow k).stream k = (s.stream k).park :=
  State.stream_modStream_same (by simp)

theorem State.parkNow_stream_other (s : State) {k j : Nat} (h : j ≠ k) : (s.parkNow k).stream j = s.stream j :=
  State.stream_modStream_other (by simp) h

/-! ## What talking leaves alone (13 R386, R389) -/

theorem irq_kept (a b : BitVec 32) : a &&& (a ||| b) = a := by
  apply BitVec.eq_of_getLsbD_eq
  simp +contextual

theorem OnlyTalks.refl (s : State) : OnlyTalks s s := ⟨rfl, BitVec.and_self⟩

theorem OnlyTalks.trans {a b c : State} (h : OnlyTalks a b) (k : OnlyTalks b c) : OnlyTalks a c := by
  obtain ⟨hb, ib⟩ := h
  obtain ⟨hc, ic⟩ := k
  refine ⟨hc.trans ?_, ?_⟩
  · rw [hb]
  · rw [← ib, BitVec.and_assoc, ic]

theorem OnlyTalks.foldl {α : Type} {f : State → α → State} (h : ∀ s x, OnlyTalks s (f s x)) (xs : List α) (s : State) :
    OnlyTalks s (xs.foldl f s) := by
  induction xs generalizing s with
  | nil => exact .refl s
  | cons x xs ih => exact (h s x).trans (ih _)

theorem State.flushMail_talks (s : State) : OnlyTalks s s.flushMail := by
  unfold State.flushMail
  split
  · exact .refl s
  · split
    · exact .refl s
    · exact ⟨rfl, irq_kept _ _⟩

theorem State.sendLine_talks (s : State) (u : Sess) (tag : Option Nat) (l : HubLine) : OnlyTalks s (s.sendLine u tag l) := by
  cases u with
  | line => exact ⟨rfl, BitVec.and_self⟩
  | port => exact .trans ⟨rfl, BitVec.and_self⟩ (State.flushMail_talks _)

theorem State.modSes_talks (s : State) (u : Sess) (f : SessSt → SessSt) : OnlyTalks s (s.modSes u f) := by
  cases u <;> exact ⟨rfl, BitVec.and_self⟩

theorem State.openLine_talks (s : State) (u : Sess) (tag : Option Nat) : OnlyTalks s (s.openLine u tag) := s.modSes_talks u _

theorem flushReplies_talks (u : Sess) (n : Nat) (s : State) : OnlyTalks s (flushReplies u n s) := by
  induction n generalizing s with
  | zero => exact .refl s
  | succ n ih =>
    unfold flushReplies
    split
    · exact .refl s
    · next p ps _ =>
      split
      · exact .refl s
      · next ls _ =>
        have sent := (s.modSes_talks u fun q => { q with waiting := ps }).trans (.foldl (fun s l => s.sendLine_talks u p.tag l) ls _)
        refine .trans ?_ (ih _)
        split
        · exact sent.trans (State.modSes_talks _ _ _)
        · exact sent

theorem State.answer_talks (s : State) (u : Sess) (n : Nat) (ls : List HubLine) : OnlyTalks s (s.answer u n ls) :=
  (s.modSes_talks u _).trans (flushReplies_talks _ _ _)

namespace OnlyTalks
variable {s n : State} (h : OnlyTalks s n)
include h

theorem waits : n.waits = s.waits := by rw [h.1]
theorem streams : n.streams = s.streams := by rw [h.1]
theorem rings : n.port.rings = s.port.rings := by rw [h.1]
theorem stackList : n.stackList = s.stackList := by rw [h.1]
theorem requests : n.requests = s.requests := by rw [h.1]
theorem ring (r : Nat) : n.ring r = s.ring r := by rw [h.1]; rfl
theorem stream (j : Nat) : n.stream j = s.stream j := State.stream_congr h.streams j
theorem streamBusy (j : Nat) : n.streamBusy j = s.streamBusy j := by rw [h.1]; rfl
theorem awaitsRestore (j : Nat) : n.awaitsRestore j = s.awaitsRestore j := by rw [h.1]; rfl
theorem hasStream (j : Nat) : n.hasStream j = s.hasStream j := by rw [h.1]; rfl
theorem sidTaken (j : Nat) : n.sidTaken j = s.sidTaken j := by rw [h.1]; rfl
theorem noImage (slot : Nat) (live : Bool) : n.noImage slot live = s.noImage slot live := by rw [h.1]; rfl
theorem folio? (slot : Nat) : n.folio? slot = s.folio? slot := by rw [h.1]; rfl
theorem createFault (f : FolioInfo) (j slot : Nat) (live : Bool) : n.createFault f j slot live = s.createFault f j slot live := by
  rw [h.1]; rfl
theorem importFault (f : FolioInfo) (j slot : Nat) (live : Bool) (b : Bytes) :
    n.importFault f j slot live b = s.importFault f j slot live b := by rw [h.1]; rfl
theorem hasRoom (r len : Nat) : n.hasRoom r len = s.hasRoom r len := by rw [h.1]; rfl
theorem stamp : n.stamp = s.stamp := by rw [h.1]
theorem irq {i : Nat} (hi : s.port.regs.irq.getLsbD i = true) : n.port.regs.irq.getLsbD i = true := by
  have := congrArg (·.getLsbD i) h.2
  simpa [hi] using this
end OnlyTalks

/-! ## A line with its place in its session, and its reply (13 R386) -/

/-- The hub as a line of a command has been taken in. -/
def State.received (s : State) (t : Tick) (u : Line) : State := (s.advance t).openLine u.ses u.tag

theorem State.received_talks (s : State) (t : Tick) (u : Line) : OnlyTalks s (s.received t u) :=
  .trans (b := s.advance t) ⟨rfl, BitVec.and_self⟩ (State.openLine_talks _ _ _)

theorem State.received_now (s : State) (t : Tick) (u : Line) : s.now ≤ (s.received t u).now := by
  unfold State.received
  cases u.ses <;> exact Nat.le_max_left _ _

/-- The first line of its session that waits. -/
theorem State.received_waits {s : State} (t : Tick) {u : Line} (h : (s.ses u.ses).waiting = []) : Waits s (s.received t u) u := by
  unfold State.received Waits
  cases hu : u.ses <;> simp_all [State.openLine, State.ses, State.modSes]

/-- A reply to the only line that waits leaves none waiting. -/
theorem answer_ses {s : State} {u : Sess} {n : Nat} {tag : Option Nat} (ls : List HubLine)
    (h : (s.ses u).waiting = [{ lineNo := n, tag := tag, ready := none }]) :
    (s.answer u n ls).ses u = { s.ses u with waiting := [] } := by
  cases u <;>
  · simp only [State.ses] at h
    simp only [State.answer, State.flushSes, State.modSes, State.ses, h]
    simp only [List.map_cons, List.map_nil, if_true, List.length_cons, List.length_nil, flushReplies, State.ses, State.modSes]
    obtain ⟨p, hp⟩ := sendLines_shape _ tag ls _
    rw [hp]

theorem State.answer_now (s : State) (u : Sess) (n : Nat) (ls : List HubLine) : (s.answer u n ls).now = s.now := by
  obtain ⟨o, p, l, q, h⟩ := answer_shape s u n ls
  rw [h]

/-- The reply to the only line that waits is the last of all that has left the hub. -/
theorem answer_ends {s y : State} {u : Line} {mid : List Out} (hout : y.out = mid ++ s.out) (hn : s.now ≤ y.now)
    (hses : y.ses u.ses = { s.ses u.ses with
      lines := (s.ses u.ses).lines + 1
      waiting := [{ lineNo := (s.ses u.ses).lines, tag := u.tag, ready := none }] }) (ls : List HubLine) :
    let n := y.answer u.ses (s.ses u.ses).lines ls
    n.out = (ls.reverse.map fun l => Out.usith u.ses u.tag l) ++ mid ++ s.out ∧ n.now ≥ s.now
      ∧ (n.ses u.ses).lines = (s.ses u.ses).lines + 1 ∧ (n.ses u.ses).waiting = [] := by
  have hw : (y.ses u.ses).waiting = [{ lineNo := (s.ses u.ses).lines, tag := u.tag, ready := none }] := by rw [hses]
  refine ⟨?_, ?_, ?_, ?_⟩
  · rw [answer_out _ _ _ _ _ hw, hout, List.append_assoc]
  · rwa [State.answer_now]
  · rw [answer_ses _ hw, hses]
  · rw [answer_ses _ hw]

/-- Between two states nothing differs but by talking, and the later one has the line of a command, taken in after `s`, in its place. -/
structure LineIn (s e y : State) (u : Line) : Prop where
  talks : OnlyTalks e y
  place : Waits s y u
  now : s.now ≤ y.now

theorem State.received_lineIn {s : State} (t : Tick) {u : Line} (h : (s.ses u.ses).waiting = []) : LineIn s s (s.received t u) u :=
  ⟨s.received_talks t u, State.received_waits t h, s.received_now t u⟩

/-- A command that answers its line replies. -/
theorem LineIn.replies {c : Instr} {s e y : State} {u : Line} {ls : List HubLine} (h : LineIn s e y u)
    (hc : exec c s = .next (y.answer u.ses (s.ses u.ses).lines ls)) : Replies c u s e ls :=
  ⟨_, hc, h.talks.trans (y.answer_talks _ _ _), by simpa [Said] using answer_ends (mid := []) h.place.1 h.now h.place.2 ls⟩

/-- A clear line of a command that keeps the kept part of the hub: the command acts on the state that has taken it in. -/
theorem usith_acts {t : Tick} {u : Line} {specs : List ArgSpec} {g : CmdGroup} {res : State → Bool} {act : State → Nat → State} {s : State}
    (ht : s.Takes u specs g (res s)) (hr : res (s.received t u) = res s) (hs : s.sound = true) (ha : ∀ z n, (act z n).base = z.base) :
    usith t u specs g res act s = .next (act (s.received t u) (s.ses u.ses).lines) := by
  have hf : ((s.advance t).openLine u.ses u.tag).lineFault u specs g (res (s.received t u)) = none := by
    rw [lineFault_opened, hr]
    exact ht.fit
  have hb : (act (s.received t u) (s.ses u.ses).lines).base = (s.advance t).base := by
    rw [ha, State.received, State.openLine_base]
  have hi := congrArg Base.irqen hb
  have htest := congrArg Base.test hb
  have hnow := congrArg Base.now hb
  have hp := congrArg Base.pending hb
  simp only [State.base] at hi htest hnow hp
  rw [usith_ready ht.listens ht.up hf]
  change Host.Outcome.next ((s.advance t).settle (act (s.received t u) _)) = _
  rw [settle_eq (by rw [hi]; exact hs) (congrArg TestSt.fuses htest), ← hnow, ← hp]

/-! ## What acting on a stream changes (05 R139 to R144) -/

/-- Between two states nothing differs but the streams and what follows them: the monitors, the charges that rebuild a stream, the cells, the step log, and
what the spine is to carry. -/
def OnlyStreams (s n : State) : Prop :=
  n = { s with
    streams := n.streams
    patrons := n.patrons
    charges := n.charges
    cells := n.cells
    stepLog := n.stepLog
    spine := n.spine }

theorem OnlyStreams.refl (s : State) : OnlyStreams s s := rfl

theorem OnlyStreams.trans {a b c : State} (h : OnlyStreams a b) (k : OnlyStreams b c) : OnlyStreams a c := by
  unfold OnlyStreams at h k
  refine k.trans ?_
  rw [h]

namespace OnlyStreams
variable {s n : State} (h : OnlyStreams s n)
include h

theorem waits : n.waits = s.waits := by rw [h]
theorem stackList : n.stackList = s.stackList := by rw [h]
theorem requests : n.requests = s.requests := by rw [h]
theorem now : n.now = s.now := by rw [h]
theorem out : n.out = s.out := by rw [h]
theorem port : n.port = s.port := by rw [h]
theorem stamp : n.stamp = s.stamp := by rw [h]
theorem ses (u : Sess) : n.ses u = s.ses u := by rw [h]; cases u <;> rfl
/-- A line in its place keeps it. -/
theorem lineIn {a e : State} {u : Line} (w : LineIn a e s u) : LineIn a n n u :=
  ⟨.refl n, ⟨h.out.trans w.place.1, (h.ses _).trans w.place.2⟩, h.now ▸ w.now⟩
end OnlyStreams

theorem State.actOn_only (s : State) (live : Bool) (r : SealRec) (xs : Bits) : OnlyStreams s (s.actOn live r xs) := by
  unfold State.actOn State.act State.logAct
  split
  · dsimp only
    split <;> split <;> rfl
  · rfl
@[simp] theorem State.actOn_streams (s : State) (live : Bool) (r : SealRec) (xs : Bits) : (s.actOn live r xs).streams = s.streams := by
  unfold State.actOn State.act State.logAct
  split
  · dsimp only
    split <;> split <;> rfl
  · rfl

theorem State.renewCell_only (s : State) (k : Nat) (i : Image) : OnlyStreams s (s.renewCell k i) := by
  unfold State.renewCell
  split <;> rfl
@[simp] theorem State.renewCell_streams (s : State) (k : Nat) (i : Image) : (s.renewCell k i).streams = s.streams := by
  unfold State.renewCell
  split <;> rfl

/-- After an act on a stream that ends with the cells given out again, only what follows the streams has changed besides. -/
theorem State.remapped_only (s : State) (live : Bool) (r : SealRec) : OnlyStreams s (s.remapCells.actOn live r) :=
  .trans (b := s.remapCells) rfl (State.actOn_only _ _ _ _)

theorem State.remapped_stream (s : State) (live : Bool) (r : SealRec) (j : Nat) : (s.remapCells.actOn live r).stream j = s.stream j :=
  State.stream_congr (by simp [State.remapCells]) j

/-- The stream that a creation or an import puts into an identifier. -/
def State.parkedStream (s : State) (k slot : Nat) (i : Image) : StreamSt :=
  { sid := k, place := .parked, gen := i.gen, slot := slot, pages := i.pages, ledger := i, committed := i, work := i
    shiftTo := s.savedShifts k }

/-- The image of a new stream of an identifier. -/
def State.createdImage (s : State) (f : FolioInfo) (k slot : Nat) (portable live : Bool) (seed : BitVec 64) : Image :=
  newImage f k slot (nextGen (s.stream k).gen) portable live seed

theorem State.createStream_only (s : State) (f : FolioInfo) (k slot : Nat) (portable live : Bool) (seed : BitVec 64) :
    OnlyStreams s (s.createStream f k slot portable live seed) :=
  .trans (b := s.putStream _) rfl (.trans (State.renewCell_only _ _ _) (State.remapped_only _ _ _))

theorem State.createStream_stream (s : State) (f : FolioInfo) (k slot : Nat) (portable live : Bool) (seed : BitVec 64) (j : Nat) :
    (s.createStream f k slot portable live seed).stream j =
      (s.putStream (s.parkedStream k slot (s.createdImage f k slot portable live seed))).stream j :=
  (State.remapped_stream _ _ _ _).trans (State.stream_congr (State.renewCell_streams _ _ _) j)


/-- The hub as an import begins: a rebuild that waits is dropped, and what is resident is parked. -/
def State.cleared (s : State) (k : Nat) : State := (s.dropRebuild k).parkNow k

/-- An image that a card brings, as it stands in an identifier. -/
def State.importedImage (s : State) (k slot : Nat) (live : Bool) (img : Image) : Image :=
  { img with sid := k, patron := slot, live := live, gen := nextGen (s.stream k).gen }

@[simp] theorem State.cleared_stream_same (s : State) (k : Nat) : (s.cleared k).stream k = (s.stream k).park :=
  (s.dropRebuild k).parkNow_stream_same k

theorem State.cleared_stream_other (s : State) {k j : Nat} (h : j ≠ k) : (s.cleared k).stream j = s.stream j :=
  (s.dropRebuild k).parkNow_stream_other h

theorem State.importStream_only (s : State) (k slot : Nat) (live : Bool) (img : Image) : OnlyStreams s (s.importStream k slot live img) := by
  unfold State.importStream
  refine .trans ?_ (.trans (State.renewCell_only _ _ _) (State.remapped_only _ _ _))
  split <;> rfl

theorem State.importStream_stream (s : State) (k slot : Nat) (live : Bool) (img : Image) (j : Nat) :
    (s.importStream k slot live img).stream j =
      ((s.cleared k).putStream ((s.cleared k).parkedStream k slot ((s.cleared k).importedImage k slot live img))).stream j := by
  unfold State.importStream
  refine (State.remapped_stream _ _ _ _).trans (State.stream_congr ?_ j)
  rw [State.renewCell_streams]
  split <;> rfl

theorem State.freeStream_only (s : State) (k : Nat) : OnlyStreams s (s.freeStream k) :=
  .trans (b := (s.cleared k).modStream k StreamSt.release) rfl (State.remapped_only _ _ _)

theorem State.freeStream_stream (s : State) (k j : Nat) :
    (s.freeStream k).stream j = ((s.cleared k).modStream k StreamSt.release).stream j :=
  State.remapped_stream _ _ _ _

/-- What STREAM EXPORT or STREAM COPY does once its frame is announced: its reply, and a stream that has left the hub or stays as it is. -/
theorem State.cardDone_eq (s : State) (w : StreamWait) (copy : Bool) (gen step : Nat) :
    ∃ y, s.cardDone w copy gen step = y.answer w.ses w.lineNo [.ok (("gen", .nat gen) :: if copy then [("step", .nat step)] else [])]
      ∧ OnlyStreams s y
      ∧ y.stream w.sid = (if copy then s.stream w.sid else
          { (s.stream w.sid).release with place := .exported, slot := (s.stream w.sid).slot })
      ∧ ∀ j, j ≠ w.sid → y.stream j = s.stream j := by
  cases copy with
  | true => exact ⟨s, rfl, .refl s, rfl, fun _ _ => rfl⟩
  | false =>
    have sid : ({ (s.stream w.sid).release with place := .exported, slot := (s.stream w.sid).slot } : StreamSt).sid = w.sid := s.stream_sid _
    exact ⟨_, rfl, .trans (b := (s.dropRebuild w.sid).modStream w.sid _) rfl (State.remapped_only _ _ _),
      (State.remapped_stream _ _ _ _).trans (State.stream_modStream_same (s := s.dropRebuild w.sid) sid),
      fun j hj => (State.remapped_stream _ _ _ _).trans (State.stream_modStream_other (s := s.dropRebuild w.sid) sid hj)⟩

/-! ## Input frames (13 R372) -/

/-- A hub with another data port. -/
def State.withPort (z : State) (p : DataPort) : State := { z with port := p }

section
variable (s z : State)
theorem withPort_port (p : DataPort) : (z.withPort p).port = p := rfl
theorem withPort_ring (r : Nat) : (z.withPort s.port).ring r = s.ring r := rfl
theorem withPort_modRing (r : Nat) (f : Ring → Ring) : (z.withPort s.port).modRing r f = z.withPort (s.modRing r f).port := rfl
theorem withPort_errSet (b : Nat) : (z.withPort s.port).errSet b = z.withPort (s.errSet b).port := rfl
theorem withPort_consumeInput (n : Nat) : (z.withPort s.port).consumeInput n = z.withPort (s.consumeInput n).port := rfl
end

/-- Skipping PAD frames sees and changes the data port alone. -/
theorem skipPads_withPort (s z : State) (k : Nat) : skipPads k (z.withPort s.port) = z.withPort (skipPads k s).port := by
  induction k generalizing s with
  | zero => rfl
  | succ k ih =>
    change (ite _ _ _ : State) = z.withPort (ite _ _ _ : State).port
    rw [apply_ite State.port, apply_ite z.withPort]
    exact if_congr Iff.rfl rfl (ih (s.consumeInput _))

/-- What a frame's taking gives, on a hub that is another but for its data port. -/
def State.took (z : State) (r : Option InFrame × State) : Option InFrame × State := (r.1, z.withPort r.2.port)

/-- Taking an input frame sees and changes the data port alone. -/
theorem takeInput_withPort (s z : State) (ty tag : Nat) : (z.withPort s.port).takeInput ty tag = z.took (s.takeInput ty tag) := by
  unfold State.takeInput State.takeInputOf
  rw [skipPads_withPort]
  generalize skipPads 4096 s = p
  simp only [withPort_ring, withPort_port, withPort_modRing, withPort_errSet, withPort_consumeInput, apply_ite z.took]
  rfl

/-- What an input frame's taking leaves. -/
theorem takeInput_eq (s : State) (ty tag : Nat) : (s.takeInput ty tag).2 = s.withPort (s.takeInput ty tag).2.port :=
  congrArg Prod.snd (takeInput_withPort s s ty tag)

/-- A frame taken after the line has come in is the one taken before it. -/
theorem received_takeInput {s : State} (t : Tick) {u : Line} (h : (s.ses u.ses).waiting = []) (ty tag : Nat) :
    ∃ y, (s.received t u).takeInput ty tag = ((s.takeInput ty tag).1, y) ∧ LineIn s (s.takeInput ty tag).2 y u := by
  obtain ⟨-, place, now⟩ := State.received_lineIn t h
  have hp : s.received t u = (s.received t u).withPort s.port := by unfold State.received; cases u.ses <;> rfl
  refine ⟨(s.received t u).withPort (s.takeInput ty tag).2.port, ?_, ?_, ⟨place.1, ?_⟩, now⟩
  · rw [hp, takeInput_withPort]
    rfl
  · rw [takeInput_eq s]
    unfold State.received
    cases u.ses <;> exact ⟨rfl, BitVec.and_self⟩
  · rw [← place.2]
    cases u.ses <;> rfl

/-! ## Requests on streams in turn (05 R146) -/

/-- No frame goes out where no request waits for one. -/
theorem sendHeldCards_unsent {s : State} (h : s.waits.find? StreamWait.isSent = none) (n : Nat) : sendHeldCards n s = s := by
  cases n with
  | zero => rfl
  | succ n =>
    simp only [sendHeldCards, h]
    split <;> rfl

/-- The only request: served when no admitted charge names its stream, else it waits. -/
theorem streamRequest_eq {y : State} {k n : Nat} {a : StreamAct} {ses : Sess} (hw : y.waits = []) (ha : (⟨k, a, ses, n⟩ : StreamWait).isSent = false) :
    y.streamRequest k a ses n =
      if y.streamBusy k then { y with waits := [⟨k, a, ses, n⟩] } else y.serveWait ⟨k, a, ses, n⟩ := by
  have empty : { y with waits := [] } = y := by rw [← hw]
  have first : waitReady { y with waits := [⟨k, a, ses, n⟩] } [] ⟨k, a, ses, n⟩ = !y.streamBusy k := by
    simp [waitReady, ha, State.streamBusy]
  unfold State.streamRequest State.serveWaits
  rw [hw, List.nil_append, sendHeldCards_unsent (by simp [ha])]
  simp only [List.length_singleton, serveFrom, first]
  cases y.streamBusy k
  · simp only [Bool.not_false, if_true, List.nil_append, empty, List.length_nil, List.drop_zero, List.append_nil]
    rfl
  · rfl

/-! ## The commands on streams, each a request (14 R406) -/

/-- A clear line has passed the checks of its command. -/
theorem State.Clear.takes {s : State} {c : Instr} (h : s.Clear c) {l : LineCmd} (hl : lineOf c = some l) :
    s.Takes l.line l.specs l.group (l.reserved s) := by
  obtain ⟨m, hm, ht⟩ := h
  cases hl.symm.trans hm
  exact ht

theorem State.received_slotReserved (s : State) (t : Tick) (u : Line) : slotReserved u (s.received t u) = slotReserved u s := rfl
theorem State.received_sidReserved (s : State) (t : Tick) (u : Line) : sidReserved u (s.received t u) = sidReserved u s := by
  simp only [sidReserved, (s.received_talks t u).stream]

/-- The commands that are nothing but a request on a stream, with what each asks. -/
def Requests (t : Tick) (u : Line) (c : Instr) (a : StreamAct) : Prop :=
  (c = .streamCreate t u ∧ a = .created (lineNat u .slot 0) (lineKw u .mode .portable) (lineOn u .live false) (BitVec.ofNat 64 (lineNat u .seed 0)))
    ∨ (c = .streamFree t u ∧ a = .free)
    ∨ (c = .streamExport t u ∧ a = .card false (lineNat u .tag 0)) ∨ (c = .streamCopy t u ∧ a = .card true (lineNat u .tag 0))

theorem Requests.unsent {t : Tick} {u : Line} {c : Instr} {a : StreamAct} (h : Requests t u c a) (k n : Nat) (ses : Sess) :
    (⟨k, a, ses, n⟩ : StreamWait).isSent = false := by
  obtain ⟨-, rfl⟩ | ⟨-, rfl⟩ | ⟨-, rfl⟩ | ⟨-, rfl⟩ := h <;> rfl

/-- Such a command, its line clear, takes the line in and makes its request. -/
theorem Requests.acts {t : Tick} {u : Line} {c : Instr} {a : StreamAct} {s : State} (h : Requests t u c a) (hc : s.Clear c) (hs : s.sound = true) :
    exec c s = .next ((s.received t u).streamRequest (lineNat u .sid 0) a u.ses (s.ses u.ses).lines) ∧ LineIn s s (s.received t u) u := by
  have keeps : ∀ (z : State) (n : Nat), (z.streamRequest (lineNat u .sid 0) a u.ses n).base = z.base := fun z n => z.streamRequest_base _ _ _ _
  have run {specs : List ArgSpec} {res : State → Bool}
      (hx : exec c s = usith t u specs .work res (fun z n => z.streamRequest (lineNat u .sid 0) a u.ses n) s)
      (ht : s.Takes u specs .work (res s)) (hr : res (s.received t u) = res s) :
      exec c s = .next ((s.received t u).streamRequest (lineNat u .sid 0) a u.ses (s.ses u.ses).lines) ∧ LineIn s s (s.received t u) u :=
    ⟨hx.trans (usith_acts ht hr hs keeps), State.received_lineIn t ht.first⟩
  obtain ⟨rfl, rfl⟩ | ⟨rfl, rfl⟩ | ⟨rfl, rfl⟩ | ⟨rfl, rfl⟩ := h
  · exact run rfl (hc.takes (l := ⟨u, streamCreateArgs, .work, slotReserved u⟩) rfl) (s.received_slotReserved t u)
  · exact run rfl (hc.takes (l := ⟨u, [sidArg], .work, sidReserved u⟩) rfl) (s.received_sidReserved t u)
  · exact run rfl (hc.takes (l := ⟨u, [sidArg, tagArg], .work, sidReserved u⟩) rfl) (s.received_sidReserved t u)
  · exact run rfl (hc.takes (l := ⟨u, [sidArg, tagArg], .work, sidReserved u⟩) rfl) (s.received_sidReserved t u)

/-- A command serves its request at once on `y`, the hub in `e` with the command's line taken in. -/
structure Serves (c : Instr) (u : Line) (s e y : State) (k : Nat) (a : StreamAct) : Prop where
  line : LineIn s e y u
  exec : exec c s = .next (y.serveWait ⟨k, a, u.ses, (s.ses u.ses).lines⟩)

theorem Requests.serves {t : Tick} {u : Line} {c : Instr} {a : StreamAct} {s : State} (h : Requests t u c a) (hc : s.Clear c) (hs : s.sound = true)
    (hw : s.waits = []) (hb : s.streamBusy (lineNat u .sid 0) = false) :
    Serves c u s s (s.received t u) (lineNat u .sid 0) a := by
  obtain ⟨he, hl⟩ := h.acts hc hs
  have hy := hl.talks.waits.trans hw
  refine ⟨hl, ?_⟩
  rw [he, streamRequest_eq hy (h.unsent _ _ _), hl.talks.streamBusy, hb]
  rfl

/-- A stream that an admitted charge names keeps the request waiting. -/
theorem Requests.waits {t : Tick} {u : Line} {c : Instr} {a : StreamAct} {s : State} (h : Requests t u c a) (hc : s.Clear c) (hs : s.sound = true)
    (hw : s.waits = []) (hb : s.streamBusy (lineNat u .sid 0) = true) :
    Answers c s fun n => Waits s n u ∧ n.waits = [{ sid := lineNat u .sid 0, act := a, ses := u.ses, lineNo := (s.ses u.ses).lines }]
      ∧ n.streams = s.streams ∧ n.port = s.port := by
  obtain ⟨he, hl⟩ := h.acts hc hs
  have hy := hl.talks.waits.trans hw
  have hp : (s.received t u).port = s.port := by unfold State.received; cases u.ses <;> rfl
  rw [streamRequest_eq hy (h.unsent _ _ _), hl.talks.streamBusy, hb] at he
  refine ⟨_, he, ⟨hl.place.1, ?_⟩, rfl, hl.talks.streams, hp⟩
  rw [← hl.place.2]
  cases u.ses <;> rfl

section
variable {c : Instr} {u : Line} {s e y : State} {k : Nat} {a : StreamAct}

/-- A request that is answered, and changes nothing. -/
theorem Serves.refused (h : Serves c u s e y k a) {ls : List HubLine}
    (ha : y.serveWait ⟨k, a, u.ses, (s.ses u.ses).lines⟩ = y.answer u.ses (s.ses u.ses).lines ls) : Replies c u s e ls :=
  h.line.replies (h.exec.trans (congrArg _ ha))

/-- A request that is answered once it has changed streams. -/
theorem Serves.done (h : Serves c u s e y k a) {z : State} {ls : List HubLine} (hz : OnlyStreams y z)
    (ha : y.serveWait ⟨k, a, u.ses, (s.ses u.ses).lines⟩ = z.answer u.ses (s.ses u.ses).lines ls) : Replies c u s z ls :=
  (hz.lineIn h.line).replies (h.exec.trans (congrArg _ ha))

/-! ## Free (05 R139) -/

theorem streamFree_forms (h : Serves c u s e y k .free) :
    (e.awaitsRestore k = true → Replies c u s e [.err 11 []])
      ∧ (e.awaitsRestore k = false → e.hasStream k = false → Replies c u s e [.err 15 []])
      ∧ (e.hasStream k = true → e.sidTaken k = true → Replies c u s e [.err 11 []])
      ∧ (e.hasStream k = true → e.sidTaken k = false → ∃ z : State, Replies c u s z [.ok []]
          ∧ z.stream k = { sid := k, gen := (e.stream k).gen } ∧ (∀ j, j ≠ k → z.stream j = e.stream j) ∧ z.stackList = e.stackList) := by
  have hr := h.line.talks.awaitsRestore k
  have hh := h.line.talks.hasStream k
  have ht := h.line.talks.sidTaken k
  refine ⟨fun awaits => ?_, fun awaits here => ?_, fun here taken => ?_, fun here taken => ?_⟩
  · exact h.refused (by simp [State.serveWait, hr, awaits])
  · exact h.refused (by simp [State.serveWait, hr, hh, awaits, here])
  · exact h.refused (by simp [State.serveWait, hh, ht, here, taken])
  · have awaits : e.awaitsRestore k = false := by
      simp only [State.sidTaken, Bool.or_eq_false_iff] at taken
      simp [State.awaitsRestore, taken.2]
    have sid : ((y.cleared k).stream k).release.sid = k := by simp [StreamSt.release]
    refine ⟨y.freeStream k, h.done (y.freeStream_only k) (by simp [State.serveWait, hr, hh, ht, awaits, here, taken]), ?_, fun j hj => ?_, ?_⟩
    · rw [State.freeStream_stream, State.stream_modStream_same sid, State.cleared_stream_same, h.line.talks.stream]
      simp [StreamSt.release]
    · rw [State.freeStream_stream, State.stream_modStream_other sid hj, State.cleared_stream_other _ hj, h.line.talks.stream]
    · rw [(y.freeStream_only k).stackList, h.line.talks.stackList]

/-! ## Creation (05 R139) -/

theorem streamCreate_forms {slot : Nat} {portable live : Bool} {seed : BitVec 64} (h : Serves c u s e y k (.created slot portable live seed)) :
    (e.noImage slot live = true → Replies c u s e [.err 11 []])
      ∧ ∀ f, e.noImage slot live = false → e.folio? slot = some f →
        (∀ b, e.createFault f k slot live = some b → Replies c u s e [.err b []])
        ∧ (e.createFault f k slot live = none → ∃ z : State, ∃ x : StreamSt,
            Replies c u s z [.ok [("gen", .nat x.gen.toNat), ("pages", .nat x.pages)]]
              ∧ z.stream k = x ∧ x.place = .parked ∧ x.slot = slot ∧ x.gen = nextGen (e.stream k).gen
              ∧ x.committed = newImage f k slot x.gen portable live seed
              ∧ x.ledger = x.committed ∧ (∀ j, j ≠ k → z.stream j = e.stream j) ∧ z.stackList = e.stackList ∧ z.requests = e.requests) := by
  have hi := h.line.talks.noImage slot live
  refine ⟨fun image => h.refused (by simp [State.serveWait, hi, image]), fun f image bound => ?_⟩
  have hf := (h.line.talks.folio? slot).trans bound
  have hc := h.line.talks.createFault f k slot live
  refine ⟨fun b fault => h.refused (by simp [State.serveWait, hi, image, hf, hc, fault]), fun fault => ?_⟩
  have only := y.createStream_only f k slot portable live seed
  have same := (y.createStream_stream f k slot portable live seed k).trans (State.stream_putStream_same _ _)
  refine ⟨y.createStream f k slot portable live seed, _, h.done only (by simp [State.serveWait, hi, image, hf, hc, fault]), rfl, ?_⟩
  rw [same]
  refine ⟨rfl, rfl, ?_, rfl, rfl, fun j hj => ?_, ?_, ?_⟩
  · rw [← h.line.talks.stream]
    rfl
  · rw [State.createStream_stream, State.stream_putStream_other _ (by exact hj), h.line.talks.stream]
  · rw [only.stackList, h.line.talks.stackList]
  · rw [only.requests, h.line.talks.requests]

/-! ## Import (05 R143, R144) -/

theorem streamImport_forms {slot : Nat} {live : Bool} {body : Bytes} (h : Serves c u s e y k (.imported slot live body)) :
    (e.noImage slot live = true → Replies c u s e [.err 11 []])
      ∧ ∀ f, e.noImage slot live = false → e.folio? slot = some f →
        (∀ l, e.importFault f k slot live body = some l → Replies c u s e [l])
        ∧ (e.importFault f k slot live body = none → ∃ z : State, ∃ x : StreamSt,
            Replies c u s z [.ok [("gen", .nat x.gen.toNat)]]
              ∧ z.stream k = x ∧ x.place = .parked ∧ x.slot = slot ∧ x.gen = nextGen (e.stream k).gen
              ∧ x.committed = { Image.ofBytes f.stateLayers body with sid := k, patron := slot, live := live, gen := x.gen }
              ∧ (∀ j, j ≠ k → z.stream j = e.stream j) ∧ z.stackList = e.stackList) := by
  have hi := h.line.talks.noImage slot live
  refine ⟨fun image => h.refused (by simp [State.serveWait, hi, image]), fun f image bound => ?_⟩
  have hf := (h.line.talks.folio? slot).trans bound
  have hc := h.line.talks.importFault f k slot live body
  refine ⟨fun b fault => h.refused (by simp [State.serveWait, hi, image, hf, hc, fault]), fun fault => ?_⟩
  have only := y.importStream_only k slot live (Image.ofBytes f.stateLayers body)
  have same := (y.importStream_stream k slot live (Image.ofBytes f.stateLayers body) k).trans (State.stream_putStream_same _ _)
  refine ⟨y.importStream k slot live (Image.ofBytes f.stateLayers body), _, h.done only (by simp [State.serveWait, hi, image, hf, hc, fault]), rfl, ?_⟩
  rw [same]
  refine ⟨rfl, rfl, ?_, rfl, fun j hj => ?_, ?_⟩
  · simp [State.parkedStream, State.importedImage, h.line.talks.stream]
  · rw [State.importStream_stream, State.stream_putStream_other _ (by exact hj), State.cleared_stream_other _ hj, h.line.talks.stream]
  · rw [only.stackList, h.line.talks.stackList]

end

/-! ## An announced frame (13 R370, R371) -/

/-- A frame has been announced on a ring: its SEQ is used and the ring's IRQ bit set; notices may have left the hub, and no stream, request or line is
touched. -/
structure Announced (s n : State) (r : Nat) : Prop where
  streams : n.streams = s.streams
  waits : n.waits = s.waits
  now : n.now = s.now
  ses : ∀ u, n.ses u = s.ses u
  out : ∃ mid, n.out = mid ++ s.out
  seq : (n.ring r).seq = ((s.ring r).seq + 1) % 2 ^ 32
  irq : n.port.regs.irq.getLsbD (ringIrq r) = true

namespace Announced
variable {s n : State} {r : Nat}

/-- A line sent touches none of it. -/
theorem sendLine (h : Announced s n r) (u : Sess) (tag : Option Nat) (l : HubLine) : Announced s (n.sendLine u tag l) r := by
  obtain ⟨p, hp⟩ := sendLine_shape n u tag l
  have talks := n.sendLine_talks u tag l
  obtain ⟨mid, out⟩ := h.out
  refine ⟨talks.streams.trans h.streams, talks.waits.trans h.waits, ?_, fun v => ?_, ⟨Out.usith u tag l :: mid, ?_⟩, ?_, talks.irq h.irq⟩
  · rw [hp, h.now]
  · rw [← h.ses v, hp]
    cases v <;> rfl
  · rw [hp, List.cons_append, ← out]
  · rw [talks.ring, h.seq]

theorem notify (h : Announced s n r) (w : String) (fs : List (String × RVal)) : Announced s (n.notify w fs) r := by
  have send {m : State} (hm : Announced s m r) (b : Bool) (u : Sess) : Announced s (if b then m.sendLine u none (.notice w fs) else m) r := by
    split
    · exact hm.sendLine _ _ _
    · exact hm
  unfold State.notify
  split
  · exact h
  · exact send (send h _ _) _ _

/-- An event touches none of it. -/
theorem raise (h : Announced s n r) (code : Nat) (patron stack : Option Nat) (a0 a1 a2 a3 : Nat) :
    Announced s (n.raise code patron stack a0 a1 a2 a3) r := by
  unfold State.raise
  refine notify ?_ _ _
  exact ⟨h.streams, h.waits, h.now, h.ses, h.out, h.seq, h.irq⟩

/-- Nor do bytes of the ring written before. -/
theorem of_written {a : Nat} {b : Bytes} (h : Announced (s.writeRing a b) n r) : Announced s n r :=
  ⟨h.streams, h.waits, h.now, h.ses, h.out, h.seq, h.irq⟩
end Announced

theorem State.ring_modRing_same (s : State) {r : Nat} (hr : r < s.port.rings.length) (f : Ring → Ring) : (s.modRing r f).ring r = f (s.ring r) := by
  simp [State.ring, State.modRing, hr]

/-- A frame's bytes written, its SEQ used and its ring's IRQ bit set. -/
theorem State.written_announced (s : State) {r : Nat} {f : Ring → Ring} (hr : r < s.port.rings.length) (hi : ringIrq r < 32)
    (hf : ∀ q, (f q).seq = (q.seq + 1) % 2 ^ 32) (a : Nat) (b : Bytes) :
    Announced s (((s.writeRing a b).modRing r f).irqSet (ringIrq r)) r := by
  refine ⟨rfl, rfl, rfl, fun u => by cases u <;> rfl, ⟨[], rfl⟩, ?_, ?_⟩
  · exact (congrArg Ring.seq ((s.writeRing a b).ring_modRing_same hr f)).trans (hf _)
  · simp only [State.irqSet, State.modRegs_regs, BitVec.getLsbD_or, BitVec.getLsbD_ofNat, Nat.testBit_two_pow_self, hi, decide_true,
      Bool.and_self, Bool.or_true]

theorem State.announce_announced (s : State) {r : Nat} (f : HeldFrame) (hr : r < s.port.rings.length) (hi : ringIrq r < 32) :
    Announced s (s.announce r f) r := by
  have dropped {n : State} (h : Announced s n r) (d : Nat) : Announced s (if d = 0 then n else n.raise 0x70 none none r d 0 0) r := by
    split
    · exact h
    · exact h.raise _ _ _ _ _ _ _
  have room (a : Nat) (b : Bytes) : r < (s.writeRing a b).port.rings.length := hr
  unfold State.announce
  dsimp only
  refine dropped ?_ _
  split
  · exact s.written_announced hr hi (fun _ => rfl) _ _
  · exact .of_written ((s.writeRing _ _).written_announced (room _ _) hi (fun _ => rfl) _ _)

/-! ## STREAM EXPORT and STREAM COPY (05 R141, R142) -/

theorem State.parkNow_only (s : State) (k : Nat) : OnlyStreams s (s.parkNow k) := rfl

/-- The CARD frame that STREAM EXPORT or STREAM COPY of an identifier makes. -/
def State.cardFrameOf (s : State) (copy : Bool) (tag k : Nat) : HeldFrame := s.cardFrame copy tag { (s.stream k) with sid := k }

/-- The frame is the same once the stream is parked. -/
theorem OnlyTalks.cardFrameOf {e y : State} (h : OnlyTalks e y) (copy : Bool) (tag k : Nat) :
    (y.parkNow k).cardFrame copy tag (e.stream k).park = e.cardFrameOf copy tag k := by
  simp [State.cardFrameOf, State.cardFrame, (y.parkNow_only k).stamp, h.stamp]

/-- A frame without room is held on ring 4, and its request waits for it. -/
def State.heldBack (s : State) (f : HeldFrame) (w : StreamWait) : State :=
  { (s.modRing 4 fun q => { q with held := q.held ++ [f] }) with waits := s.waits ++ [w] }

/-- A line answered once a frame is announced and streams have changed: the reply follows the notices. -/
theorem LineIn.ends {s e y p a z : State} {u : Line} {r : Nat} (h : LineIn s e y u) (before : OnlyStreams y p) (sent : Announced p a r)
    (after : OnlyStreams a z) (ls : List HubLine) : Ends s (z.answer u.ses (s.ses u.ses).lines ls) u ls := by
  obtain ⟨mid, out⟩ := sent.out
  have now : s.now ≤ z.now := by
    rw [after.now, sent.now, before.now]
    exact h.now
  obtain ⟨top, rest⟩ := answer_ends (mid := mid) (by rw [after.out, out, before.out, h.place.1]) now
    (by rw [after.ses, sent.ses, before.ses, h.place.2]) ls
  exact ⟨⟨mid, top⟩, rest⟩

/-- A portable stream's card, with no frame held before it: its frame goes out or is held. -/
theorem card_serves {e y : State} {w : StreamWait} {copy : Bool} {tag : Nat} (hy : OnlyTalks e y) (hw : w.act = .card copy tag)
    (hr : e.awaitsRestore w.sid = false) (hh : e.hasStream w.sid = true) (hp : (e.stream w.sid).committed.portable = true)
    (h4 : (e.ring 4).held = []) :
    y.serveWait w =
      let gen := (e.stream w.sid).gen.toNat
      let step := (e.stream w.sid).committed.step.toNat
      if e.hasRoom 4 (e.cardFrameOf copy tag w.sid).payload.length then
        ((y.parkNow w.sid).announce 4 (e.cardFrameOf copy tag w.sid)).cardDone w copy gen step
      else (y.parkNow w.sid).heldBack (e.cardFrameOf copy tag w.sid) { w with act := .sent copy gen step } := by
  have held : ((y.parkNow w.sid).ring 4).held = [] := (congrArg Ring.held (hy.ring 4)).trans h4
  have room : (y.parkNow w.sid).hasRoom 4 (e.cardFrameOf copy tag w.sid).payload.length = e.hasRoom 4 (e.cardFrameOf copy tag w.sid).payload.length :=
    hy.hasRoom 4 _
  unfold State.serveWait
  rw [hw]
  simp only [hy.awaitsRestore, hr, hy.hasStream, hh, hy.stream, hp, hy.cardFrameOf, held, room, State.parkNow_stream_same, StreamSt.park_gen,
    StreamSt.park_committed, Bool.false_eq_true, Bool.not_true, if_false, List.isEmpty_nil, Bool.true_and]
  rfl

section
variable {c : Instr} {u : Line} {s e y : State} {k tag : Nat} {copy : Bool}

theorem card_refused (h : Serves c u s e y k (.card copy tag)) :
    (e.awaitsRestore k = true → Replies c u s e [.err 11 []])
      ∧ (e.awaitsRestore k = false → e.hasStream k = false → Replies c u s e [.err 15 []])
      ∧ (e.hasStream k = true → (e.stream k).committed.portable = false → Replies c u s e [.err 11 []]) := by
  have hr := h.line.talks.awaitsRestore k
  have hh := h.line.talks.hasStream k
  have hx := h.line.talks.stream k
  refine ⟨fun awaits => ?_, fun awaits here => ?_, fun here portable => ?_⟩
  · exact h.refused (by simp [State.serveWait, hr, awaits])
  · exact h.refused (by simp [State.serveWait, hr, hh, awaits, here])
  · exact h.refused (by simp [State.serveWait, hh, hx, here, portable])

variable (h : Serves c u s e y k (.card copy tag)) (hw : e.waits = []) (hr : e.awaitsRestore k = false) (hh : e.hasStream k = true)
  (hp : (e.stream k).committed.portable = true) (h6 : e.port.rings.length = 6) (h4 : (e.ring 4).held = [])
include h hw hr hh hp h6 h4

theorem card_sent (room : e.hasRoom 4 (e.cardFrameOf copy tag k).payload.length = true) :
    Answers c s fun n =>
      Ends s n u [.ok (("gen", .nat (e.stream k).gen.toNat) :: if copy then [("step", .nat (e.stream k).committed.step.toNat)] else [])]
        ∧ (n.ring 4).seq = ((e.ring 4).seq + 1) % 2 ^ 32 ∧ n.port.regs.irq.getLsbD 5 = true ∧ n.waits = []
        ∧ (n.stream k).place = (if copy then .parked else .exported) ∧ (n.stream k).gen = (e.stream k).gen
        ∧ (copy = true → (n.stream k).committed = (e.stream k).committed) ∧ ∀ j, j ≠ k → n.stream j = e.stream j := by
  have talks := h.line.talks
  have park := y.parkNow_only k
  have rings : 4 < (y.parkNow k).port.rings.length := by
    rw [park.port, talks.rings, h6]
    decide
  have sent := (y.parkNow k).announce_announced (e.cardFrameOf copy tag k) rings (by decide)
  have served := card_serves (w := ⟨k, .card copy tag, u.ses, (s.ses u.ses).lines⟩) talks rfl hr hh hp h4
  rw [if_pos room] at served
  generalize (y.parkNow k).announce 4 (e.cardFrameOf copy tag k) = a at served sent
  obtain ⟨z, hz, only, same, other⟩ := a.cardDone_eq ⟨k, .card copy tag, u.ses, (s.ses u.ses).lines⟩ copy
    (e.stream k).gen.toNat (e.stream k).committed.step.toNat
  have parked : a.stream k = (e.stream k).park := by rw [State.stream_congr sent.streams, State.parkNow_stream_same, talks.stream]
  simp only [parked] at same
  have talked (ls : List HubLine) := z.answer_talks u.ses (s.ses u.ses).lines ls
  refine ⟨_, h.exec.trans (congrArg _ (served.trans hz)), h.line.ends park sent only _, ?_, (talked _).irq ?_, ?_, ?_, ?_, fun hc => ?_, fun j hj => ?_⟩
  · have : z.ring 4 = a.ring 4 := congrArg (fun p : DataPort => p.rings.getD 4 {}) only.port
    rw [(talked _).ring, this, sent.seq, ← talks.ring]
    rfl
  · rw [only.port]
    exact sent.irq
  · rw [(talked _).waits, only.waits, sent.waits, park.waits, talks.waits, hw]
  · rw [(talked _).stream, same]
    cases copy
    · rfl
    · exact State.hasStream_park hh
  · rw [(talked _).stream, same]
    cases copy <;> simp [StreamSt.release]
  · rw [(talked _).stream, same, hc]
    simp
  · rw [(talked _).stream, other j hj, State.stream_congr sent.streams, State.parkNow_stream_other _ hj, talks.stream]

theorem card_held (room : e.hasRoom 4 (e.cardFrameOf copy tag k).payload.length = false) :
    Answers c s fun n =>
      Waits s n u ∧ (n.ring 4).held = [e.cardFrameOf copy tag k] ∧ (n.ring 4).seq = (e.ring 4).seq ∧ (n.stream k).place = .parked
        ∧ n.waits = [{ sid := k, act := .sent copy (e.stream k).gen.toNat (e.stream k).committed.step.toNat, ses := u.ses
                       lineNo := (s.ses u.ses).lines }] ∧ ∀ j, j ≠ k → n.stream j = e.stream j := by
  have talks := h.line.talks
  have park := y.parkNow_only k
  have served := card_serves (w := ⟨k, .card copy tag, u.ses, (s.ses u.ses).lines⟩) talks rfl hr hh hp h4
  rw [if_neg (by simp [room])] at served
  refine ⟨_, h.exec.trans (congrArg _ served), ?_⟩
  have ring (f : HeldFrame) (w : StreamWait) : ((y.parkNow k).heldBack f w).ring 4 = { e.ring 4 with held := [f] } := by
    have rings : 4 < y.port.rings.length := by
      rw [talks.rings, h6]
      decide
    refine ((y.parkNow k).ring_modRing_same rings _).trans ?_
    have before : (y.parkNow k).ring 4 = e.ring 4 := talks.ring 4
    simp [before, h4]
  refine ⟨⟨park.out.trans h.line.place.1, ?_⟩, ?_, ?_, ?_, ?_, fun j hj => ?_⟩
  · rw [← h.line.place.2, ← park.ses]
    cases u.ses <;> rfl
  · rw [ring]
  · rw [ring]
  · exact (congrArg StreamSt.place (y.parkNow_stream_same k)).trans (talks.stream k ▸ State.hasStream_park hh)
  · simp [State.heldBack, park.waits, talks.waits, hw]
  · exact (y.parkNow_stream_other hj).trans (talks.stream j)
end

/-- STREAM IMPORT takes its frame as its line comes in: without one it is refused, with one it makes its request. -/
theorem streamImport_acts {t : Tick} {u : Line} {s : State} (hc : s.Clear (.streamImport t u)) (hs : s.sound = true) :
    ∃ y, LineIn s (s.takeInput 0x20 (lineNat u .tag 0)).2 y u
      ∧ exec (.streamImport t u) s = .next (match (s.takeInput 0x20 (lineNat u .tag 0)).1 with
        | none => y.answer u.ses (s.ses u.ses).lines [.err 23 []]
        | some f => y.streamRequest (lineNat u .sid 0) (.imported (lineNat u .slot 0) (lineOn u .live false) f.body) u.ses (s.ses u.ses).lines) := by
  have ht := hc.takes (l := ⟨u, streamImportArgs, .work, fun s => slotReserved u s || sidReserved u s⟩) rfl
  obtain ⟨y, taken, line⟩ := received_takeInput t ht.first 0x20 (lineNat u .tag 0)
  refine ⟨y, line, ?_⟩
  change execStreamImport t u s = _
  unfold execStreamImport
  rw [usith_acts ht (by simp only [s.received_slotReserved, s.received_sidReserved]) hs]
  · rw [taken]
    cases (s.takeInput 0x20 (lineNat u .tag 0)).1 <;> rfl
  · intro z n
    have kept := z.takeInput_base 0x20 (lineNat u .tag 0)
    split <;> simp_all

/-- Settles O54: each command is its request, which waits or is served at once, and each act has its form. -/
theorem streamForms : Obligations.StreamForms := by
  intro t u s hs hw k
  refine ⟨fun c a hc hb hr => Requests.waits hr hc hs hw hb, fun hb => ⟨fun hc => ?_, fun hc => ?_, fun c copy hcopy hc => ?_, fun hc => ?_⟩⟩
  · exact streamCreate_forms (Requests.serves (.inl ⟨rfl, rfl⟩) hc hs hw hb)
  · exact streamFree_forms (Requests.serves (.inr (.inl ⟨rfl, rfl⟩)) hc hs hw hb)
  · have req : Requests t u c (.card copy (lineNat u .tag 0)) := by
      obtain ⟨rfl, rfl⟩ | ⟨rfl, rfl⟩ := hcopy
      · exact .inr (.inr (.inl ⟨rfl, rfl⟩))
      · exact .inr (.inr (.inr ⟨rfl, rfl⟩))
    have serves := req.serves hc hs hw hb
    obtain ⟨restoring, missing, reset⟩ := card_refused serves
    exact ⟨restoring, missing, reset, fun hr hh hp h6 h4 =>
      ⟨card_sent serves hw hr hh hp h6 h4, card_held serves hw hr hh hp h6 h4⟩⟩
  · intro slot live g
    obtain ⟨y, line, acts⟩ := streamImport_acts hc hs
    refine ⟨fun missing => line.replies (by rw [acts, missing]), fun c taken => ?_⟩
    obtain ⟨p, port⟩ : ∃ p, g.2 = s.withPort p := ⟨_, takeInput_eq s 0x20 (lineNat u .tag 0)⟩
    have serves : Serves (.streamImport t u) u s g.2 y k (.imported slot live c.body) := by
      refine ⟨line, acts.trans ?_⟩
      have waits : y.waits = [] := by rw [line.talks.waits, port]; exact hw
      have busy : y.streamBusy k = false := by rw [line.talks.streamBusy, port]; exact hb
      rw [taken]
      dsimp only
      rw [streamRequest_eq waits rfl, busy]
      rfl
    rw [port] at serves ⊢
    exact streamImport_forms serves

end Sys2Proof.Machine

namespace Sys2Proof.Machine

/-! ## What the steps of refit leave alone (09 R256, R257) -/

theorem mem_setKey {α β : Type} [DecidableEq α] (k : α) (v : β) (xs : List (α × β)) : (k, v) ∈ setKey k v xs := by
  induction xs with
  | nil => simp [setKey]
  | cons x xs ih =>
    simp only [setKey]
    split <;> simp [ih]

/-- An event is raised, and leaves the draft and the archive. -/
theorem State.raise_raised (s : State) (code : Nat) (patron stack : Option Nat) (a0 a1 a2 a3 : Nat) :
    Raised s (s.raise code patron stack a0 a1 a2 a3) code patron stack a0 a1 a2 a3
      ∧ (s.raise code patron stack a0 a1 a2 a3).draft = s.draft ∧ (s.raise code patron stack a0 a1 a2 a3).archive = s.archive := by
  obtain ⟨o, p, raised⟩ := raise_shape s code patron stack a0 a1 a2 a3
  rw [raised]
  exact ⟨⟨rfl, rfl⟩, rfl, rfl⟩

/-- The frames of a sequenced message change what has left the hub, and the spine. -/
theorem sendParts_shape (m : SpineMsg) (is : List Nat) (s : State) :
    ∃ o p, is.foldl (fun s i => s.sendPart m i) s = { s with out := o, spine := p } := by
  induction is generalizing s with
  | nil => exact ⟨s.out, s.spine, rfl⟩
  | cons i is ih =>
    obtain ⟨o, p, rest⟩ := ih (s.sendPart m i)
    exact ⟨o, p, rest⟩

theorem sendSeq_shape (s : State) (m : SpineMsg) : ∃ o p, s.sendSeq m = { s with out := o, spine := p } := by
  unfold State.sendSeq
  split
  · exact ⟨s.out, s.spine, rfl⟩
  · exact sendParts_shape m _ s

/-- Reporting a publication to the partner is at most a message. -/
theorem reportPub_shape (s : State) : ∃ o p, s.reportPub = { s with out := o, spine := p } := by
  unfold State.reportPub
  split
  · split
    · exact sendSeq_shape s _
    · exact ⟨s.out, s.spine, rfl⟩
  · exact ⟨s.out, s.spine, rfl⟩

theorem State.reportPub_keeps (s : State) :
    s.reportPub.draft = s.draft ∧ s.reportPub.archive = s.archive ∧ s.reportPub.events = s.events := by
  obtain ⟨o, p, reported⟩ := reportPub_shape s
  rw [reported]
  exact ⟨rfl, rfl, rfl⟩

/-! ## The corrected pages of the ledger (16 R460) -/

/-- A page that has been corrected changes the steward's lists, and may raise its event. -/
theorem scrubPage_shape (s : State) (page : Nat) :
    ∃ w e o p, s.scrubPage page = { s with steward := w, events := e, out := o, port := p } := by
  unfold State.scrubPage
  dsimp only
  split
  · exact ⟨s.steward, s.events, s.out, s.port, rfl⟩
  · split
    · obtain ⟨o, p, raised⟩ := raise_shape { s with steward := { s.steward with
        retired := s.steward.retired + 1
        retiredPages := s.steward.retiredPages ++ [page]
        corrected := s.steward.corrected.filter fun p => p.1 ≠ page } } 0x86 none none page (s.steward.retired + 1) 0 0
      exact ⟨_, _, o, p, raised⟩
    · exact ⟨_, s.events, s.out, s.port, rfl⟩

/-- Corrected pages leave the draft, the archive, the charges and the streams. -/
theorem scrubPages_keeps (pages : List Nat) (s : State) :
    let n := pages.foldl State.scrubPage s
    n.draft = s.draft ∧ n.archive = s.archive ∧ n.charges = s.charges ∧ n.streams = s.streams := by
  induction pages generalizing s with
  | nil => exact ⟨rfl, rfl, rfl, rfl⟩
  | cons page pages ih =>
    obtain ⟨w, e, o, p, scrubbed⟩ := scrubPage_shape s page
    rw [List.foldl_cons, scrubbed]
    exact ih _

/-- The first error of a page that is not retired is noted. -/
theorem State.scrubPage_first {s : State} {page : Nat} (live : s.steward.retiredPages.contains page = false)
    (first : ∀ x ∈ s.steward.corrected, x.1 ≠ page) :
    s.scrubPage page = { s with steward := { s.steward with corrected := setKey page s.now s.steward.corrected } } := by
  have none_held : (s.steward.corrected.any fun p => p.1 == page && decide (s.now < p.2 + 86400000 * msTicks)) = false := by
    rw [List.any_eq_false]
    intro x hx
    simp [first x hx]
  simp only [State.scrubPage, live, none_held, Bool.false_eq_true, if_false]

/-! ## REFIT_UPDATE -/

/-- The draft's groups, each updated from the gradients that its charge has left. -/
def State.updatedGroups (s : State) (d : Draft) : List DraftGroup :=
  d.groups.mapIdx fun i g => (g.update (d.grads.getD i []) (s.getN .refitB1) (s.getN .refitB2) (s.getN .refitLambda) (s.getN .refitEps)).1

/-- The update changes the draft, and the counts of the refit patron. -/
theorem updateDraft_shape (s : State) (d : Draft) :
    ∃ clips ps, s.updateDraft d = { s with
      draft := some { d with groups := s.updatedGroups d, gradClips := clips, step := d.step + 1, grads := [], pendingUpdate := false }
      patrons := ps } := by
  have updated : (d.groups.mapIdx fun i g => g.update (d.grads.getD i []) (s.getN .refitB1) (s.getN .refitB2) (s.getN .refitLambda)
      (s.getN .refitEps)).map (·.1) = s.updatedGroups d := by
    simp only [State.updatedGroups, List.mapIdx_eq_zipIdx_map, List.map_map, Function.comp_def]
  unfold State.updateDraft
  dsimp only
  rw [updated]
  split
  · exact ⟨_, _, rfl⟩
  · exact ⟨_, s.patrons, rfl⟩

/-- The updated draft, one step on, and what the update leaves alone. -/
theorem State.updateDraft_forms (s : State) (d : Draft) :
    let n := s.updateDraft d
    (∃ d', n.draft = some d' ∧ d'.step = d.step + 1 ∧ d'.pendingUpdate = false ∧ d'.pub = d.pub ∧ d'.published = d.published
        ∧ d'.groups = s.updatedGroups d)
      ∧ n.archive = s.archive ∧ n.charges = s.charges ∧ n.streams = s.streams
      ∧ n.steward = s.steward ∧ n.events = s.events ∧ n.now = s.now := by
  obtain ⟨clips, ps, updated⟩ := updateDraft_shape s d
  dsimp only
  rw [updated]
  exact ⟨⟨_, rfl, rfl, rfl, rfl, rfl, rfl⟩, rfl, rfl, rfl, rfl, rfl, rfl⟩

theorem exec_refitUpdate {t : Tick} {s : State} {d : Draft} (pages : List Nat) (hup : s.up = true) (ha : s.steward.aDown = none)
    (hd : s.draft = some d) (hp : d.pendingUpdate = true) :
    exec (.refitUpdate t pages) s = .next ((s.advance t).settle (pages.foldl State.scrubPage ((s.advance t).updateDraft d))) := by
  have up : (s.advance t).up = true := hup
  show execRefitUpdate t pages s = _
  refine (occurs_of ?_).trans ?_
  · simp [up, ha, hd, hp]
  · simp only [State.advance_draft, hd]

/-- REFIT_UPDATE: the draft's groups and step, and the pages that it notes. -/
theorem refitUpdate_forms {t : Tick} {s : State} {d : Draft} (pages : List Nat) (hup : s.up = true) (ha : s.steward.aDown = none)
    (hd : s.draft = some d) (hp : d.pendingUpdate = true) :
    Answers (.refitUpdate t pages) s fun n =>
      (∃ d', n.draft = some d' ∧ d'.step = d.step + 1 ∧ d'.pendingUpdate = false ∧ d'.pub = d.pub ∧ d'.published = d.published
          ∧ d'.groups = s.updatedGroups d)
        ∧ n.archive = s.archive ∧ n.charges = s.charges ∧ n.streams = s.streams
        ∧ (pages = [] → n.steward = s.steward ∧ n.events = s.events)
        ∧ (∀ p, pages = [p] → s.steward.retiredPages.contains p = false → (∀ x ∈ s.steward.corrected, x.1 ≠ p) →
            (p, s.at t) ∈ n.steward.corrected ∧ n.steward.retiredPages = s.steward.retiredPages ∧ n.events = s.events) := by
  have updated := (s.advance t).updateDraft_forms d
  refine ⟨_, exec_refitUpdate pages hup ha hd hp, ?_⟩
  generalize (s.advance t).updateDraft d = y at updated
  obtain ⟨draft, archive, charges, streams, steward, events, now⟩ := updated
  obtain ⟨hdraft, harchive, hcharges, hstreams⟩ := scrubPages_keeps pages y
  simp only [State.settle_draft, State.settle_archive, State.settle_charges, State.settle_streams, State.settle_steward,
    State.settle_events, hdraft, harchive, hcharges, hstreams]
  refine ⟨draft, archive, charges, streams, ?_, ?_⟩
  · rintro rfl
    exact ⟨steward, events⟩
  · rintro p rfl live first
    have noted : y.scrubPage p = { y with steward := { y.steward with corrected := setKey p y.now y.steward.corrected } } :=
      State.scrubPage_first (by rw [steward]; exact live) (by rw [steward]; exact first)
    rw [List.foldl_cons, List.foldl_nil, noted, steward, now]
    exact ⟨mem_setKey p _ _, rfl, events⟩

/-! ## PUBLISH -/

/-- The draft with its codes published. -/
def Draft.publication (d : Draft) : Draft :=
  { d with checked := d.step, pub := d.pub + 1, published := d.groups.map (·.codes), fillDue := true }

/-- A draft whose rows all pass is published, and written to the archive. -/
theorem State.publish_passed {s : State} {d : Draft} {f p : FolioInfo} (hf : s.refitFolios d = some (f, p))
    (pass : draftFault d f p (d.groups.map (·.codes)) = none) :
    s.publish d = { s with
      draft := some d.publication
      archive := { s.archive with draft := some { d.publication with fillDue := false }, draftArea := d.publication.areaBytes p } } := by
  simp only [State.publish, hf, pass, Draft.publication]

/-- A row that fails the bound is named in DRAFTRANGE, and the draft counts as tried. -/
theorem State.publish_failed {s : State} {d : Draft} {f p : FolioInfo} {l r : Nat} (hf : s.refitFolios d = some (f, p))
    (fail : draftFault d f p (d.groups.map (·.codes)) = some (l, r)) :
    s.publish d = ({ s with draft := some { d with checked := d.step } } : State).raise 0x28 (some 3) none d.parent.toNat l r (d.pub + 1) := by
  simp only [State.publish, hf, fail]

/-- A publication that is due: tried, and reported where its number has risen. -/
theorem exec_publish {t : Tick} {s : State} {d : Draft} (hup : s.up = true) (ha : s.steward.aDown = none) (hd : s.draft = some d)
    (due : s.publishDue = true) :
    exec (.publish t) s = .next ((s.advance t).settle
      (if ((s.advance t).publish d).draft.map (·.pub) = some d.pub then (s.advance t).publish d else ((s.advance t).publish d).reportPub)) := by
  have up : (s.advance t).up = true := hup
  have due' : (s.advance t).publishDue = true := due
  show execPublish t s = _
  refine (occurs_of ?_).trans ?_
  · simp [up, ha, due']
  · simp only [State.advance_draft, hd]

section
variable {t : Tick} {s : State} {d : Draft} {f p : FolioInfo} (hup : s.up = true) (ha : s.steward.aDown = none)
  (hd : s.draft = some d) (due : s.publishDue = true) (hf : s.refitFolios d = some (f, p))
include hup ha hd due hf

/-- PUBLISH where every row passes. -/
theorem publish_passed_forms (pass : draftFault d f p (d.groups.map (·.codes)) = none) :
    Answers (.publish t) s fun n =>
      n.draft = some d.publication ∧ n.archive.draft = some { d.publication with fillDue := false } ∧ n.events = s.events := by
  have published := State.publish_passed (s := s.advance t) hf pass
  have reported := ((s.advance t).publish d).reportPub_keeps
  refine ⟨_, exec_publish hup ha hd due, ?_⟩
  have risen : ¬ ((s.advance t).publish d).draft.map (·.pub) = some d.pub := by
    rw [published]
    simp [Draft.publication]
  rw [if_neg risen]
  generalize ((s.advance t).publish d).reportPub = n at reported
  obtain ⟨draft, archive, events⟩ := reported
  rw [published] at draft archive events
  exact ⟨draft, congrArg Archive.draft archive, events⟩

/-- PUBLISH where a row fails. -/
theorem publish_failed_forms {l r : Nat} (fail : draftFault d f p (d.groups.map (·.codes)) = some (l, r)) :
    Answers (.publish t) s fun n =>
      n.draft = some { d with checked := d.step } ∧ n.archive = s.archive
        ∧ Raised s n 0x28 (some 3) none d.parent.toNat l r (d.pub + 1) := by
  obtain ⟨raised, draft, archive⟩ :=
    State.raise_raised { s.advance t with draft := some { d with checked := d.step } } 0x28 (some 3) none d.parent.toNat l r (d.pub + 1)
  rw [← State.publish_failed (s := s.advance t) hf fail] at raised draft archive
  refine ⟨_, exec_publish hup ha hd due, ?_⟩
  generalize (s.advance t).publish d = n at raised draft archive
  rw [if_pos (by rw [draft]; rfl)]
  exact ⟨draft, archive, raised⟩

end

/-- Settles O19: the update, and the publication as its rows pass or one fails. -/
theorem refitForms : Obligations.RefitForms := by
  intro t s d hup ha hd
  refine ⟨fun pages hp => refitUpdate_forms pages hup ha hd hp, fun f p due hf => ?_⟩
  cases checked : draftFault d f p (d.groups.map (·.codes)) with
  | none =>
    obtain ⟨n, ran, passed⟩ := publish_passed_forms (t := t) hup ha hd due hf checked
    exact ⟨n, ran, fun _ => passed, by simp⟩
  | some row =>
    obtain ⟨n, ran, failed⟩ := publish_failed_forms (t := t) hup ha hd due hf checked
    refine ⟨n, ran, by simp, fun l r same => ?_⟩
    cases same
    exact failed

end Sys2Proof.Machine

/-! # The air interface (O23, O24, O26, O27)

What an update of a port, a node or a burst leaves, then the ports and their tuning, the bursts of nodes, an accepted report, and the bursts
that the hub sends. -/

namespace Sys2Proof.Machine

/-! ## One port, node or key after its update -/

theorem State.port?_modPort_same {s : State} {x : Nat} (f : PortSt → PortSt) (h : x < s.air.ports.length) :
    (s.modPort x f).port? x = f (s.port? x) := by
  simp [State.port?, State.modPort, h]

theorem State.port?_modPort_other (s : State) {x y : Nat} (f : PortSt → PortSt) (h : y ≠ x) : (s.modPort x f).port? y = s.port? y := by
  simp [State.port?, State.modPort, h.symm]

/-- A change that keeps something of a port keeps it for every port. -/
theorem State.port?_modPort_keeps {α : Type} (g : PortSt → α) {f : PortSt → PortSt} (h : ∀ p, g (f p) = g p) (s : State) (x y : Nat) :
    g ((s.modPort x f).port? y) = g (s.port? y) := by
  by_cases hy : y = x
  · subst hy
    by_cases hl : y < s.air.ports.length
    · rw [State.port?_modPort_same f hl, h]
    · simp [State.port?, State.modPort, hl]
  · rw [s.port?_modPort_other f hy]

/-- The node of a shelfmark is changed as its update says. -/
theorem State.node?_modNode (s : State) {h : Nat} {f : NodeSt → NodeSt} (hf : ∀ x, (f x).shelf = x.shelf) :
    (s.modNode h f).node? h = (s.node? h).map f := by
  have keeps : ((fun x : NodeSt => x.shelf == h) ∘ fun x => if x.shelf = h then f x else x) = fun x => x.shelf == h := by
    funext x
    by_cases hx : x.shelf = h <;> simp [hx, hf]
  unfold State.modNode State.node?
  rw [List.find?_map, keeps]
  cases found : s.nodes.find? fun x => x.shelf == h with
  | none => rfl
  | some x => simp [State.node?_shelf (s := s) found]

/-- Every other node stays as it is. -/
theorem State.node?_modNode_other (s : State) {h j : Nat} {f : NodeSt → NodeSt} (hf : ∀ x, (f x).shelf = x.shelf) (hj : j ≠ h) :
    (s.modNode h f).node? j = s.node? j := by
  have keeps : ((fun x : NodeSt => x.shelf == j) ∘ fun x => if x.shelf = h then f x else x) = fun x => x.shelf == j := by
    funext x
    by_cases hx : x.shelf = h <;> simp [hx, hf]
  unfold State.modNode State.node?
  rw [List.find?_map, keeps]
  cases found : s.nodes.find? fun x => x.shelf == j with
  | none => rfl
  | some x =>
    have hx : x.shelf ≠ h := fun e => hj ((State.node?_shelf (s := s) found).symm.trans e)
    simp [hx]

/-- A key that is set has its value. -/
theorem lookupD_setKey {α β : Type} [DecidableEq α] (d : β) (k : α) (v : β) (xs : List (α × β)) : lookupD d k (setKey k v xs) = v := by
  induction xs with
  | nil => simp [lookupD, setKey]
  | cons x xs ih =>
    simp only [setKey]
    split
    · simp [lookupD]
    · next hx => simpa [lookupD, hx] using ih

/-! ## What the ports of a channel depend on (10 R271, R293) -/

/-- A setting that neither a stream nor a folio gives has its value in the settings. -/
theorem State.getN_congr {s n : State} {x : SName} (h : n.settings = s.settings)
    (plain : ∀ z : State, z.held x = settingIn x z.settings.live ∧ z.baseSetting x = x.default) : n.getN x = s.getN x := by
  unfold State.getN State.get
  rw [(plain n).1, (plain s).1, (plain n).2, (plain s).2, h]

/-- What decides which ports serve which channel. -/
structure SamePorts (s n : State) : Prop where
  settings : n.settings = s.settings
  acc : n.air.acc = s.air.acc
  pairs : n.air.pairs = s.air.pairs
  serving : n.air.serving = s.air.serving
  fault : ∀ x, (n.port? x).fault = (s.port? x).fault

theorem SamePorts.healthy {s n : State} (h : SamePorts s n) (x : Nat) : n.healthy x = s.healthy x := by
  have mask : n.getN .airPorts = s.getN .airPorts := State.getN_congr h.settings fun _ => ⟨rfl, rfl⟩
  rw [State.healthy, State.healthy, State.fitted, State.fitted, mask, h.fault]

theorem SamePorts.portsOf {s n : State} (h : SamePorts s n) (lch : Nat) : n.portsOf lch = s.portsOf lch := by
  unfold State.portsOf
  rw [h.acc, h.pairs, h.serving, funext h.healthy]

theorem SamePorts.txPort {s n : State} (h : SamePorts s n) (tx : ∀ x, (n.port? x).txFault = (s.port? x).txFault) (lch : Nat) :
    n.txPort lch = s.txPort lch := by
  unfold State.txPort
  simp only [h.portsOf, tx]

/-! ## Operations on ports alone -/

/-- From one state to another only the ports, what has left the hub and the free values have changed. -/
structure OnlyPorts (s n : State) : Prop where
  rest : n = { s with air := { s.air with ports := n.air.ports }, out := n.out, free := n.free }
  length : n.air.ports.length = s.air.ports.length

theorem OnlyPorts.refl (s : State) : OnlyPorts s s := ⟨rfl, rfl⟩

theorem OnlyPorts.trans {a b c : State} (h : OnlyPorts a b) (k : OnlyPorts b c) : OnlyPorts a c := by
  obtain ⟨hb, lb⟩ := h
  obtain ⟨hc, lc⟩ := k
  refine ⟨hc.trans ?_, lc.trans lb⟩
  rw [hb]

theorem OnlyPorts.foldl {α : Type} {f : State → α → State} (h : ∀ s x, OnlyPorts s (f s x)) (xs : List α) (s : State) :
    OnlyPorts s (xs.foldl f s) := by
  induction xs generalizing s with
  | nil => exact .refl s
  | cons x xs ih => exact (h s x).trans (ih _)

theorem State.modPort_only (s : State) (x : Nat) (f : PortSt → PortSt) : OnlyPorts s (s.modPort x f) :=
  ⟨rfl, List.length_modify ..⟩

theorem freeBytes_shape (n : Nat) (s : State) : ∃ f, (freeBytes n s).2 = { s with free := f } := by
  induction n generalizing s with
  | zero => exact ⟨s.free, rfl⟩
  | succ n ih => exact ih s.freeNat.2

/-- A script that runs changes the readback of its port. -/
theorem State.runScriptOf_only (s : State) (scripts : List (Nat × Option Nat × Bytes)) (x : Nat) (c : Option Nat) :
    OnlyPorts s (s.runScriptOf scripts x c) ∧ ∀ y, y ≠ x → (s.runScriptOf scripts x c).port? y = s.port? y := by
  unfold State.runScriptOf
  split
  · exact ⟨.refl s, fun _ _ => rfl⟩
  · next p _ =>
    obtain ⟨f, drawn⟩ := freeBytes_shape (lastTransaction p.2.2.length p.2.2) s
    dsimp only
    rw [drawn]
    exact ⟨⟨rfl, List.length_modify ..⟩, fun y hy => State.port?_modPort_other { s with free := f } _ hy⟩

/-! ## TUNE_SCRIPT (10 R274) -/

/-- A port is tuned: the script of its new centre runs, and the centre is the port's. -/
def State.tunePort (scripts : List (Nat × Option Nat × Bytes)) (s : State) (p : Nat × Nat) : State :=
  (s.runScriptOf scripts p.1 (some p.2)).modPort p.1 fun q => { q with centre := some p.2 }

/-- The ports that serve the channels of a stamp, each with its channel's centre. -/
def State.centring (q : State) : List (Nat × Nat) :=
  (List.range q.channels).flatMap fun c => (q.portsOf c).map fun x => (x, q.centreOf q.stamp.number c)

theorem State.mem_centring (q : State) (x k : Nat) :
    (x, k) ∈ q.centring ↔ ∃ c, c < q.channels ∧ x ∈ q.portsOf c ∧ q.centreOf q.stamp.number c = k := by
  simp [State.centring]

/-- The ports are tuned one after the other. -/
theorem State.tune_eq (s : State) :
    let n := s.nextAir.centring.foldl (State.tunePort s.nextAir.settings.scripts) s
    s.tune = { n with air := { n.air with tuned := true } } := by
  simp only [State.centring, List.foldl_flatMap, List.foldl_map]
  rfl

theorem State.tunePort_only (scripts : List (Nat × Option Nat × Bytes)) (s : State) (p : Nat × Nat) : OnlyPorts s (s.tunePort scripts p) :=
  (s.runScriptOf_only scripts p.1 (some p.2)).1.trans (State.modPort_only _ _ _)

theorem State.tunePort_other (scripts : List (Nat × Option Nat × Bytes)) (s : State) {p : Nat × Nat} {x : Nat} (h : x ≠ p.1) :
    (s.tunePort scripts p).port? x = s.port? x :=
  (State.port?_modPort_other _ _ h).trans ((s.runScriptOf_only scripts p.1 (some p.2)).2 x h)

theorem State.tunePort_centre (scripts : List (Nat × Option Nat × Bytes)) {s : State} {p : Nat × Nat} (h : p.1 < s.air.ports.length) :
    ((s.tunePort scripts p).port? p.1).centre = some p.2 := by
  unfold State.tunePort
  rw [State.port?_modPort_same _ (by rw [(s.runScriptOf_only _ _ _).1.length]; exact h)]

/-- A port of which no pair speaks stays as it is. -/
theorem State.tunePorts_other (scripts : List (Nat × Option Nat × Bytes)) (ps : List (Nat × Nat)) (s : State) {x : Nat}
    (h : ∀ k, (x, k) ∉ ps) : (ps.foldl (State.tunePort scripts) s).port? x = s.port? x := by
  induction ps generalizing s with
  | nil => rfl
  | cons p ps ih =>
    have hx : x ≠ p.1 := fun e => h p.2 (by simp [e])
    rw [List.foldl_cons, ih _ fun k hk => h k (List.mem_cons_of_mem _ hk), s.tunePort_other scripts hx]

/-- A port that all its pairs give one centre has it in the end, if a pair speaks of it or it had that centre before. -/
theorem State.tunePorts_centre (scripts : List (Nat × Option Nat × Bytes)) (ps : List (Nat × Nat)) (s : State) {x k : Nat}
    (hx : x < s.air.ports.length) (one : ∀ j, (x, j) ∈ ps → j = k) (h : (x, k) ∈ ps ∨ (s.port? x).centre = some k) :
    ((ps.foldl (State.tunePort scripts) s).port? x).centre = some k := by
  induction ps generalizing s with
  | nil => exact h.resolve_left (List.not_mem_nil)
  | cons p ps ih =>
    refine ih _ (by rw [(s.tunePort_only scripts p).length]; exact hx) (fun j hj => one j (List.mem_cons_of_mem _ hj)) ?_
    by_cases e : x = p.1
    · right
      subst e
      rw [State.tunePort_centre scripts hx, one p.2 List.mem_cons_self]
    · rw [s.tunePort_other scripts e]
      refine h.imp_left fun m => (List.mem_cons.1 m).resolve_left fun hp => e ?_
      rw [← hp]

/-- The stamp for which the ports are tuned is the next one. -/
theorem State.nextAir_number (s : State) : s.nextAir.stamp.number = s.stamp.number + 1 := by
  have held : ∀ (ps : List (SName × Option Int)) (q : State), (ps.foldl State.hold q).stamp.number = q.stamp.number := fun ps q =>
    congrArg (fun c => c.2.1) (clk_foldl State.hold_clk ps q)
  unfold State.nextAir
  dsimp only
  split
  · exact held _ _
  · exact held _ _

/-- TUNE_SCRIPT, once a stamp and in its time (10 R274). -/
theorem exec_tuneScript {t : Tick} {s : State} (hup : s.airUp = true) (ht : s.air.tuned = false)
    (hfrom : (if s.air.acc then s.accAt s.accSlots else s.frameEnd) ≤ s.at t)
    (hto : s.at t + 100 * usTicks ≤ s.stamp.t0 + s.stamp.period * msTicks) :
    exec (.tuneScript t) s = .next ((s.advance t).settle (s.advance t).tune) := by
  show execTuneScript t s = _
  refine occurs_of ?_
  simp only [Bool.and_eq_true, Bool.not_eq_true', decide_eq_true_eq]
  exact ⟨⟨hup, ht⟩, hfrom, hto⟩

/-! ## PORTFAULT (10 R294) -/

/-- The other port of a port's pair is another port. -/
theorem pair_ne (port : Nat) : port / 2 * 2 + (1 - port % 2) ≠ port := by omega

/-- The hub as a port has been marked faulty with its cause. -/
def State.markFaulty (s : State) (port : Nat) (cause : PortCause) : State :=
  s.modPort port fun p => { p with fault := some cause, silent := 0 }

/-- The other port of its pair stays as healthy as it was. -/
theorem State.markFaulty_partner (s : State) (port : Nat) (cause : PortCause) :
    (s.markFaulty port cause).healthy (port / 2 * 2 + (1 - port % 2)) = s.healthy (port / 2 * 2 + (1 - port % 2)) := by
  have mask : (s.markFaulty port cause).getN .airPorts = s.getN .airPorts := State.getN_congr rfl fun _ => ⟨rfl, rfl⟩
  have other := s.port?_modPort_other (fun p => { p with fault := some cause, silent := 0 }) (pair_ne port)
  rw [State.healthy, State.healthy, State.fitted, State.fitted, mask, State.markFaulty, other]

/-- A port is marked, its event raised, and the mode decided again unless its pair carries on (log 42). -/
theorem State.portFault_eq (s : State) (port : Nat) (cause : PortCause) :
    let z := (s.markFaulty port cause).raise 0x41 none none port (causeCode cause) 0 0
    s.portFault port cause = { z with air := { z.air with
      modeAt := if s.air.pairs = true ∧ s.healthy (port / 2 * 2 + (1 - port % 2)) = true then s.air.modeAt
        else s.air.modeAt ++ [s.atStamp] } } := by
  obtain ⟨o, p, raised⟩ := raise_shape (s.markFaulty port cause) 0x41 none none port (causeCode cause) 0 0
  have partner : (s.air.pairs && (s.markFaulty port cause).healthy (port / 2 * 2 + (1 - port % 2))) = true
      ↔ s.air.pairs = true ∧ s.healthy (port / 2 * 2 + (1 - port % 2)) = true := by rw [s.markFaulty_partner, Bool.and_eq_true]
  unfold State.portFault
  rw [← State.markFaulty]
  dsimp only
  rw [raised]
  split
  · next h => rw [if_pos (partner.1 h)]; rfl
  · next h => rw [if_neg fun k => h (partner.2 k)]; rfl

/-- PORTFAULT of a healthy port. -/
theorem exec_portfault {t : Tick} {s : State} {port : Nat} {cause : PortCause} (hp : s.power.porter = true) (hb : s.power.booted = true)
    (hs : s.stamp.started = true) (hr : s.power.rstLow = none) (hx : port < 4) (hh : s.healthy port = true)
    (hq : cause = .silent → 16 ≤ (s.port? port).silent) :
    exec (.portfault t port cause) s = .next ((s.advance t).settle ((s.advance t).portFault port cause)) := by
  have silent : (cause != .silent || decide (16 ≤ (s.port? port).silent)) = true := by
    by_cases h : cause = .silent
    · simp [hq h]
    · simp [h]
  show execPortfault t port cause s = _
  refine occurs_of ?_
  simp only [Bool.and_eq_true, decide_eq_true_eq]
  exact ⟨⟨⟨⟨⟨⟨hp, hb⟩, hs⟩, by simp [hr]⟩, hx⟩, hh⟩, silent⟩

/-- Tuning gives every port of a channel the channel's centre in the next stamp, and leaves the others. -/
theorem State.tune_centres {s : State} (h4 : s.air.ports.length = 4)
    (apart : ∀ c d x, x ∈ s.nextAir.portsOf c → x ∈ s.nextAir.portsOf d → c = d) :
    let q := s.nextAir
    s.tune.air.tuned = true
      ∧ (∀ c x, c < q.channels → x ∈ q.portsOf c → x < 4 → (s.tune.port? x).centre = some (q.centreOf (s.stamp.number + 1) c))
      ∧ (∀ x, (∀ c, c < q.channels → x ∉ q.portsOf c) → s.tune.port? x = s.port? x)
      ∧ s.tune.settings = s.settings ∧ s.tune.nodes = s.nodes ∧ s.tune.events = s.events := by
  intro q
  have centre := fun x k => State.tunePorts_centre q.settings.scripts q.centring s (x := x) (k := k)
  have other := fun x => State.tunePorts_other q.settings.scripts q.centring s (x := x)
  obtain ⟨only, -⟩ := OnlyPorts.foldl (State.tunePort_only q.settings.scripts) q.centring s
  rw [s.tune_eq]
  generalize q.centring.foldl (State.tunePort q.settings.scripts) s = n at *
  refine ⟨rfl, fun c x hc hx h => ?_, fun x h => other x fun k hk => ?_, ?_, ?_, ?_⟩
  · rw [← s.nextAir_number]
    refine centre x _ (h.trans_eq h4.symm) (fun j hj => ?_) (.inl ((q.mem_centring _ _).2 ⟨c, hc, hx, rfl⟩))
    obtain ⟨d, -, hd, rfl⟩ := (q.mem_centring _ _).1 hj
    rw [apart c d x hx hd]
  · obtain ⟨c, hc, hx, -⟩ := (q.mem_centring _ _).1 hk
    exact h c hc hx
  · rw [only]
  · rw [only]
  · rw [only]

/-- PORTFAULT: the mark, the event, and the mode to be decided again. -/
theorem portfault_forms {t : Tick} {s : State} {port : Nat} {cause : PortCause} (h4 : s.air.ports.length = 4) (hp : s.power.porter = true)
    (hb : s.power.booted = true) (hs : s.stamp.started = true) (hr : s.power.rstLow = none) (hx : port < 4) (hh : s.healthy port = true)
    (hq : cause = .silent → 16 ≤ (s.port? port).silent) :
    Answers (.portfault t port cause) s fun n =>
      Raised s n 0x41 none none port (causeCode cause) 0 0
        ∧ n.port? port = { s.port? port with fault := some cause, silent := 0 } ∧ (∀ x, x ≠ port → n.port? x = s.port? x)
        ∧ n.air.modeAt = (if s.air.pairs = true ∧ s.healthy (port / 2 * 2 + (1 - port % 2)) = true then s.air.modeAt
            else s.air.modeAt ++ [(s.advance t).atStamp])
        ∧ n.nodes = s.nodes ∧ n.settings = s.settings := by
  have marked : ((s.advance t).markFaulty port cause).port? port = { s.port? port with fault := some cause, silent := 0 } :=
    State.port?_modPort_same _ (hx.trans_eq h4.symm)
  have other : ∀ x, x ≠ port → ((s.advance t).markFaulty port cause).port? x = s.port? x := fun x =>
    State.port?_modPort_other (s.advance t) _
  obtain ⟨o, p, raised⟩ := raise_shape ((s.advance t).markFaulty port cause) 0x41 none none port (causeCode cause) 0 0
  refine ⟨_, exec_portfault hp hb hs hr hx hh hq, ?_⟩
  rw [(s.advance t).portFault_eq, raised]
  exact ⟨⟨rfl, rfl⟩, marked, other, rfl, rfl, rfl⟩

/-- Settles O27: the tuning, and the fault of a port. -/
theorem portForms : Obligations.PortForms := by
  intro t s h4
  refine ⟨fun hup ht hfrom hto apart => ?_, fun port cause hp hb hs hr hx hh hq => ?_⟩
  · have centres := State.tune_centres (s := s.advance t) h4 apart
    refine ⟨_, exec_tuneScript hup ht hfrom hto, ?_⟩
    generalize (s.advance t).tune = n at centres
    exact centres
  · cases cause <;> exact portfault_forms h4 hp hb hs hr hx hh hq

end Sys2Proof.Machine

namespace Sys2Proof.Machine

/-! ## BURST_RECEIVE (10 R287, R295) -/

/-- The hub as some ports have heard a node. -/
def State.hear (s : State) (xs : List Nat) : State := xs.foldl (fun s x => s.modPort x fun p => { p with heard := true }) s

theorem State.hear_only (s : State) (xs : List Nat) : OnlyPorts s (s.hear xs) := .foldl (fun s x => s.modPort_only x _) xs s

theorem State.hear_fault (s : State) (xs : List Nat) (x : Nat) : ((s.hear xs).port? x).fault = (s.port? x).fault := by
  induction xs generalizing s with
  | nil => rfl
  | cons y ys ih => exact (ih _).trans (State.port?_modPort_keeps PortSt.fault (f := fun p => { p with heard := true }) (fun _ => rfl) s y x)

theorem State.hear_heard {s : State} {x : Nat} (h : x < s.air.ports.length) (xs : List Nat) :
    ((s.hear xs).port? x).heard = ((s.port? x).heard || xs.contains x) := by
  induction xs generalizing s with
  | nil => simp [State.hear]
  | cons y ys ih =>
    have later := ih (s := s.modPort y fun p => { p with heard := true }) (by rw [(s.modPort_only y _).length]; exact h)
    refine later.trans ?_
    by_cases e : x = y
    · subst e
      simp [State.port?_modPort_same _ h]
    · simp [s.port?_modPort_other _ e, e]

theorem State.hear_same (s : State) (xs : List Nat) : SamePorts s (s.hear xs) where
  settings := by rw [(s.hear_only xs).rest]
  acc := by rw [(s.hear_only xs).rest]
  pairs := by rw [(s.hear_only xs).rest]
  serving := by rw [(s.hear_only xs).rest]
  fault := s.hear_fault xs

theorem SamePorts.rxLat {s n : State} (h : SamePorts s n) (lch : Nat) : n.rxLat lch = s.rxLat lch := by
  have staged : ∀ x, n.getN (.portRxlat x) = s.getN (.portRxlat x) := fun x => State.getN_congr h.settings fun _ => ⟨rfl, rfl⟩
  simp only [State.rxLat, h.portsOf, staged]

/-- The burst that is detected: where it starts at the antenna, and done at once where its header fails. -/
def State.detected (s : State) (lch : Nat) (slot : Slot) (hdr : BitVec 48) (off : Int) : BurstSt :=
  { lch := lch, slot := slot, hdr := hdr, at0 := ((s.slotAt slot : Int) + 4 * usTicks + off - s.rxLat lch).toNat, done := !headerOk slot hdr }

/-- The hub with the burst that its ports have heard, before its node's outcome. -/
def State.withBurst (s : State) (lch : Nat) (slot : Slot) (hdr : BitVec 48) (off : Int) : State :=
  let n := s.hear (s.portsOf lch)
  { n with air := { n.air with bursts := s.air.bursts ++ [s.detected lch slot hdr off] } }

/-- A failed header fails the node of the slot on a hub that decides outcomes; nothing else follows the burst. -/
theorem State.receiveBurst_eq (s : State) (lch : Nat) (slot : Slot) (hdr : BitVec 48) (off : Int) :
    s.receiveBurst lch slot hdr off = (s.slotShelf lch slot).elim (s.withBurst lch slot hdr off) fun h =>
      if headerOk slot hdr || !(s.leads || s.roleSt.lostAt.isSome) then s.withBurst lch slot hdr off
      else (s.withBurst lch slot hdr off).modNode h fun x => { x with outcome := 4 } := by
  have at0 : ((((s.hear (s.portsOf lch)).slotAt slot + us 4 : Nat) : Int) + (off - (s.hear (s.portsOf lch)).rxLat lch)).toNat
      = (s.detected lch slot hdr off).at0 := by
    have slotAt : (s.hear (s.portsOf lch)).slotAt slot = s.slotAt slot := by
      rw [(s.hear_only _).rest]
      cases slot <;> rfl
    rw [(s.hear_same _).rxLat, slotAt]
    simp only [State.detected, us]
    congr 1
    omega
  have rest := (s.hear_only (s.portsOf lch)).rest
  unfold State.receiveBurst State.withBurst
  dsimp only
  rw [show s.hear (s.portsOf lch) = (s.portsOf lch).foldl _ s from rfl] at at0 rest ⊢
  rw [at0]
  generalize (s.portsOf lch).foldl (fun s x => s.modPort x fun p => { p with heard := true }) s = n at rest ⊢
  have bursts : n.air.bursts = s.air.bursts := by rw [rest]
  have shelf : ({ n with air := { n.air with bursts := s.air.bursts ++ [s.detected lch slot hdr off] } } : State).slotShelf lch slot
      = s.slotShelf lch slot := by
    rw [rest]
    cases slot <;> rfl
  have role : n.roleSt = s.roleSt := by rw [rest]
  rw [bursts]
  show (match State.slotShelf { n with air := { n.air with bursts := s.air.bursts ++ [s.detected lch slot hdr off] } } lch slot with
    | some h => _
    | none => _) = _
  rw [shelf]
  cases s.slotShelf lch slot with
  | none => rfl
  | some h =>
    simp only [State.leads, role]
    rfl

/-- BURST_RECEIVE, in its slot and within 4 µs (10 R287). -/
theorem exec_burstReceive {t : Tick} {s : State} {lch : Nat} {slot : Slot} (hdr : BitVec 48) {off : Int} (hup : s.airUp = true)
    (ha : s.awaits lch slot = true) (ho : (off - s.rxLat lch).natAbs ≤ 4 * usTicks) (ht : s.slotAt slot ≤ s.at t) :
    exec (.burstReceive t lch slot hdr off) s = .next ((s.advance t).settle ((s.advance t).receiveBurst lch slot hdr off)) := by
  have start : (s.advance t).slotAt slot ≤ s.at t := by cases slot <;> exact ht
  have awaited : (s.advance t).awaits lch slot = true := by cases slot <;> exact ha
  show execBurstReceive t lch slot hdr off s = _
  refine occurs_of ?_
  simp only [Bool.and_eq_true, decide_eq_true_eq]
  exact ⟨⟨⟨hup, awaited⟩, ho⟩, start⟩

/-- What a detected burst leaves of the bursts, the ports, the nodes and the rest. -/
theorem State.receiveBurst_forms {s : State} (lch : Nat) (slot : Slot) (hdr : BitVec 48) (off : Int) (h4 : s.air.ports.length = 4) :
    let n := s.receiveBurst lch slot hdr off
    n.air.bursts = s.air.bursts ++ [s.detected lch slot hdr off]
      ∧ (∀ x, x < 4 → (n.port? x).heard = ((s.port? x).heard || (s.portsOf lch).contains x) ∧ (n.port? x).fault = (s.port? x).fault)
      ∧ (headerOk slot hdr = true → n.nodes = s.nodes)
      ∧ (∀ h x, headerOk slot hdr = false → s.leads = true → s.slotShelf lch slot = some h → s.node? h = some x →
          n.node? h = some { x with outcome := 4 } ∧ ∀ j, j ≠ h → n.node? j = s.node? j)
      ∧ n.stackList = s.stackList ∧ n.charges = s.charges ∧ n.events = s.events := by
  have ports : ∀ x, x < 4 → ((s.withBurst lch slot hdr off).port? x).heard = ((s.port? x).heard || (s.portsOf lch).contains x)
      ∧ ((s.withBurst lch slot hdr off).port? x).fault = (s.port? x).fault := fun x hx =>
    ⟨State.hear_heard (hx.trans_eq h4.symm) _, s.hear_fault _ x⟩
  have bursts : (s.withBurst lch slot hdr off).air.bursts = s.air.bursts ++ [s.detected lch slot hdr off] := rfl
  have nodes : (s.withBurst lch slot hdr off).nodes = s.nodes := by unfold State.withBurst; rw [(s.hear_only _).rest]
  have rest : (s.withBurst lch slot hdr off).stackList = s.stackList ∧ (s.withBurst lch slot hdr off).charges = s.charges
      ∧ (s.withBurst lch slot hdr off).events = s.events := by
    unfold State.withBurst
    rw [(s.hear_only _).rest]
    exact ⟨rfl, rfl, rfl⟩
  have keeps : ∀ x : NodeSt, ({ x with outcome := 4 } : NodeSt).shelf = x.shelf := fun _ => rfl
  rw [s.receiveBurst_eq]
  generalize s.withBurst lch slot hdr off = z at *
  have node : ∀ j, z.node? j = s.node? j := fun j => by rw [State.node?, nodes]; rfl
  cases hs : s.slotShelf lch slot with
  | none => exact ⟨bursts, ports, fun _ => nodes, fun h x _ _ e => absurd e (by simp), rest⟩
  | some h =>
    dsimp only [Option.elim]
    split
    · next ok =>
      refine ⟨bursts, ports, fun _ => nodes, fun h x bad leads => ?_, rest⟩
      simp [bad, leads] at ok
    · next bad =>
      refine ⟨bursts, ports, fun ok => absurd ok fun ok => bad (by simp [ok]), fun h' x _ _ e hx => ?_, rest⟩
      cases e
      refine ⟨?_, fun j hj => (z.node?_modNode_other keeps hj).trans (node j)⟩
      rw [z.node?_modNode keeps, node, hx]
      rfl

/-! ## LEARNED_DEADLINE (10 R296) -/

/-- LEARNED_DEADLINE, 14 µs after the end of a burst whose learned side is not final. -/
theorem exec_learnedDeadline {t : Tick} {s : State} {lch : Nat} {slot : Slot} {b : BurstSt} (hup : s.airUp = true)
    (hb : s.burst? lch slot = some b) (hf : b.fin = false) (ht : b.at0 + 484 * symbolTicks + 14 * usTicks ≤ s.at t) :
    exec (.learnedDeadline t lch slot) s = .next ((s.advance t).settle ((s.advance t).learnedDeadline lch slot)) := by
  have found : (s.advance t).burst? lch slot = some b := hb
  show execLearnedDeadline t lch slot s = _
  refine occurs_of ?_
  rw [found]
  simp only [Bool.and_eq_true, Option.any_some, Bool.not_eq_true', decide_eq_true_eq]
  exact ⟨hup, hf, ht⟩

/-- A burst that is changed, and every other one. -/
theorem State.modBurstAt_getElem? (s : State) (lch : Nat) (slot : Slot) (f : BurstSt → BurstSt) {i : Nat} (h : i < s.air.bursts.length) :
    (s.modBurstAt lch slot f).air.bursts[i]? =
      some (if s.air.bursts[i].lch = lch ∧ s.air.bursts[i].slot = slot then f s.air.bursts[i] else s.air.bursts[i]) := by
  simp [State.modBurstAt, h]

/-- A decode charge that is still queued goes, and no other charge. -/
theorem State.learnedDeadline_charges (s : State) (lch : Nat) (slot : Slot) (c : ChargeSt) :
    c ∈ (s.learnedDeadline lch slot).charges ↔ c ∈ s.charges ∧ ¬ (c.phase = .queued ∧ c.kind = .decode lch (Slot.pos s.air.nu slot)) := by
  simp [State.learnedDeadline, State.modBurstAt, ← imp_iff_not_or]

/-- Settles O23: the burst that is detected, and the deadline of its learned decode. -/
theorem burstForms : Obligations.BurstForms := by
  intro t s lch slot hup
  refine ⟨fun hdr off ha ho ht h4 => ?_, fun b hb hf ht => ?_⟩
  · have forms := State.receiveBurst_forms (s := s.advance t) lch slot hdr off h4
    have burst : (s.advance t).detected lch slot hdr off = s.detected lch slot hdr off := by cases slot <;> rfl
    have shelf : (s.advance t).slotShelf lch slot = s.slotShelf lch slot := by cases slot <;> rfl
    rw [burst, shelf] at forms
    refine ⟨_, exec_burstReceive hdr hup ha ho ht, ?_⟩
    generalize (s.advance t).receiveBurst lch slot hdr off = n at forms
    exact forms
  · exact ⟨_, exec_learnedDeadline hup hb hf ht, fun i h => (s.advance t).modBurstAt_getElem? lch slot _ h,
      (s.advance t).learnedDeadline_charges lch slot, rfl, rfl, rfl⟩

end Sys2Proof.Machine

namespace Sys2Proof.Machine

/-! ## The roll: what reports, orders and tests leave of nodes, cells and air interface

Orders to nodes, their acknowledgements, the tests of limits and wires and the events that they raise leave the marks of every node, the
cells, and the air interface but for the number of messages submitted. One lemma for each operation, in the model's order, as `_base` lemmas
for `Base`. -/

/-- What tells of a node's report in a stamp. -/
structure NodeMark where
  shelf : Nat
  due : Bool
  outcome : Nat
  reported : Bool
  lost : Bool
  report : Report

def NodeSt.mark (n : NodeSt) : NodeMark :=
  { shelf := n.shelf, due := n.due, outcome := n.outcome, reported := n.reported, lost := n.lost, report := n.report }

theorem NodeSt.mark_inj (a b : NodeSt) : a.mark = b.mark ↔ a.shelf = b.shelf ∧ a.due = b.due ∧ a.outcome = b.outcome ∧ a.reported = b.reported
    ∧ a.lost = b.lost ∧ a.report = b.report := by
  simp only [NodeSt.mark, NodeMark.mk.injEq]

/-- The marks of the nodes, the cells, and the air interface without its number of messages. -/
structure Roll where
  marks : List NodeMark
  cells : List CellSt
  air : Air

def State.roll (s : State) : Roll := { marks := s.nodes.map NodeSt.mark, cells := s.cells, air := { s.air with subs := 0 } }

theorem roll_foldl {α : Type} {f : State → α → State} (h : ∀ s x, (f s x).roll = s.roll) (xs : List α) (s : State) :
    (xs.foldl f s).roll = s.roll := by
  induction xs generalizing s with
  | nil => rfl
  | cons x xs ih => rw [List.foldl_cons, ih, h]

@[simp] theorem ite_roll (c : Prop) [Decidable c] (a b : State) : (if c then a else b).roll = if c then a.roll else b.roll :=
  apply_ite _ _ _ _

/-- The same roll is the same air interface, but for the number of messages submitted. -/
theorem State.air_of_roll {s n : State} (h : n.roll = s.roll) : n.air = { s.air with subs := n.air.subs } :=
  congrArg (fun r : Roll => { r.air with subs := n.air.subs }) h

/-! ### Nodes -/

/-- The marks after one node's update, which may set them. -/
theorem State.modNode_marks (s : State) (h : Nat) {f : NodeSt → NodeSt} {g : NodeMark → NodeMark} (hf : ∀ x, (f x).mark = g x.mark) :
    (s.modNode h f).roll.marks = s.roll.marks.map fun m => if m.shelf = h then g m else m := by
  simp only [State.roll, State.modNode, List.map_map]
  refine List.map_congr_left fun x _ => ?_
  dsimp only [Function.comp]
  by_cases hx : x.shelf = h
  · rw [if_pos hx, hf, if_pos (show x.mark.shelf = h from hx)]
  · rw [if_neg hx, if_neg (show ¬ x.mark.shelf = h from hx)]

@[simp] theorem State.modNode_roll (s : State) (h : Nat) {f : NodeSt → NodeSt} (hf : ∀ x, (f x).mark = x.mark) :
    (s.modNode h f).roll = s.roll := by
  have marks := s.modNode_marks h (g := id) hf
  simp only [id, ite_self, List.map_id'] at marks
  exact congrArg (fun ms => { s.roll with marks := ms }) marks

@[simp] theorem NodeSt.marked_mark (n : NodeSt) (m : Msg) (period : Nat) : (n.marked m period).mark = n.mark := by
  unfold NodeSt.marked
  split <;> rfl
@[simp] theorem NodeSt.ordered_mark (n : NodeSt) (mask dur now : Nat) : (n.ordered mask dur now).mark = n.mark := by rfl
@[simp] theorem NodeSt.withOrders_mark (n : NodeSt) (kept : List Msg) : (n.withOrders kept).mark = n.mark := by rfl
@[simp] theorem NodeSt.dropTest_mark (n : NodeSt) (gone : Nat → Bool) : (n.dropTest gone).mark = n.mark := by
  have puts : ∀ (os : List OwTest) (n : NodeSt), (os.foldl (fun n o => n.putBreak { n.breakAt o.wire with tested := false }) n).mark = n.mark := by
    intro os
    induction os with
    | nil => exact fun _ => rfl
    | cons o os ih => exact fun n => ih _
  exact puts (n.owt.filter fun o => gone o.seq) n

/-! ### Events, frames and lines -/

@[simp] theorem State.raise_roll (s : State) (code : Nat) (patron stack : Option Nat) (a0 a1 a2 a3 : Nat) :
    (s.raise code patron stack a0 a1 a2 a3).roll = s.roll := by
  obtain ⟨o, p, raised⟩ := raise_shape s code patron stack a0 a1 a2 a3
  rw [raised]
  rfl
@[simp] theorem State.answer_roll (s : State) (u : Sess) (n : Nat) (ls : List HubLine) : (s.answer u n ls).roll = s.roll := by
  obtain ⟨o, p, l, q, answered⟩ := answer_shape s u n ls
  rw [answered]
  rfl
@[simp] theorem State.irqSet_roll (s : State) (bit : Nat) : (s.irqSet bit).roll = s.roll := by rfl
@[simp] theorem State.modRing_roll (s : State) (r : Nat) (f : Ring → Ring) : (s.modRing r f).roll = s.roll := by rfl
@[simp] theorem State.writeRing_roll (s : State) (a : Nat) (b : Bytes) : (s.writeRing a b).roll = s.roll := by rfl
@[simp] theorem State.announce_roll (s : State) (r : Nat) (f : HeldFrame) : (s.announce r f).roll = s.roll := by
  simp [State.announce]
@[simp] theorem discardEvents_roll (k : Nat) (s : State) : (discardEvents k s).roll = s.roll := by
  induction k generalizing s with
  | zero => rfl
  | succ k ih =>
    simp only [discardEvents]
    repeat' split
    · rfl
    · rw [ih]
      rfl
    · rfl
@[simp] theorem State.writeRun_roll (s : State) (evs : List Event) : (s.writeRun evs).roll = s.roll := by
  simp only [State.writeRun, ite_roll, State.irqSet_roll, State.announce_roll, ite_self]
  rfl
@[simp] theorem writeRuns_roll (waits : Bool) (rs : List (List Event)) (s : State) : (writeRuns waits rs s).roll = s.roll := by
  induction rs generalizing waits s with
  | nil => rfl
  | cons r rs ih => simp [writeRuns, ih]
@[simp] theorem State.writeEvents_roll (s : State) : s.writeEvents.roll = s.roll := by simp [State.writeEvents]
@[simp] theorem State.act_roll (s : State) (r : SealRec) (xs : Bits) : (s.act r xs).roll = s.roll := by
  unfold State.act
  dsimp only
  split <;> split <;> rfl

/-! ### Limits -/

@[simp] theorem State.holdProtect_roll (s : State) (code lim key value set : Nat) : (s.holdProtect code lim key value set).roll = s.roll := by rfl
@[simp] theorem State.raiseProtect_roll (s : State) (lim key value set : Nat) : (s.raiseProtect lim key value set).roll = s.roll := by
  simp [State.raiseProtect]
@[simp] theorem State.putLim_roll (s : State) (x : LimSt) : (s.putLim x).roll = s.roll := by rfl
@[simp] theorem State.clearLim_roll (s : State) (x : LimSt) (a1 : Nat) : (s.clearLim x a1).roll = s.roll := by simp [State.clearLim]
@[simp] theorem State.testLimit_roll (s : State) (l : Lim) (key a1 set : Nat) (value : Int) (trip clears : Bool) (debounce clearN : Nat) :
    (s.testLimit l key a1 set value trip clears debounce clearN).roll = s.roll := by
  simp [State.testLimit]
@[simp] theorem State.testSilent_roll (s : State) (n : NodeSt) : (s.testSilent n).roll = s.roll := by simp [State.testSilent]
@[simp] theorem State.queueMsg_roll (s : State) (m : Msg) : (s.queueMsg m).roll = s.roll :=
  State.modNode_roll { s with air := { s.air with subs := s.air.subs + 1 } } m.shelf fun x => x.marked_mark _ _
@[simp] theorem State.testVolts_roll (s : State) (n : NodeSt) (i : Nat) (twin : Option Nat) : (s.testVolts n i twin).roll = s.roll := by
  unfold State.testVolts
  dsimp only
  repeat' split
  all_goals simp
@[simp] theorem State.testTemps_roll (s : State) (n : NodeSt) (c : CellSt) : (s.testTemps n c).roll = s.roll := by
  unfold State.testTemps
  dsimp only
  repeat' split
  all_goals simp

/-! ### Broken wires -/

@[simp] theorem State.autoTest_roll (s : State) (shelf wire : Nat) : (s.autoTest shelf wire).roll = s.roll := by
  unfold State.autoTest
  split <;> simp [NodeSt.mark_inj, NodeSt.putBreak]
@[simp] theorem State.patternAt_roll (s : State) (shelf k : Nat) (holds : Bool) : (s.patternAt shelf k holds).roll = s.roll := by
  unfold State.patternAt
  split <;> simp [NodeSt.mark_inj, NodeSt.putBreak]
@[simp] theorem State.endDeviation_roll (s : State) (shelf wire : Nat) (holds : Bool) : (s.endDeviation shelf wire holds).roll = s.roll := by
  unfold State.endDeviation
  split <;> simp [NodeSt.mark_inj, NodeSt.putBreak]
@[simp] theorem State.patterns_roll (s : State) (n : NodeSt) (d : Nat → Option Int) : (s.patterns n d).roll = s.roll := by
  have wires : ∀ (f : Nat → Bool) (s : State), ((List.range 15).foldl (fun s i => s.patternAt n.shelf (i + 1) (f i)) s).roll = s.roll :=
    fun f => roll_foldl (fun s i => by simp) _
  unfold State.patterns
  simp [wires, NodeSt.mark_inj]
@[simp] theorem State.owResult_roll (s : State) (shelf wire : Nat) (dlo dhi dmod : Int) : (s.owResult shelf wire dlo dhi dmod).roll = s.roll := by
  unfold State.owResult
  repeat' split
  all_goals simp [NodeSt.mark_inj, NodeSt.putBreak]

/-! ### Messages of a node and to it -/

@[simp] theorem State.takeMessage_roll (s : State) (shelf : Nat) (m : Nat × Nat × Nat × Bytes) : (s.takeMessage shelf m).roll = s.roll := by
  simp [State.takeMessage, NodeSt.mark_inj]
@[simp] theorem State.reissue_roll (s : State) (n : NodeSt) : (s.reissue n).roll = s.roll := roll_foldl (fun s d => by simp) _ _
@[simp] theorem State.placeMsg_roll (s : State) (m : Msg) : (s.placeMsg m).1.roll = s.roll := by
  unfold State.placeMsg
  dsimp only
  repeat' split
  all_goals simp [NodeSt.mark_inj]
@[simp] theorem placeAll_roll (ms : List Msg) (s : State) : (placeAll ms s).1.roll = s.roll := by
  induction ms generalizing s with
  | nil => rfl
  | cons m ms ih => simp [placeAll, ih]
@[simp] theorem State.giveUp_roll (s : State) (n : NodeSt) : (s.giveUp n).roll = s.roll := by
  unfold State.giveUp
  dsimp only
  split
  · rfl
  · simp
@[simp] theorem State.giveUps_roll (s : State) (lch : Nat) : (s.giveUps lch).roll = s.roll := roll_foldl State.giveUp_roll _ _
@[simp] theorem State.countRetry_roll (s : State) (shelf : Nat) : (s.countRetry shelf).roll = s.roll := s.modNode_roll shelf fun _ => rfl

end Sys2Proof.Machine

namespace Sys2Proof.Machine

/-! ## A burst of the hub (10 R278, R279, R281) -/

/-- The header of a burst begins with its TYPE: the header check stands above the 40 bits of the header. -/
theorem bitsOf_withHcrc_type (type rest : Nat) (h : type < 16) : bitsOf (withHcrc (type + rest * 16)).toNat 3 0 = type := by
  have low : (withHcrc (type + rest * 16)).toNat % 2 ^ 4 = (type + rest * 16) % 2 ^ 40 % 2 ^ 4 := by
    simp only [withHcrc, BitVec.toNat_or, BitVec.toNat_ofNat, BitVec.toNat_shiftLeft, Nat.or_mod_two_pow]
    rw [show (BitVec.setWidth 48 (hcrc (BitVec.ofNat 48 ((type + rest * 16) % 2 ^ 40)))).toNat <<< 40 % 2 ^ 48 % 2 ^ 4 = 0 by
      rw [Nat.shiftLeft_eq]; omega, Nat.or_zero]
    omega
  unfold bitsOf
  omega

/-- A slot burst leaves on a channel that has a port which can transmit; besides, only that port's TXEN changes. -/
theorem State.sendSlotBurst_shape {s : State} {lch : Nat} (h : (s.txPort lch).isSome = true) (at0 : Tick) {type : Nat} (ht : type < 16) (ts : Nat)
    (payload : Bytes) (clear : Tick) : ∃ p hdr crc, s.sendSlotBurst lch at0 type ts payload clear =
      { s with air := { s.air with ports := p }, out := .burst lch at0 hdr payload crc (burstWords hdr payload) :: s.out }
      ∧ bitsOf hdr.toNat 3 0 = type := by
  obtain ⟨x, hx⟩ := Option.isSome_iff_exists.1 h
  unfold State.sendSlotBurst State.transmit
  dsimp only
  rw [hx]
  refine ⟨_, _, _, rfl, ?_⟩
  have low : ∀ mcs : Nat, type + mcs * 16 + s.spine.sideB.toNat * 128 + ts * 256 = type + (mcs + s.spine.sideB.toNat * 8 + ts * 16) * 16 := by
    intro mcs
    omega
  rw [low]
  exact bitsOf_withHcrc_type _ _ ht

/-! ## CALL_SEND and ORDER_SEND (10 R284, R291, R292) -/

/-- The same roll and settings give a channel the same ports. -/
theorem State.txPort_of_roll {s n : State} (hr : n.roll = s.roll) (hs : n.settings = s.settings) (lch : Nat) : n.txPort lch = s.txPort lch := by
  have air := State.air_of_roll hr
  have ports : n.air.ports = s.air.ports := by rw [air]
  have port : ∀ x, n.port? x = s.port? x := fun x => by rw [State.port?, State.port?, ports]
  have same : SamePorts s n := ⟨hs, by rw [air], by rw [air], by rw [air], fun x => by rw [port]⟩
  exact same.txPort (fun x => by rw [port]) lch

/-- The nodes of a channel whose report failed or diverged. -/
def State.failedOn (s : State) (lch : Nat) : List Nat :=
  (s.nodes.filter fun x => x.due && s.lchOf x.shelf == lch && (x.outcome == 4 || x.outcome == 1)).map (·.shelf)

theorem State.failedOn_of_roll {s n : State} (h : n.roll = s.roll) (lch : Nat) : n.failedOn lch = s.failedOn lch := by
  have told : ∀ z : State, z.failedOn lch = (z.roll.marks.filter fun m => m.due && (m.shelf - 1) % z.roll.air.nch == lch
      && (m.outcome == 4 || m.outcome == 1)).map (·.shelf) := fun z => by
    simp only [State.roll, List.filter_map, List.map_map]
    rfl
  rw [told, told, h]

theorem State.reports_of_roll {s n : State} (h : n.roll = s.roll) : n.nodes.map (·.report) = s.nodes.map (·.report) := by
  have told : ∀ z : State, z.nodes.map (·.report) = z.roll.marks.map (·.report) := fun z => by
    simp only [State.roll, List.map_map]
    rfl
  rw [told, told, h]

/-- The hub as a call names its nodes, and as a downlink slot is used. -/
def State.naming (s : State) (lch : Nat) (hs : List Nat) : State := { s with air := { s.air with named := setKey lch hs s.air.named } }
def State.ordering (s : State) (lch d : Nat) : State := { s with air := { s.air with ordered := (lch, d) :: s.air.ordered } }

/-- The hub as a call has given up, placed and counted what it is to, before its burst goes out; with the bytes of its messages. -/
def State.callPlaced (s : State) (lch : Nat) : State × Bytes :=
  let z := if s.steward.bDown.isSome then s else s.giveUps lch
  let p := placeAll (if z.steward.bDown.isSome then [] else z.messagesFor lch 109 z.now) z
  (((z.failedOn lch).take z.air.nrt).foldl State.countRetry p.1, p.2)

theorem State.callPlaced_roll (s : State) (lch : Nat) : (s.callPlaced lch).1.roll = s.roll := by
  refine (roll_foldl State.countRetry_roll _ _).trans ?_
  simp

theorem State.callPlaced_base (s : State) (lch : Nat) : (s.callPlaced lch).1.base = s.base := by
  refine (base_foldl State.countRetry_base _ _).trans ?_
  simp

theorem State.callPlaced_stackList (s : State) (lch : Nat) : (s.callPlaced lch).1.stackList = s.stackList := by
  refine (stackList_foldl State.countRetry_stackList _ _).trans ?_
  simp

/-- The call: what was placed, the nodes that it names, and its burst with the acknowledgements in front. -/
theorem State.sendCall_eq (s : State) (lch : Nat) : ∃ ts clear,
    s.sendCall lch = ((s.callPlaced lch).1.naming lch ((s.failedOn lch).take s.air.nrt)).sendSlotBurst lch
      (s.callAt + us 4) 3 ts (leBytes 8 (lookupD 0#64 lch s.air.acks).toNat ++ (s.callPlaced lch).2) clear := by
  have roll := s.callPlaced_roll lch
  have air := State.air_of_roll roll
  have acks : (s.callPlaced lch).1.air.acks = s.air.acks := by rw [air]
  have callAt : (s.callPlaced lch).1.callAt = s.callAt := by
    unfold State.callAt
    rw [show (s.callPlaced lch).1.stamp.t0 = s.stamp.t0 from congrArg Base.t0 (s.callPlaced_base lch),
      show (s.callPlaced lch).1.air.nu = s.air.nu from by rw [air]]
  have given : (if s.steward.bDown.isSome then s else s.giveUps lch).roll = s.roll := by simp
  have failed := State.failedOn_of_roll given lch
  have nrt : (if s.steward.bDown.isSome then s else s.giveUps lch).air.nrt = s.air.nrt := by rw [State.air_of_roll given]
  rw [← acks, ← callAt, ← failed, ← nrt]
  exact ⟨_, _, rfl⟩

/-- CALL_SEND, once per channel and stamp, the uplink bursts final (10 R284, log 47). -/
theorem exec_callSend {t : Tick} {s : State} {lch : Nat} (hs : s.sends = true) (ha : s.air.acc = false) (hl : lch < s.air.nch)
    (ht : s.callAt ≤ s.at t) (ht' : s.at t < s.callAt + 23 * usTicks) (hu : (s.advance t).uplinkFinal lch = true)
    (hn : ∀ p ∈ s.air.named, p.1 ≠ lch) :
    exec (.callSend t lch) s = .next ((s.advance t).settle ((s.advance t).sendCall lch)) := by
  have first : (s.air.named.any fun p => p.1 == lch) = false := by simpa using hn
  show execCallSend t lch s = _
  refine occurs_of ?_
  simp only [Bool.and_eq_true, Bool.not_eq_true', decide_eq_true_eq]
  exact ⟨⟨⟨⟨hs, ha⟩, hl, ht, ht'⟩, hu⟩, first⟩

/-- CALL_SEND: the nodes that the call names, its burst, and what it leaves alone. -/
theorem State.sendCall_forms {s : State} {lch : Nat} (htx : (s.txPort lch).isSome = true) :
    let n := s.sendCall lch
    lookupD [] lch n.air.named = (s.failedOn lch).take s.air.nrt
      ∧ (∃ hdr payload crc rest, n.out = .burst lch (s.callAt + us 4) hdr payload crc (burstWords hdr payload) :: rest
          ∧ bitsOf hdr.toNat 3 0 = 3 ∧ payload.take 8 = leBytes 8 (lookupD 0#64 lch s.air.acks).toNat)
      ∧ n.stackList = s.stackList ∧ n.cells = s.cells ∧ n.nodes.map (·.report) = s.nodes.map (·.report) := by
  obtain ⟨ts, clear, sent⟩ := s.sendCall_eq lch
  have roll := s.callPlaced_roll lch
  have tx : ((s.callPlaced lch).1.txPort lch).isSome = true := by
    rwa [State.txPort_of_roll roll (congrArg Base.settings (s.callPlaced_base lch))]
  have kept := s.callPlaced_stackList lch
  have reports := State.reports_of_roll roll
  have cells := congrArg Roll.cells roll
  rw [sent]
  generalize (s.callPlaced lch).1 = z at *
  obtain ⟨p, hdr, crc, burst, type⟩ := State.sendSlotBurst_shape
    (s := z.naming lch ((s.failedOn lch).take s.air.nrt)) tx (s.callAt + us 4) (type := 3) (by decide) ts
    (leBytes 8 (lookupD 0#64 lch s.air.acks).toNat ++ (s.callPlaced lch).2) clear
  rw [burst]
  refine ⟨lookupD_setKey _ _ _ _, ⟨hdr, _, crc, _, rfl, type, ?_⟩, kept, cells, reports⟩
  exact List.take_left' (leBytes_length 8 _)

/-- ORDER_SEND, while messages wait for the downlink slot (10 R291, R292). -/
theorem exec_orderSend {t : Tick} {s : State} {lch d : Nat} (hs : s.sends = true) (ha : s.air.acc = false) (hl : lch < s.air.nch)
    (hb : s.steward.bDown = none) (hd : d < s.air.nd) (ht : s.downAt d ≤ s.at t) (ht' : s.at t ≤ s.downAt d + 4 * usTicks)
    (ho : (lch, d) ∉ s.air.ordered) (hm : (s.advance t).ordersFor lch d ≠ []) :
    exec (.orderSend t lch d) s = .next ((s.advance t).settle ((s.advance t).sendOrder lch d)) := by
  have waits : ((s.advance t).ordersFor lch d).isEmpty = false := by simpa using hm
  have first : s.air.ordered.contains (lch, d) = false := by simpa using ho
  show execOrderSend t lch d s = _
  refine occurs_of ?_
  simp only [Bool.and_eq_true, Bool.not_eq_true', decide_eq_true_eq]
  exact ⟨⟨⟨⟨⟨hs, ha⟩, by simp [hb]⟩, hl, hd, ht, ht'⟩, first⟩, waits⟩

/-- The orders: what was placed, the slot used, and its burst. -/
theorem State.sendOrder_eq (s : State) (lch d : Nat) : ∃ clear,
    let p := placeAll (s.ordersFor lch d) s
    s.sendOrder lch d = (p.1.ordering lch d).sendSlotBurst lch (s.downAt d + us 4) 4 (d + lch * 2 ^ 3) p.2 clear := by
  have downAt : (placeAll (s.ordersFor lch d) s).1.downAt d = s.downAt d := by
    unfold State.downAt
    rw [State.air_of_roll (placeAll_roll (s.ordersFor lch d) s),
      show (placeAll (s.ordersFor lch d) s).1.stamp.t0 = s.stamp.t0 from congrArg Base.t0 (placeAll_base _ s)]
  rw [← downAt]
  exact ⟨_, rfl⟩

/-- ORDER_SEND: the slot is used, its burst, and what it leaves alone. -/
theorem State.sendOrder_forms {s : State} {lch d : Nat} (htx : (s.txPort lch).isSome = true) :
    let n := s.sendOrder lch d
    n.air.ordered = (lch, d) :: s.air.ordered
      ∧ (∃ hdr payload crc rest, n.out = .burst lch (s.downAt d + us 4) hdr payload crc (burstWords hdr payload) :: rest
          ∧ bitsOf hdr.toNat 3 0 = 4)
      ∧ n.stackList = s.stackList ∧ n.cells = s.cells ∧ n.nodes.map (·.report) = s.nodes.map (·.report) := by
  obtain ⟨clear, sent⟩ := s.sendOrder_eq lch d
  have roll := placeAll_roll (s.ordersFor lch d) s
  have tx : ((placeAll (s.ordersFor lch d) s).1.txPort lch).isSome = true := by
    rwa [State.txPort_of_roll roll (congrArg Base.settings (placeAll_base _ s))]
  have kept := placeAll_stackList (s.ordersFor lch d) s
  have ordered : (placeAll (s.ordersFor lch d) s).1.air.ordered = s.air.ordered := by rw [State.air_of_roll roll]
  have reports := State.reports_of_roll roll
  have cells := congrArg Roll.cells roll
  rw [sent]
  generalize placeAll (s.ordersFor lch d) s = z at *
  obtain ⟨p, hdr, crc, burst, type⟩ := State.sendSlotBurst_shape (s := z.1.ordering lch d) tx (s.downAt d + us 4) (type := 4) (by decide)
    (d + lch * 2 ^ 3) z.2 clear
  rw [burst]
  exact ⟨congrArg ((lch, d) :: ·) ordered, ⟨hdr, _, crc, _, rfl, type⟩, kept, cells, reports⟩

/-- Settles O26: the call, and the orders of a downlink slot. -/
theorem callForms : Obligations.CallForms := by
  intro t s lch hs ha hl htx
  refine ⟨fun ht ht' hu hn => ?_, fun d hb hd ht ht' ho hm => ?_⟩
  · have forms := State.sendCall_forms (s := s.advance t) htx
    refine ⟨_, exec_callSend hs ha hl ht ht' hu hn, ?_⟩
    generalize (s.advance t).sendCall lch = n at forms
    exact forms
  · have forms := State.sendOrder_forms (s := s.advance t) (d := d) htx
    refine ⟨_, exec_orderSend hs ha hl hb hd ht ht' ho hm, ?_⟩
    generalize (s.advance t).sendOrder lch d = n at forms
    exact forms

end Sys2Proof.Machine

namespace Sys2Proof.Machine

/-! ## An accepted report (10 R298, 11 R320 to R326) -/

/-- A node's mark once its report has been taken. -/
def NodeMark.heard (m : NodeMark) (r : Report) : NodeMark := { m with reported := true, lost := false, report := r }
/-- A node's mark with an outcome. -/
def NodeMark.decided (m : NodeMark) (code : Nat) : NodeMark := { m with outcome := code }

/-- The node of a shelfmark bears the mark that the roll gives it. -/
theorem State.node?_mark (s : State) (h : Nat) : (s.node? h).map NodeSt.mark = s.roll.marks.find? fun m => m.shelf == h := by
  simp only [State.roll, List.find?_map]
  rfl

/-- Where the marks of a shelfmark have changed, its node bears the changed one. -/
theorem State.node?_of_marks {s n : State} {h : Nat} {x : NodeSt} {g : NodeMark → NodeMark} (hg : ∀ m, (g m).shelf = m.shelf)
    (hm : n.roll.marks = s.roll.marks.map fun m => if m.shelf = h then g m else m) (hx : s.node? h = some x) :
    ∃ y, n.node? h = some y ∧ y.mark = g x.mark := by
  have keeps : ((fun m : NodeMark => m.shelf == h) ∘ fun m => if m.shelf = h then g m else m) = fun m => m.shelf == h := by
    funext m
    by_cases hm : m.shelf = h <;> simp [hm, hg]
  have marked := n.node?_mark h
  rw [hm, List.find?_map, keeps, ← s.node?_mark, hx, Option.map_some, Option.map_some,
    if_pos (show x.mark.shelf = h from State.node?_shelf hx)] at marked
  exact Option.map_eq_some_iff.1 marked

/-- The hub as a report has been noted with its node. -/
def State.noted (s : State) (shelf : Nat) (raw : Report) : State :=
  s.modNode shelf fun n => { n with
    report := (s.fixedReport shelf raw).1, corrected := (s.fixedReport shelf raw).2, reported := true, reportAt := s.now, lost := false, silent := 0 }

theorem State.noted_roll (s : State) (shelf : Nat) (raw : Report) : (s.noted shelf raw).roll =
    { s.roll with marks := s.roll.marks.map fun m => if m.shelf = shelf then m.heard (s.fixedReport shelf raw).1 else m } :=
  congrArg (fun ms => { s.roll with marks := ms }) (s.modNode_marks shelf fun _ => rfl)

/-- A sample notes the report with its node, and may change cells. -/
theorem State.takeSample_roll (s : State) (shelf : Nat) (raw : Report) :
    ∃ cs, (s.takeSample shelf raw).roll = { (s.noted shelf raw).roll with cells := cs } := by
  have tests : ∀ (n : NodeSt) (run : List (CellSt × Option Nat)) (z : State),
      (run.foldl (fun s p => (s.testVolts n p.1.cell p.2).testTemps n p.1) z).roll = z.roll := fun n => roll_foldl fun s p => by simp
  unfold State.takeSample State.noted
  dsimp only
  generalize s.modNode shelf _ = z
  split
  · exact ⟨z.cells, rfl⟩
  · next n _ =>
    rw [State.testSilent_roll, tests]
    generalize found : z.patterns n _ = y
    have kept : y.roll = z.roll := found ▸ z.patterns_roll n _
    rw [← kept]
    exact ⟨_, rfl⟩

/-- The hub as an accepted payload's acknowledgements have been taken and what it asks for again has been queued. -/
def State.acknowledge (s : State) (shelf : Nat) (r : Report) : State :=
  let s := s.modNode shelf fun n => { n with
    unacked := n.unacked.filter fun x => !acknowledged r.last x
    blast := r.blast }
  let missed := ((s.node? shelf).map (·.follows)).getD []
  let s := s.modNode shelf fun n => { n with follows := [] }
  let s := (missed.filter fun f => f.seq ≠ some r.blast).foldl (fun s f =>
    s.queueMsg { shelf := shelf, mtype := f.mtype, rest := f.rest, stop := f.stop }) s
  (s.node? shelf).elim s fun n => if r.status.getLsbD 4 then s.reissue n else s

theorem State.acknowledge_roll (s : State) (shelf : Nat) (r : Report) : (s.acknowledge shelf r).roll = s.roll := by
  have orders : ∀ (fs : List Msg) (z : State), (fs.foldl (fun s f =>
      s.queueMsg { shelf := shelf, mtype := f.mtype, rest := f.rest, stop := f.stop }) z).roll = z.roll := roll_foldl fun s f => by simp
  have asked : ∀ (o : Option NodeSt) (z : State), (o.elim z fun n => if r.status.getLsbD 4 then z.reissue n else z).roll = z.roll := fun o z => by
    cases o <;> simp
  refine (asked _ _).trans ((orders _ _).trans ?_)
  simp [NodeSt.mark_inj]

/-- An accepted payload: its acknowledgements, its sample, its other messages, and the tests that are over. -/
theorem State.takePayload_eq (s : State) {shelf : Nat} {b : Bytes} {m : Nat × Nat × Nat × Bytes} {ms : List (Nat × Nat × Nat × Bytes)}
    (hm : messagesOf 30 b = m :: ms) :
    let r := reportOf m.2.2.2
    s.takePayload shelf b = (ms.foldl (fun s m => s.takeMessage shelf m) ((s.acknowledge shelf r).takeSample shelf r)).modNode shelf fun n =>
      n.dropTest fun q => q != 256 && !r.status.getLsbD 3 && !n.unacked.any fun x => x.seq == some q := by
  unfold State.takePayload State.acknowledge
  rw [hm]
  dsimp only
  generalize List.foldl _ (State.modNode _ _ _) _ = z
  cases z.node? shelf <;> rfl

/-- A payload that begins with a report notes it with its node, and may change cells. -/
theorem State.takePayload_roll (s : State) {shelf : Nat} {b : Bytes} (hb : reportFirst shelf b = true) :
    ∃ r cs, (s.takePayload shelf b).roll =
      { s.roll with marks := s.roll.marks.map (fun m => if m.shelf = shelf then m.heard r else m), cells := cs } := by
  have messages : ∀ (ms : List (Nat × Nat × Nat × Bytes)) (z : State), (ms.foldl (fun s m => s.takeMessage shelf m) z).roll = z.roll :=
    roll_foldl fun s m => by simp
  unfold reportFirst at hb
  cases hm : messagesOf 30 b with
  | nil => simp [hm] at hb
  | cons m ms =>
    obtain ⟨cs, sampled⟩ := (s.acknowledge shelf (reportOf m.2.2.2)).takeSample_roll shelf (reportOf m.2.2.2)
    rw [s.takePayload_eq hm, State.modNode_roll _ _ fun n => n.dropTest_mark _, messages, sampled, State.noted_roll, s.acknowledge_roll]
    exact ⟨_, cs, rfl⟩

/-- The hub as a report in an uplink slot has been accepted, before its payload is taken: the node's outcome, and its slot acknowledged. -/
def State.acked (s : State) (shelf i outcome : Nat) : State :=
  let z := s.modNode shelf fun n => { n with
    outcome := outcome
    fromRetry := false
    link := { n.link with accepted := natSat (n.link.accepted + 1) 16 } }
  { z with air := { z.air with
    acks := setKey (s.lchOf shelf) (lookupD 0#64 (s.lchOf shelf) s.air.acks ||| BitVec.ofNat 64 (2 ^ i)) s.air.acks } }

theorem State.acceptReport_uplink (s : State) (shelf i outcome : Nat) (b : Bytes) : s.acceptReport shelf (.uplink i) outcome b =
    ((s.acked shelf i outcome).act (.report shelf i outcome b)).takePayload shelf b := rfl

theorem State.acked_marks (s : State) (shelf i outcome : Nat) :
    (s.acked shelf i outcome).roll.marks = s.roll.marks.map fun m => if m.shelf = shelf then m.decided outcome else m :=
  s.modNode_marks shelf fun _ => rfl

/-- The bit of an uplink slot that is acknowledged is set. -/
theorem acked_bit (v : BitVec 64) {i : Nat} (h : i < 64) : (v ||| BitVec.ofNat 64 (2 ^ i)).getLsbD i = true := by
  rw [BitVec.getLsbD_or, BitVec.getLsbD_ofNat, Nat.testBit_two_pow_self]
  simp [h]

/-- An accepted report in an uplink slot: its node has reported, with its outcome, and its slot is acknowledged. -/
theorem State.acceptReport_accepts (s : State) {shelf i : Nat} (outcome : Nat) {b : Bytes} {x : NodeSt} (hb : reportFirst shelf b = true)
    (hi : i < 64) (hx : s.node? shelf = some x) :
    let n := s.acceptReport shelf (.uplink i) outcome b
    (∃ y, n.node? shelf = some y ∧ y.reported = true ∧ y.lost = false ∧ y.outcome = outcome)
      ∧ (lookupD 0#64 (s.lchOf shelf) n.air.acks).getLsbD i = true := by
  obtain ⟨y, hy, decided⟩ := State.node?_of_marks (g := fun m => m.decided outcome) (fun _ => rfl) (s.acked_marks shelf i outcome) hx
  have sealed := (s.acked shelf i outcome).act_roll (.report shelf i outcome b)
  obtain ⟨r, cs, taken⟩ := ((s.acked shelf i outcome).act (.report shelf i outcome b)).takePayload_roll hb
  rw [sealed] at taken
  rw [s.acceptReport_uplink]
  generalize ((s.acked shelf i outcome).act (.report shelf i outcome b)).takePayload shelf b = n at taken
  obtain ⟨z, hz, heard⟩ := State.node?_of_marks (g := fun m => m.heard r) (fun _ => rfl) (congrArg Roll.marks taken) hy
  rw [decided] at heard
  refine ⟨⟨z, hz, congrArg NodeMark.reported heard, congrArg NodeMark.lost heard, congrArg NodeMark.outcome heard⟩, ?_⟩
  have acks : n.air.acks = (s.acked shelf i outcome).air.acks := congrArg (fun r => r.air.acks) taken
  rw [acks]
  unfold State.acked
  dsimp only
  rw [lookupD_setKey]
  exact acked_bit _ hi

/-! ## BURST_OUTCOME (10 R298 to R300, 11 R315) -/

/-- BURST_OUTCOME of a burst that has ended, up to 20 µs after its last sample (10 R295). -/
theorem exec_burstOutcome {t : Tick} {s : State} {lch : Nat} {slot : Slot} {b : BurstSt} (rl : Bool) (rt : List Int) (m : RxMeas)
    (hup : s.airUp = true) (hb : s.burst? lch slot = some b) (ht : b.at0 + 484 * symbolTicks ≤ s.at t)
    (ht' : s.at t ≤ b.at0 + 484 * symbolTicks + 20 * usTicks) :
    exec (.burstOutcome t lch slot rl rt m) s = .next ((s.advance t).settle ((s.advance t).burstOutcome lch slot b rl rt m)) := by
  have found : (s.advance t).burst? lch slot = some b := hb
  have ended : b.deciding (s.advance t).now = true := decide_eq_true ⟨ht, ht'⟩
  show execBurstOutcome t lch slot rl rt m s = _
  refine (occurs_of ?_).trans ?_
  · rw [found, Option.any_some, ended, Bool.and_true]
    exact hup
  · rw [found]

/-- What the receivers make of a report burst with the learned result in time: where neither payload begins with the node's REPORT it has
failed (10 Table 10.9, 11 R320). -/
def BurstSt.verdict (b : BurstSt) (h : Nat) (rt : List Int) : Nat × Option Bytes :=
  if (b.learned.toList ++ (b.twin rt).toList).any (reportFirst h) then outcomeOf false b.learned (b.twin rt) else (4, none)

theorem outcomeOf_both (p q : Bytes) : outcomeOf false (some p) (some q) = if p = q then (0, some p) else (1, none) := rfl

/-- Equal payloads with the node's REPORT first are accepted. -/
theorem BurstSt.verdict_equal {b : BurstSt} {h : Nat} {rt : List Int} {p : Bytes} (hl : b.learned = some p) (ht : b.twin rt = some p)
    (hp : reportFirst h p = true) : b.verdict h rt = (0, some p) := by
  simp [BurstSt.verdict, outcomeOf_both, hl, ht, hp]

/-- Different payloads, one with the node's REPORT first, are a divergence. -/
theorem BurstSt.verdict_differ {b : BurstSt} {h : Nat} {rt : List Int} {p q : Bytes} (hl : b.learned = some p) (ht : b.twin rt = some q)
    (hpq : p ≠ q) (hf : reportFirst h p = true ∨ reportFirst h q = true) : b.verdict h rt = (1, none) := by
  simp [BurstSt.verdict, outcomeOf_both, hl, ht, hpq, hf]

/-- With the node's REPORT first in no payload the burst has failed. -/
theorem BurstSt.verdict_fail {b : BurstSt} {h : Nat} {rt : List Int} (hl : ∀ p, b.learned = some p → reportFirst h p = false)
    (ht : ∀ p, b.twin rt = some p → reportFirst h p = false) : b.verdict h rt = (4, none) := by
  have none_first : (b.learned.toList ++ (b.twin rt).toList).any (reportFirst h) = false := by
    simp only [List.any_append, Bool.or_eq_false_iff, List.any_eq_false, Option.mem_toList, Bool.not_eq_true]
    exact ⟨hl, ht⟩
  simp [BurstSt.verdict, none_first]

/-- The hub as a burst's outcome has been told and counted, before it is accepted or kept. -/
def State.counted (s : State) (lch : Nat) (slot : Slot) (h code : Nat) (m : RxMeas) : State :=
  let z := s.modBurstAt lch slot fun x => { x with done := true }
  let z := if code = 1 then z.raise 0x40 none none h (Slot.pos s.air.nu slot) 0 0 else z
  z.countOutcome lch h code false m

/-- A report burst comes to its verdict: a standby keeps it, any other hub accepts the payload or marks the node (10 R298, R300). -/
theorem State.burstOutcome_report {s : State} {lch : Nat} {slot : Slot} {b : BurstSt} {rl : Bool} {rt : List Int} {m : RxMeas} {h : Nat}
    (hs : slot ≠ .accession) (hh : s.slotShelf lch slot = some h) (hf : s.headerFits h b.hdr = true) (hl : b.learnedLate rl = false) :
    let r := b.verdict h rt
    let z := s.counted lch slot h r.1 m
    s.burstOutcome lch slot b rl rt m =
      if !s.leads && s.roleSt.lostAt.isNone then z.modBurstAt lch slot fun x => { x with payload := r.2, outcome := r.1 }
      else r.2.elim (z.modNode h fun n => { n with outcome := r.1 }) fun p => z.acceptReport h slot r.1 p := by
  have role : ∀ code, (s.counted lch slot h code m).roleSt = s.roleSt := fun code => by
    show State.roleSt (if code = 1 then _ else _) = _
    split
    · exact State.raise_roleSt _ _ _ _ _ _ _ _
    · rfl
  have shelf : (s.modBurstAt lch slot fun x => { x with done := true }).slotShelf lch slot = some h := by
    rw [← hh]
    cases slot <;> rfl
  have fits : (s.modBurstAt lch slot fun x => { x with done := true }).headerFits h b.hdr = true := hf
  unfold State.burstOutcome
  dsimp only
  rw [if_neg hs, shelf]
  dsimp only
  rw [hl, fits]
  simp only [Bool.false_eq_true, if_false, Bool.true_and]
  rw [show (if (b.learned.toList ++ (b.twin rt).toList).any (reportFirst h) = true then outcomeOf false b.learned (b.twin rt) else (4, none))
    = b.verdict h rt from rfl]
  generalize b.verdict h rt = r
  rw [show s.leads = (s.counted lch slot h r.1 m).leads by rw [State.leads, State.leads, role], ← role r.1]
  obtain ⟨code, payload⟩ := r
  cases payload <;> rfl

/-- The counts of an outcome leave the marks of the nodes. -/
theorem State.countOutcome_marks (s : State) (lch h code : Nat) (late : Bool) (m : RxMeas) :
    (s.countOutcome lch h code late m).nodes.map NodeSt.mark = s.nodes.map NodeSt.mark := by
  simp only [State.countOutcome, State.modCtr, State.modPatron, State.modNode, List.map_map]
  refine List.map_congr_left fun x _ => ?_
  dsimp only [Function.comp]
  split <;> rfl

/-- What an outcome that has been told and counted leaves alone, and that only a divergence raises its event. -/
theorem State.counted_keeps (s : State) (lch : Nat) (slot : Slot) (h code : Nat) (m : RxMeas) :
    let n := s.counted lch slot h code m
    n.roll.marks = s.roll.marks ∧ n.cells = s.cells ∧ n.air.acks = s.air.acks ∧ n.air.nch = s.air.nch
      ∧ n.air.bursts = (s.modBurstAt lch slot fun x => { x with done := true }).air.bursts
      ∧ (code = 1 → Raised s n 0x40 none none h (Slot.pos s.air.nu slot) 0 0) ∧ (code ≠ 1 → n.events = s.events) := by
  obtain ⟨o, p, raised⟩ := raise_shape (s.modBurstAt lch slot fun x => { x with done := true }) 0x40 none none h (Slot.pos s.air.nu slot) 0 0
  unfold State.counted
  dsimp only
  rw [raised]
  split
  · next one => exact ⟨State.countOutcome_marks _ _ _ _ _ _, rfl, rfl, rfl, rfl, fun _ => ⟨rfl, rfl⟩, fun other => absurd one other⟩
  · next other => exact ⟨State.countOutcome_marks _ _ _ _ _ _, rfl, rfl, rfl, rfl, fun one => absurd one other, fun _ => rfl⟩

/-- A node that is marked with an outcome is the one that it was, but for it. -/
theorem State.node?_decided {s n : State} {h code : Nat} {x : NodeSt} (hm : n.roll.marks = s.roll.marks) (hx : s.node? h = some x) :
    ∃ y, (n.modNode h fun n => { n with outcome := code }).node? h = some y
      ∧ y.outcome = code ∧ y.reported = x.reported ∧ y.report = x.report := by
  have marks := n.modNode_marks h (f := fun n => { n with outcome := code }) (g := fun m => m.decided code) fun _ => rfl
  rw [hm] at marks
  obtain ⟨y, hy, decided⟩ := State.node?_of_marks (g := fun m => m.decided code) (fun _ => rfl) marks hx
  exact ⟨y, hy, congrArg NodeMark.outcome decided, congrArg NodeMark.reported decided, congrArg NodeMark.report decided⟩

/-- With the same marks the node of a shelfmark bears the same one. -/
theorem State.node?_of_same_marks {s n : State} {h : Nat} {x : NodeSt} (hm : n.roll.marks = s.roll.marks) (hx : s.node? h = some x) :
    ∃ y, n.node? h = some y ∧ y.mark = x.mark := by
  have marked := n.node?_mark h
  rw [hm, ← s.node?_mark, hx] at marked
  exact Option.map_eq_some_iff.1 marked

section
variable {s : State} {lch : Nat} {slot : Slot} {b : BurstSt} {rl : Bool} {rt : List Int} {m : RxMeas} {h : Nat} {x : NodeSt} {p q : Bytes}
variable (hs : slot ≠ .accession) (hh : s.slotShelf lch slot = some h) (hf : s.headerFits h b.hdr = true) (hl : b.learnedLate rl = false)
variable (hx : s.node? h = some x)
include hs hh hf hl hx

/-- Equal payloads with the node's REPORT first, in an uplink slot of a hub that leads. -/
theorem State.burstOutcome_equal {i : Nat} (leads : s.leads = true) (hp : b.learned = some p) (hq : b.twin rt = some p)
    (first : reportFirst h p = true) (up : slot = .uplink i) (hi : i < 64) :
    let n := s.burstOutcome lch slot b rl rt m
    (∃ y, n.node? h = some y ∧ y.reported = true ∧ y.lost = false ∧ y.outcome = 0)
      ∧ (lookupD 0#64 (s.lchOf h) n.air.acks).getLsbD i = true := by
  obtain ⟨marks, -, -, nch, -⟩ := s.counted_keeps lch slot h 0 m
  obtain ⟨y, hy, -⟩ := State.node?_of_same_marks marks hx
  have lchOf : (s.counted lch slot h 0 m).lchOf h = s.lchOf h := by rw [State.lchOf, State.lchOf, nch]
  rw [State.burstOutcome_report hs hh hf hl, BurstSt.verdict_equal hp hq first, if_neg (by simp [leads]), ← lchOf, up]
  rw [up] at hy
  exact State.acceptReport_accepts _ 0 first hi hy

/-- Different payloads, one with the node's REPORT first. -/
theorem State.burstOutcome_differ (leads : s.leads = true) (hp : b.learned = some p) (hq : b.twin rt = some q) (differ : p ≠ q)
    (first : reportFirst h p = true ∨ reportFirst h q = true) :
    let n := s.burstOutcome lch slot b rl rt m
    Raised s n 0x40 none none h (Slot.pos s.air.nu slot) 0 0
      ∧ (∃ y, n.node? h = some y ∧ y.outcome = 1 ∧ y.reported = x.reported ∧ y.report = x.report)
      ∧ n.air.acks = s.air.acks ∧ n.cells = s.cells := by
  obtain ⟨marks, cells, acks, -, -, raised, -⟩ := s.counted_keeps lch slot h 1 m
  rw [State.burstOutcome_report hs hh hf hl, BurstSt.verdict_differ hp hq differ first, if_neg (by simp [leads])]
  exact ⟨raised rfl, State.node?_decided marks hx, acks, cells⟩

/-- The node's REPORT first in no payload. -/
theorem State.burstOutcome_fail (leads : s.leads = true) (hp : ∀ p, b.learned = some p → reportFirst h p = false)
    (hq : ∀ p, b.twin rt = some p → reportFirst h p = false) :
    let n := s.burstOutcome lch slot b rl rt m
    n.events = s.events ∧ (∃ y, n.node? h = some y ∧ y.outcome = 4 ∧ y.reported = x.reported ∧ y.report = x.report)
      ∧ n.air.acks = s.air.acks ∧ n.cells = s.cells := by
  obtain ⟨marks, cells, acks, -, -, -, events⟩ := s.counted_keeps lch slot h 4 m
  rw [State.burstOutcome_report hs hh hf hl, BurstSt.verdict_fail hp hq, if_neg (by simp [leads])]
  exact ⟨events (by decide), State.node?_decided marks hx, acks, cells⟩

/-- A standby that has not lost its primary keeps what it decoded. -/
theorem State.burstOutcome_standby (leads : s.leads = false) (lost : s.roleSt.lostAt = none) (hp : b.learned = some p) (hq : b.twin rt = some p)
    (first : reportFirst h p = true) :
    let n := s.burstOutcome lch slot b rl rt m
    (∀ z ∈ n.air.bursts, z.lch = lch → z.slot = slot → z.done = true ∧ z.payload = some p ∧ z.outcome = 0)
      ∧ (∃ y, n.node? h = some y ∧ y.reported = x.reported ∧ y.report = x.report)
      ∧ n.air.acks = s.air.acks ∧ n.cells = s.cells ∧ n.events = s.events := by
  obtain ⟨marks, cells, acks, -, bursts, -, events⟩ := s.counted_keeps lch slot h 0 m
  obtain ⟨y, hy, same⟩ := State.node?_of_same_marks marks hx
  rw [State.burstOutcome_report hs hh hf hl, BurstSt.verdict_equal hp hq first, if_pos (by simp [leads, lost])]
  refine ⟨fun z hz onLch inSlot => ?_, ⟨y, hy, congrArg NodeMark.reported same, congrArg NodeMark.report same⟩, acks, cells,
    events (by decide)⟩
  simp only [State.modBurstAt, bursts, List.map_map, List.mem_map, Function.comp] at hz
  obtain ⟨w, -, rfl⟩ := hz
  by_cases own : w.lch = lch ∧ w.slot = slot
  · simp [own]
  · simp [own] at onLch inSlot
    exact absurd ⟨onLch, inSlot⟩ own
end

/-- The twin's codeword in an accession slot replies to the current offer (11 R315). -/
theorem State.burstOutcome_reply {s : State} {lch : Nat} {slot : Slot} {b : BurstSt} {rl : Bool} {rt : List Int} {m : RxMeas} {p : Bytes}
    (hs : slot = .accession) (ht : b.twin rt = some p) (ho : 0 < s.acc.offer) (hh : bitsOf b.hdr.toNat 16 8 = s.acc.offer)
    (ha : s.leads = true → bitsOf b.hdr.toNat 24 17 = s.acc.attempt) (hn : leNat (p.take 32) % 2 ^ 64 ≠ 0) (he : s.acc.endDue = false)
    (hc : s.acc.confirmed = []) :
    let n := s.burstOutcome lch slot b rl rt m
    n.acc.reply = some (BitVec.ofNat 256 (leNat (p.take 32))) ∧ n.acc.offer = s.acc.offer ∧ n.nodes = s.nodes ∧ n.events = s.events := by
  have nid : (BitVec.ofNat 256 (leNat (p.take 32))).setWidth 64 ≠ 0#64 := fun e => hn <| by
    have := congrArg BitVec.toNat e
    simpa [BitVec.toNat_setWidth, Nat.mod_mod_of_dvd] using this
  have replies : ∀ z : State, z.acc = s.acc → z.leads = s.leads →
      z.takeReply b.hdr p = { z with acc := { s.acc with reply := some (BitVec.ofNat 256 (leNat (p.take 32))) } } := fun z acc leads => by
    unfold State.takeReply
    dsimp only
    rw [acc, leads, if_neg, hc, if_neg (by simp)]
    simp only [hh, he, not_or, not_and, ne_eq, not_not, Bool.false_eq_true, not_false_eq_true, true_and, and_true]
    exact ⟨by omega, ha, nid⟩
  unfold State.burstOutcome
  dsimp only
  rw [if_pos hs, ht]
  dsimp only
  rw [replies (s.modBurstAt lch slot fun x => { x with done := true }) rfl rfl]
  exact ⟨rfl, rfl, rfl, rfl⟩

/-- Settles O24: a report burst as its verdict, and the reply of an accession. -/
theorem outcomeForms : Obligations.OutcomeForms := by
  intro t s lch slot b rl rt m hup hb ht ht'
  have run := exec_burstOutcome rl rt m hup hb ht ht'
  have shelf : (s.advance t).slotShelf lch slot = s.slotShelf lch slot := by cases slot <;> rfl
  refine ⟨fun h x hs hh hx hf hl => ?_, fun p hs hq ho hd ha hn he hc => ?_⟩
  · rw [← shelf] at hh
    refine ⟨fun leads p i hp hq first up hi => ?_, fun leads p q hp hq differ first => ?_, fun leads hp hq => ?_,
      fun leads lost p hp hq first => ?_⟩
    · have forms := State.burstOutcome_equal (m := m) hs hh hf hl hx leads hp hq first up hi
      exact ⟨_, run, forms⟩
    · have forms := State.burstOutcome_differ (m := m) hs hh hf hl hx leads hp hq differ first
      exact ⟨_, run, forms⟩
    · have forms := State.burstOutcome_fail (m := m) hs hh hf hl hx leads hp hq
      exact ⟨_, run, forms⟩
    · have forms := State.burstOutcome_standby (m := m) hs hh hf hl hx leads lost hp hq first
      exact ⟨_, run, forms⟩
  · have forms := State.burstOutcome_reply (s := s.advance t) (lch := lch) (rl := rl) (m := m) hs hq ho hd ha hn he hc
    exact ⟨_, run, forms⟩

end Sys2Proof.Machine

/-! # Accession (O28)

What an offer of the hub and the end of an accession leave alone, then the slots, the node that is confirmed, BTN_SENSE and the wake pulse. -/

namespace Sys2Proof.Machine

/-! ## An accession slot's burst (11 R312) -/

/-- Whether or not a port can transmit, a slot burst changes at most what has left the hub and a port's TXEN. -/
theorem State.sendSlotBurst_leaves (s : State) (lch : Nat) (at0 : Tick) (type ts : Nat) (payload : Bytes) (clear : Tick) :
    ∃ p o, s.sendSlotBurst lch at0 type ts payload clear = { s with air := { s.air with ports := p }, out := o } := by
  unfold State.sendSlotBurst State.transmit
  dsimp only
  split
  · exact ⟨s.air.ports, s.out, rfl⟩
  · exact ⟨_, _, rfl⟩

/-- An offer is the next slot begun, with a burst of TYPE 5 from 4 µs after the start of that slot. -/
theorem State.sendOffer_eq (s : State) : ∃ ts payload,
    s.sendOffer = s.offerNext.sendSlotBurst 0 (s.offerNext.accAt (s.offerNext.acc.slotJ - 1) + us 4) 5 ts payload 0 := ⟨_, _, rfl⟩

theorem State.sendOffer_leaves (s : State) :
    s.sendOffer.acc = s.offerNext.acc ∧ s.sendOffer.nodes = s.offerNext.nodes ∧ s.sendOffer.cells = s.offerNext.cells := by
  obtain ⟨ts, payload, offered⟩ := s.sendOffer_eq
  obtain ⟨p, o, sent⟩ := s.offerNext.sendSlotBurst_leaves 0 (s.offerNext.accAt (s.offerNext.acc.slotJ - 1) + us 4) 5 ts payload 0
  rw [offered, sent]
  exact ⟨rfl, rfl, rfl⟩

theorem State.sendOffer_out {s : State} (h : (s.offerNext.txPort 0).isSome = true) : ∃ hdr payload crc,
    s.sendOffer.out = .burst 0 (s.offerNext.accAt (s.offerNext.acc.slotJ - 1) + us 4) hdr payload crc (burstWords hdr payload) :: s.offerNext.out
      ∧ bitsOf hdr.toNat 3 0 = 5 := by
  obtain ⟨ts, payload, offered⟩ := s.sendOffer_eq
  obtain ⟨p, hdr, crc, sent, type⟩ := State.sendSlotBurst_shape h (s.offerNext.accAt (s.offerNext.acc.slotJ - 1) + us 4) (type := 5) (by decide)
    ts payload 0
  rw [offered, sent]
  exact ⟨hdr, payload, crc, rfl, type⟩

/-! ## The offer of a slot (11 R312, R315) -/

/-- The bursts of the slot before are gone. -/
def State.slotCleared (s : State) : State := { s with air := { s.air with bursts := s.air.bursts.filter fun b => b.slot != .accession } }

/-- One slot more has begun, which has no reply and confirms nothing yet. -/
def Acc.begun (a : Acc) : Acc :=
  { a with slotG := a.slotG + 1, slotJ := a.slotJ + 1, sampled := false, reply := none, confirm := 0, cid := 0 }

/-- The slot confirms a node, and offers the next shelfmark unless that node was the last. -/
def Acc.confirms (a : Acc) (v : BitVec 256) (last : Prop) [Decidable last] : Acc :=
  { a.begun with
    confirm := a.offer
    cid := v.setWidth 64
    confirmed := a.confirmed ++ [(a.offer, v)]
    offer := if last then 0 else a.offer + 1
    attempt := if last then 0 else 1 }

theorem State.offerNext_first {s : State} (h : s.acc.slotG = 0) :
    s.offerNext = { s.slotCleared with acc := { s.acc.begun with offer := 1, attempt := 1 } } := by
  unfold State.offerNext
  exact if_pos h

theorem State.offerNext_again {s : State} (h : s.acc.slotG ≠ 0) (hr : s.acc.reply = none) :
    s.offerNext = { s.slotCleared with acc := { s.acc.begun with attempt := natSat (s.acc.attempt + 1) 8 } } := by
  unfold State.offerNext
  dsimp only
  rw [if_neg h, hr]
  rfl

theorem State.offerNext_confirms {s : State} {v : BitVec 256} (h : s.acc.slotG ≠ 0) (hr : s.acc.reply = some v) :
    s.offerNext = { s.slotCleared.addNode s.acc.offer v with
      acc := s.acc.confirms v (s.acc.offer = 256 ∨ s.acc.confirmed.length + 1 = s.accLimit) } := by
  have limit : (s.slotCleared.addNode s.acc.offer v).accLimit = s.accLimit := rfl
  unfold State.offerNext
  dsimp only
  rw [if_neg h, hr, ← limit]
  rfl

/-! ## A node that is confirmed (11 R315) -/

/-- Of elements put into a keyed list in turn, one that shares its key with no other is found there. -/
theorem find?_putBys {α : Type} (key : α → Nat) {x : α} (ms : List α) (xs : List α) (alone : ∀ y ∈ ms, key y = key x → y = x)
    (h : x ∈ ms ∨ xs.find? (fun y => key y == key x) = some x) :
    (ms.foldl (fun xs y => putBy key y xs) xs).find? (fun y => key y == key x) = some x := by
  induction ms generalizing xs with
  | nil => simpa using h
  | cons m ms ih =>
    refine ih _ (fun y hy => alone y (List.mem_cons_of_mem m hy)) ?_
    by_cases hm : key m = key x
    · have same : m = x := alone m List.mem_cons_self hm
      rw [same]
      exact .inr (find?_putBy_same key x xs)
    · rw [find?_putBy_other key hm]
      refine h.imp_left fun hx => ?_
      rcases List.mem_cons.1 hx with rfl | later
      · exact absurd rfl hm
      · exact later

/-- The node enters with its identity and no orders. -/
theorem State.addNode_node (s : State) (shelf : Nat) (v : BitVec 256) :
    ∃ y ∈ (s.addNode shelf v).nodes, y.shelf = shelf ∧ y.nid = v.setWidth 64 ∧ y.unacked = [] ∧ y.queue = [] :=
  ⟨_, List.mem_of_find?_eq_some (find?_putBy_same NodeSt.shelf _ s.nodes), rfl, rfl, rfl, rfl⟩

/-- A node whose identity is new to the roster enters with its 16 cells. -/
theorem State.addNode_cells {s : State} {shelf : Nat} {v : BitVec 256} (new : (shelf, v.setWidth 64) ∉ s.archive.roster) {i : Nat} (h1 : 1 ≤ i)
    (h16 : i ≤ 16) : ∃ c ∈ (s.addNode shelf v).cells, c.shelf = shelf ∧ c.cell = i := by
  have unknown : ¬ (s.archive.roster.any fun r => r.1 == shelf && r.2 == v.setWidth 64) = true := by
    rw [List.any_eq_true]
    rintro ⟨⟨h, nid⟩, known, same⟩
    simp only [Bool.and_eq_true, beq_iff_eq] at same
    obtain ⟨rfl, rfl⟩ := same
    exact new known
  let mine : List CellSt := (List.range 16).map fun i => { shelf := shelf, cell := i + 1 }
  have cells : (s.addNode shelf v).cells = mine.foldl (fun cs c => putBy (fun c => 256 * c.shelf + c.cell) c cs) s.cells := by
    unfold State.addNode
    dsimp only
    rw [if_neg fun h => unknown h.1]
  have mem : ({ shelf := shelf, cell := i } : CellSt) ∈ mine :=
    List.mem_map.2 ⟨i - 1, List.mem_range.2 (by omega), by rw [Nat.sub_add_cancel h1]⟩
  have alone : ∀ c ∈ mine, 256 * c.shelf + c.cell = 256 * shelf + i → c = { shelf := shelf, cell := i } := by
    intro c hc key
    obtain ⟨j, -, rfl⟩ := List.mem_map.1 hc
    have : j + 1 = i := by simpa using key
    rw [this]
  rw [cells]
  exact ⟨_, List.mem_of_find?_eq_some (find?_putBys (fun c : CellSt => 256 * c.shelf + c.cell) mine s.cells alone (.inl mem)), rfl, rfl⟩

/-! ## ACCOFFER_SEND (11 R312, R315) -/

section
variable {t : Tick} {s : State}

/-- ACCOFFER_SEND, in a slot of the stamp that is still to begin, unless the chain is broken. -/
theorem exec_accofferSend (hs : s.sends = true) (ha : s.air.acc = true) (hp : s.acc.phase = .running) (he : s.acc.endDue = false)
    (hb : s.chainBroken = false) (hj : s.acc.slotJ < s.accSlots) (ht : s.accAt s.acc.slotJ ≤ s.at t) (ho : s.acc.slotG = 0 ∨ s.acc.offer ≠ 0) :
    exec (.accofferSend t) s = .next ((s.advance t).settle (s.advance t).sendOffer) := by
  have waits : s.offerWaits = true := by
    unfold State.offerWaits
    simp only [Bool.and_eq_true, Bool.or_eq_true, Bool.not_eq_true', beq_iff_eq, bne_iff_ne, decide_eq_true_eq]
    exact ⟨⟨⟨⟨⟨⟨hs, ha⟩, hp⟩, he⟩, hb⟩, ho⟩, hj⟩
  show execAccofferSend t s = _
  refine occurs_of ?_
  rw [Bool.and_eq_true, decide_eq_true_eq]
  exact ⟨waits, ht⟩

theorem State.sendOffer_first (h : s.acc.slotG = 0) :
    let n := s.sendOffer
    n.acc = { s.acc.begun with offer := 1, attempt := 1 } ∧ n.nodes = s.nodes
      ∧ ((s.txPort 0).isSome = true → ∃ hdr payload crc,
          n.out = .burst 0 (s.accAt s.acc.slotJ + us 4) hdr payload crc (burstWords hdr payload) :: s.out ∧ bitsOf hdr.toNat 3 0 = 5) := by
  obtain ⟨acc, nodes, -⟩ := s.sendOffer_leaves
  have out := State.sendOffer_out (s := s)
  rw [State.offerNext_first h] at acc nodes out
  exact ⟨acc, nodes, out⟩

theorem State.sendOffer_again (h : s.acc.slotG ≠ 0) (hr : s.acc.reply = none) :
    let n := s.sendOffer
    n.acc = { s.acc.begun with attempt := natSat (s.acc.attempt + 1) 8 } ∧ n.nodes = s.nodes := by
  obtain ⟨acc, nodes, -⟩ := s.sendOffer_leaves
  rw [State.offerNext_again h hr] at acc nodes
  exact ⟨acc, nodes⟩

theorem State.sendOffer_confirms {v : BitVec 256} (h : s.acc.slotG ≠ 0) (hr : s.acc.reply = some v) :
    let n := s.sendOffer
    n.acc = s.acc.confirms v (s.acc.offer = 256 ∨ s.acc.confirmed.length + 1 = s.accLimit)
      ∧ n.nodes = (s.slotCleared.addNode s.acc.offer v).nodes ∧ n.cells = (s.slotCleared.addNode s.acc.offer v).cells := by
  obtain ⟨acc, nodes, cells⟩ := s.sendOffer_leaves
  rw [State.offerNext_confirms h hr] at acc nodes cells
  exact ⟨acc, nodes, cells⟩
end

/-! ## The end of an accession (11 R317) -/

/-- The roster that an accession ends with: the accessioned nodes, or on a standby the roster of its primary (log 126). -/
def State.endRoster (s : State) : List (Nat × BitVec 64) :=
  let heard := s.nodes.map fun x => (x.shelf, x.nid)
  if s.isStandby then s.spine.roster.getD heard else heard

theorem queueMsgs_shape {α : Type} (m : α → Msg) (xs : List α) (s : State) :
    ∃ ns a, xs.foldl (fun s x => s.queueMsg (m x)) s = { s with nodes := ns, air := a } := by
  induction xs generalizing s with
  | nil => exact ⟨s.nodes, s.air, rfl⟩
  | cons x xs ih =>
    obtain ⟨ns, a, rest⟩ := ih (s.queueMsg (m x))
    exact ⟨ns, a, rest⟩

/-- The messages of settings to each node change the nodes and the air interface alone. -/
theorem State.syncConfigs_shape (s : State) : ∃ ns a, s.syncConfigs false = { s with nodes := ns, air := a } := by
  unfold State.syncConfigs
  simp only [Bool.false_and, Bool.false_eq_true, if_false]
  generalize s.nodes.filter (fun n => s.nodeConfig n.shelf != (n.wpre, n.wpost, n.tfit)) = off
  obtain ⟨ns, a, queued⟩ := queueMsgs_shape (fun n : NodeSt => configMsg n.shelf (s.nodeConfig n.shelf).1 (s.nodeConfig n.shelf).2.1
    (s.nodeConfig n.shelf).2.2) off s
  rw [queued]
  exact ⟨_, _, rfl⟩

/-- The end of an accession, before its event, with the roster and the cells that are left. -/
def State.rostered (s : State) : State :=
  { s with
    acc := { s.acc with endDue := true }
    archive := { s.archive with roster := s.endRoster }
    cells := s.cells.filter fun c => s.nodes.any fun n => n.shelf == c.shelf }

theorem State.endAccession_eq (s : State) :
    s.endAccession =
      let diff := rosterDiff s.archive.roster s.endRoster
      ((if diff.isEmpty then s.rostered else s.rostered.raise 0x54 none none diff.length (diff.headD 0) 0 0).remapCells).syncConfigs false := rfl

/-- Mapping the cells and telling the nodes their settings leave accession, archive and events alone. -/
theorem State.remapped_synced (s : State) :
    let n := s.remapCells.syncConfigs false
    n.acc = s.acc ∧ n.archive = s.archive ∧ n.events = s.events := by
  obtain ⟨ns, a, synced⟩ := s.remapCells.syncConfigs_shape
  rw [synced]
  exact ⟨rfl, rfl, rfl⟩

/-- Accession has ended with its roster, and its events follow those that were there. -/
theorem State.endAccession_ends (s : State) :
    s.endAccession.acc = { s.acc with endDue := true } ∧ s.endAccession.archive.roster = s.endRoster
      ∧ ∃ rest, s.endAccession.events.fresh = s.events.fresh ++ rest := by
  rw [s.endAccession_eq]
  dsimp only
  generalize rosterDiff s.archive.roster s.endRoster = diff
  split
  · obtain ⟨acc, archive, events⟩ := s.rostered.remapped_synced
    rw [acc, archive, events]
    exact ⟨rfl, rfl, [], (List.append_nil _).symm⟩
  · obtain ⟨acc, archive, events⟩ := (s.rostered.raise 0x54 none none diff.length (diff.headD 0) 0 0).remapped_synced
    obtain ⟨o, p, raised⟩ := raise_shape s.rostered 0x54 none none diff.length (diff.headD 0) 0 0
    rw [acc, archive, events, raised]
    exact ⟨rfl, rfl, _, rfl⟩

/-- An accession that ends with an event of its own: that event is raised first. -/
theorem State.endAccession_raised (s : State) (code a0 : Nat) :
    let n := (s.raise code none none a0 0 0 0).endAccession
    n.acc.endDue = true ∧ n.archive.roster = s.endRoster
      ∧ ∃ rest, n.events.fresh = s.events.fresh ++ s.newEvent code none none a0 0 0 0 :: rest := by
  obtain ⟨acc, roster, rest, fresh⟩ := (s.raise code none none a0 0 0 0).endAccession_ends
  obtain ⟨o, p, raised⟩ := raise_shape s code none none a0 0 0 0
  refine ⟨congrArg Acc.endDue acc, roster.trans ?_, rest, fresh.trans ?_⟩
  · rw [raised]
    rfl
  · rw [raised]
    exact List.append_assoc _ _ _

/-! ## BTN_SENSE_SAMPLE and CHAINBREAK (11 R316) -/

section
variable {t : Tick} {s : State}

/-- BTN_SENSE is taken once in a slot that has begun. -/
def State.btnSampled (s : State) : State := { s with acc := { s.acc with sampled := true } }

/-- BTN_SENSE_SAMPLE, once in a slot that confirmed a node, from 250 µs after its start. -/
theorem exec_btnSenseSample (high : Bool) (hup : s.airUp = true) (hp : s.acc.phase = .running) (he : s.acc.endDue = false)
    (hs : s.acc.sampled = false) (hj : 0 < s.acc.slotJ) (ht : s.accAt (s.acc.slotJ - 1) + us 250 ≤ s.at t) (hc : 0 < s.acc.confirm) :
    exec (.btnSenseSample t high) s = .next ((s.advance t).settle
      (if high then (s.advance t).btnSampled.endAccession
       else if s.acc.confirmed.length = s.accLimit then
         ((s.advance t).btnSampled.raise 0x53 none none s.acc.confirmed.length 0 0 0).endAccession
       else (s.advance t).btnSampled)) := by
  show execBtnSenseSample t high s = _
  refine occurs_is ?_ (congrArg (s.advance t).settle (if_neg (Nat.ne_of_gt hc)))
  simp only [Bool.and_eq_true, Bool.not_eq_true', beq_iff_eq, decide_eq_true_eq]
  exact ⟨⟨⟨⟨hup, hp⟩, he⟩, hs⟩, hj, ht⟩

/-- CHAINBREAK, from 500 µs and 4 symbols after the start of the last slot on. -/
theorem exec_chainbreak (hup : s.airUp = true) (hb : s.chainBroken = true)
    (ht : s.accAt (s.acc.slotJ - 1) + us 500 + 4 * symbolTicks ≤ s.at t) :
    exec (.chainbreak t) s = .next ((s.advance t).settle
      ((s.advance t).raise 0x52 none none s.acc.confirmed.length 0 0 0).endAccession) := by
  show execChainbreak t s = _
  refine occurs_of ?_
  simp only [Bool.and_eq_true, decide_eq_true_eq]
  exact ⟨⟨hup, hb⟩, ht⟩

/-! ## BATON_RETURN and BATONBREAK (11 R309) -/

/-- The hub waits no more for the pulse to come back. -/
def State.pulseDone (s : State) : State := { s with acc := { s.acc with pulse := none } }

theorem exec_batonReturn {p : Tick} (hup : s.airUp = true) (hp : s.acc.pulse = some p) (ht : s.at t ≤ p + 2 * msTicks) :
    exec (.batonReturn t) s = .next ((s.advance t).settle (s.advance t).pulseDone) := by
  have back : ((s.advance t).acc.pulse.any fun p => decide ((s.advance t).now ≤ p + 2 * msTicks)) = true := by
    rw [show (s.advance t).acc.pulse = some p from hp, Option.any_some, decide_eq_true_eq]
    exact ht
  show execBatonReturn t s = _
  refine occurs_of ?_
  rw [Bool.and_eq_true]
  exact ⟨hup, back⟩

theorem exec_batonbreak {p : Tick} (hup : s.airUp = true) (hp : s.acc.pulse = some p) (ht : p + 2 * msTicks ≤ s.at t) :
    exec (.batonbreak t) s = .next ((s.advance t).settle
      ((s.advance t).pulseDone.raise 0x50 none none 0 0 0 0)) := by
  have late : ((s.advance t).acc.pulse.any fun p => decide (p + 2 * msTicks ≤ (s.advance t).now)) = true := by
    rw [show (s.advance t).acc.pulse = some p from hp, Option.any_some, decide_eq_true_eq]
    exact ht
  show execBatonbreak t s = _
  refine occurs_of ?_
  rw [Bool.and_eq_true]
  exact ⟨hup, late⟩
end

/-! ## The forms of accession -/

section
variable {t : Tick} {s : State}

/-- What BTN_SENSE shows in a slot that confirmed a node: high ends accession; low goes on, unless that node was the last the hub can serve. -/
theorem btnSense_forms (hup : s.airUp = true) (hp : s.acc.phase = .running) (he : s.acc.endDue = false) (hs : s.acc.sampled = false)
    (hj : 0 < s.acc.slotJ) (ht : s.accAt (s.acc.slotJ - 1) + us 250 ≤ s.at t) (hc : 0 < s.acc.confirm) (high : Bool) :
    (high = true → Answers (.btnSenseSample t high) s fun n => n.acc.endDue = true ∧ n.acc.sampled = true ∧ n.archive.roster = s.endRoster)
      ∧ (high = false → s.acc.confirmed.length ≠ s.accLimit → Answers (.btnSenseSample t high) s fun n =>
          n.acc = { s.acc with sampled := true } ∧ n.archive = s.archive ∧ n.nodes = s.nodes ∧ n.events = s.events)
      ∧ (high = false → s.acc.confirmed.length = s.accLimit → Answers (.btnSenseSample t high) s fun n =>
          n.acc.endDue = true
            ∧ (∃ e rest, n.events.fresh = s.events.fresh ++ e :: rest ∧ e.code = 0x53 ∧ e.a0 = BitVec.ofNat 32 s.accLimit)
            ∧ n.archive.roster = s.endRoster) := by
  have run := exec_btnSenseSample high hup hp he hs hj ht hc
  refine ⟨fun h => ?_, fun h hl => ?_, fun h hl => ?_⟩
  · obtain ⟨acc, roster, -⟩ := (s.advance t).btnSampled.endAccession_ends
    rw [if_pos h] at run
    exact ⟨_, run, congrArg Acc.endDue acc, congrArg Acc.sampled acc, roster⟩
  · rw [if_neg (by simp [h]), if_neg hl] at run
    exact ⟨_, run, rfl, rfl, rfl, rfl⟩
  · obtain ⟨due, roster, rest, fresh⟩ := (s.advance t).btnSampled.endAccession_raised 0x53 s.acc.confirmed.length
    rw [if_neg (by simp [h]), if_pos hl] at run
    exact ⟨_, run, due, ⟨_, rest, fresh, rfl, congrArg (BitVec.ofNat 32) hl⟩, roster⟩

/-- A broken chain ends accession with its event. -/
theorem chainbreak_forms (hup : s.airUp = true) (hb : s.chainBroken = true)
    (ht : s.accAt (s.acc.slotJ - 1) + us 500 + 4 * symbolTicks ≤ s.at t) : Answers (.chainbreak t) s fun n =>
      n.acc.endDue = true
        ∧ (∃ e rest, n.events.fresh = s.events.fresh ++ e :: rest ∧ e.code = 0x52 ∧ e.a0 = BitVec.ofNat 32 s.acc.confirmed.length
            ∧ e.stamp = s.stamp.number ∧ e.seq = s.events.next)
        ∧ n.archive.roster = s.endRoster := by
  obtain ⟨due, roster, rest, fresh⟩ := (s.advance t).endAccession_raised 0x52 s.acc.confirmed.length
  exact ⟨_, exec_chainbreak hup hb ht, due, ⟨_, rest, fresh, rfl, rfl, rfl, rfl⟩, roster⟩
end

/-- Settles O28: the wake pulse, then the offers of the slots, then the ends of accession. -/
theorem accessionForms : Obligations.AccessionForms := by
  intro t s hup
  refine ⟨fun p hp => ⟨fun ht => ?_, fun ht => ?_⟩, fun hrun hdue => ⟨fun hs ha hb hj ht => ⟨fun hg => ?_, fun hg ho hr hlt => ?_,
    fun v hg ho hr => ?_⟩, fun hsam hj ht hc => btnSense_forms hup hrun hdue hsam hj ht hc, fun hb ht => chainbreak_forms hup hb ht⟩⟩
  · exact ⟨_, exec_batonReturn hup hp ht, rfl, rfl, rfl⟩
  · obtain ⟨o, p, raised⟩ := raise_shape (s.advance t).pulseDone 0x50 none none 0 0 0 0
    refine ⟨_, exec_batonbreak hup hp ht, ?_⟩
    rw [raised]
    exact ⟨rfl, ⟨rfl, rfl⟩, rfl⟩
  · have run := exec_accofferSend hs ha hrun hdue hb hj ht (.inl hg)
    obtain ⟨acc, nodes, out⟩ := State.sendOffer_first (s := s.advance t) hg
    refine ⟨_, run, ?_⟩
    generalize (s.advance t).sendOffer = n at acc nodes out
    dsimp only [State.settle]
    rw [acc]
    exact ⟨rfl, rfl, rfl, rfl, congrArg (· + 1) hg, rfl, rfl, nodes, out⟩
  · have run := exec_accofferSend hs ha hrun hdue hb hj ht (.inr ho)
    obtain ⟨acc, nodes⟩ := State.sendOffer_again (s := s.advance t) (Nat.ne_of_gt hg) hr
    have counts : natSat (s.acc.attempt + 1) 8 = s.acc.attempt + 1 := Nat.min_eq_left (by omega)
    refine ⟨_, run, ?_⟩
    generalize (s.advance t).sendOffer = n at acc nodes
    dsimp only [State.settle]
    rw [acc]
    exact ⟨rfl, counts, rfl, rfl, rfl, nodes⟩
  · have run := exec_accofferSend hs ha hrun hdue hb hj ht (.inr (Nat.ne_of_gt ho))
    obtain ⟨acc, nodes, cells⟩ := State.sendOffer_confirms (s := s.advance t) (Nat.ne_of_gt hg) hr
    have node := (s.advance t).slotCleared.addNode_node s.acc.offer v
    have added := State.addNode_cells (s := (s.advance t).slotCleared) (shelf := s.acc.offer) (v := v)
    refine ⟨_, run, ?_⟩
    generalize (s.advance t).sendOffer = n at acc nodes cells
    dsimp only [State.settle]
    rw [acc, nodes, cells]
    exact ⟨rfl, rfl, rfl, rfl, rfl, node, fun new i => added new⟩

end Sys2Proof.Machine

namespace Sys2Proof.Machine

/-! ## A frame reaches the hub (12 R344 to R347) -/

/-- What decides whether a frame passes does not depend on the time. -/
theorem State.Passes.advanced {s : State} {rx : SpineRx} {ftype : Nat} (h : s.Passes rx ftype) (t : Tick) : (s.advance t).Passes rx ftype :=
  ⟨h.crc, h.type, h.secured, h.ack⟩

theorem State.Next.advanced {s : State} {rx : SpineRx} {m : SpineMsg} (h : s.Next rx m) (t : Tick) : (s.advance t).Next rx m :=
  ⟨h.1.advanced t, h.2⟩

/-- The hub as a frame has failed its CRC or bears another TYPE. -/
def State.discards (s : State) : State :=
  { s with spine := { s.spine with detAt := some s.now, discarded := s.spine.discarded + 1 } }

/-- The hub as a frame has failed the checks of secured mode (R347). -/
def State.distrusts (s : State) : State :=
  { s with spine := { s.spine with
      detAt := some s.now
      discarded := s.spine.discarded + 1
      discards := (s.spine.discards.filter fun x => decide (s.now < x + 1000 * msTicks)) ++ [s.now] } }

/-- The hub as a frame of a TYPE has passed its checks and acknowledged nothing new. -/
def State.passed (s : State) (rx : SpineRx) (ftype : Nat) : State :=
  { s with spine := { s.spine with
      detAt := some s.now
      lastRx := s.now
      rxCount := if ftype = 1 ∨ !rxSec rx then s.spine.rxCount else some rx.count } }

/-- The hub as a sequenced message has come in its order. -/
def State.accepted (s : State) (rx : SpineRx) (m : SpineMsg) : State :=
  let z := s.passed rx m.ftype
  { z with spine := { z.spine with rxSeq := rxSeqOf rx } }

theorem State.takeFrame_broken {s : State} {rx : SpineRx} {ftype : Nat} (h : crcHolds rx = false ∨ rxType rx ≠ ftype) :
    s.takeFrame rx ftype = (s.discards, false) :=
  if_pos (h.imp_left fun e => by rw [e]; rfl)

theorem State.takeFrame_distrusted {s : State} {rx : SpineRx} {ftype : Nat} (hc : crcHolds rx = true) (ht : rxType rx = ftype)
    (hf : ftype ≠ 1) (hs : s.getN .spineSecure = 1)
    (h : rxSec rx = false ∨ s.tagFits rx = false ∨ ∃ k, s.spine.rxCount = some k ∧ rx.count ≤ k) :
    s.takeFrame rx ftype = (s.distrusts, false) := by
  have bad : !rxSec rx ∨ !s.tagFits rx ∨ s.spine.rxCount.any fun c => decide (rx.count ≤ c) := by
    simpa [Option.any_eq_true] using h
  unfold State.takeFrame
  rw [if_neg (by simp [hc, ht]), if_pos ⟨hs, hf, bad⟩]
  rfl

/-- An ACK that covers nothing kept changes nothing. -/
theorem State.takeAck_none {s : State} {ack : BitVec 16} (h : ∀ f ∈ s.spine.sent, covers ack f = false) : s.takeAck ack = s :=
  if_neg (by simpa using h)

theorem State.takeFrame_passes {s : State} {rx : SpineRx} {ftype : Nat} (h : s.Passes rx ftype) :
    s.takeFrame rx ftype = (s.passed rx ftype, true) := by
  have trusted : ¬ (s.getN .spineSecure = 1 ∧ ftype ≠ 1 ∧ (!rxSec rx ∨ !s.tagFits rx ∨ s.spine.rxCount.any fun c => decide (rx.count ≤ c))) := by
    rintro ⟨hs, hf, bad⟩
    obtain ⟨sec, tag, count⟩ := h.secured hs hf
    simp only [sec, tag, Bool.not_true, Bool.false_eq_true, false_or, Option.any_eq_true, decide_eq_true_eq] at bad
    obtain ⟨c, hc, hle⟩ := bad
    exact absurd (count c hc) (by omega)
  have acks : (s.passed rx ftype).takeAck (rxAck rx) = s.passed rx ftype := State.takeAck_none h.ack
  unfold State.takeFrame
  rw [if_neg (by simp [h.crc, h.type]), if_neg trusted]
  exact congrArg (·, true) ((congrArg (fun z => if ftype = 1 then s.passed rx ftype else z) acks).trans (ite_self _))

theorem State.onFrame_passes {s : State} {rx : SpineRx} {ftype : Nat} (h : s.Passes rx ftype) (f : State → State) :
    s.onFrame rx ftype f = f (s.passed rx ftype) := by
  simp only [State.onFrame, State.takeFrame_passes h, if_true]

theorem State.onSeq_next {s : State} {rx : SpineRx} {m : SpineMsg} (h : s.Next rx m) (f : State → State) :
    s.onSeq rx m f = f (s.accepted rx m) := by
  have order : rxSeqOf rx = (s.passed rx m.ftype).spine.rxSeq + BitVec.ofNat 16 m.frames := h.2
  simp only [State.onSeq, State.takeSeq, State.takeFrame_passes h.1, Bool.not_true, Bool.false_eq_true, if_false, if_pos order, if_true]
  rfl

/-- A frame that is not taken leaves the hub that discards it, whatever the message is to do. -/
theorem State.onFrame_not {s z : State} {rx : SpineRx} {ftype : Nat} (h : s.takeFrame rx ftype = (z, false)) (f : State → State) :
    s.onFrame rx ftype f = z := by
  simp [State.onFrame, h]

theorem State.onSeq_not {s z : State} {rx : SpineRx} {m : SpineMsg} (h : s.takeFrame rx m.ftype = (z, false)) (f : State → State) :
    s.onSeq rx m f = z := by
  simp [State.onSeq, State.takeSeq, h]

/-- A message out of order is discarded after its checks. -/
theorem State.onSeq_unordered {s : State} {rx : SpineRx} {m : SpineMsg} (h : s.Passes rx m.ftype)
    (hs : rxSeqOf rx ≠ s.spine.rxSeq + BitVec.ofNat 16 m.frames) (f : State → State) :
    s.onSeq rx m f = { s.passed rx m.ftype with
      spine := { (s.passed rx m.ftype).spine with discarded := s.spine.discarded + 1 } } := by
  have order : ¬ rxSeqOf rx = (s.passed rx m.ftype).spine.rxSeq + BitVec.ofNat 16 m.frames := hs
  simp only [State.onSeq, State.takeSeq, State.takeFrame_passes h, Bool.not_true, Bool.false_eq_true, if_false, if_neg order]
  rfl

/-! ### The commands that bring frames (12 Table 12.4), on a hub that hears them -/

section
variable {t : Tick} {s : State}

theorem State.hears_linked {ftype : Nat} (h : s.hears ftype) (hf : ftype ≠ 1) : ((s.advance t).linked && (s.advance t).stamp.started) = true := by
  obtain ⟨awake, hears⟩ := h
  rw [if_neg hf] at hears
  simp only [Bool.and_eq_true, State.linked, beq_iff_eq]
  exact ⟨⟨awake, hears.1⟩, hears.2⟩

theorem exec_train (rx : SpineRx) (i : TrainInfo) (h : s.hears 1) :
    exec (.train t rx i) s = .next ((s.advance t).settle ((s.advance t).onFrame rx 1 fun s => s.takeTrain i)) := by
  obtain ⟨awake, training, phase⟩ := h
  show execTrain t rx i s = _
  refine occurs_of ?_
  simp only [Bool.and_eq_true, beq_iff_eq, decide_eq_true_eq]
  exact ⟨⟨awake, training⟩, phase⟩

theorem exec_heartbeat (rx : SpineRx) (p : BitVec 128) (h : s.hears 2) :
    exec (.heartbeat t rx p) s = .next ((s.advance t).settle ((s.advance t).onFrame rx 2 fun s => s.takeBeat (rxStamp rx) p)) :=
  show execHeartbeat t rx p s = _ from occurs_of (State.hears_linked h (by decide))

/-- A role note: a claim meets a primary, a yield is a loss for a standby that follows. -/
def State.takeRole (s : State) : RoleNote → State
  | .yield =>
    let s : State := { s with spine := { s.spine with partnerRole := some .yielding } }
    if s.following then s.declareLost else s
  | _ => ({ s with spine := { s.spine with partnerRole := some .primary } } : State).meetPrimary

theorem exec_role (rx : SpineRx) (k : RoleNote) (h : s.hears 3) :
    exec (.role t rx k) s = .next ((s.advance t).settle ((s.advance t).onSeq rx (.role k) fun s => s.takeRole k)) := by
  show execRole t rx k s = _
  refine (occurs_of (State.hears_linked h (by decide))).trans ?_
  cases k <;> rfl

theorem exec_config (rx : SpineRx) (item : ConfigItem) (live : BitVec 48) (h : s.hears 4) :
    exec (.config t rx item live) s =
      .next ((s.advance t).settle ((s.advance t).onSeq rx (.config item live) fun s => s.takeConfig item live)) :=
  show execConfig t rx item live s = _ from occurs_of (State.hears_linked h (by decide))

theorem exec_sense (rx : SpineRx) (stamp : BitVec 48) (ms : Nat) (ca cb : List (BitVec 24)) (mains : List (List (BitVec 24))) (h : s.hears 5) :
    let a := ca.map frontCode
    let b := cb.map frontCode
    let m := mains.map fun r => r.map frontCode
    exec (.sense t rx stamp ms ca cb mains) s =
      .next ((s.advance t).settle ((s.advance t).onSeq rx (.sense stamp ms a b m) fun s => if s.isStandby then s.takeSense stamp ms a b m else s)) :=
  show execSense t rx stamp ms ca cb mains s = _ from occurs_of (State.hears_linked h (by decide))

theorem exec_seal (rx : SpineRx) (recs : List SealRec) (h : s.hears 6) :
    exec (.seal t rx recs) s =
      .next ((s.advance t).settle ((s.advance t).onSeq rx (.seal recs) fun s => if s.isStandby then s.takeSeal recs else s)) :=
  show execSeal t rx recs s = _ from occurs_of (State.hears_linked h (by decide))

theorem exec_card (rx : SpineRx) (head : BitVec 128) (body twin : Bytes) (h : s.hears 7) :
    exec (.card t rx head body twin) s =
      .next ((s.advance t).settle ((s.advance t).onSeq rx (.card head body twin) fun s => if s.isStandby then s.takeCard head body twin else s)) :=
  show execCard t rx head body twin s = _ from occurs_of (State.hears_linked h (by decide))
end

/-- What a hub that hears frames of a TYPE does with one: an unsequenced message, TRAIN or HEARTBEAT, by its checks, any other by its order too. -/
def State.frameTaken (s : State) (rx : SpineRx) (m : SpineMsg) (f : State → State) : State :=
  match m with
  | .train _ => s.onFrame rx 1 f
  | .heartbeat _ => s.onFrame rx 2 f
  | m => s.onSeq rx m f

theorem State.frameTaken_sequenced (s : State) (rx : SpineRx) {m : SpineMsg} (h : 3 ≤ m.ftype) (f : State → State) :
    s.frameTaken rx m f = s.onSeq rx m f := by
  cases m with
  | train => exact absurd h (show ¬ 3 ≤ 1 by decide)
  | heartbeat => exact absurd h (show ¬ 3 ≤ 2 by decide)
  | _ => rfl

/-- Every command that brings a frame takes it so. -/
theorem exec_frame {c : Instr} {rx : SpineRx} {m : SpineMsg} {s : State} (h : frameOf c = some (rx, m)) (hh : s.hears m.ftype) :
    ∃ t f, exec c s = .next ((s.advance t).settle ((s.advance t).frameTaken rx m f)) := by
  unfold frameOf at h
  split at h
  case h_8 => cases h
  all_goals cases h
  case h_1 => exact ⟨_, _, exec_train _ _ hh⟩
  case h_2 => exact ⟨_, _, exec_heartbeat _ _ hh⟩
  case h_3 => exact ⟨_, _, exec_role _ _ hh⟩
  case h_4 => exact ⟨_, _, exec_config _ _ _ hh⟩
  case h_5 => exact ⟨_, _, exec_sense _ _ _ _ _ _ hh⟩
  case h_6 => exact ⟨_, _, exec_seal _ _ hh⟩
  case h_7 => exact ⟨_, _, exec_card _ _ _ _ hh⟩

/-! ## Frames that are discarded -/

/-- A frame that fails a check is discarded by any of them. -/
theorem State.frameTaken_not {s z : State} {rx : SpineRx} {m : SpineMsg} (h : s.takeFrame rx m.ftype = (z, false)) (f : State → State) :
    s.frameTaken rx m f = z := by
  unfold State.frameTaken
  split
  · exact State.onFrame_not h f
  · exact State.onFrame_not h f
  · exact State.onSeq_not h f

/-- Settling a change of the spine alone, on a hub whose IRQEN[2] reads 1. -/
theorem settle_spine {s : State} (hs : s.sound = true) (t : Tick) (p : Spine) :
    (s.advance t).settle { s.advance t with spine := p } = { s with now := s.at t, spine := p } := by
  rw [settle_eq]
  · rfl
  · exact hs
  · rfl

/-- Settles O29: the checks in their order, each with the record that it leaves. -/
theorem discardForms : Obligations.DiscardForms := by
  intro c rx m s hs hf hh
  obtain ⟨t, f, run⟩ := exec_frame hf hh
  refine ⟨fun broken => ⟨_, run, ?_⟩, fun hc ht hm secure bad => ⟨_, run, ?_⟩, fun passes h3 order => ⟨_, run, ?_⟩⟩
  · rw [State.frameTaken_not (State.takeFrame_broken broken), State.discards, settle_spine hs]
    rfl
  · rw [State.frameTaken_not (State.takeFrame_distrusted (s := s.advance t) hc ht hm secure bad), State.distrusts, settle_spine hs]
    rfl
  · have sequenced : m.ftype ≠ 1 := by omega
    have counted : (if m.ftype = 1 ∨ !rxSec rx then s.spine.rxCount else some rx.count) = if rxSec rx then some rx.count else s.spine.rxCount := by
      cases rxSec rx <;> simp [sequenced]
    rw [State.frameTaken_sequenced _ _ h3, State.onSeq_unordered (passes.advanced t) order, State.passed]
    simp only [State.advance_spine, counted]
    rw [settle_spine hs]
    rfl

end Sys2Proof.Machine

namespace Sys2Proof.Machine

/-! ## What a hub sends while it trains (12 R343) -/

/-- A frame that leaves has the header of its message and place; only what left the hub, and what the next frame's coding needs, has changed. TRAIN
bears no tag. -/
theorem State.putSpine_shape (s : State) (seq : BitVec 16) (stamp : BitVec 48) (m : SpineMsg) (part : Nat) :
    ∃ sent tag crc c r l, s.putSpine seq stamp m part = { s with
        out := .spine m part (s.headerOf m part seq stamp) sent tag crc :: s.out
        spine := { s.spine with txCount := c, scram := r, lineFree := l } }
      ∧ (m.ftype = 1 → tag = []) :=
  ⟨_, _, _, _, _, _, rfl, fun h => by simp [h]⟩

/-- A TRAIN frame leaves, and counts as sent. -/
theorem State.sendTrain_shape (s : State) (a b : Nat) :
    ∃ i sent crc r l, s.sendTrain a b = { s with
        out := .spine (.train i) 0 (s.headerOf (.train i) 0 s.spine.txSeq s.stamp.number) sent [] crc :: s.out
        spine := { s.spine with txCount := 0, scram := r, lineFree := l, goodTx := s.spine.goodTx + 1 } } := by
  obtain ⟨sent, tag, crc, c, r, l, put, untagged⟩ := s.putSpine_shape s.spine.txSeq s.stamp.number (.train (s.trainInfo a b)) 0
  refine ⟨s.trainInfo a b, sent, crc, r, l, ?_⟩
  rw [State.sendTrain, State.sendFree, put, untagged rfl]

/-! ## Training begins (12 R343) -/

/-- IRQ[11] is set. -/
theorem irqSet_marks (s : State) : (s.irqSet 11).port.regs.irq.getLsbD 11 = true := by
  simp [State.irqSet]

/-- The link's record as training begins: the session's sequences and counts start again. -/
def Spine.retrained (q : Spine) (session : BitVec 32) (now : Tick) : Spine :=
  { q with
    session := session
    phase := 0, phaseAt := now, detects := 0, goodRx := 0, goodTx := 0, rounds := [], txSeq := 0, rxSeq := 0, ackIn := 0
    ackAt := now, sent := [], txCount := 0, rxCount := none, discards := [], partnerRole := none }

/-- A change of SPINE sets IRQ[11]. -/
theorem State.setSpine_changes {s : State} {x : SpineState} (h : s.spine.state ≠ x) :
    s.setSpine x = { s with spine := { s.spine with state := x }, port := (s.irqSet 11).port } := if_neg h

/-- Side A draws the session value; side B is told it. -/
theorem State.startTraining_shape (s : State) : ∃ v f, s.startTraining = { s.setSpine .training with
    spine := (s.setSpine .training).spine.retrained v (s.setSpine .training).now, free := f } := by
  unfold State.startTraining
  generalize s.setSpine .training = y
  dsimp only
  by_cases side : y.spine.sideB = true
  · rw [if_pos side]
    exact ⟨_, _, rfl⟩
  · rw [if_neg side]
    exact ⟨_, _, rfl⟩

/-- Training that begins again on a link that trains leaves the data port. -/
theorem State.startTraining_again {s : State} (h : s.spine.state = .training) :
    ∃ v f, s.startTraining = { s with spine := s.spine.retrained v s.now, free := f } := by
  have same : s.setSpine .training = s := if_pos h
  have began := s.startTraining_shape
  rwa [same] at began

/-- A link that has fallen trains, and IRQ[11] is set. -/
theorem State.startTraining_down {s : State} (h : s.spine.state = .up) :
    ∃ v f p, (s.setSpine .down).startTraining = { s with spine := { s.spine.retrained v s.now with state := .training }, free := f, port := p }
      ∧ p.regs.irq.getLsbD 11 = true := by
  have falls : s.setSpine .down = { s with spine := { s.spine with state := .down }, port := (s.irqSet 11).port } :=
    State.setSpine_changes (by rw [h]; exact SpineState.noConfusion)
  obtain ⟨v, f, began⟩ := (s.setSpine .down).startTraining_shape
  rw [falls, State.setSpine_changes SpineState.noConfusion] at began
  rw [falls, began]
  exact ⟨v, f, _, rfl, irqSet_marks _⟩

/-! ## What training changes -/

/-- Settling a change of the spine and of what has left the hub, where IRQEN[2] reads 1. -/
theorem settle_sent {s : State} (hs : s.sound = true) (t : Tick) (p : Spine) (o : List Out) :
    (s.advance t).settle { s.advance t with spine := p, out := o } = { s with now := s.at t, spine := p, out := o } := by
  rw [settle_eq]
  · rfl
  · exact hs
  · rfl

/-- The hub as a phase begins. -/
def State.phased (s : State) (p : Nat) : State := { s with spine := { s.spine with phase := p, goodTx := 0, goodRx := 0 } }

/-- Phases 2 to 6 begin at the instants of Table 12.2. -/
theorem phaseStart_getD {p : Nat} (h2 : 2 ≤ p) (h6 : p ≤ 6) : phaseStart p = [0, 0, 1, 2, 3, 5, 6].getD p 0 := by
  interval_cases p <;> rfl

/-- The hub as training begins again after 10 ms of silence, so many failures in a row counted. -/
def State.retried (s : State) (fails : Nat) : State :=
  { s.startTraining with
    spine := { s.startTraining.spine with phaseAt := s.now + 10 * msTicks, silentTo := s.now + 10 * msTicks, fails := fails } }

theorem State.retried_shape {s : State} (h : s.spine.state = .training) (fails : Nat) : ∃ v f, s.retried fails = { s with
    spine := { s.spine.retrained v s.now with phaseAt := s.now + 10 * msTicks, silentTo := s.now + 10 * msTicks, fails := fails }, free := f } := by
  obtain ⟨v, f, began⟩ := State.startTraining_again h
  unfold State.retried
  rw [began]
  exact ⟨v, f, rfl⟩

/-- A good frame of phase 5 adds a delay exchange; at most a TRAIN frame answers it. -/
theorem State.takeTrain_exchange {s : State} (i : TrainInfo) (h : s.spine.phase = 5) :
    let n := s.takeTrain i
    n.spine.rounds = (if i.roundTrip = 0 then s.spine.rounds else (s.spine.rounds ++ [i.roundTrip - i.turnaround]).take 16)
      ∧ n.spine.delay = n.spine.rounds.sum * crystalTicks / 32 ∧ n.spine.phase = 5 ∧ n.spine.state = s.spine.state := by
  unfold State.takeTrain
  dsimp only
  rw [if_pos h]
  split
  · exact ⟨rfl, rfl, h, rfl⟩
  · split
    · exact ⟨rfl, rfl, h, rfl⟩
    · exact ⟨rfl, rfl, h, rfl⟩

/-- A link that comes up sets IRQ[11]. -/
theorem State.linkUp_raises {s : State} (h : s.spine.state ≠ .up) :
    s.linkUp.spine.state = .up ∧ s.linkUp.port.regs.irq.getLsbD 11 = true ∧ s.linkUp.spine.fails = 0 ∧ s.linkUp.stamp = s.stamp := by
  unfold State.linkUp
  rw [State.setSpine_changes h]
  exact ⟨rfl, irqSet_marks _, rfl, rfl⟩

/-- The good frame of phase 6 that completes 16 each way brings the link up. -/
theorem State.takeTrain_completes {s : State} (i : TrainInfo) (ht : s.spine.state = .training) (h : s.spine.phase = 6) (hr : 15 ≤ s.spine.goodRx)
    (hs : 15 ≤ s.spine.goodTx) :
    let n := s.takeTrain i
    n.spine.state = .up ∧ n.port.regs.irq.getLsbD 11 = true ∧ n.spine.fails = 0 ∧ n.stamp = s.stamp := by
  unfold State.takeTrain
  dsimp only
  rw [if_neg (by rw [h]; decide), if_pos ⟨Nat.succ_le_succ hr, Nat.succ_le_succ hs⟩]
  exact State.linkUp_raises fun up => SpineState.noConfusion (ht.symm.trans up)

/-- Frames sent again leave in order, each under its own sequence and the stamp that runs; of the link's record only what the coding needs changes. -/
theorem resends_shape (fs : List SentFrame) (s : State) : ∃ gs c r l,
    fs.foldl (fun s f => s.putSpine f.seq s.stamp.number f.msg f.part) s =
        { s with out := gs ++ s.out, spine := { s.spine with txCount := c, scram := r, lineFree := l } }
      ∧ gs.map sentAs = (fs.map fun f => some (f.msg, f.part, s.headerOf f.msg f.part f.seq s.stamp.number)).reverse := by
  induction fs generalizing s with
  | nil => exact ⟨[], _, _, _, rfl, rfl⟩
  | cons f fs ih =>
    obtain ⟨sent, tag, crc, c, r, l, put, -⟩ := s.putSpine_shape f.seq s.stamp.number f.msg f.part
    obtain ⟨gs, c', r', l', rest, headers⟩ := ih (s.putSpine f.seq s.stamp.number f.msg f.part)
    rw [List.foldl_cons, rest]
    rw [put] at headers ⊢
    refine ⟨gs ++ [.spine f.msg f.part (s.headerOf f.msg f.part f.seq s.stamp.number) sent tag crc], c', r', l', ?_, ?_⟩
    · simp only [List.append_assoc, List.singleton_append]
    · rw [List.map_append, headers]
      exact List.reverse_cons.symm

/-! ## The forms of training -/

section
variable {t : Tick} {s : State} (awake : s.awake = true)
include awake

/-- SPINE_PREAMBLE: side B counts its first 63 detections; any other detection ends phase 0. -/
theorem exec_spinePreamble (hs : s.sound = true) (ht : s.spine.state = .training) (hp : s.spine.phase = 0) (hq : s.spine.silentTo ≤ s.at t) :
    exec (.spinePreamble t) s = .next (if s.spine.sideB ∧ s.spine.detects + 1 < 64 then
        { s with now := s.at t, spine := { s.spine with detAt := some (s.at t), detects := s.spine.detects + 1 } }
      else { s with
        now := s.at t
        out := if s.spine.sideB then .preambles (s.at t) (us 100) :: s.out else s.out
        spine := { s.spine with
          detAt := some (s.at t), detects := s.spine.detects + 1, phase := 1, phaseAt := s.at t, rounds := [], goodRx := 0, goodTx := 0 } }) := by
  show execSpinePreamble t s = _
  refine (occurs_of ?_).trans (congrArg _ ?_)
  · simp only [Bool.and_eq_true, beq_iff_eq, decide_eq_true_eq]
    exact ⟨⟨awake, ht⟩, hp, hq⟩
  · by_cases more : s.spine.sideB = true ∧ s.spine.detects + 1 < 64
    · rw [if_pos more]
      exact (congrArg _ (if_pos more)).trans (settle_spine hs t _)
    · rw [if_neg more]
      refine (congrArg _ (if_neg more)).trans ?_
      by_cases side : s.spine.sideB = true
      · exact (congrArg _ (if_pos side)).trans ((settle_sent hs t _ _).trans (by rw [if_pos side]; rfl))
      · exact (congrArg _ (if_neg side)).trans ((settle_spine hs t _).trans (by rw [if_neg side]; rfl))

theorem spinePreamble_forms (hs : s.sound = true) (ht : s.spine.state = .training) (hp : s.spine.phase = 0) (hq : s.spine.silentTo ≤ s.at t) :
    Answers (.spinePreamble t) s fun n =>
      n = { s with now := s.at t, spine := n.spine, out := n.out } ∧ n.spine.detects = s.spine.detects + 1
        ∧ n.out = (if s.spine.sideB = true ∧ 64 ≤ s.spine.detects + 1 then .preambles (s.at t) (100 * usTicks) :: s.out else s.out)
        ∧ (s.spine.sideB = true → s.spine.detects + 1 < 64 → n.spine.phase = 0)
        ∧ (s.spine.sideB = false ∨ 64 ≤ s.spine.detects + 1 → n.spine.phase = 1 ∧ n.spine.phaseAt = s.at t) := by
  refine ⟨_, exec_spinePreamble awake hs ht hp hq, ?_⟩
  by_cases more : s.spine.sideB = true ∧ s.spine.detects + 1 < 64
  · rw [if_pos more, if_neg (by omega)]
    refine ⟨rfl, rfl, rfl, fun _ _ => hp, fun last => ?_⟩
    rcases last with side | count
    · simp [side] at more
    · omega
  · rw [if_neg more]
    have answered : (s.spine.sideB = true ∧ 64 ≤ s.spine.detects + 1) ↔ s.spine.sideB = true :=
      ⟨And.left, fun side => ⟨side, Nat.le_of_not_lt fun count => more ⟨side, count⟩⟩⟩
    rw [if_congr answered rfl rfl]
    exact ⟨rfl, rfl, rfl, fun side count => absurd ⟨side, count⟩ more, fun _ => ⟨rfl, rfl⟩⟩

theorem exec_trainingPhase {p : Nat} (ht : s.spine.state = .training) (h2 : 2 ≤ p) (h6 : p ≤ 6) (hp : p = s.spine.phase + 1)
    (hq : s.spine.phaseAt + [0, 0, 1, 2, 3, 5, 6].getD p 0 * msTicks ≤ s.at t) (hr : p = 6 → 16 ≤ s.spine.rounds.length) :
    exec (.trainingPhase t p) s = .next ((s.advance t).settle (if p = 6 ∨ (p = 5 ∧ !s.spine.sideB) then ((s.advance t).phased p).sendTrain 0 0
      else (s.advance t).phased p)) := by
  show execTrainingPhase t p s = _
  refine occurs_of ?_
  simp only [Bool.and_eq_true, Bool.or_eq_true, beq_iff_eq, decide_eq_true_eq, phaseStart_getD h2 h6]
  exact ⟨⟨⟨⟨awake, ht⟩, h2, h6, hp⟩, hq⟩, (Nat.lt_or_eq_of_le h6).imp_right hr⟩

theorem trainingPhase_forms {p : Nat} (ht : s.spine.state = .training) (h2 : 2 ≤ p) (h6 : p ≤ 6) (hp : p = s.spine.phase + 1)
    (hq : s.spine.phaseAt + [0, 0, 1, 2, 3, 5, 6].getD p 0 * msTicks ≤ s.at t) (hr : p = 6 → 16 ≤ s.spine.rounds.length) :
    Answers (.trainingPhase t p) s fun n =>
      n.spine.phase = p ∧ n.spine.phaseAt = s.spine.phaseAt ∧ n.spine.rounds = s.spine.rounds ∧ n.spine.state = .training
        ∧ (p = 6 ∨ (p = 5 ∧ s.spine.sideB = false) → ∃ i payload crc,
            n.out = .spine (.train i) 0 (s.headerOf (.train i) 0 s.spine.txSeq s.stamp.number) payload [] crc :: s.out)
        ∧ (p < 5 ∨ (p = 5 ∧ s.spine.sideB = true) → n.out = s.out) := by
  refine ⟨_, exec_trainingPhase awake ht h2 h6 hp hq hr, ?_⟩
  by_cases sends : p = 6 ∨ (p = 5 ∧ !s.spine.sideB)
  · obtain ⟨i, sent, crc, r, l, trained⟩ := ((s.advance t).phased p).sendTrain_shape 0 0
    rw [if_pos sends, trained]
    refine ⟨rfl, rfl, rfl, ht, fun _ => ⟨i, sent, crc, rfl⟩, fun silent => ?_⟩
    rcases sends with rfl | ⟨rfl, side⟩
    · omega
    · simp at silent
      simp [silent] at side
  · rw [if_neg sends]
    refine ⟨rfl, rfl, rfl, ht, fun out => absurd ?_ sends, fun _ => rfl⟩
    simpa using out

theorem exec_trainingTimeout (ht : s.spine.state = .training) (hq : s.phaseBegan + 20 * msTicks ≤ s.at t) :
    exec (.trainingTimeout t) s = .next ((s.advance t).settle (if s.spine.fails = 2 then ((s.advance t).retried 0).raise 0x60 none none 3 0 0 0
      else (s.advance t).retried (s.spine.fails + 1))) := by
  obtain ⟨v, f, began⟩ := State.startTraining_again (s := s.advance t) ht
  show execTrainingTimeout t s = _
  refine (occurs_of ?_).trans (congrArg _ (congrArg _ ?_))
  · simp only [Bool.and_eq_true, beq_iff_eq, decide_eq_true_eq]
    exact ⟨⟨awake, ht⟩, hq⟩
  · by_cases third : s.spine.fails = 2
    · simp only [State.retried, began, State.advance_spine, third, if_true]
    · have more : ¬ s.spine.fails + 1 = 3 := by omega
      simp only [State.retried, began, State.advance_spine, third, more, if_false]

theorem trainingTimeout_forms (ht : s.spine.state = .training) (hq : s.phaseBegan + 20 * msTicks ≤ s.at t) :
    Answers (.trainingTimeout t) s fun n =>
      n.spine.state = .training ∧ n.spine.phase = 0 ∧ n.spine.silentTo = s.at t + 10 * msTicks ∧ n.spine.phaseAt = s.at t + 10 * msTicks
        ∧ (s.spine.fails ≠ 2 → n.spine.fails = s.spine.fails + 1 ∧ n.events = s.events)
        ∧ (s.spine.fails = 2 → n.spine.fails = 0 ∧ Raised s n 0x60 none none 3 0 0 0) := by
  refine ⟨_, exec_trainingTimeout awake ht hq, ?_⟩
  by_cases third : s.spine.fails = 2
  · obtain ⟨v, f, again⟩ := State.retried_shape (s := s.advance t) ht 0
    obtain ⟨o, p, raised⟩ := raise_shape ((s.advance t).retried 0) 0x60 none none 3 0 0 0
    rw [if_pos third, raised, again]
    exact ⟨ht, rfl, rfl, rfl, fun other => absurd third other, fun _ => ⟨rfl, rfl, rfl⟩⟩
  · obtain ⟨v, f, again⟩ := State.retried_shape (s := s.advance t) ht (s.spine.fails + 1)
    rw [if_neg third, again]
    exact ⟨ht, rfl, rfl, rfl, fun _ => ⟨rfl, rfl⟩, fun other => absurd other third⟩

/-! ### Frames of training, and the link -/

theorem train_forms {rx : SpineRx} (i : TrainInfo) (ht : s.spine.state = .training) (hp : s.Passes rx 1) :
    (s.spine.phase = 5 → Answers (.train t rx i) s fun n =>
        n.spine.rounds = (if i.roundTrip = 0 then s.spine.rounds else (s.spine.rounds ++ [i.roundTrip - i.turnaround]).take 16)
          ∧ n.spine.delay = n.spine.rounds.sum * crystalTicks / 32 ∧ n.spine.phase = 5 ∧ n.spine.state = .training)
      ∧ (s.spine.phase = 6 → 15 ≤ s.spine.goodRx → 15 ≤ s.spine.goodTx → Answers (.train t rx i) s fun n =>
        n.spine.state = .up ∧ n.port.regs.irq.getLsbD 11 = true ∧ n.spine.fails = 0 ∧ n.stamp = s.stamp ∧ n.stackList = s.stackList) := by
  have run := fun h5 : 5 ≤ s.spine.phase => exec_train (t := t) rx i ⟨awake, ht, h5⟩
  rw [State.onFrame_passes (hp.advanced t)] at run
  refine ⟨fun h5 => ⟨_, run (by omega), ?_⟩, fun h6 hr hs => ⟨_, run (by omega), ?_⟩⟩
  · obtain ⟨rounds, delay, phase, state⟩ := State.takeTrain_exchange (s := (s.advance t).passed rx 1) i h5
    exact ⟨rounds, delay, phase, state.trans ht⟩
  · obtain ⟨up, irq, fails, stamp⟩ := State.takeTrain_completes (s := (s.advance t).passed rx 1) i ht h6 hr hs
    exact ⟨up, irq, fails, stamp, State.takeTrain_stackList _ i⟩

theorem spineDown_forms (hu : s.spine.state = .up) :
    Answers (.spineDown t) s fun n =>
      n.spine.state = .training ∧ n.spine.phase = 0 ∧ n.spine.phaseAt = s.at t ∧ n.spine.sent = [] ∧ n.spine.txSeq = 0 ∧ n.spine.rxSeq = 0
        ∧ n.port.regs.irq.getLsbD 11 = true ∧ n.events = s.events ∧ n.streams = s.streams := by
  have run : exec (.spineDown t) s = _ := show execSpineDown t s = _ from occurs_of (by
    simp only [State.linked, Bool.and_eq_true, beq_iff_eq]
    exact ⟨awake, hu⟩)
  obtain ⟨v, f, p, began, irq⟩ := State.startTraining_down (s := s.advance t) hu
  refine ⟨_, run, ?_⟩
  rw [began]
  exact ⟨rfl, rfl, rfl, rfl, rfl, rfl, irq, rfl, rfl⟩

theorem spinesec_forms (hu : s.spine.state = .up) (hd : 16 ≤ (s.spine.discards.filter fun x => decide (s.at t < x + 1000 * msTicks)).length) :
    Answers (.spinesec t) s fun n =>
      n.spine.state = .training ∧ n.spine.phase = 0 ∧ n.spine.sent = [] ∧ n.spine.txSeq = 0 ∧ n.spine.rxSeq = 0 ∧ n.spine.discards = []
        ∧ Raised s n 0x61 none none s.spine.discards.length 0 0 0 := by
  have run : exec (.spinesec t) s = _ := show execSpinesec t s = _ from occurs_of (by
    simp only [State.linked, Bool.and_eq_true, beq_iff_eq, decide_eq_true_eq]
    exact ⟨⟨awake, hu⟩, hd⟩)
  obtain ⟨v, f, p, began, -⟩ := State.startTraining_down (s := s.advance t) hu
  obtain ⟨o, q, raised⟩ := raise_shape (((s.advance t).setSpine .down).startTraining) 0x61 none none s.spine.discards.length 0 0 0
  refine ⟨_, run, ?_⟩
  simp only [State.advance_spine]
  rw [raised, began]
  exact ⟨rfl, rfl, rfl, rfl, rfl, rfl, rfl, rfl⟩

theorem spineResend_forms (hu : s.spine.state = .up) (hf : s.spine.sent ≠ []) (ha : s.spine.ackAt + 50 * usTicks ≤ s.at t) :
    Answers (.spineResend t) s fun n =>
      (∃ fs, n.out = fs ++ s.out ∧ fs.map sentAs = (s.spine.sent.map fun f => some (f.msg, f.part, s.headerOf f.msg f.part f.seq s.stamp.number)).reverse)
        ∧ n.spine.ackAt = s.at t ∧ n.spine.sent = s.spine.sent ∧ n.spine.txSeq = s.spine.txSeq
        ∧ n.spine.resent = s.spine.resent + s.spine.sent.length := by
  have run : exec (.spineResend t) s = _ := show execSpineResend t s = _ from occurs_of (by
    simp only [State.linked, Bool.and_eq_true, beq_iff_eq, decide_eq_true_eq, Bool.not_eq_true', List.isEmpty_eq_false_iff]
    exact ⟨⟨⟨awake, hu⟩, hf⟩, ha⟩)
  obtain ⟨gs, c, r, l, sent, headers⟩ := resends_shape s.spine.sent (s.advance t)
  refine ⟨_, run, ?_⟩
  simp only [State.advance_spine]
  rw [sent]
  exact ⟨⟨gs, rfl, headers⟩, rfl, rfl, rfl, rfl⟩
end

/-- Settles O30: each command of training by its own forms. -/
theorem trainingForms : Obligations.TrainingForms := by
  intro t s hs awake
  refine ⟨fun ht hp hq => spinePreamble_forms awake hs ht hp hq, fun p ht h2 h6 hp hq hr => trainingPhase_forms awake ht h2 h6 hp hq hr,
    fun ht hq => trainingTimeout_forms awake ht hq, fun rx i ht hp => train_forms awake i ht hp, fun hu => ⟨spineDown_forms awake hu,
    fun hd => spinesec_forms awake hu hd, fun hf ha => spineResend_forms awake hu hf ha⟩⟩

end Sys2Proof.Machine

namespace Sys2Proof.Machine

/-! ## The station of a hub in its pair

What reports, orders and the acts of a seal leave of a hub's place in its pair. One lemma for each operation, in the model's order, as `_base`
lemmas for `Base`. -/

/-- Its role and its stamp, its partner's role, and which of its primary's seals have come. -/
structure Station where
  roleSt : RoleSt
  stamp : StampSt
  partnerRole : Option Role
  partSeal : List SealRec
  sealIn : Option (BitVec 48)

def State.station (s : State) : Station :=
  { roleSt := s.roleSt, stamp := s.stamp, partnerRole := s.spine.partnerRole, partSeal := s.spine.partSeal, sealIn := s.spine.sealIn }

theorem toStation (s : State) : s.roleSt = s.station.roleSt ∧ s.stamp = s.station.stamp ∧ s.spine.partnerRole = s.station.partnerRole
    ∧ s.spine.partSeal = s.station.partSeal ∧ s.spine.sealIn = s.station.sealIn :=
  ⟨rfl, rfl, rfl, rfl, rfl⟩

theorem Station.eta (x : Station) : Station.mk x.roleSt x.stamp x.partnerRole x.partSeal x.sealIn = x := rfl

@[simp] theorem station_mk (x0 x1 x2 x3 x4 x5 x6 x7 x8 x9 x10 x11 x12 x13 x14 x15 x16 x17 x18 x19 x20 x21 x22 x23 x24 x25 x26 x27 x28 x29 x30 x31 x32 x33 x34 x35 x36 x37 x38 x39 x40 x41 x42 x43 x44 x45 x46) : (State.mk x0 x1 x2 x3 x4 x5 x6 x7 x8 x9 x10 x11 x12 x13 x14 x15 x16 x17 x18 x19 x20 x21 x22 x23 x24 x25 x26 x27 x28 x29 x30 x31 x32 x33 x34 x35 x36 x37 x38 x39 x40 x41 x42 x43 x44 x45 x46).station =
    { roleSt := x3, stamp := x2, partnerRole := x31.partnerRole, partSeal := x31.partSeal, sealIn := x31.sealIn } := rfl

theorem station_foldl {α : Type} {f : State → α → State} (h : ∀ s x, (f s x).station = s.station) (xs : List α) (s : State) :
    (xs.foldl f s).station = s.station := by
  induction xs generalizing s with
  | nil => rfl
  | cons x xs ih => rw [List.foldl_cons, ih, h]
@[simp] theorem ite_station (c : Prop) [Decidable c] (a b : State) : (if c then a else b).station = if c then a.station else b.station :=
  apply_ite _ _ _ _

/-! ### Events, frames and lines -/

@[simp] theorem State.raise_station (s : State) (code : Nat) (patron stack : Option Nat) (a0 a1 a2 a3 : Nat) :
    (s.raise code patron stack a0 a1 a2 a3).station = s.station := by
  obtain ⟨o, p, raised⟩ := raise_shape s code patron stack a0 a1 a2 a3
  rw [raised]
  rfl
@[simp] theorem State.irqSet_station (s : State) (bit : Nat) : (s.irqSet bit).station = s.station := by rfl
@[simp] theorem State.modRing_station (s : State) (r : Nat) (f : Ring → Ring) : (s.modRing r f).station = s.station := by rfl
@[simp] theorem State.writeRing_station (s : State) (a : Nat) (b : Bytes) : (s.writeRing a b).station = s.station := by rfl
@[simp] theorem State.announce_station (s : State) (r : Nat) (f : HeldFrame) : (s.announce r f).station = s.station := by
  simp [State.announce]
@[simp] theorem State.dropFrame_station (s : State) (r : Nat) : (s.dropFrame r).station = s.station := by rfl
@[simp] theorem discardEvents_station (k : Nat) (s : State) : (discardEvents k s).station = s.station := by
  induction k generalizing s with
  | zero => rfl
  | succ k ih => simp [discardEvents, ih, toStation, Station.eta]
@[simp] theorem State.writeRun_station (s : State) (evs : List Event) : (s.writeRun evs).station = s.station := by
  simp [State.writeRun, toStation, Station.eta]
@[simp] theorem writeRuns_station (waits : Bool) (rs : List (List Event)) (s : State) : (writeRuns waits rs s).station = s.station := by
  induction rs generalizing waits s with
  | nil => rfl
  | cons r rs ih => simp [writeRuns, ih]
@[simp] theorem State.writeEvents_station (s : State) : s.writeEvents.station = s.station := by simp [State.writeEvents]

/-! ### Limits -/

@[simp] theorem State.holdProtect_station (s : State) (code lim key value set : Nat) : (s.holdProtect code lim key value set).station = s.station := by
  rfl
@[simp] theorem State.raiseProtect_station (s : State) (lim key value set : Nat) : (s.raiseProtect lim key value set).station = s.station := by
  simp [State.raiseProtect]
@[simp] theorem State.putLim_station (s : State) (x : LimSt) : (s.putLim x).station = s.station := by rfl
@[simp] theorem State.clearLim_station (s : State) (x : LimSt) (a1 : Nat) : (s.clearLim x a1).station = s.station := by simp [State.clearLim]
@[simp] theorem State.testLimit_station (s : State) (l : Lim) (key a1 set : Nat) (value : Int) (trip clears : Bool) (debounce clearN : Nat) :
    (s.testLimit l key a1 set value trip clears debounce clearN).station = s.station := by
  simp [State.testLimit]
@[simp] theorem State.testSilent_station (s : State) (n : NodeSt) : (s.testSilent n).station = s.station := by simp [State.testSilent]
@[simp] theorem State.modNode_station (s : State) (shelf : Nat) (f : NodeSt → NodeSt) : (s.modNode shelf f).station = s.station := by rfl
@[simp] theorem State.queueMsg_station (s : State) (m : Msg) : (s.queueMsg m).station = s.station := by rfl
@[simp] theorem State.testVolts_station (s : State) (n : NodeSt) (i : Nat) (twin : Option Nat) : (s.testVolts n i twin).station = s.station := by
  unfold State.testVolts
  dsimp only
  repeat' split
  all_goals simp
@[simp] theorem State.testTemps_station (s : State) (n : NodeSt) (c : CellSt) : (s.testTemps n c).station = s.station := by
  unfold State.testTemps
  dsimp only
  repeat' split
  all_goals simp

/-! ### Broken wires -/

@[simp] theorem State.autoTest_station (s : State) (shelf wire : Nat) : (s.autoTest shelf wire).station = s.station := by
  unfold State.autoTest
  split <;> simp
@[simp] theorem State.patternAt_station (s : State) (shelf k : Nat) (holds : Bool) : (s.patternAt shelf k holds).station = s.station := by
  unfold State.patternAt
  split <;> simp
@[simp] theorem State.endDeviation_station (s : State) (shelf wire : Nat) (holds : Bool) : (s.endDeviation shelf wire holds).station = s.station := by
  unfold State.endDeviation
  split <;> simp
@[simp] theorem State.patterns_station (s : State) (n : NodeSt) (d : Nat → Option Int) : (s.patterns n d).station = s.station := by
  simp [State.patterns, station_foldl]
@[simp] theorem State.owResult_station (s : State) (shelf wire : Nat) (dlo dhi dmod : Int) : (s.owResult shelf wire dlo dhi dmod).station = s.station := by
  unfold State.owResult
  repeat' split
  all_goals simp

/-! ### Reports -/

@[simp] theorem State.takeSample_station (s : State) (shelf : Nat) (raw : Report) : (s.takeSample shelf raw).station = s.station := by
  unfold State.takeSample
  dsimp only
  split
  · rfl
  · simp [station_foldl, toStation, Station.eta]
@[simp] theorem State.takeMessage_station (s : State) (shelf : Nat) (m : Nat × Nat × Nat × Bytes) : (s.takeMessage shelf m).station = s.station := by
  simp [State.takeMessage]
@[simp] theorem State.reissue_station (s : State) (n : NodeSt) : (s.reissue n).station = s.station := station_foldl (fun s d => by simp) _ _
@[simp] theorem State.takePayload_station (s : State) (shelf : Nat) (b : Bytes) : (s.takePayload shelf b).station = s.station := by
  unfold State.takePayload
  dsimp only
  repeat' split
  all_goals simp [station_foldl]
@[simp] theorem State.logAct_station (s : State) (e : LogEntry) : (s.logAct e).station = s.station := by rfl
@[simp] theorem State.act_station (s : State) (r : SealRec) (xs : Bits) : (s.act r xs).station = s.station := by
  simp [State.act, toStation, Station.eta]
@[simp] theorem State.actOn_station (s : State) (live : Bool) (r : SealRec) (xs : Bits) : (s.actOn live r xs).station = s.station := by
  simp [State.actOn]
@[simp] theorem State.acceptReport_station (s : State) (shelf : Nat) (slot : Slot) (outcome : Nat) (b : Bytes) :
    (s.acceptReport shelf slot outcome b).station = s.station := by
  unfold State.acceptReport
  dsimp only
  split <;> simp [toStation, Station.eta]

/-! ### Streams and their steps -/

@[simp] theorem State.modStream_station (s : State) (sid : Nat) (f : StreamSt → StreamSt) : (s.modStream sid f).station = s.station := by rfl
@[simp] theorem State.putStream_station (s : State) (x : StreamSt) : (s.putStream x).station = s.station := by rfl
@[simp] theorem State.modCell_station (s : State) (sid : Nat) (f : CellSt → CellSt) : (s.modCell sid f).station = s.station := by rfl
@[simp] theorem State.modPatron_station (s : State) (p : Nat) (f : Patron → Patron) : (s.modPatron p f).station = s.station := by rfl
@[simp] theorem State.remapCells_station (s : State) : s.remapCells.station = s.station := by rfl
@[simp] theorem State.compareQuant_station (s : State) (sid q learned twin : Nat) : (s.compareQuant sid q learned twin).station = s.station := by
  unfold State.compareQuant
  split
  · rfl
  · simp [toStation, Station.eta]
@[simp] theorem State.compareCell_station (s : State) (sid : Nat) (l : Learned) : (s.compareCell sid l).station = s.station := by
  unfold State.compareCell
  split <;> simp
@[simp] theorem State.advise_station (s : State) (sid : Nat) (l : Learned) : (s.advise sid l).station = s.station := by
  simp [State.advise, station_foldl]
@[simp] theorem State.remember_station (s : State) (sid : Nat) (row : List Int) (forecast : Int) : (s.remember sid row forecast).station = s.station := by
  rfl
@[simp] theorem State.shiftActs_station (s : State) (live : Bool) (sid : Nat) (old new : List Nat) :
    (s.shiftActs live sid old new).station = s.station := by
  simp [State.shiftActs, station_foldl]
@[simp] theorem State.logCommitted_station (s : State) (sid : Nat) (sample : BitVec 48) (shifts : List Nat) :
    (s.logCommitted sid sample shifts).station = s.station := by
  rfl
@[simp] theorem State.dropRecord_station (s : State) (p : SealRec → Bool) : (s.dropRecord p).station = s.station := by rfl
@[simp] theorem State.takeClips_station (s : State) (slot : Nat) (clips : List ClipCount) : (s.takeClips slot clips).station = s.station := by rfl
@[simp] theorem State.commitLive_station (s : State) (sid : Nat) (u : Unsealed) : (s.commitLive sid u).station = s.station := by
  simp [State.commitLive]
@[simp] theorem State.commitState_station (s : State) (sid : Nat) (state : List (List Int)) : (s.commitState sid state).station = s.station := by
  simp [State.commitState]
@[simp] theorem State.dropRebuild_station (s : State) (sid : Nat) : (s.dropRebuild sid).station = s.station := by rfl
@[simp] theorem State.parkNow_station (s : State) (sid : Nat) : (s.parkNow sid).station = s.station := by rfl
@[simp] theorem State.renewCell_station (s : State) (sid : Nat) (i : Image) : (s.renewCell sid i).station = s.station := by
  simp [State.renewCell, toStation, Station.eta]
@[simp] theorem State.importStream_station (s : State) (sid slot : Nat) (live : Bool) (img : Image) :
    (s.importStream sid slot live img).station = s.station := by
  simp [State.importStream, toStation, Station.eta]
@[simp] theorem State.createStream_station (s : State) (f : FolioInfo) (sid slot : Nat) (portable live : Bool) (seed : BitVec 64) :
    (s.createStream f sid slot portable live seed).station = s.station := by
  simp [State.createStream]

/-! ### Seals and cards -/

@[simp] theorem State.takeBroadcast_station (s : State) (stamp : BitVec 48) (mtype seq : Nat) (body : Bytes) :
    (s.takeBroadcast stamp mtype seq body).station = s.station := by
  unfold State.takeBroadcast
  split <;> rfl
@[simp] theorem State.takeOrder_station (s : State) (stamp : BitVec 48) (shelf mtype seq : Nat) (sync : Bool) (body : Bytes) :
    (s.takeOrder stamp shelf mtype seq sync body).station = s.station := by
  simp [State.takeOrder, toStation, Station.eta]
@[simp] theorem State.lateReport_station (s : State) (stamp : BitVec 48) (shelf : Nat) (p : Bytes) :
    (s.lateReport stamp shelf p).station = s.station := by
  unfold State.lateReport
  split <;> rfl
@[simp] theorem State.sealReport_station (s : State) (stamp : BitVec 48) (shelf pos outcome : Nat) (p : Bytes) :
    (s.sealReport stamp shelf pos outcome p).station = s.station := by
  simp [State.sealReport]
theorem State.applyRecord_station {s s' : State} {n : BitVec 48} {r : SealRec} (h : s.applyRecord n r = some s') : s'.station = s.station := by
  cases r <;> simp only [State.applyRecord] at h
  case step | rebuild =>
    repeat' split at h
    all_goals cases h
    all_goals simp
  case create | imported =>
    cases h
    repeat' split
    all_goals simp [toStation, Station.eta]
  all_goals cases h; simp
@[simp] theorem applyRecs_station (n : BitVec 48) (rs : List SealRec) (b : List Nat) (l : List SealRec) (s : State) :
    (applyRecs n rs b l s).2.2.station = s.station := by
  induction rs generalizing b l s with
  | nil => rfl
  | cons r rs ih =>
    simp only [applyRecs]
    split
    · next h =>
      rw [ih]
      split at h
      · cases h
      · exact State.applyRecord_station h
    · exact ih _ _ _
@[simp] theorem State.formDigest_station (s : State) (stamp : BitVec 48) (sid : Nat) : (s.formDigest stamp sid).station = s.station := by
  simp [State.formDigest, toStation, Station.eta]
@[simp] theorem applyHeld_station (hs : List HeldSeal) (b : List Nat) (l : List HeldSeal) (s : State) :
    (applyHeld hs b l s).2.station = s.station := by
  induction hs generalizing b l s with
  | nil => rfl
  | cons h hs ih => simp [applyHeld, ih, station_foldl]
@[simp] theorem State.applyHeldSeals_station (s : State) : s.applyHeldSeals.station = s.station := by
  simp [State.applyHeldSeals, toStation, Station.eta]
@[simp] theorem State.reshadow_station (s : State) (slot sid : Nat) (stamp : BitVec 48) (i : Image) :
    (s.reshadow slot sid stamp i).station = s.station := by
  simp [State.reshadow]
@[simp] theorem State.replaceImage_station (s : State) (sid : Nat) (stamp : BitVec 48) (i : Image) (twin : Bytes) :
    (s.replaceImage sid stamp i twin).station = s.station := by
  simp [State.replaceImage, toStation, Station.eta]
@[simp] theorem State.compareCard_station (s : State) (head : BitVec 128) (body twin : Bytes) : (s.compareCard head body twin).station = s.station := by
  unfold State.compareCard
  dsimp only
  repeat' split
  all_goals simp [toStation, Station.eta]
@[simp] theorem State.applySeals_station (s : State) : s.applySeals.station = s.station := by
  simp [State.applySeals, station_foldl, toStation, Station.eta]
@[simp] theorem State.loseAlignment_station (s : State) : s.loseAlignment.station = s.station := by rfl
@[simp] theorem State.dropUnnamed_station (s : State) (stamp : BitVec 48) : (s.dropUnnamed stamp).station = s.station := by rfl
@[simp] theorem State.decideUnsealed_station (s : State) : s.decideUnsealed.station = s.station := by
  simp [State.decideUnsealed, station_foldl, toStation, Station.eta]
@[simp] theorem State.acceptOwn_station (s : State) : s.acceptOwn.station = s.station := by
  refine station_foldl (fun s b => ?_) _ _
  split <;> simp

end Sys2Proof.Machine

namespace Sys2Proof.Machine

/-! ## The loss of the primary (12 R356, R357) -/

/-- What a declared loss changes of a hub's station: the loss and its takeover boundary are noted, and the seal that had begun to come is dropped. -/
theorem State.declareLost_station (s : State) : s.declareLost.station = { s.station with
    roleSt := { s.roleSt with lostAt := some s.now, takeoverAt := some s.takeoverFor.1, early := s.takeoverFor.2 }, partSeal := [] } := by
  unfold State.declareLost
  dsimp only
  rw [station_foldl]
  · rw [State.applySeals_station, State.decideUnsealed_station, State.acceptOwn_station]
    rfl
  · intro s x
    split <;> simp

/-- The takeover boundary: the next one 500 µs away, or 25 ms after the last heartbeat where that is earlier. -/
theorem State.takeoverFor_instant (s : State) : s.takeoverFor.1 =
    min (if s.now + 500 * usTicks ≤ s.nextBoundary then s.nextBoundary else s.nextBoundary + s.toldPeriod (s.stamp.number + 1) * msTicks)
      (s.spine.lastBeat + 25 * msTicks) := by
  have earlier : ∀ b l : Nat, (if l < b then (l, true) else (b, false)).1 = min b l := fun b l => by
    split <;> omega
  exact earlier _ _

/-! ## Heartbeats (12 R348, R349) -/

/-- Fields of a heartbeat, by their places in the payload (12 Table 12.5). -/
theorem bitsOf_extract (p : BitVec 128) (lo : Nat) {n : Nat} (h : 0 < n) : bitsOf p.toNat (lo + n - 1) lo = (p.extractLsb' lo n).toNat := by
  unfold bitsOf
  rw [BitVec.extractLsb'_toNat, Nat.shiftRight_eq_div_pow]
  congr 2
  omega

theorem State.isStandby_iff (s : State) : s.isStandby = true ↔ s.roleSt.decided = true ∧ s.roleSt.role = .standby := by
  simp [State.isStandby]

/-- A standby does not lead. -/
theorem State.leads_of_standby {s : State} (h : s.isStandby = true) : s.leads = false := by
  obtain ⟨-, role⟩ := s.isStandby_iff.1 h
  simp [State.leads, RoleSt.leads, role]

theorem State.isStandby_of_leads {s : State} (h : s.leads = true) : s.roleSt.decided = true ∧ s.isStandby = false := by
  simp only [State.leads, RoleSt.leads, Bool.and_eq_true, bne_iff_ne] at h
  exact ⟨h.1, by simp [State.isStandby, h.2]⟩

/-- A standby's note of the stamps that its primary is known to have written. -/
def State.framedTo (s : State) (n : BitVec 48) : State :=
  { s with
    roleSt := { s.roleSt with lastFramed := n - 1 }
    spine := { s.spine with frames := s.spine.frames.filter fun f => decide (n - 1 < f.1.stamp) } }

/-- A standby as a heartbeat of its primary has been noted: it is aligned. -/
def State.beaten (s : State) (p : BitVec 128) : State :=
  { s.noteBeat p with roleSt := { s.roleSt with unaligned := false } }

/-- A hub that leads, and has sent its standby what it needs, notes its heartbeat alone. -/
theorem State.takeBeat_leads {s : State} (n : BitVec 48) {p : BitVec 128} (h : s.leads = true) (hp : p.toNat % 4 = 2)
    (hr : s.spine.reseal = false) : s.takeBeat n p = s.noteBeat p := by
  have other : ¬ (s.noteBeat p).isStandby = true := by
    rw [show (s.noteBeat p).isStandby = s.isStandby from rfl, (State.isStandby_of_leads h).2]
    exact Bool.false_ne_true
  have sent : ¬ ((s.noteBeat p).leads = true ∧ p.toNat % 4 = 2 ∧ (s.noteBeat p).spine.reseal = true) := fun due =>
    Bool.false_ne_true (hr.symm.trans due.2.2)
  unfold State.takeBeat
  dsimp only
  rw [if_neg (show ¬ p.toNat % 4 ≤ 1 by omega), if_neg other, if_neg sent]

/-- A hub that meets a primary with its role decided as standby is aligned. -/
theorem State.meetPrimary_standby {s : State} (h : s.isStandby = true) : s.meetPrimary = { s with roleSt := { s.roleSt with unaligned := false } } := by
  unfold State.meetPrimary
  rw [if_neg (by simp [(s.isStandby_iff.1 h).1]), if_neg (by simp [State.leads_of_standby h])]

/-- A hub that is the standby of the primary whose heartbeat it has met, and has not lost it, follows it, and declares the loss where it has adopted
its stamp and FAILING is set. -/
theorem State.takeBeat_met {s z : State} (n : BitVec 48) {p : BitVec 128} (hp : p.toNat % 4 ≤ 1) (hz : (s.noteBeat p).meetPrimary = z)
    (h : z.isStandby = true) (hl : z.roleSt.lostAt = none) :
    let y := (z.follow (p.extractLsb' 32 32) n (p.extractLsb' 4 21).toNat).framedTo n
    s.takeBeat n p = if y.following ∧ p.getLsbD 2 then y.declareLost else y := by
  have phase : bitsOf p.toNat 24 4 = (p.extractLsb' 4 21).toNat := bitsOf_extract p 4 (n := 21) (by decide)
  have failing : (p.getLsbD 2 = true ∨ p.toNat % 4 = 3) ↔ p.getLsbD 2 = true := or_iff_left (by omega)
  unfold State.takeBeat
  dsimp only
  rw [if_pos hp, hz, if_pos h, if_neg (show ¬ p.toNat % 4 = 2 by omega), if_neg (show ¬ z.roleSt.lostAt.isSome = true by simp [hl]), phase]
  simp only [failing]
  rfl

theorem State.takeBeat_standby {s : State} (n : BitVec 48) {p : BitVec 128} (h : s.isStandby = true) (hl : s.roleSt.lostAt = none)
    (hp : p.toNat % 4 ≤ 1) :
    let y := ((s.beaten p).follow (p.extractLsb' 32 32) n (p.extractLsb' 4 21).toNat).framedTo n
    s.takeBeat n p = if y.following ∧ p.getLsbD 2 then y.declareLost else y :=
  State.takeBeat_met n hp (State.meetPrimary_standby (s := s.noteBeat p) h) h hl

/-- Taking a role sets IRQ[11] at most. -/
theorem setRole_shape (s : State) (r : Role) :
    ∃ p, s.setRole r = { s with roleSt := { s.roleSt with role := r, decided := true, listenTo := none }, port := p } := by
  unfold State.setRole
  dsimp only
  split
  · exact ⟨s.port, rfl⟩
  · exact ⟨_, rfl⟩

/-- A hub that becomes a standby at start-up: it has neither settings nor stamp of its primary, no stream is aligned, and nothing is transmitted. -/
theorem State.becomeStandby_joins (s : State) :
    let n := s.becomeStandby true
    n.isStandby = true ∧ n.roleSt.informed = false ∧ n.roleSt.adopted = false ∧ n.roleSt.lostAt = none ∧ n.roleSt.target = s.roleSt.target
      ∧ n.now = s.now ∧ n.stamp = s.stamp ∧ n.events = s.events ∧ n.air.beacons = false ∧ ∀ x ∈ n.streams, x.aligned = false := by
  obtain ⟨p, role⟩ := setRole_shape s .standby
  have unaligned : ∀ xs : List StreamSt, ∀ x ∈ xs.map fun x => { x with aligned := false }, x.aligned = false := fun xs x hx => by
    obtain ⟨y, -, rfl⟩ := List.mem_map.1 hx
    rfl
  unfold State.becomeStandby
  rw [role]
  exact ⟨rfl, rfl, rfl, rfl, rfl, rfl, rfl, rfl, rfl, unaligned _⟩

/-- An undecided hub becomes the standby of a primary; it follows nothing yet. -/
theorem State.takeBeat_joins {s : State} (n : BitVec 48) {p : BitVec 128} (h : s.roleSt.decided = false) (hp : p.toNat % 4 ≤ 1) :
    s.takeBeat n p = ((s.noteBeat p).becomeStandby true).framedTo n := by
  have met : (s.noteBeat p).meetPrimary = (s.noteBeat p).becomeStandby true := if_pos (by rw [show (s.noteBeat p).roleSt = s.roleSt from rfl, h]; rfl)
  obtain ⟨standby, informed, adopted, present, -⟩ := (s.noteBeat p).becomeStandby_joins
  have beat := State.takeBeat_met n hp met standby present
  generalize (s.noteBeat p).becomeStandby true = z at *
  have unfollowed : z.follow (p.extractLsb' 32 32) n (p.extractLsb' 4 21).toNat = z := by
    unfold State.follow
    simp [informed, adopted]
  have apart : ¬ ((z.framedTo n).following = true ∧ p.getLsbD 2 = true) := fun both => by
    have := both.1
    simp [State.following, State.framedTo, adopted] at this
  rw [beat, unfollowed]
  exact if_neg apart

/-- Until it has adopted its primary's stamp, a standby that has its primary's settings notes what its next boundary adopts. -/
theorem State.follow_waits {s : State} (h : s.roleSt.adopted = false) (run : BitVec 32) (n : BitVec 48) (phase : Nat) :
    let y := s.follow run n phase
    y.roleSt.target = (if s.roleSt.informed then some (run, n + 1) else s.roleSt.target) ∧ y.roleSt.unaligned = s.roleSt.unaligned
      ∧ (y.stamp.number = s.stamp.number ∧ y.stamp.run = s.stamp.run) ∧ y.roleSt.adopted = false ∧ y.streams = s.streams := by
  unfold State.follow
  dsimp only
  rw [if_pos (by rw [h]; rfl)]
  cases informed : s.roleSt.informed
  · exact ⟨rfl, rfl, ⟨rfl, rfl⟩, h, rfl⟩
  · exact ⟨rfl, rfl, ⟨rfl, rfl⟩, h, rfl⟩

/-- A standby that has adopted it corrects its next boundary: by the error against its own boundary of the heartbeat's stamp. -/
theorem State.follow_adopted {s : State} (h : s.roleSt.adopted = true) (run : BitVec 32) (phase : Nat) :
    s.follow run s.stamp.number phase = { s with stamp := { s.stamp with
      adjust := max (-((s.stampTicks / 2000 : Nat) : Int)) (min ((s.stampTicks / 2000 : Nat) : Int)
        (divr (s.primaryBoundary phase - (s.stamp.t0 : Int)) crystalTicks * crystalTicks)) } } := by
  unfold State.follow
  dsimp only
  rw [if_neg (by rw [h]; exact Bool.false_ne_true), if_pos rfl]

/-- Following leaves a standby's role, but for what its next boundary adopts. -/
theorem State.follow_role (s : State) (run : BitVec 32) (n : BitVec 48) (phase : Nat) :
    ∃ a g, s.follow run n phase = { s with stamp := { s.stamp with adjust := a }, roleSt := { s.roleSt with target := g } } := by
  unfold State.follow
  dsimp only
  split
  · split
    · exact ⟨_, _, rfl⟩
    · exact ⟨_, _, rfl⟩
  · exact ⟨_, _, rfl⟩

/-! ## The forms of heartbeats -/

section
variable {t : Tick} {s : State} {rx : SpineRx} {p : BitVec 128} (hears : s.hears 2) (hp : s.Passes rx 2)
include hears hp

/-- A heartbeat that passes its checks is taken. -/
theorem exec_beat : exec (.heartbeat t rx p) s = .next ((s.advance t).settle (((s.advance t).passed rx 2).takeBeat (rxStamp rx) p)) := by
  rw [exec_heartbeat rx p hears, State.onFrame_passes (hp.advanced t)]

theorem heartbeat_leads (hl : s.leads = true) (h2 : p.toNat % 4 = 2) (hr : s.spine.reseal = false) : Answers (.heartbeat t rx p) s fun n =>
    n.spine.lastBeat = s.at t ∧ n.spine.lastRx = s.at t ∧ n.spine.partnerRole = some .standby ∧ n.spine.partnerFailing = p.getLsbD 2
      ∧ n.spine.partnerSealed = p.extractLsb' 64 48 ∧ n.spine.partnerUnaligned = (p.extractLsb' 112 16).toNat
      ∧ n.roleSt = s.roleSt ∧ n.stamp = s.stamp ∧ n.out = s.out ∧ n.streams = s.streams := by
  refine ⟨_, exec_beat hears hp, ?_⟩
  rw [State.takeBeat_leads (s := (s.advance t).passed rx 2) (rxStamp rx) hl h2 hr]
  have role : some (Role.ofCode (p.toNat % 4)) = some .standby := by rw [h2]; rfl
  have stamps : BitVec.ofNat 48 (p.toNat / 2 ^ 64) = p.extractLsb' 64 48 := by rw [BitVec.extractLsb', Nat.shiftRight_eq_div_pow]
  have lagging : bitsOf p.toNat 127 112 = (p.extractLsb' 112 16).toNat := bitsOf_extract p 112 (n := 16) (by decide)
  exact ⟨rfl, rfl, role, rfl, stamps, lagging, rfl, rfl, rfl, rfl⟩

theorem heartbeat_joins (hd : s.roleSt.decided = false) (h1 : p.toNat % 4 ≤ 1) : Answers (.heartbeat t rx p) s fun n =>
    n.isStandby = true ∧ n.roleSt.informed = false ∧ n.roleSt.target = s.roleSt.target ∧ n.stamp.number = s.stamp.number
      ∧ n.roleSt.lostAt = none ∧ (∀ x ∈ n.streams, x.aligned = false) := by
  refine ⟨_, exec_beat hears hp, ?_⟩
  rw [State.takeBeat_joins (s := (s.advance t).passed rx 2) (rxStamp rx) hd h1]
  obtain ⟨standby, informed, -, present, target, -, stamp, -, -, unaligned⟩ := (((s.advance t).passed rx 2).noteBeat p).becomeStandby_joins
  exact ⟨standby, informed, target, congrArg StampSt.number stamp, present, unaligned⟩

/-- A standby that has not adopted its primary's stamp. -/
theorem heartbeat_waits (hs : s.isStandby = true) (ha : s.roleSt.adopted = false) (hl : s.roleSt.lostAt = none) (h1 : p.toNat % 4 ≤ 1) :
    Answers (.heartbeat t rx p) s fun n =>
      n.roleSt.target = (if s.roleSt.informed then some (p.extractLsb' 32 32, rxStamp rx + 1) else s.roleSt.target)
        ∧ n.roleSt.unaligned = false ∧ n.stamp.number = s.stamp.number ∧ n.stamp.run = s.stamp.run ∧ n.streams = s.streams := by
  refine ⟨_, exec_beat hears hp, ?_⟩
  rw [State.takeBeat_standby (s := (s.advance t).passed rx 2) (rxStamp rx) hs hl h1]
  obtain ⟨target, unaligned, ⟨number, run⟩, unadopted, streams⟩ := (((s.advance t).passed rx 2).beaten p).follow_waits ha
    (p.extractLsb' 32 32) (rxStamp rx) (p.extractLsb' 4 21).toNat
  generalize (((s.advance t).passed rx 2).beaten p).follow _ _ _ = y at *
  have apart : ¬ ((y.framedTo (rxStamp rx)).following = true ∧ p.getLsbD 2 = true) := fun both => by
    have := both.1
    simp [State.following, State.framedTo, unadopted] at this
  rw [if_neg apart]
  exact ⟨target, unaligned, number, run, streams⟩

/-- A standby that follows corrects its next boundary. -/
theorem heartbeat_follows (hs : s.isStandby = true) (ha : s.roleSt.adopted = true) (hl : s.roleSt.lostAt = none) (h1 : p.toNat % 4 ≤ 1)
    (hf : p.getLsbD 2 = false) (hn : rxStamp rx = s.stamp.number) : Answers (.heartbeat t rx p) s fun n =>
      n.stamp = { s.stamp with adjust := max (-((s.stampTicks / 2000 : Nat) : Int)) (min ((s.stampTicks / 2000 : Nat) : Int)
          (divr ((s.at t : Int) - s.spine.delay - ((p.extractLsb' 4 21).toNat * crystalTicks : Nat) - (s.stamp.t0 : Int)) crystalTicks * crystalTicks)) }
        ∧ n.roleSt.unaligned = false ∧ n.roleSt.lostAt = none ∧ n.streams = s.streams := by
  refine ⟨_, exec_beat hears hp, ?_⟩
  rw [State.takeBeat_standby (s := (s.advance t).passed rx 2) (rxStamp rx) hs hl h1, if_neg fun both => Bool.false_ne_true (hf.symm.trans both.2), hn]
  have corrected := State.follow_adopted (s := ((s.advance t).passed rx 2).beaten p) ha (p.extractLsb' 32 32) (p.extractLsb' 4 21).toNat
  rw [show (((s.advance t).passed rx 2).beaten p).stamp.number = s.stamp.number from rfl] at corrected
  rw [corrected]
  exact ⟨rfl, rfl, hl, rfl⟩

/-- FAILING: the loss is declared at once, by a heartbeat of this instant. -/
theorem heartbeat_failing (hs : s.isStandby = true) (ha : s.roleSt.adopted = true) (hl : s.roleSt.lostAt = none) (h1 : p.toNat % 4 ≤ 1)
    (hf : p.getLsbD 2 = true) (hb : s.power.brownAt = none) : Answers (.heartbeat t rx p) s fun n =>
      n.roleSt.lostAt = some (s.at t) ∧ ∃ b, n.roleSt.takeoverAt = some b ∧ b ≤ s.at t + 25 * msTicks := by
  refine ⟨_, exec_beat hears hp, ?_⟩
  rw [State.takeBeat_standby (s := (s.advance t).passed rx 2) (rxStamp rx) hs hl h1]
  obtain ⟨adjust, target, followed⟩ := (((s.advance t).passed rx 2).beaten p).follow_role (p.extractLsb' 32 32) (rxStamp rx) (p.extractLsb' 4 21).toNat
  obtain ⟨decided, standby⟩ := s.isStandby_iff.1 hs
  rw [followed]
  have follows : State.following (State.framedTo { ((s.advance t).passed rx 2).beaten p with
      stamp := { (((s.advance t).passed rx 2).beaten p).stamp with adjust := adjust }
      roleSt := { (((s.advance t).passed rx 2).beaten p).roleSt with target := target } } (rxStamp rx)) = true := by
    simp [State.following, State.framedTo, State.isStandby, State.beaten, State.noteBeat, State.passed, decided, standby, ha, hl, hb]
  rw [if_pos ⟨follows, hf⟩]
  generalize lost : State.framedTo _ _ = y
  have now : y.now = s.at t := lost ▸ rfl
  have beat : y.spine.lastBeat = s.at t := lost ▸ rfl
  have role := congrArg Station.roleSt y.declareLost_station
  refine ⟨(congrArg RoleSt.lostAt role).trans (congrArg some now), _, congrArg RoleSt.takeoverAt role, ?_⟩
  rw [State.takeoverFor_instant, beat]
  exact Nat.min_le_right _ _
end

/-- A standby whose primary is silent for 1 ms declares it lost (R356). -/
theorem silence_loses {t : Tick} {s : State} (hst : s.stamp.started = true) (hp : s.power.porter = true)
    (hr : s.power.rstLow = none) (hf : s.following = true) (hq : s.spine.lastRx + msTicks ≤ s.at t) : Answers (.primaryLost t) s fun n =>
      n.roleSt.lostAt = some (s.at t)
        ∧ n.roleSt.takeoverAt = some (min (if s.at t + 500 * usTicks ≤ s.nextBoundary then s.nextBoundary
            else s.nextBoundary + s.toldPeriod (s.stamp.number + 1) * msTicks)
            (s.spine.lastBeat + 25 * msTicks))
        ∧ n.roleSt.role = .standby ∧ n.stamp = s.stamp := by
  have ticking : s.ticking = true := by simp [State.ticking, hp, hst, hr]
  have run : exec (.primaryLost t) s = .next ((s.advance t).settle (s.advance t).declareLost) := by
    show execPrimaryLost t s = _
    refine occurs_of ?_
    simp only [Bool.and_eq_true, decide_eq_true_eq]
    exact ⟨⟨ticking, hf⟩, hq⟩
  have standby : s.isStandby = true := by
    simp only [State.following, Bool.and_eq_true] at hf
    exact hf.1.1.1.1
  have station := (s.advance t).declareLost_station
  have role := congrArg Station.roleSt station
  refine ⟨_, run, congrArg RoleSt.lostAt role, ?_, ?_, congrArg Station.stamp station⟩
  · exact (congrArg RoleSt.takeoverAt role).trans (congrArg some (s.advance t).takeoverFor_instant)
  · exact (congrArg RoleSt.role role).trans (s.isStandby_iff.1 standby).2

/-! ## Role notes (12 R348, 01 R21) -/

/-- A conflict of two primaries silences side B from its next boundary. -/
theorem State.conflict_eq (s : State) :
    s.conflict = { s with roleSt := if s.spine.sideB then { s.roleSt with silentFrom := some (s.stamp.number + 1) } else s.roleSt } := by
  unfold State.conflict
  split <;> rfl

section
variable {t : Tick} {s : State} {rx : SpineRx} {k : RoleNote} (hears : s.hears 3) (hn : s.Next rx (.role k))
include hears hn

theorem exec_note : exec (.role t rx k) s = .next ((s.advance t).settle (((s.advance t).accepted rx (.role k)).takeRole k)) := by
  rw [exec_role rx k hears, State.onSeq_next (hn.advanced t)]

/-- A claim, or a partner that is primary, is a conflict for a hub that leads. -/
theorem role_conflicts (hl : s.leads = true) (hk : k ≠ .yield) : Answers (.role t rx k) s fun n =>
    n.roleSt = (if s.spine.sideB then { s.roleSt with silentFrom := some (s.stamp.number + 1) } else s.roleSt)
      ∧ n.spine.partnerRole = some .primary ∧ n.spine.rxSeq = s.spine.rxSeq + 1 ∧ n.streams = s.streams := by
  refine ⟨_, exec_note hears hn, ?_⟩
  have order : rxSeqOf rx = s.spine.rxSeq + 1 := by
    cases k <;> exact hn.2
  have taken : ((s.advance t).accepted rx (.role k)).takeRole k =
      (({ (s.advance t).accepted rx (.role k) with
        spine := { ((s.advance t).accepted rx (.role k)).spine with partnerRole := some .primary } } : State)).conflict := by
    have met : ∀ z : State, z.roleSt = s.roleSt → z.meetPrimary = z.conflict := fun z same => by
      obtain ⟨decided, -⟩ := State.isStandby_of_leads hl
      have leads : z.leads = true := by rw [State.leads, same]; exact hl
      unfold State.meetPrimary
      rw [if_neg (by simp [same, decided]), if_pos leads]
    cases k with
    | yield => exact absurd rfl hk
    | _ => exact met _ rfl
  rw [taken, State.conflict_eq]
  exact ⟨rfl, rfl, order, rfl⟩

/-- The yield of its primary is a loss for a standby that follows. -/
theorem role_yields (hf : s.following = true) (hk : k = .yield) : Answers (.role t rx k) s fun n =>
    n.roleSt.lostAt = some (s.at t) ∧ n.roleSt.takeoverAt.isSome = true ∧ n.spine.partnerRole = some .yielding := by
  subst hk
  refine ⟨_, exec_note hears hn, ?_⟩
  have taken : ((s.advance t).accepted rx (.role .yield)).takeRole .yield =
      (({ (s.advance t).accepted rx (.role .yield) with
        spine := { ((s.advance t).accepted rx (.role .yield)).spine with partnerRole := some .yielding } } : State)).declareLost :=
    if_pos (show s.following = true from hf)
  rw [taken]
  generalize told : ({ (s.advance t).accepted rx (.role .yield) with
        spine := { ((s.advance t).accepted rx (.role .yield)).spine with partnerRole := some .yielding } } : State) = y
  have now : y.now = s.at t := told ▸ rfl
  have partner : y.spine.partnerRole = some .yielding := told ▸ rfl
  have station := y.declareLost_station
  have role := congrArg Station.roleSt station
  exact ⟨(congrArg RoleSt.lostAt role).trans (congrArg some now), congrArg Option.isSome (congrArg RoleSt.takeoverAt role),
    (congrArg Station.partnerRole station).trans partner⟩
end

/-- Settles O31: the forms of heartbeats, of the primary's silence and of role notes. -/
theorem heartbeatForms : Obligations.HeartbeatForms := by
  intro t s awake started
  refine ⟨fun rx p up hp => ?_, fun porter rst following quiet => silence_loses started porter rst following quiet, fun rx k up hn => ?_⟩
  · have hears : s.hears 2 := ⟨awake, up, started⟩
    exact ⟨heartbeat_leads hears hp, heartbeat_joins hears hp, heartbeat_waits hears hp, fun hs ha hl h1 =>
      ⟨heartbeat_follows hears hp hs ha hl h1, heartbeat_failing hears hp hs ha hl h1⟩⟩
  · have hears : s.hears 3 := ⟨awake, up, started⟩
    exact ⟨role_conflicts hears hn, role_yields hears hn⟩

end Sys2Proof.Machine

namespace Sys2Proof.Machine

/-! ## Settings of the primary (12 R354) -/

section
variable {s : State} (h : s.isStandby = true) (live : BitVec 48)
include h

theorem State.takeConfig_setting (n : SName) (v : Option Int) : s.takeConfig (.setting n v) live = { s with
    settings := { s.settings with commits := s.settings.commits ++ [(live, [(n, v)])] }
    roleSt := { s.roleSt with informed := s.roleSt.informed || n == .stampPeriod } } := if_pos h

theorem State.takeConfig_script (x : Nat) (c : Option Nat) (b : Bytes) : s.takeConfig (.script x c b) live = { s with
    settings := { s.settings with scriptCommits := s.settings.scriptCommits ++ [(live, [(x, c, b)])] } } := if_pos h

theorem State.takeConfig_twinset (k : Nat) (b : Bytes) : s.takeConfig (.twinset k b) live = { s with
    settings := { s.settings with setCommits := s.settings.setCommits ++ [(live, [(k, b)])] } } := if_pos h

/-- Outside an accession the primary's roster replaces the hub's own. -/
theorem State.takeConfig_roster (ids : List (Nat × BitVec 64)) (ha : s.acc.phase ≠ .running) : s.takeConfig (.roster ids) live = { s with
    spine := { s.spine with roster := some ids }
    archive := { s.archive with roster := ids } } := by
  have own : ¬ (s.acc.phase = .running ∧ !s.acc.endDue) := fun both => ha both.1
  show (if s.isStandby then s.takeRoster ids else s) = _
  rw [if_pos h]
  unfold State.takeRoster
  rw [if_neg own]
end

/-- A hub that leads takes of a CONFIG item its standby's publication at most. -/
theorem State.takeConfig_leads {s : State} (h : s.isStandby = false) (hp : s.promotion = none) (item : ConfigItem) (live : BitVec 48) :
    ∃ pub, s.takeConfig item live = { s with spine := { s.spine with partnerPub := pub } } := by
  have other : ¬ s.isStandby = true := by simp [h]
  cases item with
  | promotion pub slot place =>
    refine ⟨pub, (if_neg other).trans ?_⟩
    dsimp only
    rw [hp]
  | _ => exact ⟨s.spine.partnerPub, if_neg other⟩

section
variable {t : Tick} {s : State} {rx : SpineRx} {item : ConfigItem} {live : BitVec 48} (hears : s.hears 4) (hn : s.Next rx (.config item live))
include hears hn

theorem exec_item : exec (.config t rx item live) s =
    .next ((s.advance t).settle (((s.advance t).accepted rx (.config item live)).takeConfig item live)) := by
  rw [exec_config rx item live hears, State.onSeq_next (hn.advanced t)]

theorem config_informs (hs : s.isStandby = true) :
    (∀ n v, item = .setting n v → Answers (.config t rx item live) s fun m =>
      m.settings = { s.settings with commits := s.settings.commits ++ [(live, [(n, v)])] } ∧ m.spine.rxSeq = rxSeqOf rx ∧ m.stackList = s.stackList)
    ∧ (∀ x c b, item = .script x c b → Answers (.config t rx item live) s fun m =>
      m.settings = { s.settings with scriptCommits := s.settings.scriptCommits ++ [(live, [(x, c, b)])] } ∧ m.stackList = s.stackList)
    ∧ (∀ k b, item = .twinset k b → Answers (.config t rx item live) s fun m =>
      m.settings = { s.settings with setCommits := s.settings.setCommits ++ [(live, [(k, b)])] } ∧ m.stackList = s.stackList)
    ∧ (∀ ids, item = .roster ids → s.acc.phase ≠ .running → Answers (.config t rx item live) s fun m =>
      m.archive.roster = ids ∧ m.nodes = s.nodes ∧ m.settings = s.settings) := by
  have standby : ((s.advance t).accepted rx (.config item live)).isStandby = true := hs
  have run := exec_item (t := t) hears hn
  refine ⟨fun n v hi => ?_, fun x c b hi => ?_, fun k b hi => ?_, fun ids hi ha => ?_⟩ <;> subst hi <;> refine ⟨_, run, ?_⟩
  · rw [State.takeConfig_setting standby]
    exact ⟨rfl, rfl, rfl⟩
  · rw [State.takeConfig_script standby]
    exact ⟨rfl, rfl⟩
  · rw [State.takeConfig_twinset standby]
    exact ⟨rfl, rfl⟩
  · rw [State.takeConfig_roster standby live ids ha]
    exact ⟨rfl, rfl, rfl⟩

theorem config_leads (hs : s.isStandby = false) (hp : s.promotion = none) : Answers (.config t rx item live) s fun m =>
    m.settings = s.settings ∧ m.changes = s.changes ∧ m.stackList = s.stackList ∧ m.spine.rxSeq = rxSeqOf rx := by
  refine ⟨_, exec_item hears hn, ?_⟩
  obtain ⟨pub, taken⟩ := State.takeConfig_leads (s := (s.advance t).accepted rx (.config item live)) hs hp item live
  rw [taken]
  exact ⟨rfl, rfl, rfl, rfl⟩
end

/-! ## The primary's samples (12 R350, 01 R20) -/

/-- Codes added to the sums of a stamp. -/
def Sense.added (q : Sense) (xs : List (Int × Int)) : Sense :=
  xs.foldl (fun q x => { q with sumA := q.sumA + x.1, sumB := q.sumB + x.2, count := q.count + 1 }) q

theorem Sense.added_eq (q : Sense) (xs : List (Int × Int)) : q.added xs =
    { q with sumA := q.sumA + (xs.map Prod.fst).sum, sumB := q.sumB + (xs.map Prod.snd).sum, count := q.count + xs.length } := by
  induction xs generalizing q with
  | nil => simp [Sense.added]
  | cons x xs ih =>
    refine (ih _).trans ?_
    simp only [List.map_cons, List.sum_cons, List.length_cons, Int.add_assoc, Nat.add_comm 1, Nat.add_assoc]

theorem State.accepted_isStandby (s : State) (rx : SpineRx) (m : SpineMsg) : (s.accepted rx m).isStandby = s.isStandby := rfl

/-- The front end of a standby, as one millisecond of its primary's codes has come; the mark lies at code 6 of millisecond 0. -/
theorem State.takeSense_sense (s : State) (stamp : BitVec 48) (ms : Nat) (a b : List Int) (mains : List (List Int)) :
    (s.takeSense stamp ms a b mains).sense =
      { (if ms = 0 then ((s.sense.added ((a.zip b).take 7)).mark stamp ((a.zip b).getD 6 (0, 0)).1 ((a.zip b).getD 6 (0, 0)).2).added ((a.zip b).drop 7)
          else s.sense.added (a.zip b)) with lastMs := some (a, b) } :=
  (State.testCurrents_tests _ _ _).sense

section
variable {t : Tick} {s : State} {rx : SpineRx} {stamp : BitVec 48} {ms : Nat} {ca cb : List (BitVec 24)} {mains : List (List (BitVec 24))}
  (hears : s.hears 5) (hn : s.Next rx (.sense stamp ms (ca.map frontCode) (cb.map frontCode) (mains.map fun r => r.map frontCode)))
include hears hn

/-- A standby takes its primary's codes. -/
theorem exec_codes (hs : s.isStandby = true) : ∃ z : State, z.sense = s.sense ∧ exec (.sense t rx stamp ms ca cb mains) s =
    .next ((s.advance t).settle (z.takeSense stamp ms (ca.map frontCode) (cb.map frontCode) (mains.map fun r => r.map frontCode))) := by
  refine ⟨(s.advance t).accepted rx (.sense stamp ms (ca.map frontCode) (cb.map frontCode) (mains.map fun r => r.map frontCode)), rfl, ?_⟩
  rw [exec_sense rx stamp ms ca cb mains hears, State.onSeq_next (hn.advanced t)]
  exact congrArg (fun z => Host.Outcome.next ((s.advance t).settle z)) (if_pos hs)

theorem sense_adds (hs : s.isStandby = true) (hm : 0 < ms) (hl : ca.length = cb.length) :
    Answers (.sense t rx stamp ms ca cb mains) s fun n =>
      n.sense.sumA = s.sense.sumA + (ca.map frontCode).sum ∧ n.sense.sumB = s.sense.sumB + (cb.map frontCode).sum
        ∧ n.sense.count = s.sense.count + ca.length ∧ n.sense.lastMs = some (ca.map frontCode, cb.map frontCode)
        ∧ n.sense.marked = s.sense.marked ∧ n.sense.cums = s.sense.cums := by
  obtain ⟨z, same, run⟩ := exec_codes (t := t) hears hn hs
  refine ⟨_, run, ?_⟩
  have sums := z.takeSense_sense stamp ms (ca.map frontCode) (cb.map frontCode) (mains.map fun r => r.map frontCode)
  rw [if_neg (by omega), Sense.added_eq, List.map_fst_zip (by simp [hl]), List.map_snd_zip (by simp [hl]), same] at sums
  generalize z.takeSense _ _ _ _ _ = n at sums
  show n.sense.sumA = _ ∧ n.sense.sumB = _ ∧ n.sense.count = _ ∧ n.sense.lastMs = _ ∧ n.sense.marked = _ ∧ n.sense.cums = _
  simp [sums, hl]

theorem sense_marks (hs : s.isStandby = true) (hm : ms = 0) (hl : ca.length = cb.length) (h7 : 7 ≤ ca.length) :
    let a := ca.map frontCode
    let b := cb.map frontCode
    Answers (.sense t rx stamp ms ca cb mains) s fun n =>
      n.sense.sumA = s.sense.sumA + a.sum ∧ n.sense.sumB = s.sense.sumB + b.sum
        ∧ n.sense.markA = a.getD 6 0 ∧ n.sense.markB = b.getD 6 0
        ∧ n.sense.cums = (stamp, s.sense.sumA + (a.take 7).sum, s.sense.sumB + (b.take 7).sum, s.sense.count + 7) :: s.sense.cums := by
  intro a b
  obtain ⟨z, same, run⟩ := exec_codes (t := t) hears hn hs
  refine ⟨_, run, ?_⟩
  have sums := z.takeSense_sense stamp ms a b (mains.map fun r => r.map frontCode)
  have firsts : (a.zip b).map Prod.fst = a := List.map_fst_zip (by simp [a, b, hl])
  have seconds : (a.zip b).map Prod.snd = b := List.map_snd_zip (by simp [a, b, hl])
  have first : ((a.zip b).getD 6 (0, 0)).1 = a.getD 6 0 :=
    (List.getD_map (a.zip b) (0, 0) Prod.fst).symm.trans (congrArg (List.getD · 6 0) firsts)
  have second : ((a.zip b).getD 6 (0, 0)).2 = b.getD 6 0 :=
    (List.getD_map (a.zip b) (0, 0) Prod.snd).symm.trans (congrArg (List.getD · 6 0) seconds)
  have seven : ((a.zip b).take 7).length = 7 := by simp [a, b]; omega
  rw [if_pos hm, Sense.added_eq, Sense.added_eq, List.map_take, List.map_take, List.map_drop, List.map_drop, firsts, seconds, first, second, seven,
    same] at sums
  generalize z.takeSense _ _ _ _ _ = n at sums
  show n.sense.sumA = _ ∧ n.sense.sumB = _ ∧ n.sense.markA = _ ∧ n.sense.markB = _ ∧ n.sense.cums = _
  simp only [sums, Sense.mark, Int.add_assoc, List.sum_take_add_sum_drop, and_self]

theorem sense_ignored (hs : s.isStandby = false) : Answers (.sense t rx stamp ms ca cb mains) s fun n =>
    n.sense = s.sense ∧ n.mains = s.mains ∧ n.limits = s.limits ∧ n.spine.rxSeq = rxSeqOf rx := by
  have run := exec_sense (t := t) rx stamp ms ca cb mains hears
  dsimp only at run
  rw [State.onSeq_next (hn.advanced t), State.accepted_isStandby, show (s.advance t).isStandby = false from hs] at run
  exact ⟨_, run, rfl, rfl, rfl, rfl⟩
end

/-! ## Seals (12 R351) -/

/-- Records other than an END are kept until theirs comes. -/
theorem State.takeSeal_parts {recs : List SealRec} (h : ∀ r ∈ recs, ∀ a b c d, r ≠ .fin a b c d) (s : State) :
    s.takeSeal recs = { s with spine := { s.spine with partSeal := s.spine.partSeal ++ recs } } := by
  induction recs generalizing s with
  | nil => simp [State.takeSeal]
  | cons r rs ih =>
    have kept : s.takeSeal (r :: rs) = State.takeSeal { s with spine := { s.spine with partSeal := s.spine.partSeal ++ [r] } } rs := by
      cases r with
      | fin a b c d => exact absurd rfl (h _ List.mem_cons_self a b c d)
      | _ => rfl
    rw [kept, ih fun r hr => h r (List.mem_cons_of_mem _ hr), List.append_assoc]
    rfl

theorem State.takeSeal_fin (s : State) (stamp : BitVec 48) (c a b : Nat) :
    s.takeSeal [.fin stamp c a b] = s.completeSeal stamp s.spine.partSeal (.fin stamp c a b) a b := rfl

/-- A seal that follows those that have come is the last complete one. -/
theorem State.completeSeal_station {s : State} {stamp : BitVec 48} (h : ∀ p, s.spine.sealIn = some p → p < stamp)
    (recs : List SealRec) (fin : SealRec) (first last : Nat) :
    (s.completeSeal stamp recs fin first last).station = { s.station with partSeal := [], sealIn := some stamp } := by
  have newer : ¬ (s.spine.sealIn.any fun p => decide (stamp ≤ p)) = true := by
    rw [Option.any_eq_true]
    rintro ⟨p, hp, le⟩
    exact absurd (h p hp) (BitVec.not_lt.2 (of_decide_eq_true le))
  unfold State.completeSeal
  dsimp only
  rw [if_neg newer]
  simp [toStation]

section
variable {t : Tick} {s : State} {rx : SpineRx} {recs : List SealRec} (hears : s.hears 6) (hn : s.Next rx (.seal recs)) (hs : s.isStandby = true)
include hears hn hs

theorem exec_records : exec (.seal t rx recs) s = .next ((s.advance t).settle (((s.advance t).accepted rx (.seal recs)).takeSeal recs)) := by
  rw [exec_seal rx recs hears, State.onSeq_next (hn.advanced t)]
  exact congrArg (fun z => Host.Outcome.next ((s.advance t).settle z)) (if_pos hs)

theorem seal_gathers (h : ∀ r ∈ recs, ∀ a b c d, r ≠ .fin a b c d) : Answers (.seal t rx recs) s fun n =>
    n.spine.partSeal = s.spine.partSeal ++ recs ∧ n.spine.sealIn = s.spine.sealIn ∧ n.streams = s.streams := by
  refine ⟨_, exec_records hears hn hs, ?_⟩
  rw [State.takeSeal_parts h]
  exact ⟨rfl, rfl, rfl⟩

theorem seal_completes {stamp : BitVec 48} {c a b : Nat} (hr : recs = [.fin stamp c a b]) (h : ∀ p, s.spine.sealIn = some p → p < stamp) :
    Answers (.seal t rx recs) s fun n => n.spine.partSeal = [] ∧ n.spine.sealIn = some stamp := by
  subst hr
  refine ⟨_, exec_records hears hn hs, ?_⟩
  have station := State.completeSeal_station (s := (s.advance t).accepted rx (.seal [.fin stamp c a b])) h
    ((s.advance t).accepted rx (.seal [.fin stamp c a b])).spine.partSeal (.fin stamp c a b) a b
  rw [State.takeSeal_fin]
  generalize State.completeSeal _ _ _ _ _ _ = n at *
  exact ⟨congrArg Station.partSeal station, congrArg Station.sealIn station⟩
end

/-! ## Cards (12 R353, R354) -/

/-- The body of an import is kept for its record. -/
theorem State.takeCard_imported (s : State) {head : BitVec 128} (h : head.getLsbD 127 = true) (body twin : Bytes) :
    s.takeCard head body twin = { s with spine := { s.spine with cards := setKey (cardSid head) body s.spine.cards } } := if_pos h

/-- A card whose digest is still to be formed is kept. -/
theorem State.takeCard_late {s : State} {head : BitVec 128} (h : head.getLsbD 127 = false) (ha : s.awaitsDigest head = true) (body twin : Bytes) :
    s.takeCard head body twin = { s with spine := { s.spine with lateCards := s.spine.lateCards ++ [(head, body, twin)] } } := by
  unfold State.takeCard
  rw [if_neg (by rw [h]; exact Bool.false_ne_true), if_pos ha]

/-- The card of a digest that agrees aligns its stream. -/
theorem State.takeCard_agrees {s : State} {head : BitVec 128} {body : Bytes} (h : head.getLsbD 127 = false) (ha : s.awaitsDigest head = false)
    (hd : (s.spine.digests.find? fun d => d.1 == cardSid head && d.2.1 == cardStamp head)
      = some (cardSid head, cardStamp head, body.drop (body.length - 32))) (twin : Bytes) :
    s.takeCard head body twin = State.modStream { s with spine := { s.spine with
      digests := s.spine.digests.filter fun d => !(d.1 == cardSid head && d.2.1 == cardStamp head) } } (cardSid head)
        fun x => { x with aligned := true } := by
  unfold State.takeCard
  rw [if_neg (by rw [h]; exact Bool.false_ne_true), if_neg (by rw [ha]; exact Bool.false_ne_true)]
  unfold State.compareCard
  dsimp only
  rw [hd]
  exact if_pos rfl

section
variable {t : Tick} {s : State} {rx : SpineRx} {head : BitVec 128} {body twin : Bytes} (hears : s.hears 7) (hn : s.Next rx (.card head body twin))
  (hs : s.isStandby = true)
include hears hn hs

theorem exec_body : exec (.card t rx head body twin) s =
    .next ((s.advance t).settle (((s.advance t).accepted rx (.card head body twin)).takeCard head body twin)) := by
  rw [exec_card rx head body twin hears, State.onSeq_next (hn.advanced t)]
  exact congrArg (fun z => Host.Outcome.next ((s.advance t).settle z)) (if_pos hs)

theorem card_imports (h : head.getLsbD 127 = true) : Answers (.card t rx head body twin) s fun n =>
    lookupD [] (cardSid head) n.spine.cards = body ∧ n.streams = s.streams := by
  refine ⟨_, exec_body hears hn hs, ?_⟩
  rw [State.takeCard_imported _ h]
  exact ⟨lookupD_setKey .., rfl⟩

theorem card_waits (h : head.getLsbD 127 = false) (ha : s.awaitsDigest head = true) : Answers (.card t rx head body twin) s fun n =>
    n.spine.lateCards = s.spine.lateCards ++ [(head, body, twin)] ∧ n.streams = s.streams ∧ n.spine.digests = s.spine.digests := by
  refine ⟨_, exec_body hears hn hs, ?_⟩
  rw [State.takeCard_late (s := (s.advance t).accepted rx (.card head body twin)) h ha]
  exact ⟨rfl, rfl, rfl⟩

theorem card_aligns (h : head.getLsbD 127 = false) (ha : s.awaitsDigest head = false)
    (hd : (s.spine.digests.find? fun d => d.1 == cardSid head && d.2.1 == cardStamp head)
      = some (cardSid head, cardStamp head, body.drop (body.length - 32))) : Answers (.card t rx head body twin) s fun n =>
    n.stream (cardSid head) = { s.stream (cardSid head) with aligned := true } ∧ (∀ x, x ≠ cardSid head → n.stream x = s.stream x)
      ∧ n.events = s.events ∧ n.cells = s.cells := by
  refine ⟨_, exec_body hears hn hs, ?_⟩
  rw [State.takeCard_agrees (s := (s.advance t).accepted rx (.card head body twin)) h ha hd]
  refine ⟨?_, fun x hx => ?_, rfl, rfl⟩
  · exact State.stream_modStream_same (s := s) (f := fun x => { x with aligned := true }) (s.stream_sid _)
  · exact State.stream_modStream_other (s := s) (f := fun x => { x with aligned := true }) (s.stream_sid _) hx
end

/-! ## The seal that a primary sends (12 R351) -/

/-- What messages over the link leave: the seals kept, the link's state, the streams and the stamp. -/
def State.sealed (s : State) : List HeldSeal × SpineState × List StreamSt × StampSt := (s.spine.seals, s.spine.state, s.streams, s.stamp)

theorem sealed_foldl {α : Type} {f : State → α → State} (h : ∀ s x, (f s x).sealed = s.sealed) (xs : List α) (s : State) :
    (xs.foldl f s).sealed = s.sealed := by
  induction xs generalizing s with
  | nil => rfl
  | cons x xs ih => rw [List.foldl_cons, ih, h]

theorem State.sendSeq_sealed (s : State) (m : SpineMsg) : (s.sendSeq m).sealed = s.sealed := by
  unfold State.sendSeq
  split
  · rfl
  · exact sealed_foldl (fun s i => show (s.sendPart m i).sealed = s.sealed from rfl) _ _

/-- The seal, once its messages have gone out: the stamp's acts, oldest first, and an END that counts their records. -/
theorem State.sendSeal_shape {s : State} (h : s.spine.pendingSeals = []) : ∃ (z : State) (first last : Nat) (round : Option (BitVec 48)) (taken next : Nat), z.sealed = s.sealed ∧
    s.sendSeal = { z with spine := { z.spine with
      acts := []
      cardsDue := []
      seals := lastN 8 (z.spine.seals ++ [{
        stamp := s.stamp.number, recs := s.spine.acts.reverse ++ [.fin s.stamp.number (s.spine.acts.reverse.map SealRec.records).sum first last] }])
      sealedTx := if z.spine.state = .up then some s.stamp.number else z.spine.sealedTx
      roundFrom := round, cardsTaken := taken, roundNext := next } } := by
  have applied : (if s.spine.pendingSeals.isEmpty then s else s.applySeals) = s := if_pos (by rw [h]; rfl)
  unfold State.sendSeal
  simp only [applied]
  refine ⟨_, _, _, _, _, _, ?_, rfl⟩
  rw [sealed_foldl State.sendSeq_sealed, sealed_foldl fun s f => s.sendSeq_sealed _, sealed_foldl State.sendSeq_sealed]

theorem State.sendSeal_closes {s : State} (h : s.spine.pendingSeals = []) :
    let n := s.sendSeal
    n.spine.acts = [] ∧ n.spine.cardsDue = []
      ∧ (∃ first last, n.spine.seals = lastN 8 (s.spine.seals ++ [{
          stamp := s.stamp.number, recs := s.spine.acts.reverse ++ [.fin s.stamp.number (s.spine.acts.reverse.map SealRec.records).sum first last] }]))
      ∧ (s.spine.state = .up → n.spine.sealedTx = some s.stamp.number) ∧ n.streams = s.streams ∧ n.stamp = s.stamp := by
  obtain ⟨z, first, last, round, taken, next, kept, sent⟩ := State.sendSeal_shape h
  simp only [State.sealed, Prod.mk.injEq] at kept
  obtain ⟨seals, state, streams, stamp⟩ := kept
  rw [sent]
  exact ⟨rfl, rfl, ⟨first, last, congrArg (fun x => lastN 8 (x ++ [_])) seals⟩, fun up => if_pos (state.trans up), streams, stamp⟩

/-- A primary whose seal is due, with nothing of a former primary left to apply, sends it. -/
theorem seal_closes {t : Tick} {s : State} (up : s.up = true) (leads : s.leads = true) (partner : s.spine.partner = true)
    (applied : s.spine.pendingSeals = []) (unsent : ∀ h ∈ s.spine.seals, h.stamp ≠ s.stamp.number) (due : s.nextBoundary ≤ s.at t + 500 * usTicks) :
    Answers (.sealSend t) s fun n =>
      n.spine.acts = [] ∧ n.spine.cardsDue = []
        ∧ (∃ first last, n.spine.seals = lastN 8 (s.spine.seals ++ [{
            stamp := s.stamp.number, recs := s.spine.acts.reverse ++ [.fin s.stamp.number (s.spine.acts.reverse.map SealRec.records).sum first last] }]))
        ∧ (s.spine.state = .up → n.spine.sealedTx = some s.stamp.number) ∧ n.streams = s.streams ∧ n.stamp = s.stamp := by
  have fresh : (s.spine.seals.any fun h => h.stamp == s.stamp.number) = false := by
    simpa using unsent
  have run : exec (.sealSend t) s = .next ((s.advance t).settle (s.advance t).sendSeal) := by
    show execSealSend t s = _
    refine occurs_of ?_
    simp only [Bool.and_eq_true, Bool.or_eq_true, decide_eq_true_eq]
    exact ⟨⟨⟨⟨up, leads⟩, partner⟩, congrArg (!·) fresh⟩, .inl due⟩
  have closes := State.sendSeal_closes (s := s.advance t) applied
  refine ⟨_, run, ?_⟩
  generalize (s.advance t).sendSeal = n at *
  exact closes

/-- Settles O32: what a standby takes of each TYPE, and the seal of a primary. -/
theorem sealForms : Obligations.SealForms := by
  intro t s
  exact ⟨fun rx item live hears hn => ⟨config_informs hears hn, config_leads hears hn⟩,
    fun rx stamp ms ca cb mains hears hn => ⟨sense_adds hears hn, sense_marks hears hn, sense_ignored hears hn⟩,
    fun rx recs hears hn hs => ⟨seal_gathers hears hn hs, fun stamp c a b => seal_completes hears hn hs⟩,
    fun rx head body twin hears hn hs => ⟨card_imports hears hn hs, card_waits hears hn hs, card_aligns hears hn hs⟩,
    seal_closes⟩

end Sys2Proof.Machine

namespace Sys2Proof.Machine

/-! ## A beacon of the partner (12 R359, 15 R439) -/

/-- A hub that leads and hears the other side's beacon with its own run number reports the conflict, which silences side B. -/
theorem beacon_conflicts {t : Tick} {s : State} {side : Bool} (up : s.airUp = true) (leads : s.leads = true) (other : side ≠ s.spine.sideB) :
    Answers (.partnerBeacon t s.stamp.run side) s fun n =>
      Raised s n 0x64 none none 0 0 0 0
        ∧ n.roleSt = (if s.spine.sideB then { s.roleSt with silentFrom := some (s.stamp.number + 1) } else s.roleSt)
        ∧ n.stamp = s.stamp ∧ n.stackList = s.stackList := by
  have run : exec (.partnerBeacon t s.stamp.run side) s =
      .next ((s.advance t).settle ((s.advance t).conflict.raise 0x64 none none 0 0 0 0)) := by
    show execPartnerBeacon t s.stamp.run side s = _
    refine occurs_of ?_
    simp only [Bool.and_eq_true, beq_iff_eq, bne_iff_ne]
    exact ⟨⟨⟨up, leads⟩, rfl⟩, other⟩
  refine ⟨_, run, ?_⟩
  rw [State.conflict_eq]
  obtain ⟨o, p, raised⟩ := raise_shape { s.advance t with
    roleSt := if s.spine.sideB then { s.roleSt with silentFrom := some (s.stamp.number + 1) } else s.roleSt } 0x64 none none 0 0 0 0
  exact raised ▸ ⟨⟨rfl, rfl⟩, rfl, rfl, rfl⟩

/-- A hub that listens and hears a beacon: an unaligned standby, with the event. -/
theorem State.hearBeacon_joins {s : State} (h : s.roleSt.decided = false) :
    let n := s.hearBeacon
    n.isStandby = true ∧ n.roleSt.unaligned = true ∧ n.roleSt.heardAt = some s.now ∧ Raised s n 0x64 none none 0 0 0 0 ∧ n.air.beacons = false := by
  obtain ⟨standby, -, -, -, -, now, stamp, events, beacons, -⟩ := s.becomeStandby_joins
  unfold State.hearBeacon
  dsimp only
  rw [if_neg (by simp [h])]
  generalize s.becomeStandby true = z at *
  obtain ⟨o, p, raised⟩ := raise_shape { z with roleSt := { z.roleSt with unaligned := true } } 0x64 none none 0 0 0 0
  rw [raised]
  refine ⟨standby, rfl, congrArg some now, ⟨?_, ?_⟩, beacons⟩
  · exact congrArg (·.next + 1) events
  · show z.events.fresh ++ [_] = _
    simp only [State.newEvent, events, stamp]

/-- A hub with a role renews its note of its partner. -/
theorem State.hearBeacon_renews {s : State} (h : s.roleSt.decided = true) : s.hearBeacon = { s with roleSt := { s.roleSt with heardAt := some s.now } } := by
  unfold State.hearBeacon
  dsimp only
  rw [if_pos h]

/-! ## A call of the primary (10 R300) -/

/-- What the slots of nodes depend on: the shelfmarks of the nodes, and the slots and channels of the frame. -/
structure SlotMap where
  shelves : List Nat
  nu : Nat
  nrt : Nat
  nch : Nat

def Roll.slotMap (r : Roll) : SlotMap := { shelves := r.marks.map NodeMark.shelf, nu := r.air.nu, nrt := r.air.nrt, nch := r.air.nch }

def State.slotMap (s : State) : SlotMap := s.roll.slotMap

theorem State.slotShelf_eq (s : State) (lch i : Nat) : s.slotShelf lch (.uplink i) =
    if i < s.slotMap.nu ∧ lch < s.slotMap.nch then s.slotMap.shelves.find? (· == s.slotMap.nch * i + lch + 1) else none := by
  have found : ∀ h, (s.node? h).map (·.shelf) = s.slotMap.shelves.find? (· == h) := fun h => by
    simp only [State.slotMap, Roll.slotMap, State.roll, List.map_map, List.find?_map]
    rfl
  unfold State.slotShelf
  simp only [found]
  rfl

/-- Marks that keep their shelfmarks, and a frame that keeps its slots, leave the slots of nodes. -/
theorem Roll.slotMap_marked {r q : Roll} {g : NodeMark → NodeMark} (hg : ∀ m, (g m).shelf = m.shelf) (marks : q.marks = r.marks.map g)
    (nu : q.air.nu = r.air.nu) (nrt : q.air.nrt = r.air.nrt) (nch : q.air.nch = r.air.nch) : q.slotMap = r.slotMap := by
  have kept : q.marks.map NodeMark.shelf = r.marks.map NodeMark.shelf := by
    rw [marks, List.map_map]
    exact List.map_congr_left fun m _ => hg m
  simp only [Roll.slotMap, kept, nu, nrt, nch]

theorem slotMap_foldl {α : Type} {f : State → α → State} (h : ∀ s x, (f s x).slotMap = s.slotMap) (xs : List α) (s : State) :
    (xs.foldl f s).slotMap = s.slotMap := by
  induction xs generalizing s with
  | nil => rfl
  | cons x xs ih => rw [List.foldl_cons, ih, h]

/-- A payload, whatever it begins with, leaves the slots of nodes. -/
theorem State.takePayload_slotMap (s : State) (shelf : Nat) (b : Bytes) : (s.takePayload shelf b).slotMap = s.slotMap := by
  have messages : ∀ (ms : List (Nat × Nat × Nat × Bytes)) (z : State), (ms.foldl (fun s m => s.takeMessage shelf m) z).roll = z.roll :=
    roll_foldl fun s m => by simp
  cases hm : messagesOf 30 b with
  | nil =>
    unfold State.takePayload
    rw [hm]
  | cons m ms =>
    obtain ⟨cs, sampled⟩ := (s.acknowledge shelf (reportOf m.2.2.2)).takeSample_roll shelf (reportOf m.2.2.2)
    have taken : (s.takePayload shelf b).roll = { s.roll with
        marks := s.roll.marks.map fun x => if x.shelf = shelf then x.heard ((s.acknowledge shelf (reportOf m.2.2.2)).fixedReport shelf (reportOf m.2.2.2)).1 else x
        cells := cs } := by
      rw [s.takePayload_eq hm, State.modNode_roll _ _ fun n => n.dropTest_mark _, messages, sampled, State.noted_roll, s.acknowledge_roll]
    have air := congrArg Roll.air taken
    refine Roll.slotMap_marked (fun x => ?_) (congrArg Roll.marks taken) (congrArg Air.nu air) (congrArg Air.nrt air) (congrArg Air.nch air)
    split <;> rfl

theorem State.acceptReport_slotMap (s : State) (shelf i outcome : Nat) (b : Bytes) : (s.acceptReport shelf (.uplink i) outcome b).slotMap = s.slotMap := by
  have acked : (s.acked shelf i outcome).slotMap = s.slotMap :=
    Roll.slotMap_marked (fun x => by split <;> rfl) (s.acked_marks shelf i outcome) rfl rfl rfl
  rw [s.acceptReport_uplink, State.takePayload_slotMap]
  exact (congrArg Roll.slotMap (State.act_roll _ _ _)).trans acked

/-- The report of an uplink slot that a call acknowledges, where this hub decoded it and has not accepted it yet. -/
def State.hearAck (lch : Nat) (s : State) (i : Nat) : State :=
  match (s.air.bursts.find? fun b => b.lch == lch && b.slot == .uplink i).bind fun b => b.payload.map fun p => (b.outcome, p), s.slotShelf lch (.uplink i) with
  | some (o, p), some shelf => if (s.node? shelf).any (!·.reported) then s.acceptReport shelf (.uplink i) o p else s
  | _, _ => s

theorem State.hearAck_slotMap (lch : Nat) (s : State) (i : Nat) : (s.hearAck lch i).slotMap = s.slotMap := by
  unfold State.hearAck
  split
  · split
    · exact s.acceptReport_slotMap _ _ _ _
    · rfl
  · rfl

/-- The nodes of the uplink slots that a call does not acknowledge, from the first, as many as the frame has retry slots. -/
def State.missedBy (s : State) (lch : Nat) (acks : BitVec 64) : List Nat :=
  ((List.range s.air.nu).filterMap fun i => if acks.getLsbD i then none else s.slotShelf lch (.uplink i)).take s.air.nrt

theorem State.missedBy_of_slotMap {s n : State} (h : n.slotMap = s.slotMap) (lch : Nat) (acks : BitVec 64) : n.missedBy lch acks = s.missedBy lch acks := by
  have nu : n.air.nu = s.air.nu := congrArg SlotMap.nu h
  have nrt : n.air.nrt = s.air.nrt := congrArg SlotMap.nrt h
  simp only [State.missedBy, State.slotShelf_eq, h, nu, nrt]

/-- A call outside an accession takes the reports that it acknowledges, and then names the nodes that are missed. -/
theorem State.hearCall_named {s : State} (h : s.acc.phase ≠ .running) (lch : Nat) (acks : BitVec 64) :
    let z := ((List.range 64).filter fun i => acks.getLsbD i).foldl (State.hearAck lch) s
    (s.hearCall lch acks).air.named = setKey lch (z.missedBy lch acks) z.air.named := by
  unfold State.hearCall
  rw [if_neg h]
  rfl

/-- The nodes to retry do not depend on the reports that the call has let the hub accept. -/
theorem State.hearCall_names {s : State} (h : s.acc.phase ≠ .running) (lch : Nat) (acks : BitVec 64) :
    lookupD [] lch (s.hearCall lch acks).air.named = s.missedBy lch acks := by
  rw [State.hearCall_named h, lookupD_setKey]
  exact State.missedBy_of_slotMap (slotMap_foldl (State.hearAck_slotMap lch) _ s) lch acks

/-! ## An offer of the primary (11 R317) -/

/-- An offer in an accession: what is offered and confirmed is noted, and a node confirmed for the first time enters. -/
theorem State.hearOffer_notes {s : State} (h : s.acc.phase = .running) (o c : Nat) (cid : BitVec 64) :
    let n := s.hearOffer o c cid
    n.acc.offer = o ∧ n.acc.confirm = c ∧ n.acc.cid = cid ∧ n.acc.reply = none ∧ n.acc.slotJ = s.acc.slotJ + 1
      ∧ (c ≠ 0 → (∀ x ∈ s.acc.confirmed, x.1 ≠ c) → ∃ y ∈ n.nodes, y.shelf = c) := by
  unfold State.hearOffer
  dsimp only
  rw [if_pos h]
  refine ⟨rfl, rfl, rfl, rfl, rfl, fun hc new => ?_⟩
  have fresh : ¬ (c = 0 ∨ (s.acc.confirmed.any fun x => x.1 == c) = true) := by
    simpa [hc] using fun x hx => new (c, x) hx rfl
  rw [if_neg fresh]
  obtain ⟨y, hy, shelf, -⟩ := s.addNode_node c _
  exact ⟨y, hy, shelf⟩

/-! ## The forms of bursts of the partner -/

section
variable {t : Tick} {s : State} (awake : s.awake = true) (started : s.stamp.started = true) (partner : s.spine.partner = true) (quiet : s.sends = false)
  (power : s.power.brownAt = none)
include awake started partner quiet power

/-- A hub that does not transmit hears the other hub's bursts. -/
theorem exec_partnerBurst (b : PartnerBurst) : exec (.partnerBurstReceive t b) s = .next ((s.advance t).settle (match b with
    | .beacon _ side => if side = s.spine.sideB ∨ (s.leads ∧ s.roleSt.decided) then s.advance t
      else if s.roleSt.decided ∨ s.roleSt.listenTo.isSome then (s.advance t).hearBeacon else s.advance t
    | .call lch acks => if s.isStandby ∧ !s.roleSt.unaligned then (s.advance t).hearCall lch acks else s.advance t
    | .accoffer o c cid => if s.isStandby ∧ !s.roleSt.unaligned then (s.advance t).hearOffer o c cid else s.advance t)) := by
  show execPartnerBurstReceive t b s = _
  refine (occurs_of ?_).trans (by cases b <;> rfl)
  have silent : (s.advance t).sends = false := quiet
  have sound : (s.advance t).power.brownAt = none := power
  simp only [Bool.and_eq_true, silent, sound]
  exact ⟨⟨⟨⟨awake, started⟩, partner⟩, rfl⟩, rfl⟩

theorem burst_beacon_joins (run : BitVec 32) {side : Bool} (other : side ≠ s.spine.sideB) (hd : s.roleSt.decided = false)
    (hl : s.roleSt.listenTo.isSome = true) : Answers (.partnerBurstReceive t (.beacon run side)) s fun n =>
      n.isStandby = true ∧ n.roleSt.unaligned = true ∧ n.roleSt.heardAt = some (s.at t) ∧ Raised s n 0x64 none none 0 0 0 0
        ∧ n.air.beacons = false := by
  have runs := exec_partnerBurst (t := t) awake started partner quiet power (.beacon run side)
  dsimp only at runs
  rw [if_neg (by simp [other, hd]), if_pos (.inr hl)] at runs
  refine ⟨_, runs, ?_⟩
  have joins := State.hearBeacon_joins (s := s.advance t) hd
  generalize (s.advance t).hearBeacon = n at *
  exact joins

theorem burst_beacon_renews (run : BitVec 32) {side : Bool} (other : side ≠ s.spine.sideB) (hs : s.isStandby = true) (sound : s.sound = true) :
    Answers (.partnerBurstReceive t (.beacon run side)) s fun n =>
      n = { s with now := s.at t, roleSt := { s.roleSt with heardAt := some (s.at t) } } := by
  have decided := (s.isStandby_iff.1 hs).1
  have runs := exec_partnerBurst (t := t) awake started partner quiet power (.beacon run side)
  dsimp only at runs
  rw [if_neg (by simp [other, State.leads_of_standby hs]), if_pos (.inl decided), State.hearBeacon_renews (s := s.advance t) decided] at runs
  refine ⟨_, runs, ?_⟩
  exact settle_eq (s' := { s.advance t with roleSt := { (s.advance t).roleSt with heardAt := some (s.advance t).now } }) sound rfl

theorem burst_call (hs : s.isStandby = true) (aligned : s.roleSt.unaligned = false) (lch : Nat) (acks : BitVec 64) (ha : s.acc.phase ≠ .running) :
    Answers (.partnerBurstReceive t (.call lch acks)) s fun n =>
      lookupD [] lch n.air.named
        = ((List.range s.air.nu).filterMap fun i => if acks.getLsbD i then none else s.slotShelf lch (.uplink i)).take s.air.nrt := by
  have runs := exec_partnerBurst (t := t) awake started partner quiet power (.call lch acks)
  dsimp only at runs
  rw [if_pos ⟨hs, by simp [aligned]⟩] at runs
  refine ⟨_, runs, ?_⟩
  have names := State.hearCall_names (s := s.advance t) ha lch acks
  generalize (s.advance t).hearCall lch acks = n at *
  exact names

theorem burst_offer (hs : s.isStandby = true) (aligned : s.roleSt.unaligned = false) (o c : Nat) (cid : BitVec 64) (ha : s.acc.phase = .running) :
    Answers (.partnerBurstReceive t (.accoffer o c cid)) s fun n =>
      n.acc.offer = o ∧ n.acc.confirm = c ∧ n.acc.cid = cid ∧ n.acc.reply = none ∧ n.acc.slotJ = s.acc.slotJ + 1
        ∧ (c ≠ 0 → (∀ x ∈ s.acc.confirmed, x.1 ≠ c) → ∃ y ∈ n.nodes, y.shelf = c) := by
  have runs := exec_partnerBurst (t := t) awake started partner quiet power (.accoffer o c cid)
  dsimp only at runs
  rw [if_pos ⟨hs, by simp [aligned]⟩] at runs
  refine ⟨_, runs, ?_⟩
  have notes := State.hearOffer_notes (s := s.advance t) ha o c cid
  generalize (s.advance t).hearOffer o c cid = n at *
  exact notes
end

/-! ## A promotion whose standby lags (09 R259) -/

/-- A promotion is late once its span has passed; said for any span, so that no proof counts 60 s in ticks. -/
theorem State.promotion_late {t : Tick} {s : State} {p : Promotion} (up : s.up = true) (hp : s.promotion = some p) {span : Nat}
    (late : p.since + span ≤ s.at t) : ((s.advance t).up && (s.advance t).promotion.any fun p => decide (p.since + span ≤ (s.advance t).now)) = true := by
  have told : (s.advance t).promotion = some p := hp
  rw [told, Option.any_some, Bool.and_eq_true]
  exact ⟨up, decide_eq_true late⟩

theorem promotion_lags {t : Tick} {s : State} {p : Promotion} {tag : Option Nat} (up : s.up = true) (hp : s.promotion = some p)
    (late : p.since + 60000 * msTicks ≤ s.at t) (waits : (s.ses p.ses).waiting = [{ lineNo := p.lineNo, tag := tag, ready := none }]) :
    Answers (.promotionLagging t) s fun n =>
      n.promotion = none ∧ n.out = .usith p.ses tag (.err 21 []) :: s.out ∧ (n.ses p.ses).waiting = []
        ∧ n.archive = s.archive ∧ n.draft = s.draft ∧ n.changes = s.changes := by
  have run : exec (.promotionLagging t) s =
      .next ((s.advance t).settle (({ s.advance t with promotion := none } : State).answer p.ses p.lineNo [.err 21 []])) := by
    have told : (s.advance t).promotion = some p := hp
    show execPromotionLagging t s = _
    refine (occurs_of (State.promotion_late up hp late)).trans ?_
    simp only [told]
  have opened : (({ s.advance t with promotion := none } : State).ses p.ses).waiting = [{ lineNo := p.lineNo, tag := tag, ready := none }] := by
    cases hu : p.ses <;> rw [hu] at waits <;> exact waits
  refine ⟨_, run, ?_⟩
  have out := answer_out _ p.ses p.lineNo tag [.err 21 []] opened
  have ses := answer_ses [.err 21 []] opened
  obtain ⟨o, q, l, r, answered⟩ := answer_shape { s.advance t with promotion := none } p.ses p.lineNo [.err 21 []]
  rw [answered] at out ses ⊢
  refine ⟨rfl, out, ?_, rfl, rfl, rfl⟩
  have settled : ∀ a z : State, (a.settle z).ses p.ses = z.ses p.ses := fun a z => by cases p.ses <;> rfl
  rw [settled, ses]

/-- Settles O33: the partner on the air, and the end of a promotion whose standby lags. -/
theorem partnerForms : Obligations.PartnerForms := by
  intro t s
  refine ⟨fun side => beacon_conflicts, fun awake started partner quiet power => ⟨fun run side other => ?_, fun hs aligned => ?_⟩,
    fun p tag => promotion_lags⟩
  · exact ⟨burst_beacon_joins awake started partner quiet power run other, burst_beacon_renews awake started partner quiet power run other⟩
  · exact ⟨burst_call awake started partner quiet power hs aligned, burst_offer awake started partner quiet power hs aligned⟩

end Sys2Proof.Machine
